-- ==== Sys2Proof/Word.lean ====
section
/-! DEFINITION. The word types of the T940: bytes, 32-bit words, 64-bit pairs, packed halves (R3, R4, R29). -/

namespace Sys2Proof

/-- One byte of memory. -/
abbrev Byte := BitVec 8

/-- One 32-bit register word or instruction word. -/
abbrev Word := BitVec 32

/-- One 64-bit register pair, virtual address or special register. -/
abbrev DWord := BitVec 64

end Sys2Proof
end

