-- ==== Sys2Proof/Machine/Store.lean ====
section
/-! DEFINITION. Sparse data by number: lists of (key, value) pairs with strictly rising keys. `mget?`, `mset`, `mdel`
serve tables whose entries may be absent; `sget` and `sset` serve tables in which an unlisted key reads as a default
and no entry is listed that equals it, so that equal contents are equal lists. -/

namespace Sys2Proof.Machine

/-- The value listed under a key. -/
def mget? {α : Type} : List (Nat × α) → Nat → Option α
  | [], _ => none
  | (j, x) :: t, k => if k = j then some x else mget? t k

/-- List a value under a key, in its place, instead of an earlier one. -/
def mset {α : Type} : List (Nat × α) → Nat → α → List (Nat × α)
  | [], k, v => [(k, v)]
  | (j, x) :: t, k, v => if k < j then (k, v) :: (j, x) :: t else if k = j then (k, v) :: t else (j, x) :: mset t k v

/-- Remove the entry of a key. -/
def mdel {α : Type} (m : List (Nat × α)) (k : Nat) : List (Nat × α) := m.filter (fun e => e.1 != k)

/-- Change the value of a key that is listed. -/
def mupd {α : Type} (m : List (Nat × α)) (k : Nat) (f : α → α) : List (Nat × α) :=
  m.map (fun e => if e.1 = k then (e.1, f e.2) else e)

/-- The value of a key, `d` when it is not listed. -/
def sget {α : Type} (d : α) (m : List (Nat × α)) (k : Nat) : α := (mget? m k).getD d

/-- Give a key a value; the default is stored by listing nothing. -/
def sset {α : Type} [DecidableEq α] (d : α) (m : List (Nat × α)) (k : Nat) (v : α) : List (Nat × α) :=
  if v = d then mdel m k else mset m k v

/-- The keys of a table rise strictly. -/
def keysRise {α : Type} : List (Nat × α) → Bool
  | [] => true
  | [_] => true
  | (j, _) :: (k, y) :: t => decide (j < k) && keysRise ((k, y) :: t)

/-- The canonical form of a table with a default: keys rise strictly and no entry equals the default. -/
def canonical {α : Type} [DecidableEq α] (d : α) (m : List (Nat × α)) : Bool :=
  keysRise m && m.all (fun e => decide (e.2 ≠ d))

/-- The numbers from `lo`, `n` of them. -/
def range (lo : Nat) : Nat → List Nat
  | 0 => []
  | n + 1 => lo :: range (lo + 1) n

/-- A little-endian number of bytes (R4). -/
def leNat : List Byte → Nat
  | [] => 0
  | b :: t => b.toNat + 256 * leNat t

/-- The `n` little-endian bytes of a number (R4). -/
def leBytes (n x : Nat) : List Byte :=
  match n with
  | 0 => []
  | m + 1 => BitVec.ofNat 8 x :: leBytes m (x / 256)

/-- The elements at a position and `n - 1` after it. -/
def slice {α : Type} (l : List α) (at_ n : Nat) : List α := (l.drop at_).take n

/-- Bits `lo` and up of a number, `n` of them. -/
def bits (x lo n : Nat) : Nat := x / 2 ^ lo % 2 ^ n

/-- Bit `i` of a number. -/
def bit (x i : Nat) : Bool := x / 2 ^ i % 2 == 1

/-- 1 or 0. -/
def b2n (b : Bool) : Nat := if b then 1 else 0

/-- The low bits of an integer as a bit vector (two's complement). -/
def ofI (w : Nat) (x : Int) : BitVec w := BitVec.ofInt w x

/-- x is a multiple of n. -/
def aligned (x n : Nat) : Bool := x % n == 0

/-- Position of the first element meeting a test. -/
def findIx {α : Type} (p : α → Bool) : List α → Option Nat
  | [] => none
  | x :: t => if p x then some 0 else (findIx p t).map (· + 1)

/-- The list without the element at a position. -/
def removeIx {α : Type} : List α → Nat → List α
  | [], _ => []
  | _ :: t, 0 => t
  | x :: t, n + 1 => x :: removeIx t n

/-- The list with the element at a position changed. -/
def updIx {α : Type} : List α → Nat → (α → α) → List α
  | [], _, _ => []
  | x :: t, 0, f => f x :: t
  | x :: t, n + 1, f => x :: updIx t n f

/-- A table of `n` places holds no more: one entry that is over goes, `pick` of the keys naming it (R9). -/
def trim {α : Type} (n : Nat) (pick : List Nat → Nat) (m : List (Nat × α)) : List (Nat × α) :=
  if m.length ≤ n then m else removeIx m (pick (m.map (fun e => e.1)) % m.length)

/-- The same, counting only keys that meet a test. -/
def trimBy {α : Type} (n : Nat) (mine : Nat → Bool) (pick : List Nat → Nat) (m : List (Nat × α)) : List (Nat × α) :=
  if m.length ≤ n then m
  else
    let ks := (m.map (fun e => e.1)).filter mine
    if ks.length ≤ n then m else mdel m (ks.getD (pick ks % ks.length) 0)

/-- The greater, by a measure, of a list's elements; the first of equals. -/
def bestBy {α : Type} (lt : α → α → Bool) : List α → Option α
  | [] => none
  | x :: t => match bestBy lt t with
    | none => some x
    | some y => if lt x y then some y else some x

/-- Some element is repeated nowhere: drop later copies. -/
def nub {α : Type} [DecidableEq α] (l : List α) : List α :=
  l.foldl (fun acc x => if acc.contains x then acc else acc ++ [x]) []

end Sys2Proof.Machine
end

