-- ==== Sys2Proof/Syntax.lean ====
section
/-! DEFINITION. The instructions of the T940 as syntax: one constructor for each row of the opcode table, the 194
instruction words (R46, R47) first, then the 107 steps of the module's other agents. An instruction carries its
fields as decoded; the chain bit C (R33) belongs to the word, not to the instruction. -/

namespace Sys2Proof

/-- A source operand specifier (R38). -/
inductive Src where
  | v (n : Fin 112)
  | q (n : Fin 15)
  | lit
  | s (n : Fin 128)
  deriving DecidableEq, Repr

/-- A destination operand specifier (R38); `q 14` decodes and then raises OPERAND (R41). -/
inductive Dst where
  | v (n : Fin 112)
  | q (n : Fin 15)
  | nul
  | s (n : Fin 128)
  deriving DecidableEq, Repr

/-- The type codes of R48, in code order. -/
inductive Ty where
  | s32 | u32 | s64 | u64 | f32 | f64 | f16 | bf16 | e4m3 | e5m2 | e3m2 | e2m1 | s8 | u8 | s16 | u16
  deriving DecidableEq, Repr

/-- The atomic operations of R49, in code order; code 15 is ILLEGAL. -/
inductive Aop where
  | addI | addF | minS | maxS | minU | maxU | minF | maxF | and | or | xor | xchg | cas | incWrap | addX
  deriving DecidableEq, Repr

/-- The kinds of a FENCE (R50). -/
inductive FenceKind where
  | acq | rel | acqrel | sc
  deriving DecidableEq, Repr

/-- The scopes of R50 and R172, narrow to wide; code 7 is ILLEGAL. -/
inductive Scope where
  | group | team | die | device | pod | system | survivable
  deriving DecidableEq, Repr

/-- The special registers of R271. -/
inductive SReg where
  | lane | group | teamX | teamY | teamZ | core | die | device | width | ngroups | gridX | gridY | gridZ
  | depth | lsp | time | cycle | horizonDie | horizonDev | horizonPod | prio | fflags
  | xcause | xval | xpc | xlane | xaddr
  deriving DecidableEq, Repr

/-- A cache that holds leased copies: a core's L1 (core number 72 x die + core) or a die's remote-data cache (R165). -/
inductive CacheId where
  | l1 (core : Nat)
  | rdc (die : Nat)
  deriving DecidableEq, Repr

/-- One 128-byte line as data: its bytes and the poison tags of its four sectors (R184, R312). -/
structure Line where
  bytes  : List Byte
  poison : List Bool
  deriving DecidableEq, Repr

/-- A host access over CXL.mem or CXL.cache (R180, R291): a write when `data` is not empty, else a read of `size` bytes. -/
structure HostAccess where
  pa     : Nat
  size   : Nat
  data   : List Byte
  poison : Bool
  deriving DecidableEq, Repr

/-- What a remote request does at its target (R204). -/
inductive PeerOp where
  | read (size : Nat)
  | write (size : Nat) (data : DWord)
  | atomic (aop : Aop) (data : DWord)
  deriving DecidableEq, Repr

/-- A remote request as it arrives from another module (R181, R205, R295, R327). -/
structure PeerReq where
  srcModule : Nat
  srcDomain : Nat
  epoch     : Nat
  id        : Nat
  window    : Nat
  offset    : Nat
  op        : PeerOp
  poison    : Bool
  deriving DecidableEq, Repr

/-- The answer to one remote request of this module (R181, R205): its target and identifier, `reason` 0 when it was
performed, the ATOMIC refusal of R295 as 0x100, the returned value with its tag, the remaining ticks of R170, and whether
the request wrote a protected page (R347). -/
structure PeerReply where
  target    : Nat
  id        : Nat
  reason    : Nat
  value     : DWord
  poison    : Bool
  remaining : Nat
  prot      : Bool
  deriving DecidableEq, Repr

/-- A coded delta of a rope (R295, R345, R346, R354): the module and the domain that send it, source position, sequence, stripe,
retire mark and the coded line. -/
structure Delta where
  module : Nat
  domain : Nat
  ropeId : Nat
  source : Nat
  seq    : Nat
  stripe : Nat
  retire : Nat
  line   : Line
  deriving DecidableEq, Repr

/-- What one position of the rope answers to a rebuild or repair read (R349, R353). -/
structure StripeInput where
  position : Nat
  line     : Line
  deriving DecidableEq, Repr

/-- What a reset finds outside the module (R363): the four firmware images, the capacity of each device behind each CXL
port in ascending device number (R358), the state each memory channel trains to, the UALink and CXL ports that train. -/
structure BootInput where
  images   : List (List Byte)
  cxl0     : List Nat
  cxl1     : List Nat
  channels : List Nat
  uaUp     : BitVec 16
  cxlUp    : BitVec 2
  deriving DecidableEq, Repr

/-- Where an uncorrectable error arises (R312). -/
inductive ErrorSite where
  | atom (pa : Nat)
  | l2 (sector : Nat)
  | copy (c : CacheId) (line : Nat)
  | constCopy (core line : Nat)
  | codeCopy (core line : Nat)
  | localSector (core sector : Nat)
  | accumulator (core tile row col : Nat)
  | vreg (g lane n : Nat)
  | sreg (g n : Nat)
  | queue (team port entry word : Nat)
  | q14 (g entry : Nat)
  | engine (command : Nat)
  deriving DecidableEq, Repr

/-- The instructions and steps of the opcode table, in its order. -/
inductive Instr where
  /-- NOP (R46). Takes an issue position on no pipe and has no effect. -/
  | nop
  /-- ADD (R94). Adds two 32-bit words modulo 2^32 in each lane of the issuing class, or once for a uniform operation. -/
  | add (d : Dst) (a b : Src)
  /-- SUB (R94). Subtracts two 32-bit words modulo 2^32. -/
  | sub (d : Dst) (a b : Src)
  /-- MUL (R94). Writes the low 32 bits of the product. -/
  | mul (d : Dst) (a b : Src)
  /-- MULH (R94). Writes the high 32 bits of the signed 64-bit product. -/
  | mulh (d : Dst) (a b : Src)
  /-- MULHU (R94). Writes the high 32 bits of the unsigned 64-bit product. -/
  | mulhu (d : Dst) (a b : Src)
  /-- MAD (R94). Writes the low 32 bits of a times b plus d, reading D. -/
  | mad (d : Dst) (a b : Src)
  /-- AND (R94). Writes the bitwise AND of two words. -/
  | and (d : Dst) (a b : Src)
  /-- OR (R94). Writes the bitwise OR of two words. -/
  | or (d : Dst) (a b : Src)
  /-- XOR (R94). Writes the bitwise XOR of two words. -/
  | xor (d : Dst) (a b : Src)
  /-- SHL (R94). Shifts left by an unsigned 32-bit count, giving 0 for counts of 32 or more. -/
  | shl (d : Dst) (a b : Src)
  /-- SHR (R94). Shifts right logically by an unsigned 32-bit count. -/
  | shr (d : Dst) (a b : Src)
  /-- SAR (R94). Shifts right arithmetically by an unsigned 32-bit count. -/
  | sar (d : Dst) (a b : Src)
  /-- MIN (R94). Writes the signed minimum. -/
  | min (d : Dst) (a b : Src)
  /-- MAX (R94). Writes the signed maximum. -/
  | max (d : Dst) (a b : Src)
  /-- MINU (R94). Writes the unsigned minimum. -/
  | minu (d : Dst) (a b : Src)
  /-- MAXU (R94). Writes the unsigned maximum. -/
  | maxu (d : Dst) (a b : Src)
  /-- SLT (R94). Writes 1 when a is less than b as signed values, else 0. -/
  | slt (d : Dst) (a b : Src)
  /-- SLTU (R94). Writes 1 when a is less than b as unsigned values, else 0. -/
  | sltu (d : Dst) (a b : Src)
  /-- SEQ (R94). Writes 1 when the two words are equal, else 0. -/
  | seq (d : Dst) (a b : Src)
  /-- SEL (R95). Selects b when a is non-zero and otherwise keeps d, with poison taken only from the selected word. -/
  | sel (d : Dst) (a b : Src)
  /-- ADD64 (R96). Adds two 64-bit pairs modulo 2^64. -/
  | add64 (d : Dst) (a b : Src)
  /-- SUB64 (R96). Subtracts two 64-bit pairs modulo 2^64. -/
  | sub64 (d : Dst) (a b : Src)
  /-- MUL64 (R96). Writes the low 64 bits of the product of two pairs. -/
  | mul64 (d : Dst) (a b : Src)
  /-- SHL64 (R96). Shifts a pair left by a 32-bit count. -/
  | shl64 (d : Dst) (a b : Src)
  /-- SHR64 (R96). Shifts a pair right logically by a 32-bit count. -/
  | shr64 (d : Dst) (a b : Src)
  /-- SAR64 (R96). Shifts a pair right arithmetically by a 32-bit count. -/
  | sar64 (d : Dst) (a b : Src)
  /-- SLT64 (R96). Writes 1 into a word when pair a is less than pair b as signed values. -/
  | slt64 (d : Dst) (a b : Src)
  /-- SLTU64 (R96). Writes 1 into a word when pair a is less than pair b as unsigned values. -/
  | sltu64 (d : Dst) (a b : Src)
  /-- MADWU (R96). Adds the unsigned product of two words to the pair D modulo 2^64. -/
  | madwu (d : Dst) (a b : Src)
  /-- ADDWU (R96). Adds two zero-extended words to the pair D modulo 2^64. -/
  | addwu (d : Dst) (a b : Src)
  /-- MOV (R97). Copies a word. -/
  | mov (d : Dst) (a : Src)
  /-- NOT (R97). Writes the bitwise complement of a word. -/
  | not (d : Dst) (a : Src)
  /-- NEG (R97). Negates a word modulo 2^32. -/
  | neg (d : Dst) (a : Src)
  /-- ABS (R97). Writes the absolute value of a word, with 0x8000_0000 unchanged. -/
  | abs (d : Dst) (a : Src)
  /-- CLZ (R97). Counts leading zero bits. -/
  | clz (d : Dst) (a : Src)
  /-- CTZ (R97). Counts trailing zero bits. -/
  | ctz (d : Dst) (a : Src)
  /-- POPC (R97). Counts one bits. -/
  | popc (d : Dst) (a : Src)
  /-- BREV (R97). Reverses the bit order of a word. -/
  | brev (d : Dst) (a : Src)
  /-- BSWAP (R97). Reverses the byte order of a word. -/
  | bswap (d : Dst) (a : Src)
  /-- SEXTB (R97). Sign-extends bits 7:0. -/
  | sextb (d : Dst) (a : Src)
  /-- SEXTH (R97). Sign-extends bits 15:0. -/
  | sexth (d : Dst) (a : Src)
  /-- ZEXTB (R97). Zero-extends bits 7:0. -/
  | zextb (d : Dst) (a : Src)
  /-- ZEXTH (R97). Zero-extends bits 15:0. -/
  | zexth (d : Dst) (a : Src)
  /-- TCNT (R98). Counts the terms in the NAF of the low 16 bits read as S16. -/
  | tcnt (d : Dst) (a : Src)
  /-- MOV64 (R97). Copies a pair. -/
  | mov64 (d : Dst) (a : Src)
  /-- NEG64 (R97). Negates a pair modulo 2^64. -/
  | neg64 (d : Dst) (a : Src)
  /-- FADD (R102). Adds two FP32 values, rounded once by RoundNE. -/
  | fadd (d : Dst) (a b : Src)
  /-- FSUB (R102). Subtracts two FP32 values. -/
  | fsub (d : Dst) (a b : Src)
  /-- FMUL (R102). Multiplies two FP32 values. -/
  | fmul (d : Dst) (a b : Src)
  /-- FFMA (R103). Computes a times b plus d in FP32, fused and rounded once. -/
  | ffma (d : Dst) (a b : Src)
  /-- FMIN (R104). Writes the FP32 minimum under the min and max rule. -/
  | fmin (d : Dst) (a b : Src)
  /-- FMAX (R104). Writes the FP32 maximum under the min and max rule. -/
  | fmax (d : Dst) (a b : Src)
  /-- FSLT (R105). Writes 1 when FP32 a is less than b, setting NV for any NaN. -/
  | fslt (d : Dst) (a b : Src)
  /-- FSLE (R105). Writes 1 when FP32 a is at most b. -/
  | fsle (d : Dst) (a b : Src)
  /-- FSEQ (R105). Writes 1 when two FP32 values are equal. -/
  | fseq (d : Dst) (a b : Src)
  /-- FSUN (R105). Writes 1 when either FP32 operand is a NaN. -/
  | fsun (d : Dst) (a b : Src)
  /-- FNEG (R107). Negates an FP32 value exactly. -/
  | fneg (d : Dst) (a : Src)
  /-- FABS (R107). Writes the FP32 magnitude exactly. -/
  | fabs (d : Dst) (a : Src)
  /-- FSQRT (R108). Writes the correctly rounded FP32 square root. -/
  | fsqrt (d : Dst) (a : Src)
  /-- FRCP (R108). Writes the correctly rounded FP32 reciprocal. -/
  | frcp (d : Dst) (a : Src)
  /-- FRSQ (R108). Writes the correctly rounded FP32 reciprocal square root. -/
  | frsq (d : Dst) (a : Src)
  /-- FEXP2 (R108). Writes the correctly rounded FP32 value of 2 to the power a. -/
  | fexp2 (d : Dst) (a : Src)
  /-- FLOG2 (R108). Writes the correctly rounded FP32 base-2 logarithm. -/
  | flog2 (d : Dst) (a : Src)
  /-- FSIN (R108). Writes the correctly rounded FP32 sine, with exact argument reduction. -/
  | fsin (d : Dst) (a : Src)
  /-- FCOS (R108). Writes the correctly rounded FP32 cosine. -/
  | fcos (d : Dst) (a : Src)
  /-- FRNDN (R109). Rounds an FP32 value to an integral value, ties to even. -/
  | frndn (d : Dst) (a : Src)
  /-- FRNDZ (R109). Rounds an FP32 value to an integral value toward zero. -/
  | frndz (d : Dst) (a : Src)
  /-- FRNDP (R109). Rounds an FP32 value to an integral value toward +infinity. -/
  | frndp (d : Dst) (a : Src)
  /-- FRNDM (R109). Rounds an FP32 value to an integral value toward −infinity. -/
  | frndm (d : Dst) (a : Src)
  /-- FCLASS (R109). Writes the one-hot class mask of an FP32 value. -/
  | fclass (d : Dst) (a : Src)
  /-- DADD (R102). Adds two FP64 pairs. -/
  | dadd (d : Dst) (a b : Src)
  /-- DSUB (R102). Subtracts two FP64 pairs. -/
  | dsub (d : Dst) (a b : Src)
  /-- DMUL (R102). Multiplies two FP64 pairs. -/
  | dmul (d : Dst) (a b : Src)
  /-- DFMA (R103). Computes a times b plus d in FP64, fused and rounded once. -/
  | dfma (d : Dst) (a b : Src)
  /-- DMIN (R104). Writes the FP64 minimum under the min and max rule. -/
  | dmin (d : Dst) (a b : Src)
  /-- DMAX (R104). Writes the FP64 maximum under the min and max rule. -/
  | dmax (d : Dst) (a b : Src)
  /-- DSLT (R105). Writes 1 into a word when FP64 a is less than b. -/
  | dslt (d : Dst) (a b : Src)
  /-- DSLE (R105). Writes 1 into a word when FP64 a is at most b. -/
  | dsle (d : Dst) (a b : Src)
  /-- DSEQ (R105). Writes 1 into a word when two FP64 values are equal. -/
  | dseq (d : Dst) (a b : Src)
  /-- DNEG (R107). Negates an FP64 value exactly. -/
  | dneg (d : Dst) (a : Src)
  /-- DABS (R107). Writes the FP64 magnitude exactly. -/
  | dabs (d : Dst) (a : Src)
  /-- DSQRT (R108). Writes the correctly rounded FP64 square root. -/
  | dsqrt (d : Dst) (a : Src)
  /-- DRCP (R108). Writes the correctly rounded FP64 reciprocal. -/
  | drcp (d : Dst) (a : Src)
  /-- DRSQ (R108). Writes the correctly rounded FP64 reciprocal square root. -/
  | drsq (d : Dst) (a : Src)
  /-- DRNDN (R109). Rounds an FP64 value to an integral value, ties to even. -/
  | drndn (d : Dst) (a : Src)
  /-- DRNDZ (R109). Rounds an FP64 value to an integral value toward zero. -/
  | drndz (d : Dst) (a : Src)
  /-- DRNDP (R109). Rounds an FP64 value to an integral value toward +infinity. -/
  | drndp (d : Dst) (a : Src)
  /-- DRNDM (R109). Rounds an FP64 value to an integral value toward −infinity. -/
  | drndm (d : Dst) (a : Src)
  /-- DCLASS (R109). Writes the one-hot class mask of an FP64 value into a word. -/
  | dclass (d : Dst) (a : Src)
  /-- HADD2 (R106). Adds the two packed FP16 elements independently. -/
  | hadd2 (d : Dst) (a b : Src)
  /-- HMUL2 (R106). Multiplies the two packed FP16 elements independently. -/
  | hmul2 (d : Dst) (a b : Src)
  /-- HFMA2 (R106). Computes a fused multiply-add on each packed FP16 element. -/
  | hfma2 (d : Dst) (a b : Src)
  /-- BADD2 (R106). Adds the two packed BF16 elements independently. -/
  | badd2 (d : Dst) (a b : Src)
  /-- BMUL2 (R106). Multiplies the two packed BF16 elements independently. -/
  | bmul2 (d : Dst) (a b : Src)
  /-- BFMA2 (R106). Computes a fused multiply-add on each packed BF16 element. -/
  | bfma2 (d : Dst) (a b : Src)
  /-- CVT (R110). Converts between the types coded in F by RoundNE, with the fates of R78 and R79. -/
  | cvt (d : Dst) (a : Src) (x y : Ty)
  /-- CVTZ (R110). Converts between the types coded in F by RoundZ. -/
  | cvtz (d : Dst) (a : Src) (x y : Ty)
  /-- SHFL (R112). Gives each lane the A word of lane b when that lane is in the class, else its own. -/
  | shfl (d : Dst) (a b : Src)
  /-- SHFLX (R112). Gives each lane the A word of lane l XOR b when that lane is in the class. -/
  | shflx (d : Dst) (a b : Src)
  /-- SHFLU (R112). Gives each lane the A word of lane l − b when that lane is in the class. -/
  | shflu (d : Dst) (a b : Src)
  /-- SHFLD (R112). Gives each lane the A word of lane l + b when that lane is in the class. -/
  | shfld (d : Dst) (a b : Src)
  /-- LSEGI (R113). Writes a segmented integer prefix sum over the class. -/
  | lsegi (d : Dst) (a b : Src)
  /-- LSEGF (R113). Writes a segmented FP32 exact prefix sum, rounded once. -/
  | lsegf (d : Dst) (a b : Src)
  /-- LSEGD (R113). Writes a segmented FP64 exact prefix sum, rounded once. -/
  | lsegd (d : Dst) (a b : Src)
  /-- LSCANI (R115). Writes the integer inclusive scan over the class. -/
  | lscani (d : Dst) (a : Src)
  /-- LSCANF (R115). Writes the FP32 exact inclusive scan over the class. -/
  | lscanf (d : Dst) (a : Src)
  /-- LSCAND (R115). Writes the FP64 exact inclusive scan over the class. -/
  | lscand (d : Dst) (a : Src)
  /-- LREDI (R115). Writes the integer sum over the class. -/
  | lredi (d : Dst) (a : Src)
  /-- LREDF (R115). Writes the FP32 exact sum over the class, rounded once. -/
  | lredf (d : Dst) (a : Src)
  /-- LREDD (R115). Writes the FP64 exact sum over the class, rounded once. -/
  | lredd (d : Dst) (a : Src)
  /-- LMINI (R115). Writes the signed minimum over the class. -/
  | lmini (d : Dst) (a : Src)
  /-- LMAXI (R115). Writes the signed maximum over the class. -/
  | lmaxi (d : Dst) (a : Src)
  /-- LANY (R115). Writes 1 when some word of the class is non-zero. -/
  | lany (d : Dst) (a : Src)
  /-- LALL (R115). Writes 1 when every word of the class is non-zero. -/
  | lall (d : Dst) (a : Src)
  /-- LCOUNT (R115). Writes the number of lanes of the class with a non-zero word. -/
  | lcount (d : Dst) (a : Src)
  /-- LRANK (R115). Writes the number of lower lanes of the class with a non-zero word. -/
  | lrank (d : Dst) (a : Src)
  /-- LBALLOT (R116). Writes the selected 32-bit word of the class's non-zero ballot. -/
  | lballot (d : Dst) (a b : Src)
  /-- RDLANE (R117). Reads the A word of lane j when that lane is in the class, else writes 0. -/
  | rdlane (d : Dst) (a b : Src)
  /-- MOVI (R99). Writes the sign-extended 16-bit immediate. -/
  | movi (d : Dst) (i : BitVec 16)
  /-- MOVIH (R100). Replaces bits 31:16 of D with the immediate. -/
  | movih (d : Dst) (i : BitVec 16)
  /-- SRD (R270). Reads a special register into D. -/
  | srd (d : Dst) (r : SReg)
  /-- SWR (R270). Writes a writable special register from a uniform source. -/
  | swr (a : Src) (r : SReg)
  /-- LD_B (R194). Loads a sign-extended byte through a handle after the checks of R189. -/
  | ldB (d : Dst) (a : Src) (l : Bool) (h : Fin 128)
  /-- LD_BU (R194). Loads a zero-extended byte. -/
  | ldBu (d : Dst) (a : Src) (l : Bool) (h : Fin 128)
  /-- LD_H (R194). Loads a sign-extended halfword. -/
  | ldH (d : Dst) (a : Src) (l : Bool) (h : Fin 128)
  /-- LD_HU (R194). Loads a zero-extended halfword. -/
  | ldHu (d : Dst) (a : Src) (l : Bool) (h : Fin 128)
  /-- LD_W (R194). Loads a word. -/
  | ldW (d : Dst) (a : Src) (l : Bool) (h : Fin 128)
  /-- LD_D (R194). Loads a pair. -/
  | ldD (d : Dst) (a : Src) (l : Bool) (h : Fin 128)
  /-- LD_Q (R194). Loads a quad of four registers. -/
  | ldQ (d : Dst) (a : Src) (l : Bool) (h : Fin 128)
  /-- ST_B (R195). Stores bits 7:0 of D through a handle. -/
  | stB (d a : Src) (l : Bool) (h : Fin 128)
  /-- ST_H (R195). Stores bits 15:0 of D. -/
  | stH (d a : Src) (l : Bool) (h : Fin 128)
  /-- ST_W (R195). Stores a word. -/
  | stW (d a : Src) (l : Bool) (h : Fin 128)
  /-- ST_D (R195). Stores a pair. -/
  | stD (d a : Src) (l : Bool) (h : Fin 128)
  /-- ST_Q (R195). Stores a quad. -/
  | stQ (d a : Src) (l : Bool) (h : Fin 128)
  /-- LDC_W (R196). Loads a word through a CONST handle. -/
  | ldcW (d : Dst) (a : Src) (l : Bool) (h : Fin 128)
  /-- LDC_D (R196). Loads a pair through a CONST handle. -/
  | ldcD (d : Dst) (a : Src) (l : Bool) (h : Fin 128)
  /-- ATOM_W (R199). Performs a 32-bit atomic of the AOP at the home and returns the old value. -/
  | atomW (d : Dst) (a : Src) (p : Aop) (h : Fin 16)
  /-- ATOM_D (R199). Performs a 64-bit atomic of the AOP and returns the old pair. -/
  | atomD (d : Dst) (a : Src) (p : Aop) (h : Fin 16)
  /-- RED_W (R199). Performs a 32-bit reduction with no returned value. -/
  | redW (d : Dst) (a : Src) (p : Aop) (h : Fin 16)
  /-- RED_D (R199). Performs a 64-bit reduction, including ADD.X, with no returned value. -/
  | redD (d : Dst) (a : Src) (p : Aop) (h : Fin 16)
  /-- RCLOSE_F32 (R203). Closes an exact image to FP32 and stores the result cell. -/
  | rcloseF32 (a : Src) (l : Bool) (h : Fin 128)
  /-- RCLOSE_F64 (R203). Closes an exact image to FP64 and stores the result cell. -/
  | rcloseF64 (a : Src) (l : Bool) (h : Fin 128)
  /-- RLD_W (R204). Loads a word from a peer module through a PEER handle. -/
  | rldW (d : Dst) (a : Src) (l : Bool) (h : Fin 128)
  /-- RLD_D (R204). Loads a pair from a peer module. -/
  | rldD (d : Dst) (a : Src) (l : Bool) (h : Fin 128)
  /-- RST_W (R204). Stores a word to a peer module. -/
  | rstW (d a : Src) (l : Bool) (h : Fin 128)
  /-- RST_D (R204). Stores a pair to a peer module. -/
  | rstD (d a : Src) (l : Bool) (h : Fin 128)
  /-- RATOM (R204). Performs an atomic at a peer module and returns the old word. -/
  | ratom (d : Dst) (a : Src) (p : Aop) (h : Fin 16)
  /-- FENCE (R208). Orders the issuing lanes' accesses by kind and scope, optionally with engine completion, and stalls the class until complete. -/
  | fence (eng : Bool) (k : FenceKind) (s : Scope)
  /-- CACHE_WB (R210). Writes the issuing lanes' stores to the named line back to its home. -/
  | cacheWb (a : Src) (l : Bool) (h : Fin 128)
  /-- CACHE_WBINV (R210). Writes back, then drops the core's L1 copy of the line. -/
  | cacheWbinv (a : Src) (l : Bool) (h : Fin 128)
  /-- CACHE_INV (R210). Drops the core's L1 copy of the line. -/
  | cacheInv (a : Src) (l : Bool) (h : Fin 128)
  /-- CACHE_CINV (R210). Empties the core's constant cache. -/
  | cacheCinv
  /-- CACHE_IINV (R211). Drops the core's instruction-cache copy of the line. -/
  | cacheIinv (a : Src) (l : Bool) (h : Fin 128)
  /-- CACHE_FETCHB (R211). Makes the issuing lanes discard fetched words and fetch again after earlier IINV. -/
  | cacheFetchb
  /-- WAITC_EQ (R212). Arms a monitor per lane and sleeps until the watched word equals the comparand. -/
  | waitcEq (d a : Src) (l : Bool) (h : Fin 128)
  /-- WAITC_NE (R212). Sleeps until the watched word differs from the comparand. -/
  | waitcNe (d a : Src) (l : Bool) (h : Fin 128)
  /-- WAITC_GE (R212). Sleeps until the watched word is at or past the comparand modulo 2^32. -/
  | waitcGe (d a : Src) (l : Bool) (h : Fin 128)
  /-- XCOPY (R216). Issues a dense or term-list copy to the copy engine. -/
  | xcopy (notrap rec : Bool) (k : Fin 8) (a : Fin 16)
  /-- XGATHER (R217). Issues an indexed gather of table slices to the copy engine. -/
  | xgather (notrap rec nullidx : Bool) (k : Fin 8) (a : Fin 16)
  /-- XSCATTER (R217). Issues an indexed scatter of dense slices to the copy engine. -/
  | xscatter (notrap rec nullidx : Bool) (k : Fin 8) (a : Fin 16)
  /-- XENC_TERM (R152). Issues an encode of dense rows into TL16 term lists. -/
  | xencTerm (notrap rec : Bool) (k : Fin 8) (a : Fin 16)
  /-- XENC_BLOCK (R153). Issues a block quantisation of a dense matrix into weights and scales. -/
  | xencBlock (notrap rec : Bool) (k : Fin 8) (a : Fin 16)
  /-- XDEC_TERM (R154). Issues a decode of term lists into dense rows. -/
  | xdecTerm (notrap rec : Bool) (k : Fin 8) (a : Fin 16)
  /-- XDEC_BLOCK (R154). Issues a decode of block-scaled weights into dense rows. -/
  | xdecBlock (notrap rec : Bool) (k : Fin 8) (a : Fin 16)
  /-- MTASK (R156). Issues a tile-mode term-engine task. -/
  | mtask (notrap rec : Bool) (k : Fin 8) (a : Fin 16)
  /-- MTASK_STREAM (R135). Issues a streaming matrix–vector term-engine task. -/
  | mtaskStream (notrap rec : Bool) (k : Fin 8) (a : Fin 16)
  /-- MBOUND (R158). Writes the cycle bound of a task record to a uniform register. -/
  | mbound (d : Fin 128) (a : Fin 16) (m : Bool)
  /-- XSTAT (R159). Writes the held failed-command word, the failure count or the counter sum. -/
  | xstat (d : Fin 128) (a : Fin 16) (f : Fin 4)
  /-- B (R258). Branches always to a slot-relative target. -/
  | b (o : BitVec 16)
  /-- BZ (R258). Branches the lanes whose condition word is zero. -/
  | bz (a : Src) (o : BitVec 16)
  /-- BNZ (R258). Branches the lanes whose condition word is non-zero. -/
  | bnz (a : Src) (o : BitVec 16)
  /-- BLTZ (R258). Branches the lanes whose condition word has bit 31 set. -/
  | bltz (a : Src) (o : BitVec 16)
  /-- BGEZ (R258). Branches the lanes whose condition word has bit 31 clear. -/
  | bgez (a : Src) (o : BitVec 16)
  /-- B_S (R258). Branches always, parking the lanes when the branch is backward. -/
  | bS (o : BitVec 16)
  /-- BZ_S (R258). Spin-form BZ that parks lanes taking a backward branch. -/
  | bzS (a : Src) (o : BitVec 16)
  /-- BNZ_S (R258). Spin-form BNZ that parks lanes taking a backward branch. -/
  | bnzS (a : Src) (o : BitVec 16)
  /-- CALL (R261). Pushes the return address on each lane's link stack and jumps to a slot-relative target. -/
  | call (o : BitVec 24)
  /-- CALLR (R262). Pushes the return address and jumps to the address in a register pair. -/
  | callr (a : Src)
  /-- JR (R262). Jumps to the address in a register pair without changing depth. -/
  | jr (a : Src)
  /-- RET (R263). Pops each lane's link stack and returns there. -/
  | ret
  /-- EXIT (R264). Sets the exit state of every lane of the class. -/
  | exit
  /-- YIELD (R265). Continues at the continuation when the counter is at or below the threshold, else sleeps until it is. -/
  | yield (t : Fin 32) (k : Fin 8) (i : BitVec 16)
  /-- BAR (R266). Arrives at a team barrier and waits for its generation to complete. -/
  | bar (n : Fin 16)
  /-- BAR_ARR (R266). Arrives at a team barrier without waiting. -/
  | barArr (n : Fin 16)
  /-- BAR_WAIT (R266). Waits for the generation of the lane's last arrival to complete. -/
  | barWait (n : Fin 16)
  /-- SPAWN (R268). Queues a task in the core's task queue or the overflow ring and writes its status. -/
  | spawn (rec stall : Bool) (k : Fin 8) (a : Fin 16)
  /-- TRAP (R311). Raises cause TRAP with the operand value, resuming after it on XRET. -/
  | trap (a : Src)
  /-- BKPT (R311). Raises cause BKPT. -/
  | bkpt
  /-- XRET (R311). Pops the link stack and resumes the class at sr.xpc. -/
  | xret
  /-- HNARROW (R288). Derives a narrower handle entry in the launch's derived range. -/
  | hnarrow (d : Dst) (a : Fin 16)
  /-- HQUERY (R289). Copies a handle entry's eight words into uniform registers. -/
  | hquery (d : Fin 16) (a : Src)
  /-- PTEST (R316). Writes 1 when the source word is poisoned, else 0. -/
  | ptest (d : Dst) (a : Src)
  /-- PCLR (R316). Copies the source bits with the poison tag cleared. -/
  | pclr (d : Dst) (a : Src)
  /-- UNPARK (R227). When a group has no candidate lane, every parked lane becomes a candidate. -/
  | unpark (g : Nat)
  /-- PRIORITY_AGE_BOOST (R230). A group ready for 1,024 core cycles without issuing takes effective priority 16. -/
  | priorityAgeBoost (g : Nat)
  /-- TAKE_DEFERRED_TRAP (R146). A pending deferred trap is taken at the group's next instruction boundary. -/
  | takeDeferredTrap (g : Nat)
  /-- LOAD_RETURN (R184). The last lane's load result is written and the whole class becomes eligible again. -/
  | loadReturn (g : Nat)
  /-- FENCE_COMPLETE (R172). A fence's release waits end and the stalled class may issue again. -/
  | fenceComplete (g l : Nat)
  /-- HOME_WRITE_PERFORM (R170). A home slice performs a store, atomic or reduction and returns write-visible times. -/
  | homeWritePerform (n : Nat)
  /-- MONITOR_RETEST (R213). With monitors full, waiting lanes are re-tested at most 1,024 ticks apart. -/
  | monitorRetest (g : Nat)
  /-- WRITE_ACK (R171). A group receives an acknowledgement and raises its visibility horizons. -/
  | writeAck (n : Nat)
  /-- HOME_FILL (R168). A home slice serves a line to an L1 or remote-data cache with a lease, reading the tier on a miss. -/
  | homeFill (core line lease : Nat)
  /-- REPAIR_INPUT_REQUEST (R349). A rope member answers a repair or rebuild read of its line after its earlier deltas are applied. -/
  | repairInputRequest (dom stripe from_ : Nat)
  /-- CACHE_FILL_ARRIVAL (R169). A fill reaches a cache and is kept unless it arrives before a pending write's acknowledgement. -/
  | cacheFillArrival (n : Nat)
  /-- LEASE_EXPIRY (R169). A cached copy reaches its lease end and no longer serves loads. -/
  | leaseExpiry (c : CacheId) (line : Nat)
  /-- L2_EVICT (R168). A home slice evicts a line and folds its lease records into the eviction times. -/
  | l2Evict (line : Nat)
  /-- L2_WRITEBACK (R345). A dirty line is written back to DRAM, sending coded deltas to every parity holder when protected. -/
  | l2Writeback (line : Nat)
  /-- HOST_SNOOP (R180). The host snoops a host line held by die 0 to take it for writing. -/
  | hostSnoop (line : Nat)
  /-- HOST_SNOOP_REPLY (R180). Die 0 replies to a snoop once device time passes the line's lease end plus 8. -/
  | hostSnoopReply (n : Nat)
  /-- HOST_MEM_ACCESS (R291). A host CXL.mem access is performed at the home slice. -/
  | hostMemAccess (a : HostAccess)
  /-- PEER_REQUEST (R295). A remote request arrives at its target and is checked and performed once. -/
  | peerRequest (r : PeerReq)
  /-- PEER_ANSWER (R181). The issuer receives a remote acknowledgement or answer and raises its pod horizon. -/
  | peerAnswer (a : PeerReply)
  /-- RST_REFUSAL (R206). A refusal of an RST arrives and leaves a deferred PEER trap pending. -/
  | rstRefusal (a : PeerReply)
  /-- PLANE_FAIL (R326). A port reports link down and unacknowledged requests are re-sent on the next plane. -/
  | planeFail (plane : Nat)
  /-- PLANE_TIMEOUT (R326). A request stays unacknowledged for 16,384 ticks and its plane fails. -/
  | planeTimeout (n : Nat)
  /-- PLANE_RETRAIN (R326). A failed plane returns to use when its port retrains. -/
  | planeRetrain (plane : Nat)
  /-- DELTA_APPLY (R346). A parity holder applies a delta in source order, logs it and acknowledges it. -/
  | deltaApply (dom : Nat) (x : Delta)
  /-- SURVIVABLE_FLUSH (R347). A target writes back named protected lines and answers once its holders acknowledge. -/
  | survivableFlush (dom : Nat) (lines : List Nat)
  /-- REBUILD_START_MARKER (R354). A rebuilding parity replacement receives a data member's start marker. -/
  | rebuildStartMarker (dom pos s0 : Nat)
  /-- CHANNEL_HALF (R324). Memory firmware moves a channel to half width. -/
  | channelHalf (n : Nat)
  /-- CHANNEL_OFFLINE (R324). Memory firmware takes a channel offline, poisoning its reads and writes. -/
  | channelOffline (n : Nat)
  /-- QUEUE_TAIL_LATCH (R293). A queue front-end's tail monitor latches and it takes the new records. -/
  | queueTailLatch (q : Nat)
  /-- TEAM_PLACE (R248). A distributor places the next team or ring task on the least loaded eligible core. -/
  | teamPlace (die : Nat)
  /-- TEAM_HANDOFF (R249). The home distributor hands the head team to the other die's reserved core. -/
  | teamHandoff (die : Nat)
  /-- TASK_START (R239). The head task of a core's task queue starts once it fits and its spawner's release completes. -/
  | taskStart (core : Nat)
  /-- GROUP_END (R243). A group whose lanes have exited, counters are 0 and store queue has drained ends. -/
  | groupEnd (g : Nat)
  /-- ENGINE_COMMAND_START (R149). An accepted engine command begins its accesses once the scoreboard releases it. -/
  | engineCommandStart (n : Nat)
  /-- MTASK_START (R133). A term-engine task starts when its lanes, slot and rows are free. -/
  | mtaskStart (n : Nat)
  /-- BLOCK_CLOSE (R127). A term group closes a block, folding each partial into the FP64 accumulator. -/
  | blockClose (n tg : Nat)
  /-- EPILOGUE (R131). After its last fold a task writes its output rows from the accumulator. -/
  | epilogue (n : Nat)
  /-- ENGINE_COMMAND_COMPLETE (R141). An engine command completes, decrementing its counter and pushing any record. -/
  | engineCommandComplete (n : Nat)
  /-- GROUP_HELD (R250). During a drain a team's group is held at the first boundary meeting the hold conditions. -/
  | groupHeld (g : Nat)
  /-- PREEMPT_SAVE (R250). When every team group is held and no task remains, the save region is written. -/
  | preemptSave (dom : Nat)
  /-- DRAIN_LIMIT_EXPIRY (R250). DST_DRAIN expires, held groups resume and STATE becomes 3. -/
  | drainLimitExpiry (dom : Nat)
  /-- TEAM_RESTORE (R254). A saved team is placed again ahead of unstarted teams. -/
  | teamRestore (die : Nat)
  /-- MOVE_WALK_END (R338). A MOVE's leaf walk ends and the command is accepted or refused. -/
  | moveWalkEnd (dom die : Nat)
  /-- CHUNK_COPY (R330). The traverse engine copies chunk c and advances the copy cursor. -/
  | chunkCopy (dom die : Nat)
  /-- CHUNK_RETURN (R334). The traverse engine switches or copies back chunk r − 1. -/
  | chunkReturn (dom die : Nat)
  /-- MIGRATION_COMMIT (R335). The page is committed to the destination and its leaf and translations are replaced. -/
  | migrationCommit (dom die : Nat)
  /-- LOCATION_LOST (R337). A source or destination tier location is lost, marking lost chunks and setting LOST. -/
  | locationLost (dom die : Nat) (source : Bool)
  /-- CAIRN_EPOCH (R341). At each epoch end every cairn counter of the domain is halved. -/
  | cairnEpoch (dom : Nat)
  /-- SEED_STRIPE (R351). A seeding member sends its next stripe line as a delta against zero. -/
  | seedStripe (dom : Nat)
  /-- REBUILD_STRIPE (R353). A rebuilding member decodes its next stripe from K clean inputs and writes it. -/
  | rebuildStripe (dom : Nat) (inputs : List StripeInput)
  /-- COLD_RESET (R363). PERST# boots the Seoft controller, trains memory and links and sets the starting state. -/
  | coldReset (x : BootInput)
  /-- HOT_RESET (R363). A Hot Reset runs the same bring-up sequence as a cold reset. -/
  | hotReset (x : BootInput)
  /-- FLR_DOMAIN (R363). A Function Level Reset of a domain function kills its launches and stops its queues. -/
  | flrDomain (dom : Nat)
  /-- FLR_MANAGEMENT (R363). A Function Level Reset of function 0 clears its INT_STAT and MSI-X state. -/
  | flrManagement
  /-- DROOP_SAG (R361). A supply sag makes the core stretch its clock and sets DROOP. -/
  | droopSag (core k : Nat)
  /-- DROOP_HOLD_EXPIRY (R361). The stretch ends at least 1,000 ticks after the sag ends. -/
  | droopHoldExpiry (core : Nat)
  /-- THERMAL_TRIP (R362). A sensor reaches 110 °C and the module stops and loses its volatile state. -/
  | thermalTrip
  /-- THERMAL_WARN (R362). The temperature reaches WARN and an interrupt is raised. -/
  | thermalWarn (temp : Byte)
  /-- CLOCK (R360). PWR_CMD OP 1 moves every core to the named clock point. -/
  | clock (v : Word)
  /-- CLOCK_POINT_REACHED (R360). The cores reach the new clock point and BUSY clears. -/
  | clockPointReached
  /-- GATE (R360). PWR_CMD OP 2 stops placement on the named cores. -/
  | gate (v : Word)
  /-- UNGATE (R360). PWR_CMD OP 3 returns named cores to placement with their state zeroed. -/
  | ungate (v : Word)
  /-- SELFREF (R360). PWR_CMD OP 4 marks the named stacks and packages for self-refresh. -/
  | selfref (v : Word)
  /-- SELFREF_ENTRY (R360). A marked device enters self-refresh once its traffic drains. -/
  | selfrefEntry (dev : Nat)
  /-- IDLE (R360). PWR_CMD OP 5 stops the core clocks when nothing is running, else is refused. -/
  | idle (v : Word)
  /-- PWR_STAT_WRITE (R364). Writing 1 to TRIPPED or DROOP clears it. -/
  | pwrStatWrite (v : Word)
  /-- INT_STAT_WRITE (R357). Writing 1 to an INT_STAT bit clears it. -/
  | intStatWrite (win : Nat) (v : Word)
  /-- LNK_CFG_WRITE (R359). The first valid write sets the pod index, pod size and planes and sets LOCK. -/
  | lnkCfgWrite (v : Word)
  /-- REGISTER_WRITE (R356). A write to a register with no behaviour of its own stores its value. -/
  | registerWrite (win off size : Nat) (v : DWord)
  /-- REPORT (R302). The Seoft controller returns a signed report for a nonce. -/
  | report (win : Nat) (v : Word)
  /-- GETCERT (R301). The Seoft controller returns the certificate of the identity key. -/
  | getcert (win : Nat) (v : Word)
  /-- DOMCFG (R277). The Seoft controller checks a configuration block and activates the domain. -/
  | domcfg (win : Nat) (v : Word)
  /-- DOMOFF (R278). The Seoft controller ends a domain, clearing its cores and freeing its resources. -/
  | domoff (win : Nat) (v : Word)
  /-- XLT_INV_SPACE (R285). Invalidates every translation of an address space. -/
  | xltInvSpace (dom : Nat) (v : Word)
  /-- XLT_INV_RANGE (R285). Invalidates translations of a virtual range. -/
  | xltInvRange (dom : Nat) (v : Word)
  /-- XLT_INV_HANDLES (R285). Drops cached handle entries and clears derived entries of affected launches. -/
  | xltInvHandles (dom : Nat) (v : Word)
  /-- XLT_INV_DONE (R285). BUSY clears once the dropped entries' accesses are performed and the frame map is updated. -/
  | xltInvDone (dom : Nat)
  /-- TO_HOST (R291). Sets OWN in every leaf of the range and invalidates it. -/
  | toHost (dom : Nat) (v : Word)
  /-- TO_HOST_DONE (R291). BUSY clears once old accesses are performed and 4,104 ticks have passed. -/
  | toHostDone (dom : Nat)
  /-- TO_DEVICE (R291). Clears OWN in every leaf of the range. -/
  | toDevice (dom : Nat) (v : Word)
  /-- QFE_LOAD_START (R292). Loads a queue's entry and starts watching its tail. -/
  | qfeLoadStart (dom : Nat) (v : Word)
  /-- QFE_STOP (R292). Stops a queue from taking further records. -/
  | qfeStop (dom : Nat) (v : Word)
  /-- PEER_SYNC (R296). Starts the switch to new window and admission table contents. -/
  | peerSync (dom : Nat) (v : Word)
  /-- PEER_SYNC_DONE (R296). BUSY clears once requests checked under old contents are performed or refused. -/
  | peerSyncDone (dom : Nat)
  /-- FB_BASE_WRITE (R319). Writing FB_BASE sets FB_TAIL to FB_HEAD. -/
  | fbBaseWrite (dom : Nat) (v : DWord)
  /-- FB_DEPTH_WRITE (R319). Writing FB_DEPTH sets FB_TAIL to FB_HEAD. -/
  | fbDepthWrite (dom : Nat) (v : Word)
  /-- FB_STAT_WRITE (R319). Writing 1 to bit 0 clears DROPPED and DROPCNT; otherwise DROPCNT takes bits 31:16. -/
  | fbStatWrite (dom : Nat) (v : Word)
  /-- REPLAY_ALL (R322). Every pending key of the domain retries its translation. -/
  | replayAll (dom : Nat) (v : Word)
  /-- REPLAY_PAGE (R322). The key of one page retries its translation. -/
  | replayPage (dom : Nat) (v : Word)
  /-- END_PAGE (R322). The accesses of one page's key fail without replay. -/
  | endPage (dom : Nat) (v : Word)
  /-- END_SPACE (R322). The accesses of every key of a space fail without replay. -/
  | endSpace (dom : Nat) (v : Word)
  /-- REPLAY_DONE (R322). BUSY clears once every covered access has retried or failed. -/
  | replayDone (dom : Nat)
  /-- PREEMPT (R250). DST_PRE OP 1 starts draining an address space. -/
  | preempt (dom : Nat) (v : Word)
  /-- RESUME (R254). DST_PRE OP 2 resumes a saved space or cancels a drain in progress. -/
  | resume (dom : Nat) (v : Word)
  /-- MOVE (R338). MIG_CMD OP 1 starts the leaf walk of a page move. -/
  | move (dom die : Nat) (v : Word)
  /-- ABORT (R377). MIG_CMD OP 2 turns a copying move to RETURNING after its chunk in flight. -/
  | abort (dom die : Nat) (v : Word)
  /-- JOIN (R351). ROPE_CMD OP 1 joins the rope by seeding or as a rebuilding replacement. -/
  | join (dom : Nat) (v : Word)
  /-- LEAVE (R351). ROPE_CMD OP 2 stops deltas and returns the member to OFF. -/
  | leave (dom : Nat) (v : Word)
  /-- LOSE (R351). ROPE_CMD OP 3 declares a position lost. -/
  | lose (dom : Nat) (v : Word)
  /-- SETCUT (R352). ROPE_CMD OP 4 removes logged deltas of a lost position above the cut. -/
  | setcut (dom : Nat) (v : Word)
  /-- REBUILD (R354). ROPE_CMD OP 5 redirects a lost position's deltas to its replacement. -/
  | rebuild (dom : Nat) (v : Word)
  /-- REPAIR (R353). ROPE_CMD OP 6 rebuilds one 64 KiB page of the member in place. -/
  | repair (dom : Nat) (v : Word)
  /-- STORE_LEAVES_CORE (R169). A store, atomic or reduction leaves the core's store queue, and the core's L1 and any remote-data cache it passes drop their copies of the line. -/
  | storeLeavesCore (g n : Nat)
  /-- UNCORRECTABLE_ERROR (R312). An uncorrectable error arises in a register, queue entry, local memory, accumulator value, dirty L2 line or engine datapath and poisons the affected word or sector, or drops a clean cached copy. -/
  | uncorrectableError (e : ErrorSite)
  /-- CXL_PORT_DOWN (R337). A CXL memory port loses link, or a device behind it disappears, which clears its LNK_STAT.CXLUP bit, raises management vector 3 and starts the 1,000,000-tick loss window. -/
  | cxlPortDown (port : Nat) (gone : Option Nat)
  /-- CXL_PORT_UP (R357). A CXL memory port retrains, which sets its CXLUP bit, raises management vector 3 and ends a loss window in progress. -/
  | cxlPortUp (port : Nat)
  /-- REFRESH_POSTPONEMENT_LIMIT (R185). A bank reaches its refresh-postponement limit during a copy-engine burst, and the controller precharges and refreshes it before it resumes the burst. -/
  | refreshPostponementLimit (n : Nat)
  deriving DecidableEq, Repr

end Sys2Proof
end

