-- ==== Sys2Proof/Machine/Fp.lean ====
section
/-! DEFINITION. Number formats, rounding and exact arithmetic (R62 to R88, R101 to R110). A finite value is a sign and
an exact dyadic magnitude m x 2^e; every operation computes exactly and rounds once (R77). -/

namespace Sys2Proof.Machine

/-- Floating-point flags NV, DZ, OF, UF, NX in bits 4 to 0 (R80). -/
abbrev Flags := BitVec 5

def Flags.nv : Flags := 16#5
def Flags.dz : Flags := 8#5
def Flags.ofl : Flags := 4#5
def Flags.uf : Flags := 2#5
def Flags.nx : Flags := 1#5

/-- The values of a floating-point code: a NaN (signalling or not), an infinity, or (-1)^neg x m x 2^e. -/
inductive FVal where
  | nan (signalling : Bool)
  | inf (neg : Bool)
  | fin (neg : Bool) (m : Nat) (e : Int)
  deriving DecidableEq, Repr

/-- How a format treats its top codes (R63, R66): `ieee` has infinities and NaNs, `sat` has them and saturates (E5M2),
`nanOnly` has one NaN magnitude (E4M3), `none` has neither. -/
inductive Tops where
  | ieee | sat | nanOnly | none
  deriving DecidableEq, Repr

/-- A floating-point format: exponent bits, fraction bits, bias, top codes, largest finite magnitude code, canonical NaN. -/
structure Fmt where
  eb   : Nat
  mb   : Nat
  bias : Nat
  tops : Tops
  max  : Nat
  nan  : Nat
  deriving DecidableEq, Repr

def Fmt.f64 : Fmt := { eb := 11, mb := 52, bias := 1023, tops := .ieee, max := 0x7FEFFFFFFFFFFFFF, nan := 0x7FF8000000000000 }
def Fmt.f32 : Fmt := { eb := 8, mb := 23, bias := 127, tops := .ieee, max := 0x7F7FFFFF, nan := 0x7FC00000 }
def Fmt.f16 : Fmt := { eb := 5, mb := 10, bias := 15, tops := .ieee, max := 0x7BFF, nan := 0x7E00 }
def Fmt.bf16 : Fmt := { eb := 8, mb := 7, bias := 127, tops := .ieee, max := 0x7F7F, nan := 0x7FC0 }
def Fmt.e4m3 : Fmt := { eb := 4, mb := 3, bias := 7, tops := .nanOnly, max := 0x7E, nan := 0x7F }
def Fmt.e5m2 : Fmt := { eb := 5, mb := 2, bias := 15, tops := .sat, max := 0x7B, nan := 0x7E }
def Fmt.e3m2 : Fmt := { eb := 3, mb := 2, bias := 3, tops := .none, max := 0x1F, nan := 0 }
def Fmt.e2m1 : Fmt := { eb := 2, mb := 1, bias := 1, tops := .none, max := 0x7, nan := 0 }

/-- The sign bit's place. -/
def Fmt.signBit (f : Fmt) : Nat := f.eb + f.mb

/-- The exponent of the least subnormal. -/
def Fmt.qmin (f : Fmt) : Int := 1 - (f.bias : Int) - (f.mb : Int)

/-- A magnitude code with a sign (R63, R66). -/
def Fmt.signed (f : Fmt) (neg : Bool) (mag : Nat) : Nat := if neg then 2 ^ f.signBit + mag else mag

/-- The infinity of a format that has one. -/
def Fmt.infCode (f : Fmt) : Nat := (2 ^ f.eb - 1) * 2 ^ f.mb

/-- The value of a code (R63, R66); bits above the format are ignored. -/
def Fmt.decode (f : Fmt) (code : Nat) : FVal :=
  let neg := bit code f.signBit
  let ex := bits code f.mb f.eb
  let m := bits code 0 f.mb
  let finite : FVal := if ex = 0 then .fin neg m f.qmin else .fin neg (2 ^ f.mb + m) (f.qmin + (ex : Int) - 1)
  match f.tops with
  | .none => finite
  | .nanOnly => if ex = 2 ^ f.eb - 1 && m = 2 ^ f.mb - 1 then .nan false else finite
  | _ => if ex = 2 ^ f.eb - 1 then (if m = 0 then .inf neg else .nan (!bit m (f.mb - 1))) else finite

/-- The rounding directions: RoundNE and RoundZ (R77), and upward and downward for FRND (R109). -/
inductive Mode where
  | ne | z | up | down
  deriving DecidableEq, Repr

/-- m / 2^k rounded to an integer, and whether bits were lost; `neg` is the sign of the whole. -/
def shiftRound (mode : Mode) (neg : Bool) (m k : Nat) : Nat × Bool :=
  let n := m / 2 ^ k
  let r := m % 2 ^ k
  let inexact := r ≠ 0
  let up := match mode with
    | .ne => decide (2 * r > 2 ^ k) || (decide (2 * r = 2 ^ k) && inexact && n % 2 == 1)
    | .z => false
    | .up => inexact && !neg
    | .down => inexact && neg
  (if up then n + 1 else n, inexact)

/-- The magnitude m x 2^e on the grid with quantum 2^q, and whether bits were lost. -/
def quantise (mode : Mode) (neg : Bool) (m : Nat) (e q : Int) : Nat × Bool :=
  if q ≤ e then (m * 2 ^ (e - q).toNat, false) else shiftRound mode neg m (q - e).toNat

/-- A non-zero magnitude rounded to a format with the continued grid of R77: the magnitude code, inexact, tiny. -/
def roundMag (f : Fmt) (mode : Mode) (neg : Bool) (m : Nat) (e : Int) : Nat × Bool × Bool :=
  let top : Int := (Nat.log2 m : Int) + e
  let qn : Int := top - (f.mb : Int)
  let q := max qn f.qmin
  let (n, inexact) := quantise mode neg m e q
  let nu := (quantise mode neg m e qn).1
  let tiny := decide (qn < f.qmin) && !(decide (qn + 1 = f.qmin) && decide (nu = 2 ^ (f.mb + 1)))
  ((q - f.qmin).toNat * 2 ^ f.mb + n, inexact, tiny)

/-- The fate of an overflow (R78, R79): infinity under RoundNE in a format of R63, else the largest finite magnitude. -/
def overflowMag (f : Fmt) (mode : Mode) : Nat :=
  match f.tops with
  | .ieee => if mode = .z then f.max else f.infCode
  | _ => f.max

/-- A finite value rounded to a format, with its flags (R77, R78). -/
def roundFin (f : Fmt) (mode : Mode) (neg : Bool) (m : Nat) (e : Int) : Nat × Flags :=
  if m = 0 then (f.signed neg 0, 0#5)
  else
    let (code, inexact, tiny) := roundMag f mode neg m e
    if code > f.max then (f.signed neg (overflowMag f mode), Flags.ofl ||| Flags.nx)
    else (f.signed neg code, (if inexact then Flags.nx else 0#5) ||| (if inexact && tiny then Flags.uf else 0#5))

/-- Flag NV when a condition holds. -/
def nvIf (c : Bool) : Flags := if c then Flags.nv else 0#5

/-- A value converted to a floating-point format (R78). -/
def toFmt (f : Fmt) (mode : Mode) : FVal → Nat × Flags
  | .nan sg => match f.tops with
    | .none => (0, Flags.nv)
    | _ => (f.nan, nvIf sg)
  | .inf neg => match f.tops with
    | .none => (f.signed neg f.max, Flags.nv)
    | .nanOnly => (f.signed neg f.max, Flags.nx)
    | _ => (f.signed neg f.infCode, 0#5)
  | .fin neg m e => roundFin f mode neg m e

/-- The integer nearest a finite value by a mode, and whether it is inexact. -/
def roundInt (mode : Mode) (neg : Bool) (m : Nat) (e : Int) : Int × Bool :=
  let (n, inexact) := quantise mode neg m e 0
  (if neg then -(n : Int) else (n : Int), inexact)

/-- A value converted to an integer type with the given limits (R78). -/
def toInt (mode : Mode) (lo hi : Int) : FVal → Int × Flags
  | .nan _ => (0, Flags.nv)
  | .inf neg => (if neg then lo else hi, Flags.nv)
  | .fin neg m e =>
    if m = 0 then (0, 0#5)
    else if (Nat.log2 m : Int) + e > 80 then (if neg then lo else hi, Flags.nv)
    else
      let (n, inexact) := roundInt mode neg m e
      if n < lo then (lo, Flags.nv) else if n > hi then (hi, Flags.nv)
      else (n, if inexact then Flags.nx else 0#5)

/-- The exact value of an integer. -/
def ofInteger (x : Int) : FVal := .fin (decide (x < 0)) x.natAbs 0

/-- Whether a value is a signalling NaN. -/
def FVal.isSnan : FVal → Bool
  | .nan sg => sg
  | _ => false

/-- Whether a value is a NaN. -/
def FVal.isNan : FVal → Bool
  | .nan _ => true
  | _ => false

/-- Whether a value is an infinity. -/
def FVal.isInf : FVal → Bool
  | .inf _ => true
  | _ => false

/-- Whether a value is a zero. -/
def FVal.isZero : FVal → Bool
  | .fin _ m _ => m == 0
  | _ => false

/-- The sign of a value; a NaN has none. -/
def FVal.neg? : FVal → Bool
  | .nan _ => false
  | .inf n => n
  | .fin n _ _ => n

/-- The value with the opposite sign. -/
def FVal.negate : FVal → FVal
  | .nan sg => .nan sg
  | .inf n => .inf (!n)
  | .fin n m e => .fin (!n) m e

/-- A signed magnitude as an integer multiple of 2^q, q at most e. -/
def scaled (neg : Bool) (m : Nat) (e q : Int) : Int :=
  let n : Int := ((m * 2 ^ (e - q).toNat : Nat) : Int)
  if neg then -n else n

/-- The exact sum of two finite values, zero signs as R101 gives them. -/
def addFin (na : Bool) (ma : Nat) (ea : Int) (nb : Bool) (mb : Nat) (eb : Int) : FVal :=
  if ma = 0 && mb = 0 then .fin (na && nb) 0 0
  else
    let q := min ea eb
    let x := scaled na ma ea q + scaled nb mb eb q
    if x = 0 then .fin false 0 0 else .fin (decide (x < 0)) x.natAbs q

/-- The exact sum (R101): the invalid case is the sum of infinities of opposite sign. -/
def addVal : FVal → FVal → FVal × Flags
  | .nan s, b => (.nan false, nvIf (s || b.isSnan))
  | a, .nan s => (.nan false, nvIf (s || a.isSnan))
  | .inf na, .inf nb => if na = nb then (.inf na, 0#5) else (.nan false, Flags.nv)
  | .inf na, .fin _ _ _ => (.inf na, 0#5)
  | .fin _ _ _, .inf nb => (.inf nb, 0#5)
  | .fin na ma ea, .fin nb mb eb => (addFin na ma ea nb mb eb, 0#5)

/-- The exact product (R101): the invalid case is infinity times zero. -/
def mulVal : FVal → FVal → FVal × Flags
  | .nan s, b => (.nan false, nvIf (s || b.isSnan))
  | a, .nan s => (.nan false, nvIf (s || a.isSnan))
  | .inf na, .inf nb => (.inf (na != nb), 0#5)
  | .inf na, .fin nb mb _ => if mb = 0 then (.nan false, Flags.nv) else (.inf (na != nb), 0#5)
  | .fin na ma _, .inf nb => if ma = 0 then (.nan false, Flags.nv) else (.inf (na != nb), 0#5)
  | .fin na ma ea, .fin nb mb eb => (.fin (na != nb) (ma * mb) (ea + eb), 0#5)

/-- The exact fused value a x b + c (R101, R103): infinity times zero sets NV even when c is a quiet NaN. -/
def fmaVal (a b c : FVal) : FVal × Flags :=
  let (p, f1) := mulVal a b
  let (r, f2) := addVal p c
  (r, f1 ||| f2)

/-- An exact value rounded by RoundNE to a format, flags joined. -/
def roundVal (f : Fmt) (x : FVal × Flags) : Nat × Flags :=
  let (c, fl) := toFmt f .ne x.1
  (c, fl ||| x.2)

/-- a + b in a format (R101). -/
def fpAdd (f : Fmt) (a b : Nat) : Nat × Flags := roundVal f (addVal (f.decode a) (f.decode b))

/-- a - b in a format (R101). -/
def fpSub (f : Fmt) (a b : Nat) : Nat × Flags := roundVal f (addVal (f.decode a) (f.decode b).negate)

/-- a x b in a format (R101). -/
def fpMul (f : Fmt) (a b : Nat) : Nat × Flags := roundVal f (mulVal (f.decode a) (f.decode b))

/-- a x b + c in a format, rounded once (R103). -/
def fpFma (f : Fmt) (a b c : Nat) : Nat × Flags := roundVal f (fmaVal (f.decode a) (f.decode b) (f.decode c))

/-- a < b for values that are not NaNs; zeros are equal. -/
def ltVal : FVal → FVal → Bool
  | .inf na, .inf nb => na && !nb
  | .inf na, _ => na
  | _, .inf nb => !nb
  | .fin na ma ea, .fin nb mb eb =>
    let q := min ea eb
    decide (scaled na ma ea q < scaled nb mb eb q)
  | _, _ => false

/-- The order of R104: as `ltVal`, with -0 below +0. -/
def ltTotal (a b : FVal) : Bool := if a.isZero && b.isZero then a.neg? && !b.neg? else ltVal a b

/-- Minimum or maximum (R104). -/
def fpMinMax (f : Fmt) (isMax : Bool) (a b : Nat) : Nat × Flags :=
  let x := f.decode a
  let y := f.decode b
  let fl := nvIf (x.isSnan || y.isSnan)
  if x.isNan && y.isNan then (f.nan, fl)
  else if x.isNan then (b, fl)
  else if y.isNan then (a, fl)
  else if isMax then (if ltTotal x y then b else a, fl)
  else (if ltTotal y x then b else a, fl)

/-- The comparisons of R105. -/
inductive Cmp where
  | lt | le | eq | un
  deriving DecidableEq, Repr

/-- A comparison (R105). -/
def fpCmp (f : Fmt) (c : Cmp) (a b : Nat) : Bool × Flags :=
  let x := f.decode a
  let y := f.decode b
  let anyNan := x.isNan || y.isNan
  let sig := nvIf (x.isSnan || y.isSnan)
  match c with
  | .un => (anyNan, sig)
  | .eq => (!anyNan && !ltVal x y && !ltVal y x, sig)
  | .lt => (!anyNan && ltVal x y, nvIf anyNan)
  | .le => (!anyNan && !ltVal y x, nvIf anyNan)

/-- -a, exact (R107). -/
def fpNeg (f : Fmt) (a : Nat) : Nat × Flags :=
  match f.decode a with
  | .nan s => (f.nan, nvIf s)
  | _ => (if bit a f.signBit then a - 2 ^ f.signBit else a + 2 ^ f.signBit, 0#5)

/-- |a|, exact (R107). -/
def fpAbs (f : Fmt) (a : Nat) : Nat × Flags :=
  match f.decode a with
  | .nan s => (f.nan, nvIf s)
  | _ => (a % 2 ^ f.signBit, 0#5)

/-- The integer square root of n, whose root has at most `k` bits. -/
def isqrtUp : Nat → Nat → Nat → Nat
  | 0, _, r => r
  | k + 1, n, r => if (r + 2 ^ k) * (r + 2 ^ k) ≤ n then isqrtUp k n (r + 2 ^ k) else isqrtUp k n r

/-- The integer square root of n. -/
def isqrt (n : Nat) : Nat := isqrtUp (Nat.log2 n / 2 + 1) n 0

/-- A magnitude with the bits below it known only to be zero or not: one more bit says which. -/
def sticky (n : Nat) (inexact : Bool) : Nat := 2 * n + b2n inexact

/-- The square root of m x 2^e, m not zero, to at least `p` bits, with a sticky bit. -/
def sqrtMag (p m : Nat) (e : Int) : Nat × Int :=
  let k := 2 * p + Nat.log2 m % 2
  let odd : Nat := b2n ((e - (k : Int)) % 2 != 0)
  let n := m * 2 ^ (k + odd)
  let e' := e - (k : Int) - (odd : Int)
  let r := isqrt n
  (sticky r (r * r != n), e' / 2 - 1)

/-- 1 / (m x 2^e), m not zero, to at least `p` bits, with a sticky bit. -/
def rcpMag (p m : Nat) (e : Int) : Nat × Int :=
  let k := p + Nat.log2 m + 1
  (sticky (2 ^ k / m) (2 ^ k % m != 0), -e - (k : Int) - 1)

/-- 1 / sqrt(m x 2^e), m not zero, to at least `p` bits, with a sticky bit. -/
def rsqrtMag (p m : Nat) (e : Int) : Nat × Int :=
  let odd : Nat := b2n (e % 2 != 0)
  let mm := m * 2 ^ odd
  let ee := e - (odd : Int)
  let k := 2 * (p + Nat.log2 mm + 1)
  let r := isqrt (2 ^ k / mm)
  (sticky r (r * r * mm != 2 ^ k), -(ee / 2) - ((k / 2 : Nat) : Int) - 1)

/-- A square root (R107, R108). -/
def fpSqrt (f : Fmt) (a : Nat) : Nat × Flags :=
  match f.decode a with
  | .nan s => (f.nan, nvIf s)
  | .inf false => (f.infCode, 0#5)
  | .inf true => (f.nan, Flags.nv)
  | .fin neg m e =>
    if m = 0 then (a, 0#5) else if neg then (f.nan, Flags.nv)
    else let (r, x) := sqrtMag (f.mb + 4) m e; roundFin f .ne false r x

/-- A reciprocal (R107, R108). -/
def fpRcp (f : Fmt) (a : Nat) : Nat × Flags :=
  match f.decode a with
  | .nan s => (f.nan, nvIf s)
  | .inf neg => (f.signed neg 0, 0#5)
  | .fin neg m e =>
    if m = 0 then (f.signed neg f.infCode, Flags.dz)
    else let (r, x) := rcpMag (f.mb + 4) m e; roundFin f .ne neg r x

/-- A reciprocal square root (R107, R108). -/
def fpRsqrt (f : Fmt) (a : Nat) : Nat × Flags :=
  match f.decode a with
  | .nan s => (f.nan, nvIf s)
  | .inf false => (0, 0#5)
  | .inf true => (f.nan, Flags.nv)
  | .fin neg m e =>
    if m = 0 then (f.signed neg f.infCode, Flags.dz) else if neg then (f.nan, Flags.nv)
    else let (r, x) := rsqrtMag (f.mb + 4) m e; roundFin f .ne false r x

/-- A value rounded to an integral value of its own type (R109); the sign stays. -/
def fpRound (f : Fmt) (mode : Mode) (a : Nat) : Nat × Flags :=
  match f.decode a with
  | .nan s => (f.nan, nvIf s)
  | .inf _ => (a, 0#5)
  | .fin neg m e =>
    if m = 0 || 0 ≤ e then (a, 0#5)
    else ((roundFin f .ne neg (quantise mode neg m e 0).1 0).1, 0#5)

/-- The class mask (R109). -/
def fpClass (f : Fmt) (a : Nat) : Word × Flags :=
  match f.decode a with
  | .nan false => (0x200#32, 0#5)
  | .nan true => (0x100#32, Flags.nv)
  | .inf neg => (if neg then 1#32 else 0x80#32, 0#5)
  | .fin neg m _ =>
    if m = 0 then (if neg then 8#32 else 0x10#32, 0#5)
    else if m < 2 ^ f.mb then (if neg then 4#32 else 0x20#32, 0#5)
    else (if neg then 2#32 else 0x40#32, 0#5)

/-- Fraction bits of the fixed-point work behind FEXP2, FLOG2, FSIN and FCOS (log 15). -/
def fxBits : Nat := 640

/-- The fixed-point product, rounded down. -/
def fxMul (x y : Nat) : Nat := x * y / 2 ^ fxBits

/-- The sum over odd k of z^k / k, alternating in sign when `alt`, `n` terms: arctan or artanh of z. -/
def oddSeries (alt : Bool) (z2 : Nat) : Nat → Nat → Nat → Int
  | 0, _, _ => 0
  | n + 1, p, k =>
    let t : Int := ((p / k : Nat) : Int)
    let rest := oddSeries alt z2 n (fxMul p z2) (k + 2)
    if alt then t - rest else t + rest

/-- artanh of z < 1/2. -/
def artanh (z : Nat) : Nat := (oddSeries false (fxMul z z) 330 z 1).toNat

/-- arctan of 1/n. -/
def arctanInv (n : Nat) : Nat :=
  let z := 2 ^ fxBits / n
  (oddSeries true (fxMul z z) 150 z 1).toNat

/-- ln 2 = 2 artanh(1/3). -/
def fxLn2 : Nat := 2 * artanh (2 ^ fxBits / 3)

/-- Half of pi, by Machin's formula. -/
def fxHalfPi : Nat := 8 * arctanInv 5 - 2 * arctanInv 239

/-- The sum of y^j / j!, `n` terms from the j-th on, `t` being the j-th. -/
def expSeries (y : Nat) : Nat → Nat → Nat → Nat
  | 0, _, _ => 0
  | n + 1, j, t => t + expSeries y n (j + 1) (fxMul t y / (j + 1))

/-- The alternating series of sine (from t = r, j = 1) or cosine (from t = 1, j = 0). -/
def circSeries (r2 : Nat) : Nat → Nat → Nat → Int
  | 0, _, _ => 0
  | n + 1, j, t => (t : Int) - circSeries r2 n (j + 2) (fxMul t r2 / ((j + 1) * (j + 2)))

/-- A fixed-point magnitude, inexact below its last bit, rounded to F32 (R108). -/
def fxRound (neg : Bool) (x : Nat) (extra : Int) : Nat × Flags :=
  roundFin Fmt.f32 .ne neg (sticky x true) (extra - (fxBits : Int) - 1)

/-- 2^a (R107, R108). -/
def fpExp2 (a : Nat) : Nat × Flags :=
  match Fmt.f32.decode a with
  | .nan s => (Fmt.f32.nan, nvIf s)
  | .inf neg => (if neg then 0 else Fmt.f32.infCode, 0#5)
  | .fin neg m e =>
    if m = 0 then (0x3F800000, 0#5)
    else if (Nat.log2 m : Int) + e > 12 then
      roundFin Fmt.f32 .ne false (sticky (2 ^ 40) true) (if neg then -4096 else 4096)
    else
      let x := scaled neg m e (-(fxBits : Int))
      let n := x / (2 ^ fxBits : Nat)
      let y := (x % (2 ^ fxBits : Nat)).toNat
      if y = 0 then roundFin Fmt.f32 .ne false 1 n
      else fxRound false (expSeries (fxMul y fxLn2) 150 0 (2 ^ fxBits)) n

/-- log2 a (R107, R108). -/
def fpLog2 (a : Nat) : Nat × Flags :=
  match Fmt.f32.decode a with
  | .nan s => (Fmt.f32.nan, nvIf s)
  | .inf false => (Fmt.f32.infCode, 0#5)
  | .inf true => (Fmt.f32.nan, Flags.nv)
  | .fin neg m e =>
    if m = 0 then (Fmt.f32.signed true Fmt.f32.infCode, Flags.dz) else if neg then (Fmt.f32.nan, Flags.nv)
    else
      let k := Nat.log2 m
      let n : Int := (k : Int) + e
      if m = 2 ^ k then toFmt Fmt.f32 .ne (ofInteger n)
      else
        let y := m * 2 ^ fxBits / 2 ^ k
        let one := 2 ^ fxBits
        let l := 2 * artanh ((y - one) * one / (y + one)) * one / fxLn2
        let v : Int := n * (one : Int) + (l : Int)
        if v < 0 then fxRound true (-v).toNat.pred 0 else fxRound false v.toNat 0

/-- Sine or cosine after exact reduction by multiples of half pi (R107, R108). -/
def fpSinCos (isCos : Bool) (a : Nat) : Nat × Flags :=
  match Fmt.f32.decode a with
  | .nan s => (Fmt.f32.nan, nvIf s)
  | .inf _ => (Fmt.f32.nan, Flags.nv)
  | .fin neg m e =>
    if m = 0 then (if isCos then 0x3F800000 else a, 0#5)
    else
      let x := (scaled false m e (-(fxBits : Int))).toNat
      let n := x / fxHalfPi
      let r := x % fxHalfPi
      let r2 := fxMul r r
      let quad := (if isCos then n + 1 else n) % 4
      let v := if quad % 2 = 0 then circSeries r2 160 1 r else circSeries r2 160 0 (2 ^ fxBits)
      let sg := (quad == 2 || quad == 3) != (neg && !isCos)
      fxRound sg v.toNat 0

/-- The range of an integer type (R68). -/
def intRange : Ty → Int × Int
  | .s32 => (-(2 ^ 31 : Nat), (2 ^ 31 - 1 : Nat))
  | .u32 => (0, (2 ^ 32 - 1 : Nat))
  | .s64 => (-(2 ^ 63 : Nat), (2 ^ 63 - 1 : Nat))
  | .u64 => (0, (2 ^ 64 - 1 : Nat))
  | .s8 => (-128, 127)
  | .u8 => (0, 255)
  | .s16 => (-32768, 32767)
  | _ => (0, 65535)

/-- The floating-point format of a type code, if it is one (R48). -/
def tyFmt : Ty → Option Fmt
  | .f32 => some Fmt.f32
  | .f64 => some Fmt.f64
  | .f16 => some Fmt.f16
  | .bf16 => some Fmt.bf16
  | .e4m3 => some Fmt.e4m3
  | .e5m2 => some Fmt.e5m2
  | .e3m2 => some Fmt.e3m2
  | .e2m1 => some Fmt.e2m1
  | _ => none

/-- Bits of a type (R48, R66, R68). -/
def tyBits : Ty → Nat
  | .s64 => 64 | .u64 => 64 | .f64 => 64
  | .s32 => 32 | .u32 => 32 | .f32 => 32
  | .f16 => 16 | .bf16 => 16 | .s16 => 16 | .u16 => 16
  | .e4m3 => 8 | .e5m2 => 8 | .s8 => 8 | .u8 => 8
  | .e3m2 => 6
  | .e2m1 => 4

/-- A type is signed. -/
def tySigned : Ty → Bool
  | .s32 => true | .s64 => true | .s8 => true | .s16 => true | _ => false

/-- The value of a source code read as a type: its low bits (R66, R68). -/
def tyValue (t : Ty) (x : Nat) : FVal :=
  match tyFmt t with
  | some f => f.decode x
  | none =>
    let n := bits x 0 (tyBits t)
    ofInteger (if tySigned t && bit n (tyBits t - 1) then (n : Int) - (2 ^ tyBits t : Nat) else (n : Int))

/-- Whether a type is an integer type. -/
def tyIsInt (t : Ty) : Bool := (tyFmt t).isNone

/-- A conversion of R78, R79 and R110 from one type's code to another's, with its flags. -/
def convert (mode : Mode) (dst src : Ty) (x : Nat) : Nat × Flags :=
  let v := tyValue src x
  match tyFmt dst with
  | some f => toFmt f mode v
  | none =>
    let (lo, hi) := intRange dst
    let (n, fl) := toInt mode lo hi v
    (bits ((n % (2 ^ 64 : Nat)).toNat) 0 (tyBits dst), if tyIsInt src then 0#5 else fl)

/-- The exact sum of a list of finite values with their flags, rounded once (R114). -/
def exactSum (f : Fmt) (l : List Nat) : Nat × Flags :=
  let vs := l.map f.decode
  let pinf := vs.any (fun v => v == .inf false)
  let ninf := vs.any (fun v => v == .inf true)
  if vs.any FVal.isNan || (pinf && ninf) then (f.nan, nvIf (vs.any FVal.isSnan || (pinf && ninf)))
  else if pinf then (f.infCode, 0#5)
  else if ninf then (f.signed true f.infCode, 0#5)
  else
    let total : Int := vs.foldl (fun acc v => match v with
      | .fin n m e => acc + scaled n m e f.qmin
      | _ => acc) 0
    if total = 0 then (0, 0#5) else roundFin f .ne (decide (total < 0)) total.natAbs f.qmin

/-- Width and weight of an image's SUM by element size (R83): 312 bits of 2^-149, or 2,168 bits of 2^-1074. -/
def imageShape (esize : Nat) : Nat × Nat := if esize = 40 then (312, 149) else (2168, 1074)

/-- One contribution to an image held as a number (R84). -/
def imageAdd (esize img : Nat) (v : FVal) : Nat :=
  let (w, z) := imageShape esize
  let sum := bits img 0 w
  let flags := img / 2 ^ w
  match v with
  | .nan _ => sum + 2 ^ w * (flags ||| 1)
  | .inf false => sum + 2 ^ w * (flags ||| 2)
  | .inf true => sum + 2 ^ w * (flags ||| 4)
  | .fin n m e =>
    let x := scaled n m e (-(z : Int))
    (((sum : Int) + x) % (2 ^ w : Nat)).toNat + 2 ^ w * flags

/-- Closing an image to a format (R85). -/
def imageClose (esize img : Nat) (f : Fmt) : Nat × Flags :=
  let (w, z) := imageShape esize
  let flags := img / 2 ^ w
  let sum := bits img 0 w
  let pinf := bit flags 1
  let ninf := bit flags 2
  if bit flags 0 || (pinf && ninf) then (f.nan, Flags.nv)
  else if pinf then (f.infCode, 0#5)
  else if ninf then (f.signed true f.infCode, 0#5)
  else
    let v : Int := if bit sum (w - 1) then (sum : Int) - (2 ^ w : Nat) else (sum : Int)
    if v = 0 then (0, 0#5) else roundFin f .ne (decide (v < 0)) v.natAbs (-(z : Int))

/-- The non-zero digits of the NAF of an integer, least position first: position and whether negative (R72, R119);
`fuel` bounds the number of bits. -/
def nafFrom : Nat → Int → Nat → List (Nat × Bool)
  | 0, _, _ => []
  | fuel + 1, q, i =>
    if q = 0 then []
    else if q % 2 = 0 then nafFrom fuel (q / 2) (i + 1)
    else
      let d : Int := 2 - q % 4
      (i, decide (d < 0)) :: nafFrom fuel ((q - d) / 2) (i + 1)

/-- The NAF of an integer within 32 bits, in descending position (R119). -/
def naf (q : Int) : List (Nat × Bool) := (nafFrom 40 q 0).reverse

end Sys2Proof.Machine
end

