-- ==== Sys2Proof/Machine/Legal.lean ====
section
/-! DEFINITION. Which instruction words no context can make valid: the ILLEGAL rows of R53 that depend on operand
specifiers, functions and types (R39, R43, R48, R49, R92, R193, R203, R204, R262, R270, R288, R310, R316). -/

namespace Sys2Proof

/-- Why a word is not an instruction; every one of these is the trap ILLEGAL (R53, R54). -/
inductive Reject where
  /-- a field that must be zero is not (R53) -/
  | fixedField
  /-- an unassigned function value F (R47) -/
  | unassignedFunction
  /-- CVT or CVTZ with equal nibbles (R48) -/
  | equalTypes
  /-- an odd register in a 64-bit position, or an odd pair field (R39) -/
  | oddPair
  /-- a four-register position that is not a multiple of 4 (R43, R193) -/
  | quadAlign
  /-- D = 0x7F or a queue port in an instruction that also reads D (R43) -/
  | sourceDest
  /-- AOP 15, or RED with XCHG or CAS (R49) -/
  | badAop
  /-- FENCE with scope 7 (R50) -/
  | fenceScope
  /-- BAR with kind 3 to 15 (R51) -/
  | barKind
  /-- a CACHE operation outside R52 -/
  | cacheOp
  /-- an FX parameter register that is not s0, s8 .. s120, an undefined flag, or a D that is not uniform (R37) -/
  | fxField
  /-- an unassigned special register (R271) -/
  | unassignedSr
  /-- SWR naming a read-only special register (R270) -/
  | readOnlySr
  /-- a result type of RCLOSE other than F32 and F64 (R48) -/
  | closeType
  /-- ST.Q with lit as its data (R195) -/
  | quadLit
  /-- CALLR or JR whose A is not a register pair (R262) -/
  | jumpOperand
  /-- TRAP whose A is a queue port (R310) -/
  | trapQueue
  /-- MOVIH or PCLR with D = nul or a queue port (R92, R316) -/
  | needsRegister
  /-- HNARROW or HQUERY with a D its entry does not allow (R288, R289) -/
  | handleDest
  deriving DecidableEq, Repr

/-- A source register specifier is even; a queue port or lit always fits a pair position (R39). -/
def Src.even : Src → Bool
  | .v n => n.val % 2 == 0
  | .s n => n.val % 2 == 0
  | _ => true

/-- A destination register specifier is even; a queue port or nul always fits a pair position (R39). -/
def Dst.even : Dst → Bool
  | .v n => n.val % 2 == 0
  | .s n => n.val % 2 == 0
  | _ => true

/-- A four-register position holds a multiple of 4 (R43, R193). -/
def Src.quad : Src → Bool
  | .v n => n.val % 4 == 0
  | .s n => n.val % 4 == 0
  | _ => true

/-- A four-register position holds a multiple of 4 (R43, R193). -/
def Dst.quad : Dst → Bool
  | .v n => n.val % 4 == 0
  | .s n => n.val % 4 == 0
  | _ => true

/-- D names a register, not a queue port and not 0x7F (R43). -/
def Dst.isReg : Dst → Bool
  | .v _ => true
  | .s _ => true
  | _ => false

/-- The source names a register. -/
def Src.isReg : Src → Bool
  | .v _ => true
  | .s _ => true
  | _ => false

/-- Types that take a register pair (R48). -/
def Ty.isPair : Ty → Bool
  | .s64 => true
  | .u64 => true
  | .f64 => true
  | _ => false

/-- Special registers 64 bits wide (R271). -/
def SReg.isPair : SReg → Bool
  | .lsp => true
  | .time => true
  | .cycle => true
  | .horizonDie => true
  | .horizonDev => true
  | .horizonPod => true
  | .xpc => true
  | .xaddr => true
  | _ => false

/-- Special registers SWR may write (R271). -/
def SReg.writable : SReg → Bool
  | .prio => true
  | .fflags => true
  | .xcause => true
  | .xval => true
  | .xpc => true
  | .xlane => true
  | .xaddr => true
  | _ => false

/-- The first failing test of a list gives the reason. -/
def firstReject : List (Bool × Reject) → Option Reject
  | [] => none
  | (ok, r) :: rest => if ok then firstReject rest else some r

/-- D is a pair, A and B as the flags say. -/
def legalPairs (d : Dst) (dp : Bool) (a : Src) (ap : Bool) (b : Src) (bp : Bool) : Option Reject :=
  firstReject [(!dp || d.even, .oddPair), (!ap || a.even, .oddPair), (!bp || b.even, .oddPair)]

/-- An instruction that reads D before it writes it (R43); `dp` when D is a pair. -/
def legalReadsD (d : Dst) (dp : Bool) (a : Src) (ap : Bool) (b : Src) (bp : Bool) : Option Reject :=
  firstReject [(d.isReg, .sourceDest), (!dp || d.even, .oddPair), (!ap || a.even, .oddPair), (!bp || b.even, .oddPair)]

/-- ATOM and RED: the width of D by operation (R197, R43, R49). -/
def legalAtomic (d : Dst) (p : Aop) (dword red : Bool) : Option Reject :=
  firstReject [(!(red && (p == .xchg || p == .cas)), .badAop), (d.isReg, .sourceDest),
    (!(dword && p == .cas) || d.quad, .quadAlign), (!(dword || p == .cas) || d.even, .oddPair)]

/-- A load to a quad needs a multiple of 4 (R193). -/
def legalQuadDst (d : Dst) : Option Reject := firstReject [(d.quad, .quadAlign)]

/-- NOTRAP is valid only with REC (R214). -/
def legalFx (notrap record : Bool) : Option Reject := firstReject [(!notrap || record, .fxField)]

/-- The ILLEGAL test of a decoded instruction (R53): `none` when some context makes it valid. The steps of the
module's other agents are not words and are never rejected. -/
def rejectOf : Instr → Option Reject
  | .mad d a b => legalReadsD d false a false b false
  | .sel d a b => legalReadsD d false a false b false
  | .add64 d a b => legalPairs d true a true b true
  | .sub64 d a b => legalPairs d true a true b true
  | .mul64 d a b => legalPairs d true a true b true
  | .shl64 d a b => legalPairs d true a true b false
  | .shr64 d a b => legalPairs d true a true b false
  | .sar64 d a b => legalPairs d true a true b false
  | .slt64 d a b => legalPairs d false a true b true
  | .sltu64 d a b => legalPairs d false a true b true
  | .madwu d a b => legalReadsD d true a false b false
  | .addwu d a b => legalReadsD d true a false b false
  | .mov64 d a => legalPairs d true a true .lit false
  | .neg64 d a => legalPairs d true a true .lit false
  | .ffma d a b => legalReadsD d false a false b false
  | .dadd d a b => legalPairs d true a true b true
  | .dsub d a b => legalPairs d true a true b true
  | .dmul d a b => legalPairs d true a true b true
  | .dfma d a b => legalReadsD d true a true b true
  | .dmin d a b => legalPairs d true a true b true
  | .dmax d a b => legalPairs d true a true b true
  | .dslt d a b => legalPairs d false a true b true
  | .dsle d a b => legalPairs d false a true b true
  | .dseq d a b => legalPairs d false a true b true
  | .dneg d a => legalPairs d true a true .lit false
  | .dabs d a => legalPairs d true a true .lit false
  | .dsqrt d a => legalPairs d true a true .lit false
  | .drcp d a => legalPairs d true a true .lit false
  | .drsq d a => legalPairs d true a true .lit false
  | .drndn d a => legalPairs d true a true .lit false
  | .drndz d a => legalPairs d true a true .lit false
  | .drndp d a => legalPairs d true a true .lit false
  | .drndm d a => legalPairs d true a true .lit false
  | .dclass d a => legalPairs d false a true .lit false
  | .hfma2 d a b => legalReadsD d false a false b false
  | .bfma2 d a b => legalReadsD d false a false b false
  | .cvt d a x y => firstReject [(x != y, .equalTypes), (!x.isPair || d.even, .oddPair), (!y.isPair || a.even, .oddPair)]
  | .cvtz d a x y => firstReject [(x != y, .equalTypes), (!x.isPair || d.even, .oddPair), (!y.isPair || a.even, .oddPair)]
  | .lsegd d a b => legalPairs d true a true b false
  | .lscand d a => legalPairs d true a true .lit false
  | .lredd d a => legalPairs d true a true .lit false
  | .movih d _ => firstReject [(d.isReg, .needsRegister)]
  | .srd d r => firstReject [(!r.isPair || d.even, .oddPair)]
  | .swr a r => firstReject [(r.writable, .readOnlySr), (!r.isPair || a.even, .oddPair)]
  | .ldD d _ _ _ => firstReject [(d.even, .oddPair)]
  | .ldQ d _ _ _ => legalQuadDst d
  | .stD d _ _ _ => firstReject [(d.even, .oddPair)]
  | .stQ d _ _ _ => firstReject [(d != .lit, .quadLit), (d.quad, .quadAlign)]
  | .ldcD d _ _ _ => firstReject [(d.even, .oddPair)]
  | .atomW d _ p _ => legalAtomic d p false false
  | .atomD d _ p _ => legalAtomic d p true false
  | .redW d _ p _ => legalAtomic d p false true
  | .redD d _ p _ => legalAtomic d p true true
  | .rcloseF32 a _ _ => firstReject [(a.even, .oddPair)]
  | .rcloseF64 a _ _ => firstReject [(a.even, .oddPair)]
  | .rldW _ a _ _ => firstReject [(a.even, .oddPair)]
  | .rldD d a _ _ => firstReject [(a.even, .oddPair), (d.even, .oddPair)]
  | .rstW _ a _ _ => firstReject [(a.even, .oddPair)]
  | .rstD d a _ _ => firstReject [(a.even, .oddPair), (d.even, .oddPair)]
  | .ratom d a p _ => firstReject [(a.even, .oddPair), (d.isReg, .sourceDest), (!(p == .cas || p == .addX) || d.even, .oddPair)]
  | .xcopy t r _ _ => legalFx t r
  | .xgather t r _ _ _ => legalFx t r
  | .xscatter t r _ _ _ => legalFx t r
  | .xencTerm t r _ _ => legalFx t r
  | .xencBlock t r _ _ => legalFx t r
  | .xdecTerm t r _ _ => legalFx t r
  | .xdecBlock t r _ _ => legalFx t r
  | .mtask t r _ _ => legalFx t r
  | .mtaskStream t r _ _ => legalFx t r
  | .xstat _ _ f => firstReject [(f.val < 3, .unassignedFunction)]
  | .callr a => firstReject [(a.isReg, .jumpOperand), (a.even, .oddPair)]
  | .jr a => firstReject [(a.isReg, .jumpOperand), (a.even, .oddPair)]
  | .trap a => firstReject [((match a with | .q _ => false | _ => true), .trapQueue)]
  | .hnarrow d _ => firstReject [((match d with | .s _ => true | .nul => true | _ => false), .handleDest)]
  | .pclr d _ => firstReject [(d.isReg, .needsRegister)]
  | _ => none

end Sys2Proof
end

