-- ==== Sys2Proof/Config.lean ====
section
/-! DEFINITION. What an implementation fixes and what the spec leaves open, as constants with no body: nothing can be
proved of their values, so a claim holds whatever they are. The figures of R9, R10 and R13 are definitions. -/

namespace Sys2Proof

/-- Cores of one die (R10). -/
def Config.coresPerDie : Nat := 72

/-- Cores of the module (R10). -/
def Config.cores : Nat := 144

/-- Resident groups of one core (R13, R15). -/
def Config.slotsPerCore : Nat := 144

/-- Resident groups of one partition (R15). -/
def Config.slotsPerPartition : Nat := 24

/-- Bytes of vector registers of one partition (R13). -/
def Config.vregBytes : Nat := 786432

/-- Bytes of local memory of one core (R13). -/
def Config.localBytes : Nat := 1572864

/-- Lines of a core's L1, constant cache and instruction cache, of a die's remote-data cache, and of a home slice (R9). -/
def Config.l1Lines : Nat := 2048
def Config.constLines : Nat := 512
def Config.codeLines : Nat := 1024
def Config.rdcLines : Nat := 262144
def Config.sliceLines : Nat := 16384

/-- Entries of a core's handle cache (R287), and of the structures that hold translations (R284). -/
def Config.handleEntries : Nat := 64
def Config.coreTlb : Nat := 512
def Config.aheadTlb : Nat := 64
def Config.dieTlb : Nat := 16384
def Config.lastTlb : Nat := 8192
def Config.walkEntries : Nat := 2048

/-- The least and greatest lease (R168); `hostLease` for lines of host memory. -/
def Config.minLease : Nat := 32
def Config.maxLease : Nat := 4096
def Config.hostLease : Nat := 256

/-- The skew guard (R7, R170). -/
def Config.skewGuard : Nat := 8

/-- The home slice of a line, 0 to 79 within its die (R11: a fixed hash, not given; log 11). -/
opaque Config.sliceHash : Nat → Nat

/-- The memory channel, within its stack or package, that holds a physical address (R325 numbers the channels and does
not say which address lies where; log 11). -/
opaque Config.channelHash : Nat → Nat

/-- Which entry a structure that is over full gives up, by the keys it lists (log 9). -/
opaque Config.victim : List Nat → Nat

/-- The host link's peer supports the PCIe atomic operations (R202; log 67). -/
opaque Config.hostAtomics : Bool

/-- A free value for each number: used where the spec leaves a choice or a value open (log 3, 11). -/
opaque Config.free : Nat → Nat

/-- The module's power in watts at the end of a millisecond (R364; log 73). -/
opaque Config.watts : Nat → Word

/-- Whether an SLH-DSA-SHAKE-256s signature verifies: public key, message, signature (R299; log 16). -/
opaque Config.slhVerify : List Byte → List Byte → List Byte → Bool

/-- The SLH-DSA-SHAKE-256s public key of the seeds of R301 (log 16). -/
opaque Config.slhPublic : List Byte → List Byte

/-- One byte of the SLH-DSA-SHAKE-256s signature of a message under the seeds of R301 (log 16). -/
opaque Config.slhSignByte : List Byte → List Byte → Nat → Byte

/-- The Rhanex certificate of a public key (R301; its form is not given; log 16). -/
opaque Config.certificate : List Byte → List Byte

end Sys2Proof
end

