-- ==== Sys2Proof/Machine/State.lean ====
section
/-! DEFINITION. The state of one T940 module as plain data (R19 to R25 and the state the later chapters add), the
reasons a step can stop, and the module right after reset (R363). Tables are lists of (key, value) pairs in the forms
of Store.lean. Addresses of memory cells, times in ticks, sizes and identities are natural numbers; what software reads
as a word is a bit vector. -/

namespace Sys2Proof.Machine

/-- One 32-bit register word or queue word with its poison tag (R19, R20, R41). -/
structure Reg where
  bits   : Word
  poison : Bool
  deriving DecidableEq, Repr

/-- A register word that reads 0 without poison (R25). -/
def Reg.zero : Reg := { bits := 0, poison := false }

/-- The condition of a WAITC (R212). -/
inductive Cond where
  | eq | ne | ge
  deriving DecidableEq, Repr

/-- Where a word or sector lies: a physical address, or a byte of a core's local memory (R161). -/
inductive Place where
  | phys (pa : Nat)
  | loc (core off : Nat)
  deriving DecidableEq, Repr

/-- One lane's monitor: its word, its virtual address as saved by R253, comparand, condition and latch (R212). `token` is
the number of its arming, `popped` what the WAITC took from queue ports: a trap gives it back (R41). -/
structure Watch where
  place   : Place
  va      : DWord
  d       : Word
  cond    : Cond
  latched : Bool
  token   : Nat
  popped  : List (Nat × List (List Reg))
  deriving DecidableEq, Repr

/-- The latest write-visible times that acknowledgements have brought to the groups of the module: WVT.same on each die,
WVT.all, and the pod's (R170, R171). Releases are cumulative over them (R174; log 66). -/
structure Heard where
  same0 : Nat
  same1 : Nat
  all   : Nat
  pod   : Nat
  deriving DecidableEq, Repr

/-- Nothing heard. -/
def Heard.none : Heard := { same0 := 0, same1 := 0, all := 0, pod := 0 }

/-- A fence the class waits at: its fields, and the number before which accesses belong to it (R172, R208). `since` is
the time from which an SC fence counts its 16 ticks (R175); `heard` what the module's groups had heard when it began
(R174). -/
structure FenceWait where
  eng   : Bool
  kind  : FenceKind
  scope : Scope
  seq   : Nat
  since : Option Nat
  heard : Heard
  deriving DecidableEq, Repr

/-- The pipes of a partition (R35, R46). NOP has none. -/
inductive Pipe where
  | v | u | m | x | b | none
  deriving DecidableEq, Repr

/-- Why a lane sleeps (R232); the lanes of a class that sleep together carry the same operands. A class asleep on a queue
port keeps the pops and the push its instruction needs (port and entries), and its place in line. `entering` marks a lane
stalled between the record of a trap and the push of its entry, with the entry's value (R308). -/
inductive Sleep where
  | awake
  | waitc (w : Watch)
  | yield (k threshold : Nat) (cont : DWord)
  | barWait (n : Nat)
  | barAgain (n : Nat)
  | queue (port token : Nat) (pops : List (Nat × Nat)) (push : Option (Nat × Nat))
  | fence (f : FenceWait)
  | entering (pc : DWord)
  deriving DecidableEq, Repr

/-- The words of one packet that a lane has fetched and may still execute until FETCHB (R211): its address, the four
words and the tag of their sector. -/
structure Packet where
  va     : DWord
  words  : List Word
  poison : Bool
  deriving DecidableEq, Repr

/-- One lane (R19, R253). `chain` marks a lane between the words of a chain (R34); `scAfter` is the completion time of
its last SC fence (R175); `waited` lists the words its WAITCs saw at the home, each with the time from which a copy must
have been granted to serve the lane there (R162, R176); `fetched` the packets it holds until FETCHB (R211). -/
structure Lane where
  pc      : DWord
  depth   : BitVec 16
  lsp     : DWord
  v       : List (Nat × Reg)
  exited  : Bool
  parked  : Bool
  run     : Nat
  sleep   : Sleep
  arrived : BitVec 16
  chain   : Bool
  scAfter : Nat
  waited  : List (Nat × Nat)
  fetched : List Packet
  deriving DecidableEq, Repr

/-- A trap waiting for the group's next instruction boundary (R146, R206, R218). -/
structure DeferredTrap where
  cause : Nat
  xval  : Word
  xaddr : DWord
  deriving DecidableEq, Repr

/-- What one lane's write does at its home (R161, R198, R201, R203). An exact image is given by its pieces, start and
length, since it may lie across two pages. -/
inductive WriteAct where
  | store (pa : Nat) (bytes : List Byte)
  | atomic (aop : Aop) (pa width : Nat) (data swap : DWord)
  | addX (at_ : List (Nat × Nat)) (esize : Nat) (data : DWord) (double : Bool)
  | close (at_ : List (Nat × Nat)) (esize : Nat) (double : Bool)
  | cell (pa : Nat) (bytes : List Byte) (poison : Bool)
  deriving DecidableEq, Repr

/-- One lane's part of a write (R191). -/
structure LaneOp where
  lane : Nat
  act  : WriteAct
  deriving DecidableEq, Repr

/-- How far a write at its home has come: not begun; an atomic of host memory that the bridge has split, its locked read
done (R202): the bytes it read; or performed at the home of a replicated page and not yet by the replica (R179): its
lines as the replica still holds them. -/
inductive WriteStage where
  | fresh
  | locked (bytes : List Byte)
  | replicating (old : List (Nat × Line))
  deriving DecidableEq, Repr

/-- One entry of a store queue, or one write on its way to its home (R184): the byte ranges it touches (start and
length), its lanes' parts in ascending lane order, and the page it reached (R209, R317): protected, replicated. `ret` names
the outstanding access of the group that waits for its results. -/
structure HomeWrite where
  id    : Nat
  slot  : Nat
  spans : List (Nat × Nat)
  ops   : List LaneOp
  ret   : Option Nat
  dom   : Nat
  space : Nat
  va    : Nat
  prot  : Bool
  repl  : Bool
  stage : WriteStage
  deriving DecidableEq, Repr

/-- An acknowledgement on its way back (R170): the write's number, its group, its lines, and the write-visible times. -/
structure Ack where
  id   : Nat
  slot : Nat
  lines : List Nat
  same : Nat
  all  : Nat
  seq  : Nat
  deriving DecidableEq, Repr

/-- A fill on its way to a cache (R168, R169, R184): the sectors it brings, the loads that asked for it, each by its
group's slot and its number (none for a speculative fill), whether the L1 may keep it, and whether it passes the die's remote-data cache. -/
structure Fill where
  core   : Nat
  line   : Nat
  secs   : List Nat
  data   : Line
  ends   : Nat
  grant  : Nat
  asks   : List (Nat × Nat)
  keep   : Bool
  far    : Bool
  seq    : Nat
  deriving DecidableEq, Repr

/-- A cached copy under lease (R168, R169): the sectors of its line that it holds (R184), their content, its lease. -/
structure Copy where
  secs  : List Nat
  data  : Line
  ends  : Nat
  grant : Nat
  deriving DecidableEq, Repr

/-- One lane's part of an outstanding access: where it reads, and the bytes its own unacknowledged stores give (R162). -/
structure LaneAccess where
  lane : Nat
  pa   : Nat
  size : Nat
  own  : List (Option Byte)
  deriving DecidableEq, Repr

/-- One lane's write on its way: the bytes it touches, its page, whether the page is protected, what it does. -/
structure Sent where
  lane : Nat
  at_  : List (Nat × Nat)
  va   : Nat
  prot : Bool
  repl : Bool
  act  : WriteAct
  deriving DecidableEq, Repr

/-- What an outstanding access is for (R184). A close keeps each lane's result cell: lane, physical and
virtual address, and the leaf of its page (R203); `later` are the closes that lower lanes' cells must precede (R191). XRET
keeps the address it goes to (R311). -/
inductive LoadKind where
  | load (d : Dst) (size : Nat) (signed : Bool)
  | atom (d : Dst) (size : Nat) (zero : Bool)
  | close (cells : List (Nat × Nat × Nat × Nat)) (later : List Sent)
  | remote (d : Dst) (size : Nat)
  | ret
  | xret (to_ : DWord)
  deriving DecidableEq, Repr

/-- An outstanding access of a class (R184): its lanes, the sectors still missing, the sectors supplied, each with its line's
content, the values and flags returned so far (R184, R199, R203, R204). `uniform` for a uniform operation (R40), `cached`
when its space and policy allow an L1 copy, `rdc` a copy in the remote-data cache (R165), `repl` its lines on replicated
pages (R179), `sc` the time its copies must not precede (R175). `refusals` lists the lanes whose remote requests were
refused: lane, reason, peer index, window offset (R205); `popped` what its instruction took from queue ports, which a trap
gives back (R41). -/
structure LoadOp where
  kind    : LoadKind
  uniform : Bool
  policy  : Nat
  cached  : Bool
  rdc     : Bool
  repl    : List Nat
  sc      : Nat
  lanes   : List Nat
  access  : List LaneAccess
  missing : List Nat
  lines   : List (Nat × Line)
  values  : List (Nat × List Reg)
  waiting : List Nat
  flags   : BitVec 5
  refusals : List (Nat × Nat × Nat × Nat)
  popped  : List (Nat × List (List Reg))
  deriving DecidableEq, Repr

/-- A line the issuing lanes wrote that no survivable release has covered: for R182, R209, R347. -/
structure Written where
  lane : Nat
  line : Nat
  va   : Nat
  prot : Bool
  deriving DecidableEq, Repr

/-- A remote write or atomic to a protected page that no survivable release has flushed: lane, target module, window and
offset (R347). -/
structure Peered where
  lane   : Nat
  target : Nat
  window : Nat
  offset : Nat
  deriving DecidableEq, Repr

/-- One queue channel: vector or uniform, the words of one entry, where its ring of 16 places lies in the team's local
memory (R41, R60), the place of the oldest entry, and the poison tags of the queued entries, oldest first, a tag per word;
the words themselves stand in local memory (R20, R21; log 65). -/
structure Chan where
  vector : Bool
  words  : Nat
  ofs    : Nat
  head   : Nat
  tags   : List (List Bool)
  deriving DecidableEq, Repr

/-- One group (R20, R253). `slot` is the R247 number, `index` is sr.group; `k` lists the eight counters,
`arrSeq` by barrier the number before which the writes belong to the group's latest arrival (R237), `loads` the outstanding
accesses of its classes by their numbers (R184, R223). -/
structure Group where
  team     : Nat
  index    : Nat
  width    : Nat
  nregs    : Nat
  lanes    : List Lane
  s        : List (Nat × Reg)
  k        : List (Nat × Nat)
  prio     : BitVec 4
  fflags   : BitVec 5
  horDie   : Nat
  horDev   : Nat
  horPod   : Nat
  xcause   : Word
  xval     : Word
  xpc      : DWord
  xlane    : Word
  xaddr    : DWord
  ord      : Nat
  failed   : Word
  nfailed  : Nat
  q14      : Chan
  q14res   : Nat
  deferred : List DeferredTrap
  storeQ   : List HomeWrite
  loads    : List (Nat × LoadOp)
  arrSeq   : List (Nat × Nat)
  written  : List Written
  peered   : List Peered
  trapped  : Bool
  held     : Bool
  lastIssue : Nat
  resident : Nat
  ready    : Nat
  boost    : Bool
  deriving DecidableEq, Repr

/-- A kernel header as R60 lays it out; a channel binding is its KIND and offset. -/
structure KHeader where
  width  : Nat
  nregs  : Nat
  ngrp   : Nat
  tiles  : Nat
  narg   : Nat
  locB   : Nat
  stackB : Nat
  entry  : Int
  crq    : Nat
  chans  : List (Nat × Nat)
  deriving DecidableEq, Repr

/-- How a task joins its spawner (R242). -/
structure TaskJoin where
  spawner : Nat
  ctr     : Nat
  record  : Bool
  ord     : Nat
  ring    : Bool
  deriving DecidableEq, Repr

/-- A resident team or task (R21, R17). `slots` gives the group slot of each sr.group; `gens` the barrier generations. -/
structure Team where
  lid     : Nat
  x       : Nat
  y       : Nat
  z       : Nat
  t       : Nat
  core    : Nat
  base    : Nat
  len     : Nat
  tiles   : List Nat
  hdr     : KHeader
  hdrVa   : Nat
  task    : Option TaskJoin
  gens    : List (Nat × Nat)
  chans   : List (Nat × Chan)
  slots   : List Nat
  done    : List Nat
  failed  : Bool
  deriving DecidableEq, Repr

/-- A handle entry as read (R23): its 32 bytes, and whether they carried poison (R287). -/
structure HEntry where
  bytes  : List Byte
  poison : Bool
  deriving DecidableEq, Repr

/-- A task waiting in a core's task queue (R238, R239), and the release that must complete first (R269): the writes of
the spawner numbered below `seq`, and device time above `need`. -/
structure QTask where
  lid    : Nat
  khdr   : Nat
  arga   : Nat
  x      : Nat
  y      : Nat
  z      : Nat
  join   : TaskJoin
  seq    : Nat
  need   : Nat
  deriving DecidableEq, Repr

/-- One core (R13). Accumulator values are keyed 16,384 x tile + 128 x row + column, tags 128 x tile + row. `behind`
counts, in eightieths, the core cycles that droop stretching has taken from this core (R8, R361). -/
structure Core where
  loc       : List Host.Cell
  locPoison : List (Nat × Bool)
  acc       : List (Nat × DWord × Bool)
  tags      : List (Nat × Nat)
  l1        : List (Nat × Copy)
  icache    : List (Nat × Line)
  ccache    : List (Nat × Line)
  hcache    : List (Nat × HEntry)
  tasks     : List QTask
  gateWant  : Bool
  gated     : Bool
  stretch   : Nat
  sagEnds   : Option Nat
  behind    : Nat
  deriving DecidableEq, Repr

/-- A core after a clearing (R278, R360): everything zero, nothing held. -/
def Core.clear : Core :=
  { loc := [], locPoison := [], acc := [], tags := [], l1 := [], icache := [], ccache := [], hcache := [], tasks := [],
    gateWant := false, gated := false, stretch := 0, sagEnds := none, behind := 0 }

/-- A tensor descriptor as R215 lays it out. -/
structure TDesc where
  handle : Nat
  etype  : Nat
  rank   : Nat
  tl     : Bool
  base   : Nat
  ext    : List Nat
  str    : List Int
  dirofs : Nat
  deriving DecidableEq, Repr

/-- What an engine command does (R138, R214). -/
inductive CmdOp where
  | xcopy | xgather | xscatter | xencTerm | xencBlock | xdecTerm | xdecBlock | mtask | mtaskStream
  deriving DecidableEq, Repr

/-- An activation row of a task as read (R73, R74): its S24 scale and, per element, q and its number of terms. -/
structure TRow where
  scale : Nat
  q     : List Int
  n     : List Nat
  deriving DecidableEq, Repr

/-- Where an engine command stands (R141 to R144, R149, R133). -/
inductive CmdPhase where
  | queued
  | folding
  | finishing
  deriving DecidableEq, Repr

/-- An accepted engine command (R139 to R149, R155, R214 to R219): its parameters as read at acceptance, and what it
has come to. `reads` and `writes` are its scoreboard ranges in the core's local memory. -/
structure Cmd where
  slot    : Nat
  team    : Nat
  lid     : Nat
  core    : Nat
  op      : CmdOp
  ctr     : Nat
  ord     : Nat
  record  : Bool
  notrap  : Bool
  nullIdx : Bool
  w       : List Word
  handles : List (Nat × HEntry)
  descs   : List TDesc
  reads   : List (Nat × Nat)
  writes  : List (Nat × Nat)
  fence   : Nat
  phase   : CmdPhase
  status  : Nat
  failAt  : Nat
  idxRec  : Option (Nat × Nat)
  flags   : BitVec 5
  words   : List Word
  wvt     : Nat
  lane0   : Nat
  rows    : List TRow
  nextBlk : List Nat
  deriving DecidableEq, Repr

/-- The kinds of access of R320. -/
inductive AccessKind where
  | read | write | atomic | fetch
  deriving DecidableEq, Repr

/-- Who made an access that waits on a translation fault (R317): a class of a group by its program counter and depth. -/
inductive Agent where
  | group (slot pc depth : Nat)
  | cmd (n : Nat)
  | peer (n : Nat)
  | queue (q : Nat)
  | teamStart (lid : Nat)
  | taskStart (core : Nat)
  | ringTask (lid : Nat)
  | moveWalk (dom die : Nat)
  | launchEnd (lid : Nat)
  | rope (dom : Nat)
  | handles (lid : Nat)
  deriving DecidableEq, Repr

/-- A pending key of a die TLB (R318): `page` is bits 56:16; `written` when it has a fault-buffer entry. -/
structure FaultKey where
  die     : Nat
  dom     : Nat
  space   : Nat
  page    : Nat
  written : Bool
  deriving DecidableEq, Repr

/-- Where a waiting access stands (R317, R322): on its key, about to retry, or about to fail. -/
inductive WaitFate where
  | pending | retry | ended
  deriving DecidableEq, Repr

/-- An access waiting on a key (R317, R322). -/
structure FaultWait where
  agent : Agent
  die   : Nat
  dom   : Nat
  space : Nat
  page  : Nat
  cause : Nat
  fate  : WaitFate
  deriving DecidableEq, Repr

/-- A translation held by one of the structures of R284: the structure's number (`tlbOf` and its like in Xlate.lean), the
leaf entry, the page it covers and its size. -/
structure TlbEntry where
  store : Nat
  dom   : Nat
  space : Nat
  va    : Nat
  size  : Nat
  leaf  : DWord
  deriving DecidableEq, Repr

/-- A non-leaf entry a die's walk cache holds (R284): the level it was read at, the first address it covers, the entry. -/
structure WalkEntry where
  die   : Nat
  dom   : Nat
  space : Nat
  level : Nat
  va    : Nat
  entry : Nat
  deriving DecidableEq, Repr

/-- A launch (R22, R244 to R249). `code` and `stack` are its CODE and STACK entries; `fail` the first failure. -/
structure Launch where
  dom    : Nat
  space  : Nat
  die    : Nat
  record : List Byte
  khdr   : Nat
  htab   : Nat
  hcnt   : Nat
  codeH  : Nat
  stackH : Nat
  pri    : Nat
  gx     : Nat
  gy     : Nat
  gz     : Nat
  ovfn   : Nat
  arga   : Nat
  area   : Nat
  doneVa : Nat
  hdr    : KHeader
  vector : Option DWord
  code   : HEntry
  stack  : HEntry
  next   : Nat
  ringHead : Nat
  ringTail : Nat
  ringInfo : List (Nat × QTask)
  fail   : Option (Nat × Nat)
  killed : Bool
  order  : Nat
  deriving DecidableEq, Repr

/-- A loaded host work queue (R292, R293). `at_` is the address of its table entry. -/
structure HostQueue where
  dom   : Nat
  entry : Nat
  ring  : Nat
  tailA : Nat
  headA : Nat
  space : Nat
  log2n : Nat
  h     : Nat
  taken : Nat
  goal  : Nat
  running : Bool
  deriving DecidableEq, Repr

/-- What a remote request of this module is for (R204, R345, R347, R349, R354). An access names the lanes that share it and,
when they wait for its answer, the number of their outstanding access (R184). -/
inductive ReqKind where
  | access (slot : Nat) (lanes : List Nat) (window offset : Nat) (op : PeerOp) (answered : Option Nat)
  | delta (dom pos : Nat) (x : Delta)
  | flush (slot lane : Nat) (places : List (Nat × Nat))
  | marker (dom pos s0 : Nat)
  deriving DecidableEq, Repr

/-- A remote request of this module that is not acknowledged (R181, R207, R326); `sent` false while an earlier request
of the same lane to the same bytes holds it back; `seq` orders it with the fences of the module (R172, R174). -/
structure OutReq where
  target : Nat
  id     : Nat
  kind   : ReqKind
  plane  : Nat
  sends  : Nat
  sentAt : Nat
  sent   : Bool
  seq    : Nat
  deriving DecidableEq, Repr

/-- What the module has sent to its surroundings, newest last. A request carries its source module, its source domain and
the boot epoch (R295, R327). `stripeAsk` asks a rope's position for its line of a stripe (R349, R353), `restored` tells one
that position `from_` has been rebuilt (R375). -/
inductive Msg where
  | msix (win vector : Nat)
  | request (target id plane source sourceDom : Nat) (epoch : BitVec 16) (kind : ReqKind)
  | answer (target id reason : Nat) (value : DWord) (poison : Bool) (remaining : Nat) (prot : Bool)
  | deltaAck (target source seq : Nat)
  | flushAck (dom : Nat)
  | stripe (dom stripe to_ : Nat) (line : Line)
  | stripeAsk (target ropeId pos from_ stripe : Nat)
  | restored (target ropeId pos from_ : Nat)
  | snoopReply (line : Nat) (data : Line)
  | hostData (pa : Nat) (bytes : List Byte) (poison : Bool)
  | hostWriteBack (line : Nat) (data : Line)
  | atomicOp (op : Aop) (pa size : Nat) (data swap : DWord)
  deriving DecidableEq, Repr

/-- The answer a target keeps for a request it has performed (R327): identifier, status, value with its tag, remaining
ticks, and whether a protected page was written (R347). -/
structure PeerRecord where
  id        : Nat
  status    : Nat
  value     : DWord
  poison    : Bool
  remaining : Nat
  prot      : Bool
  deriving DecidableEq, Repr

/-- The locked read of a peer's atomic on host memory that the bridge splits (R202): its pieces, the size of its image, what
the read gave with its tag, and whether its page is protected. -/
structure PeerLock where
  at_    : List (Nat × Nat)
  esize  : Nat
  bytes  : List Byte
  poison : Bool
  prot   : Bool
  deriving DecidableEq, Repr

/-- A write that the T940 makes on its own behalf and a home slice holds back (R353): bytes, one more on a 2-byte counter, or
bits of a word of `n` bytes cleared and set. -/
inductive OwnWrite where
  | bytes (pa : Nat) (bs : List Byte)
  | count (pa : Nat)
  | bits (pa n clear set : Nat)
  deriving DecidableEq, Repr

/-- The answers a target keeps for one source module (R327). -/
structure PeerSource where
  epoch   : Nat
  records : List PeerRecord
  deriving DecidableEq, Repr

/-- A page in motion (R330 to R335). `lost` lists the lost chunks; `lossKind` 0 none, 7 destination, 8 source; `committed`
once its leaf names the destination and only the accesses numbered below it are waited for; `off` the channels that were OFFLINE
when it began. -/
structure Move where
  space    : Nat
  va       : Nat
  src      : Nat
  dst      : Nat
  size     : Nat
  leafPa   : Nat
  written  : List Nat
  lost     : List Nat
  lossKind : Nat
  committed : Option Nat
  off      : List Nat
  deriving DecidableEq, Repr

/-- One traverse-engine register set (R338) and its move: `cursor` is c, or r in RETURNING, `copied` the c that it has reached;
`walk` while a MOVE's leaf walk runs. -/
structure MigSet where
  va     : DWord
  dst    : DWord
  map    : DWord
  state  : Nat
  code   : Nat
  cursor : Nat
  copied : Nat
  walk   : Option Nat
  move   : Option Move
  abort  : Bool
  deriving DecidableEq, Repr

/-- A rope descriptor (R342). -/
structure RopeDesc where
  bytes   : List Byte
  k       : Nat
  m       : Nat
  self    : Nat
  ropeId  : Nat
  pvbase  : Nat
  plen    : Nat
  pspace  : Nat
  parbase : Nat
  logbase : Nat
  members : List (Nat × Nat)
  deriving DecidableEq, Repr

/-- The command of a rope member in progress (R351, R353); `walking` while a REPAIR's leaf walk waits on a fault. -/
inductive RopeBusy where
  | none
  | seeding
  | rebuilding
  | walking (va : Nat)
  | repairing (va frame : Nat)
  deriving DecidableEq, Repr

/-- A rope member's registers and private state (R345, R346, R350 to R354, R379): `seqs` is ROPE_SEQ by position,
`frames` the frame map by 64 KiB step, `logs` and `retired` by source, `acked` by holder, `early` deltas that wait for
their predecessor, `starts` the positions whose replacement is installed and the sequence each starts from, `mute` a
replacement that ended with too few positions. -/
structure Rope where
  arg     : DWord
  descPa  : DWord
  state   : Nat
  code    : Nat
  cur     : Nat
  lost    : BitVec 19
  seqs    : List (Nat × Nat)
  desc    : Option RopeDesc
  busy    : RopeBusy
  mute    : Bool
  frames  : List (Nat × Nat)
  logs    : List (Nat × List Delta)
  retired : List (Nat × Nat)
  acked   : List (Nat × Nat)
  early   : List Delta
  starts  : List (Nat × Nat)
  frozen  : List Nat
  deriving DecidableEq, Repr

/-- A drain or a resumption (R250, R254). -/
structure Drain where
  space  : Nat
  since  : Nat
  resume : Bool
  deriving DecidableEq, Repr

/-- What a save keeps of one group beside its area: its old slot (R254), its records in q14, its lanes' sleep, whose
monitors stay armed (R254), and the writes no survivable release has covered (R182; log 10). `stack` holds its lanes' link
stacks, each byte with its tag, once another group has taken the slot (R15, R254). -/
structure SavedGroup where
  slot    : Nat
  stack   : Option (List (List (Byte × Bool)))
  q14     : Chan
  sleeps  : List Sleep
  written : List Written
  peered  : List Peered
  deriving DecidableEq, Repr

/-- A saved team: where its area lies, its queue entries, its groups in sr.group order (R250, R252; log 10). -/
structure SavedTeam where
  dom    : Nat
  space  : Nat
  lid    : Nat
  area   : Nat
  chans  : List (Nat × Chan)
  groups : List SavedGroup
  deriving DecidableEq, Repr

/-- A hand-over to the host in progress (R291): the space and range, the moment of the last leaf update, the number before
which accesses are the device's own, and the device time their release must reach once they are performed (R180). -/
structure HandOver where
  space  : Nat
  lo     : Nat
  len    : Nat
  moment : Nat
  seq    : Nat
  until_ : Option Nat
  deriving DecidableEq, Repr

/-- One isolation domain: its configuration (R277) and the registers of its window (R356). `stopped` lists the address
spaces whose teams the distributors do not place, from a pre-emption to its resumption (R250). `invBusy` holds the space
and range of an invalidation in progress and the number before which accesses used the old entries, `ownBusy` a hand-over. -/
structure Domain where
  active  : Bool
  scrub   : Bool
  qfirst0 : Nat
  qcnt0   : Nat
  qfirst1 : Nat
  qcnt1   : Nat
  lports  : BitVec 16
  lweight : Nat
  hbm     : BitVec 8
  lpd     : BitVec 16
  cxlp    : BitVec 2
  cores   : BitVec 144
  astab   : Nat
  qtab    : Nat
  wintab  : Nat
  admtab  : Nat
  invAddr : DWord
  invLen  : DWord
  invErr  : Bool
  invBusy : Option (Nat × Nat × Nat × Nat)
  ownAddr : DWord
  ownLen  : DWord
  ownErr  : Bool
  ownBusy : Option HandOver
  qcErr   : Bool
  qcWait  : Option Word
  peerSync : Bool
  vecBase : DWord
  fbBase  : DWord
  fbDepth : BitVec 17
  fbHead  : Word
  fbTail  : Word
  dropCnt : BitVec 16
  dropped : Bool
  fbRaddr : DWord
  fbBusy  : Bool
  mig0    : MigSet
  mig1    : MigSet
  crnBase : DWord
  crnFirst : DWord
  crnCount : Word
  crnEpoch : BitVec 5
  crnOn   : Bool
  crnNext : Nat
  rope    : Rope
  saveBase : DWord
  saveLen : DWord
  drainLimit : Word
  preState : Nat
  preTeams : Nat
  drain   : Option Drain
  stopped : List Nat
  deriving DecidableEq, Repr

/-- One Seoft mailbox (R303). -/
structure Mailbox where
  buf  : DWord
  code : BitVec 16
  done : Bool
  deriving DecidableEq, Repr

/-- One memory channel (R325). -/
structure Channel where
  ue    : BitVec 16
  ce    : BitVec 12
  state : Nat
  deriving DecidableEq, Repr

/-- One CXL memory port: the capacities of its devices as enumerated at bring-up, in ascending device number (R280, R358),
up, the devices that have disappeared, and when it went down (R337). -/
structure CxlPort where
  sizes : List Nat
  up    : Bool
  gone  : List Nat
  downAt : Option Nat
  deriving DecidableEq, Repr

/-- What happens next, as plain data (log 2, 3): an event row, a number of ticks, an issue of one partition (with the
words a class already holds, or fetched afresh), the second word of a cycle (R230), a cache or translation structure giving up
what it holds, a speculative fill for a group at an offset of a handle (R168, R297), a lane's fetch ahead (R211), a correctable error of a channel (R312), or news from another member of a rope: the end of a repair (R349), or of a
rebuild (R375). -/
inductive Turn where
  | event (i : Instr)
  | elapse (ticks : Nat)
  | issue (core part : Nat) (held : Bool)
  | dropCopy (c : CacheId) (line : Nat)
  | dropConst (core line : Nat)
  | dropCode (core line : Nat)
  | dropHandle (core key : Nat)
  | dropLeaf (n : Nat)
  | dropWalk (n : Nat)
  | specFill (slot hx off lease : Nat)
  | prefetch (slot lane : Nat) (pc : DWord)
  | second (core part : Nat)
  | corrected (channel : Nat)
  | thaw (dom stripe : Nat)
  | rebuilt (dom pos : Nat)
  | ownWrite
  | portLink (port : Nat) (up : Bool)
  deriving DecidableEq, Repr

/-- The first word of the core cycle in which a partition issues: its group and its pipe (R230); `chained` when its class
stays inside a chain. -/
structure First where
  core    : Nat
  part    : Nat
  slot    : Nat
  pipe    : Pipe
  word    : Word
  chained : Bool
  deriving DecidableEq, Repr

/-- The word being issued: its group's slot, the class, its address, the word, the packet literal, and whether the class
stays inside a chain after it (log 2). -/
structure Issue where
  slot  : Nat
  lanes : List Nat
  pc    : DWord
  word  : Word
  lit   : Word
  chain : Bool
  deriving DecidableEq, Repr

/-- The state of the module. `time` is die 0's device time and die 1 reads `time + skew` (R7); `cycles` counts the cycles
of an unstretched core clock in eightieths (R8, sr.cycle). `posted` lists the messages that wait for the writes they
report to be visible: window, vector, device time (R357); `moveTurn` gives, by die, the domain whose move its traverse engine
serves next (R339); `hot` tells that the last reading stood at WARN or above (R362). -/
structure State where
  agenda   : List Turn
  free     : Nat
  seq      : Nat
  ix       : Issue
  first    : Option First
  time     : Nat
  skew     : Nat
  heard    : Heard
  cycles   : Nat
  stopped  : Bool
  epoch    : BitVec 16
  ready    : Bool
  bootFail : Bool
  point    : BitVec 3
  pwrBusy  : Bool
  tripped  : Bool
  droop    : Bool
  refused  : Bool
  idle     : Bool
  wantPoint : BitVec 3
  pwrCores : BitVec 192
  pwrLpd   : BitVec 16
  pwrHbm   : BitVec 8
  selfWant : BitVec 24
  selfRef  : BitVec 24
  watts    : Word
  warn     : Byte
  temp     : Byte
  hot      : Bool
  tripLog  : Bool
  lnkLock  : Bool
  device   : BitVec 10
  podM1    : BitVec 10
  planes   : BitVec 2
  uaUp     : BitVec 16
  cxl0     : CxlPort
  cxl1     : CxlPort
  channels : List (Nat × Channel)
  mgmtInt  : BitVec 8
  posted   : List (Nat × Nat × Nat)
  moveTurn : List (Nat × Nat)
  domInt   : List (Nat × BitVec 8)
  mailbox  : List (Nat × Mailbox)
  serial   : BitVec 128
  secret   : List Byte
  keyDigest : List Byte
  minSvn   : List Nat
  svn      : List Nat
  meas     : List (Nat × List Byte)
  dmeas    : List (Nat × List Byte)
  mem      : List Host.Cell
  memPoison : List (Nat × Bool)
  dirty    : List (Nat × Line)
  leases   : List (Nat × Nat × Nat)
  evicted  : List (Nat × Nat × Nat)
  rdc      : List (Nat × Copy)
  flight   : List HomeWrite
  acks     : List Ack
  fills    : List Fill
  tlb      : List TlbEntry
  walks    : List WalkEntry
  pending  : List FaultKey
  waits    : List FaultWait
  snoops   : List (Nat × Nat)
  noLock   : List (Nat × Nat)
  doms     : List (Nat × Domain)
  cores    : List (Nat × Core)
  launches : List (Nat × Launch)
  teams    : List (Nat × Team)
  groups   : List (Nat × Group)
  cmds     : List (Nat × Cmd)
  queues   : List (Nat × HostQueue)
  saved    : List SavedTeam
  remote   : List OutReq
  nextReq  : List (Nat × Nat)
  planeDown : List Nat
  sources  : List (Nat × PeerSource)
  peerWait : List (Nat × PeerReq)
  peerLocks : List (Nat × PeerLock)
  ownWrites : List OwnWrite
  outbox   : List Msg
  deriving DecidableEq, Repr

/-- Why the machine stops with a fault. -/
inductive Fault where
  /-- Raised by every row but the resets once a thermal trip has stopped the module (R362: it stops its clocks and its
  memory and takes down its links; nothing runs until the next reset). Safe: the module does nothing there. -/
  | moduleStopped
  deriving DecidableEq, Repr

/-- Why a step has no meaning in this model. -/
inductive Refusal where
  /-- Raised by an arm of `exec` whose instruction has no meaning yet. Safe: nothing is claimed of it. -/
  | notModelled (mnemonic : String)
  deriving DecidableEq, Repr

/-- A traverse-engine register set at reset (R338). -/
def MigSet.reset : MigSet :=
  { va := 0, dst := 0, map := 0, state := 0, code := 0, cursor := 0, copied := 0, walk := none, move := none, abort := false }

/-- The rope registers at reset (R350). -/
def Rope.reset : Rope :=
  { arg := 0, descPa := 0, state := 0, code := 0, cur := 0, lost := 0, seqs := [], desc := none, busy := .none, mute := false,
    frames := [], logs := [], retired := [], acked := [], early := [], starts := [], frozen := [] }

/-- A domain that is off: every window register at its reset value (R277, R356). -/
def Domain.off : Domain :=
  { active := false, scrub := false, qfirst0 := 0, qcnt0 := 0, qfirst1 := 0, qcnt1 := 0, lports := 0, lweight := 0,
    hbm := 0, lpd := 0, cxlp := 0, cores := 0, astab := 0, qtab := 0, wintab := 0, admtab := 0, invAddr := 0,
    invLen := 0, invErr := false, invBusy := none, ownAddr := 0, ownLen := 0, ownErr := false, ownBusy := none,
    qcErr := false, qcWait := none, peerSync := false, vecBase := 0, fbBase := 0, fbDepth := 0, fbHead := 0,
    fbTail := 0, dropCnt := 0, dropped := false, fbRaddr := 0, fbBusy := false, mig0 := MigSet.reset,
    mig1 := MigSet.reset, crnBase := 0, crnFirst := 0, crnCount := 0, crnEpoch := 0, crnOn := false, crnNext := 0,
    rope := Rope.reset, saveBase := 0, saveLen := 0, drainLimit := 0, preState := 0, preTeams := 0, drain := none, stopped := [] }

/-- Domain 0 after module reset holds every resource (R277). LWEIGHT 1 and the four table addresses 0 are the model's
choice (DESIGN CHOICE, log 12). -/
def Domain.whole : Domain :=
  { Domain.off with
    active := true, qfirst0 := 0, qcnt0 := 4096, qfirst1 := 4096, qcnt1 := 4096, lports := BitVec.allOnes 16,
    lweight := 1, hbm := BitVec.allOnes 8, lpd := BitVec.allOnes 16, cxlp := BitVec.allOnes 2,
    cores := BitVec.allOnes 144 }

/-- A CXL port with no device behind it (log 12). -/
def CxlPort.empty : CxlPort := { sizes := [], up := false, gone := [], downAt := none }

/-- The module right after reset (R363): device time 0, domain 0 holding every resource, clock point 3.6 GHz, no core
gated, no memory in self-refresh, READY set, nothing launched. Values the spec does not give are those of log 1, 2
and 12. -/
def State.reset : State :=
  { agenda := [], free := 0, seq := 0, ix := { slot := 0, lanes := [], pc := 0, word := 0, lit := 0, chain := false },
    first := none, time := 0, skew := 0, heard := Heard.none, cycles := 0, stopped := false, epoch := 0, ready := true, bootFail := false, point := 0, pwrBusy := false,
    tripped := false, droop := false, refused := false, idle := false, wantPoint := 0, pwrCores := 0, pwrLpd := 0,
    pwrHbm := 0, selfWant := 0, selfRef := 0, watts := 0, warn := 95, temp := 0, hot := false, tripLog := false, lnkLock := false,
    device := 0, podM1 := 0, planes := 0, uaUp := 0, cxl0 := CxlPort.empty, cxl1 := CxlPort.empty, channels := [],
    mgmtInt := 0, posted := [], moveTurn := [], domInt := [], mailbox := [], serial := 0, secret := List.replicate 64 0, keyDigest := List.replicate 64 0,
    minSvn := [0, 0, 0, 0], svn := [],
    meas := [], dmeas := [], mem := [], memPoison := [], dirty := [], leases := [], evicted := [], rdc := [],
    flight := [], acks := [], fills := [], tlb := [], walks := [], pending := [], waits := [], snoops := [], noLock := [],
    doms := [(0, Domain.whole)], cores := [], launches := [], teams := [], groups := [], cmds := [], queues := [],
    saved := [], remote := [], nextReq := [], planeDown := [], sources := [], peerWait := [], peerLocks := [], ownWrites := [], outbox := [] }

end Sys2Proof.Machine
end

