-- ==== Sys2Proof/Machine/Regs.lean ====
section
/-! DEFINITION. Accessors over the state: groups, lanes, registers, cores, teams, launches, domains, time, interrupts and
the agenda. Every read of a register, and every write, goes through one of these (R19 to R25). -/

namespace Sys2Proof.Machine

/-- A lane that holds nothing; read where no lane exists. -/
def Lane.blank : Lane :=
  { pc := 0, depth := 0, lsp := 0, v := [], exited := true, parked := false, run := 0, sleep := .awake, arrived := 0,
    chain := false, scAfter := 0, waited := [], fetched := [] }

/-- A lane at the start of its group (R25). -/
def Lane.start (entry : DWord) : Lane := { Lane.blank with pc := entry, exited := false }

/-- A queue that holds nothing. -/
def Chan.blank : Chan := { vector := false, words := 1, ofs := 0, head := 0, tags := [] }

/-- A group that holds nothing; read where no group is resident. -/
def Group.blank : Group :=
  { team := 0, index := 0, width := 0, nregs := 0, lanes := [], s := [], k := [], prio := 8, fflags := 0, horDie := 0,
    horDev := 0, horPod := 0, xcause := 0, xval := 0, xpc := 0, xlane := 0, xaddr := 0, ord := 0, failed := 0,
    nfailed := 0, q14 := Chan.blank, q14res := 0, deferred := [], storeQ := [], loads := [], arrSeq := [], written := [], peered := [],
    trapped := false, held := false, lastIssue := 0,
    resident := 0, ready := 0, boost := false }

/-- A kernel header that declares nothing. -/
def KHeader.blank : KHeader :=
  { width := 32, nregs := 8, ngrp := 1, tiles := 0, narg := 0, locB := 0, stackB := 0, entry := 0, crq := 0, chans := [] }

/-- A team that holds nothing; read where no team is resident. -/
def Team.blank : Team :=
  { lid := 0, x := 0, y := 0, z := 0, t := 0, core := 0, base := 0, len := 0, tiles := [], hdr := KHeader.blank,
    hdrVa := 0, task := none, gens := [], chans := [], slots := [], done := [], failed := false }

/-- A handle entry that is not VALID. -/
def HEntry.blank : HEntry := { bytes := [], poison := false }

/-- A launch that holds nothing; read where none is running. -/
def Launch.blank : Launch :=
  { dom := 0, space := 0, die := 0, record := [], khdr := 0, htab := 0, hcnt := 0, codeH := 0, stackH := 0, pri := 0,
    gx := 0, gy := 0, gz := 0, ovfn := 0, arga := 0, area := 0, doneVa := 0, hdr := KHeader.blank, vector := none,
    code := HEntry.blank, stack := HEntry.blank, next := 0, ringHead := 0, ringTail := 0, ringInfo := [],
    fail := none, killed := false, order := 0 }

/-- The group in a slot of R247. -/
def State.group (s : State) (slot : Nat) : Group := (mget? s.groups slot).getD Group.blank

/-- Change the group in a slot, if one is resident. -/
def State.modGroup (s : State) (slot : Nat) (f : Group → Group) : State := { s with groups := mupd s.groups slot f }

/-- The group that is issuing. -/
def State.cur (s : State) : Group := s.group s.ix.slot

/-- Change the group that is issuing. -/
def State.modCur (s : State) (f : Group → Group) : State := s.modGroup s.ix.slot f

/-- The team with a number. -/
def State.team (s : State) (n : Nat) : Team := (mget? s.teams n).getD Team.blank

/-- Change a team. -/
def State.modTeam (s : State) (n : Nat) (f : Team → Team) : State := { s with teams := mupd s.teams n f }

/-- The launch with a number. -/
def State.launch (s : State) (n : Nat) : Launch := (mget? s.launches n).getD Launch.blank

/-- Change a launch. -/
def State.modLaunch (s : State) (n : Nat) (f : Launch → Launch) : State := { s with launches := mupd s.launches n f }

/-- A core, by its number 72 x die + core; one that is not listed is clear. -/
def State.core (s : State) (c : Nat) : Core := (mget? s.cores c).getD Core.clear

/-- Change a core. -/
def State.modCore (s : State) (c : Nat) (f : Core → Core) : State :=
  { s with cores := mset s.cores c (f (s.core c)) }

/-- A domain; one that is not listed is off. -/
def State.dom (s : State) (d : Nat) : Domain := (mget? s.doms d).getD Domain.off

/-- Change a domain. -/
def State.modDom (s : State) (d : Nat) (f : Domain → Domain) : State :=
  { s with doms := mset s.doms d (f (s.dom d)) }

/-- Change an engine command. -/
def State.modCmd (s : State) (n : Nat) (f : Cmd → Cmd) : State := { s with cmds := mupd s.cmds n f }

/-- The core of a slot (R247). -/
def coreOfSlot (slot : Nat) : Nat := slot / Config.slotsPerCore

/-- The die of a core. -/
def dieOfCore (core : Nat) : Nat := core / Config.coresPerDie

/-- The die of a slot. -/
def dieOfSlot (slot : Nat) : Nat := dieOfCore (coreOfSlot slot)

/-- The partition of a slot on its core (R247). -/
def partOfSlot (slot : Nat) : Nat := slot % Config.slotsPerCore / Config.slotsPerPartition

/-- Device time as a die reads it (R7). Die 1 may read ahead, by a skew that never changes (DESIGN CHOICE, log 12). -/
def State.dieTime (s : State) (die : Nat) : Nat := if die = 1 then s.time + s.skew else s.time

/-- Tenths of a core cycle per tick at a clock point (R360, R364). -/
def pointRate (p : BitVec 3) : Nat :=
  match p.toNat with
  | 0 => 36 | 1 => 32 | 2 => 28 | 3 => 20 | _ => 12

/-- Messages whose writes have become visible on both dies leave (R357). -/
def State.sendPosted (s : State) : State :=
  if s.posted.isEmpty then s
  else
    let due (p : Nat × Nat × Nat) : Bool := decide (p.2.2 < min (s.dieTime 0) (s.dieTime 1))
    { s with posted := s.posted.filter (fun p => !due p), outbox := s.outbox ++ (s.posted.filter due).map (fun p => .msix p.1 p.2.1) }

/-- Ticks pass: device time, and the core clocks at their clock point unless the module is idle (R7, R8, R360, R361);
the power of each millisecond stands after it (R364; log 73). -/
def State.tick (s : State) (n : Nat) : State :=
  let rate := if s.idle then 0 else pointRate s.point
  ({ s with
    first := none
    time := s.time + n
    watts := if (s.time + n) / 1000000 = s.time / 1000000 then s.watts else Config.watts (s.time + n)
    cycles := s.cycles + 8 * n * rate
    cores := s.cores.map (fun e => (e.1, { e.2 with behind := e.2.behind + n * rate * e.2.stretch })) } : State).sendPosted

/-- The cycle count of a core since module reset (R271, R272). -/
def State.cycleOf (s : State) (c : Nat) : Nat := (s.cycles - (s.core c).behind) / 80

/-- The lane with a number. -/
def Group.lane (g : Group) (l : Nat) : Lane := g.lanes.getD l Lane.blank

/-- Change the lanes of a class. -/
def Group.modLanes (g : Group) (ls : List Nat) (f : Nat → Lane → Lane) : Group :=
  { g with lanes := g.lanes.mapIdx (fun i x => if ls.contains i then f i x else x) }

/-- A vector register word of a lane (R19). -/
def Lane.vget (l : Lane) (r : Nat) : Reg := sget Reg.zero l.v r

/-- Write a vector register word of a lane. -/
def Lane.vset (l : Lane) (r : Nat) (x : Reg) : Lane := { l with v := sset Reg.zero l.v r x }

/-- A uniform register word (R20). -/
def Group.sget (g : Group) (r : Nat) : Reg := Machine.sget Reg.zero g.s r

/-- Write a uniform register word. -/
def Group.sset (g : Group) (r : Nat) (x : Reg) : Group := { g with s := Machine.sset Reg.zero g.s r x }

/-- A completion counter (R20). -/
def Group.kget (g : Group) (n : Nat) : Nat := Machine.sget 0 g.k n

/-- Write a completion counter. -/
def Group.kset (g : Group) (n x : Nat) : Group := { g with k := Machine.sset 0 g.k n x }

/-- All eight counters read 0 (R243, R250). -/
def Group.kZero (g : Group) : Bool := (range 0 8).all (fun n => g.kget n == 0)

/-- A reg without poison. -/
def Reg.of (w : Word) : Reg := { bits := w, poison := false }

/-- The two words of a pair, low first (R39). -/
def pairWords (x : DWord) (p : Bool) : List Reg :=
  [{ bits := x.extractLsb' 0 32, poison := p }, { bits := x.extractLsb' 32 32, poison := p }]

/-- The value of one, two or more words, lowest first, as 64 bits. -/
def wordsVal : List Reg → DWord
  | [] => 0
  | [a] => a.bits.setWidth 64
  | a :: b :: _ => b.bits ++ a.bits

/-- Some word is poisoned (R82). -/
def anyPoison (l : List Reg) : Bool := l.any (fun r => r.poison)

/-- OR flags into sr.fflags of the issuing group (R81). -/
def State.orFlags (s : State) (f : BitVec 5) : State := s.modCur (fun g => { g with fflags := g.fflags ||| f })

/-- A function's message, now or once device time has passed a write-visible time on both dies (R357). -/
def State.message (s : State) (win vector need : Nat) : State :=
  if need < min (s.dieTime 0) (s.dieTime 1) ∨ need = 0 then { s with outbox := s.outbox ++ [.msix win vector] }
  else { s with posted := s.posted ++ [(win, vector, need)] }

/-- Set an interrupt bit and send its message, unless the bit is already set (R357); the message follows the writes that
report its event, visible at `need`. Window 0 is the management function, window 1 + d domain d. -/
def State.interruptAfter (s : State) (win vector need : Nat) : State :=
  if win = 0 then
    if s.mgmtInt.getLsbD vector then s else ({ s with mgmtInt := s.mgmtInt ||| BitVec.twoPow 8 vector } : State).message 0 vector need
  else
    let b := sget 0 s.domInt (win - 1)
    if b.getLsbD vector then s else ({ s with domInt := mset s.domInt (win - 1) (b ||| BitVec.twoPow 8 vector) } : State).message win vector need

/-- An interrupt whose event no write reports (R357). -/
def State.interrupt (s : State) (win vector : Nat) : State := s.interruptAfter win vector 0

/-- A fresh number of the model's own. -/
def State.fresh (s : State) : Nat × State := (s.seq, { s with seq := s.seq + 1 })

/-- The domain and address space a group runs in. -/
def State.groupDom (s : State) (g : Group) : Nat := (s.launch (s.team g.team).lid).dom

/-- The address space a group runs in. -/
def State.groupSpace (s : State) (g : Group) : Nat := (s.launch (s.team g.team).lid).space

end Sys2Proof.Machine
end

