-- ==== Sys2Proof/Machine/Mem.lean ====
section
/-! DEFINITION. Physical memory, its poison tags and its homes (R10, R11, R280, R312 to R315, R324, R330), the lease
records of the home slices (R168, R170), and local memory. A byte nothing has written reads 0 (log 1). -/

namespace Sys2Proof.Machine

/-- The sectors a list of byte ranges touches. -/
def sectorsOf (spans : List (Nat × Nat)) : List Nat :=
  nub (spans.flatMap (fun p => range (p.1 / 32) ((p.1 + p.2 - 1) / 32 + 1 - p.1 / 32)))

/-- The lines a list of byte ranges touches. -/
def linesOf (spans : List (Nat × Nat)) : List Nat := nub ((sectorsOf spans).map (fun k => k / 4))

/-- Two byte ranges share a byte. -/
def overlap (a b : Nat × Nat) : Bool := decide (a.1 < b.1 + b.2) && decide (b.1 < a.1 + a.2)

/-- Two lists of byte ranges share a byte. -/
def spansMeet (a b : List (Nat × Nat)) : Bool := a.any (fun p => b.any (overlap p))

/-- Where host memory begins among the physical addresses (R280). -/
def hostBase : Nat := 0x0008000000000000

/-- An address of host memory (R280). -/
def isHost (pa : Nat) : Bool := decide (hostBase ≤ pa) && decide (pa < 2 * hostBase)

/-- The HBM stack of an address, if it lies in one (R280). -/
def hbmOf (pa : Nat) : Option Nat := if pa < 8 * 0x1000000000 then some (pa / 0x1000000000) else none

/-- The LPDDR-6 package of an address, if it lies in one (R280). -/
def lpdOf (pa : Nat) : Option Nat :=
  if 0x10000000000 ≤ pa ∧ pa < 0x10000000000 + 16 * 0x1000000000 then some ((pa - 0x10000000000) / 0x1000000000) else none

/-- The CXL port of an address, if it lies in one's range (R280). -/
def cxlOf (pa : Nat) : Option Nat :=
  if 0x100000000000 ≤ pa ∧ pa < 0x140000000000 then some 0
  else if 0x140000000000 ≤ pa ∧ pa < 0x180000000000 then some 1 else none

/-- A CXL port's record. -/
def State.cxl (s : State) (p : Nat) : CxlPort := if p = 0 then s.cxl0 else s.cxl1

/-- Change a CXL port's record. -/
def State.modCxl (s : State) (p : Nat) (f : CxlPort → CxlPort) : State :=
  if p = 0 then { s with cxl0 := f s.cxl0 } else { s with cxl1 := f s.cxl1 }

/-- The first address of a CXL port (R280). -/
def cxlBase (p : Nat) : Nat := if p = 0 then 0x100000000000 else 0x140000000000

/-- The capacity that is mapped behind a port: at most 4 TiB (R358). -/
def CxlPort.bytes (c : CxlPort) : Nat := min (c.sizes.foldl (· + ·) 0) 0x40000000000

/-- The device behind a port that holds an offset: they follow one another in ascending number (R358). -/
def deviceAt : List Nat → Nat → Nat → Nat
  | [], n, _ => n
  | z :: t, n, off => if off < z then n else deviceAt t (n + 1) (off - z)

/-- An offset behind a port whose device has disappeared (R280). -/
def CxlPort.goneAt (c : CxlPort) (off : Nat) : Bool := c.gone.contains (deviceAt c.sizes 0 off)

/-- An address that exists: a stack, a package, an expander's enumerated capacity or host memory (R280). -/
def State.assigned (s : State) (pa : Nat) : Bool :=
  (hbmOf pa).isSome || (lpdOf pa).isSome || isHost pa ||
    (match cxlOf pa with
    | some p => decide (pa - cxlBase p < (s.cxl p).bytes)
    | none => false)

/-- Device memory a domain holds (R276). -/
def State.domHolds (s : State) (d pa : Nat) : Bool :=
  let x := s.dom d
  match hbmOf pa, lpdOf pa, cxlOf pa with
  | some i, _, _ => x.hbm.getLsbD i
  | _, some i, _ => x.lpd.getLsbD i
  | _, _, some p => x.cxlp.getLsbD p && s.assigned pa
  | _, _, _ => false

/-- A whole range of device memory a domain holds; ranges of tables and pages lie within one granule or start and end
in ones the domain holds. -/
def State.domHoldsRange (s : State) (d lo len : Nat) : Bool :=
  s.domHolds d lo && s.domHolds d (lo + len - 1)

/-- The home die of a physical line (R11). -/
def homeDie (pa : Nat) : Nat :=
  match hbmOf pa, lpdOf pa, cxlOf pa with
  | some i, _, _ => i / 4
  | _, some i, _ => i / 8
  | _, _, some p => p
  | _, _, _ => 0

/-- The memory channel of an address, as R325 numbers them; none for expanders and the host. -/
def channelOf (pa : Nat) : Option Nat :=
  match hbmOf pa, lpdOf pa with
  | some i, _ => some (32 * i + Config.channelHash pa % 32)
  | _, some i => some (256 + 4 * i + Config.channelHash pa % 4)
  | _, _ => none

/-- A channel's record; one that is not listed is FULL with no errors (R325). -/
def State.channel (s : State) (n : Nat) : Channel := (mget? s.channels n).getD { ue := 0, ce := 0, state := 0 }

/-- An address at the location of a move that is lost (R337). -/
def MigSet.lostAt (m : MigSet) (pa : Nat) : Bool :=
  match m.move with
  | none => false
  | some x => x.committed.isNone && ((x.lossKind == 7 && decide (x.dst ≤ pa) && decide (pa < x.dst + x.size)) ||
      (x.lossKind == 8 && decide (x.src ≤ pa) && decide (pa < x.src + x.size)))

/-- An address whose reads return poison and whose writes leave it: an OFFLINE channel, an expander that has gone, or the
lost location of a move (R280, R324, R337; log 72). -/
def State.offline (s : State) (pa : Nat) : Bool :=
  s.channels.any (fun e => e.2.state == 2 && channelOf pa == some e.1) ||
    s.doms.any (fun e => e.2.mig0.lostAt pa || e.2.mig1.lostAt pa) ||
    (match cxlOf pa with
    | some p => (s.cxl p).goneAt (pa - cxlBase p)
    | none => false)

/-- The line of a byte address. -/
def lineOf (pa : Nat) : Nat := pa / 128

/-- The two register sets of a domain's traverse engines (R338). -/
def Domain.mig (d : Domain) (die : Nat) : MigSet := if die = 0 then d.mig0 else d.mig1

/-- Change a traverse-engine register set. -/
def State.modMig (s : State) (dom die : Nat) (f : MigSet → MigSet) : State :=
  s.modDom dom (fun d => if die = 0 then { d with mig0 := f d.mig0 } else { d with mig1 := f d.mig1 })

/-- A chunk of a moving page lies at the destination (R330): those below the cursor, and every chunk while the move
commits. -/
def MigSet.atDst (m : MigSet) (j : Nat) : Bool := m.state == 2 || decide (j < m.cursor)

/-- Where the byte of a moving page with a source address is reached now (R330). With the destination lost, a chunk that has
not been written there is read at the source, which holds the same bytes (R332, R333; log 72). -/
def MigSet.locate (m : MigSet) (pa : Nat) : Option Nat :=
  match m.move with
  | none => none
  | some x =>
    let j := (pa - x.src) / 4096
    if x.committed.isSome ∨ pa < x.src ∨ x.src + x.size ≤ pa then none
    else if m.atDst j && (x.lossKind != 7 || x.written.contains j) then some (x.dst + (pa - x.src)) else some pa

/-- Where an access with a source address goes between the commit of its page and the end of the invalidation: to the new home
(R335, R336). -/
def MigSet.forwards (m : MigSet) (pa : Nat) : Option Nat :=
  match m.move with
  | none => none
  | some x => if x.committed.isNone ∨ pa < x.src ∨ x.src + x.size ≤ pa then none else some (x.dst + (pa - x.src))

/-- The address at which the home slices perform an access (R335). -/
def State.forwarded (s : State) (pa : Nat) : Nat :=
  (s.doms.findSome? (fun e => (e.2.mig0.forwards pa).or (e.2.mig1.forwards pa))).getD pa

/-- Where the home reaches a byte: its own address, or a moving page's current location (R329, R330). -/
def State.locate (s : State) (pa : Nat) : Nat :=
  (s.doms.findSome? (fun e => (e.2.mig0.locate pa).or (e.2.mig1.locate pa))).getD pa

/-- The source address of a byte that lies at a moving page's destination now (R329, R330). -/
def MigSet.source (m : MigSet) (pa : Nat) : Option Nat :=
  match m.move with
  | none => none
  | some x =>
    let j := (pa - x.dst) / 4096
    if x.committed.isSome ∨ pa < x.dst ∨ x.dst + x.size ≤ pa then none
    else if m.atDst j && (x.lossKind != 7 || x.written.contains j) then some (x.src + (pa - x.dst)) else none

/-- The address under which the home knows a byte of memory (R329). -/
def State.homeOf (s : State) (pa : Nat) : Nat :=
  (s.doms.findSome? (fun e => (e.2.mig0.source pa).or (e.2.mig1.source pa))).getD pa

/-- A byte of memory at its own address. -/
def State.rawByte (s : State) (pa : Nat) : Byte := sget 0 s.mem pa

/-- A byte as its home serves it (R161, R330). -/
def State.byte (s : State) (pa : Nat) : Byte := s.rawByte (s.locate pa)

/-- `n` bytes as their home serves them. -/
def State.bytesAt (s : State) (pa n : Nat) : List Byte := (range pa n).map s.byte

/-- A little-endian number of `n` bytes. -/
def State.natAt (s : State) (pa n : Nat) : Nat := leNat (s.bytesAt pa n)

/-- The tag of the sector of an address at its own place (R312, R324). -/
def State.rawPoison (s : State) (pa : Nat) : Bool := sget false s.memPoison (pa / 32) || s.offline pa

/-- The tag of the sector that holds a byte, as its home serves it. -/
def State.poisonAt (s : State) (pa : Nat) : Bool := s.rawPoison (s.locate pa)

/-- Some sector of a range carries poison. -/
def State.poisonIn (s : State) (pa n : Nat) : Bool :=
  (range (pa / 32) ((pa + n - 1) / 32 + 1 - pa / 32)).any (fun k => s.poisonAt (32 * k))

/-- A line as its home serves it. -/
def State.line (s : State) (n : Nat) : Line :=
  { bytes := s.bytesAt (128 * n) 128, poison := (range 0 4).map (fun k => s.poisonAt (128 * n + 32 * k)) }

/-- A line at its own place, tags as stored. -/
def State.rawLine (s : State) (n : Nat) : Line :=
  { bytes := (range (128 * n) 128).map s.rawByte, poison := (range (4 * n) 4).map (fun k => sget false s.memPoison k) }

/-- Write bytes at their own place. -/
def putBytes : List Host.Cell → Nat → List Byte → List Host.Cell
  | m, _, [] => m
  | m, pa, b :: t => putBytes (sset 0 m pa b) (pa + 1) t

/-- Set or clear the tag of one sector. -/
def State.setPoison (s : State) (sector : Nat) (p : Bool) : State :=
  { s with memPoison := sset false s.memPoison sector p }

/-- Keep the content a line has in DRAM, unless the line is dirty already (R345). -/
def State.markDirty (s : State) (pa : Nat) : State :=
  let n := lineOf pa
  if (mget? s.dirty n).isSome then s else { s with dirty := mset s.dirty n (s.rawLine n) }

/-- Note a write in the written-since-copy bits of the moves whose page it reaches at the destination (R332). -/
def MigSet.noteWrite (m : MigSet) (pa : Nat) : MigSet :=
  match m.move with
  | none => m
  | some x =>
    let j := (pa - x.src) / 4096
    if x.committed.isSome ∨ pa < x.src ∨ x.src + x.size ≤ pa ∨ m.state = 0 ∨ !m.atDst j ∨ x.written.contains j then m
    else { m with move := some { x with written := x.written ++ [j] } }

/-- Note a home write for every move (R332). -/
def State.noteWrite (s : State) (pa : Nat) : State :=
  if s.doms.all (fun e => e.2.mig0.move.isNone && e.2.mig1.move.isNone) then s
  else { s with doms := s.doms.map (fun e => (e.1, { e.2 with mig0 := e.2.mig0.noteWrite pa, mig1 := e.2.mig1.noteWrite pa })) }

/-- The bytes of a write that lie in one line each, with their addresses. -/
def linePieces : Nat → Nat → List Byte → List (Nat × List Byte)
  | 0, _, _ => []
  | fuel + 1, pa, bs =>
    if bs.isEmpty then []
    else
      let k := 128 - pa % 128
      (pa, bs.take k) :: linePieces fuel (pa + k) (bs.drop k)

/-- The device that holds an address, as SELFREF numbers them (R360). -/
def deviceOf (pa : Nat) : Option Nat :=
  match hbmOf pa, lpdOf pa with
  | some i, _ => some i
  | _, some i => some (8 + i)
  | _, _ => none

/-- An access wakes its device (R360). -/
def State.wake (s : State) (pa : Nat) : State :=
  match deviceOf pa with
  | some i => if s.selfRef.getLsbD i then { s with selfRef := s.selfRef &&& ~~~(BitVec.twoPow 24 i) } else s
  | none => s

/-- A write at the home has reached the replica of a line with every write before it (R179): none holds the line back there. -/
def HomeWrite.caughtUp (w : HomeWrite) (line : Nat) : HomeWrite :=
  match w.stage with
  | .replicating old => { w with stage := .replicating (old.filter (fun e => e.1 != line)) }
  | _ => w

/-- Bytes of one line written at their home: the content changes, the line becomes dirty, a written-since-copy bit is
set, its device wakes (R360), and a replica follows (R179). -/
def State.writePiece (s : State) (pa : Nat) (bs : List Byte) : State :=
  let s := s.noteWrite pa
  let at_ := s.locate pa
  { s.markDirty at_ with
    mem := putBytes s.mem at_ bs
    selfRef := (s.wake at_).selfRef
    flight := s.flight.map (fun w => w.caughtUp (lineOf pa)) }

/-- Bytes written at their home (R161), line by line. Tags are the caller's. -/
def State.writeHome (s : State) (pa : Nat) (bs : List Byte) : State :=
  (linePieces (bs.length / 128 + 2) pa bs).foldl (fun acc p => acc.writePiece p.1 p.2) s

/-- A write that covers whole sectors clears their tags, any write to an OFFLINE place leaves them set (R315, R324). -/
def State.settlePoison (s : State) (sector : Nat) (covered : Bool) : State :=
  let p := s.locate (32 * sector) / 32
  if s.offline (32 * p) then s.setPoison p true else if covered then s.setPoison p false else s

/-- Bytes written by the T940 on its own behalf: the tags of their sectors stay (R315). -/
def State.writeClean (s : State) (pa : Nat) (bs : List Byte) : State :=
  if bs.isEmpty then s
  else (sectorsOf [(pa, bs.length)]).foldl (fun acc k => acc.settlePoison k false) (s.writeHome pa bs)

/-- Mark the sectors of a range poisoned (R280, R337, R353). -/
def State.poisonRange (s : State) (pa n : Nat) : State :=
  (range (pa / 32) ((pa + n - 1) / 32 + 1 - pa / 32)).foldl (fun acc k => acc.setPoison (s.locate (32 * k) / 32) true) s

/-- The home slice of a line: its die and the hash of R11. -/
def sliceOf (line : Nat) : Nat := 80 * homeDie (128 * line) + Config.sliceHash line % 80

/-- The latest lease ends of a line granted to die 0 and die 1 (R168): its record, or its slice's eviction times. -/
def State.leaseOf (s : State) (line : Nat) : Nat × Nat :=
  match mget? s.leases line with
  | some r => r
  | none => if s.evicted.isEmpty then (0, 0) else (mget? s.evicted (sliceOf line)).getD (0, 0)

/-- Grant a lease on a line to a die (R168). -/
def State.grantLease (s : State) (line die ends : Nat) : State :=
  let (a, b) := s.leaseOf line
  { s with leases := mset s.leases line (if die = 0 then (max a ends, b) else (a, max b ends)) }

/-- The write-visible times of a write to a line performed now for a core of die d (R170). -/
def State.wvt (s : State) (line d : Nat) : Nat × Nat :=
  let now := s.dieTime (homeDie (128 * line))
  let (a, b) := s.leaseOf line
  (max now (if d = 0 then a else b) + Config.skewGuard, max now (max a b) + Config.skewGuard)

/-- The device time past which every party sees the writes performed so far in some ranges (R170, R172). -/
def State.visibleAll (s : State) (spans : List (Nat × Nat)) : Nat := (linesOf spans).foldl (fun n l => max n (s.wvt l 0).2) 0

/-- A byte of a core's local memory. -/
def State.locByte (s : State) (core off : Nat) : Byte := sget 0 (s.core core).loc off

/-- `n` bytes of local memory. -/
def State.locBytes (s : State) (core off n : Nat) : List Byte :=
  let c := s.core core
  (range off n).map (fun k => sget 0 c.loc k)

/-- Some sector of a range of local memory carries poison. -/
def State.locPoisonIn (s : State) (core off n : Nat) : Bool :=
  let c := s.core core
  (range (off / 32) ((off + n - 1) / 32 + 1 - off / 32)).any (fun k => sget false c.locPoison k)

/-- Write bytes of local memory; sectors in `covered` lose their tags (R166, R315). -/
def State.writeLoc (s : State) (core off : Nat) (bs : List Byte) : State :=
  s.modCore core (fun c => { c with loc := putBytes c.loc off bs })

/-- Set or clear the tag of a sector of local memory. -/
def State.setLocPoison (s : State) (core sector : Nat) (p : Bool) : State :=
  s.modCore core (fun c => { c with locPoison := sset false c.locPoison sector p })

/-- The canonical form of physical memory: addresses rise strictly and no entry is the byte an unlisted address reads
as (log 1). -/
def Memory.wf (m : List Host.Cell) : Bool := canonical 0 m

end Sys2Proof.Machine
end

