-- ==== Sys2Proof/Machine/Operands.lean ====
section
/-! DEFINITION. Operands: every form of R38 to R45 and R89 to R91. Reading and writing registers, pairs, quads, queue
ports, the literal and nul; the uniform rule (R40), the checks OPERAND and QUEUE (R53, R54), and queue service (R41). -/

namespace Sys2Proof.Machine

/-- What an operand position holds (R44): a 32-bit word, a 64-bit integer pair, an FP64 pair, a packed F16 or BF16
word, four words. -/
inductive Pos where
  | word | pair | dbl | half | bhalf | quad
  deriving DecidableEq, Repr

/-- Words of a position (R39, R193). -/
def Pos.words : Pos → Nat
  | .word => 1
  | .pair => 2
  | .dbl => 2
  | .half => 1
  | .bhalf => 1
  | .quad => 4

/-- The literal read as FP32, as a value of a wider or narrower format; a NaN keeps its kind (R44). -/
def litFloat (lit : Word) (f : Fmt) (snan : Nat) : Nat :=
  match Fmt.f32.decode lit.toNat with
  | .nan true => snan
  | v => (toFmt f .ne v).1

/-- The words the literal gives a position (R44). -/
def litWords (lit : Word) : Pos → List Reg
  | .word => [Reg.of lit]
  | .pair => pairWords (lit.signExtend 64) false
  | .dbl => pairWords (BitVec.ofNat 64 (litFloat lit Fmt.f64 0x7FF4000000000000)) false
  | .half =>
    let h := BitVec.ofNat 16 (litFloat lit Fmt.f16 0x7D00)
    [Reg.of (h ++ h)]
  | .bhalf =>
    let h := BitVec.ofNat 16 (litFloat lit Fmt.bf16 0x7FA0)
    [Reg.of (h ++ h)]
  | .quad => [Reg.of lit]

/-- The channel of a port of a team, if it is bound (R41, R60). -/
def Team.chan? (t : Team) (port : Nat) : Option Chan := mget? t.chans port

/-- A source is a vector operand: a vector register or a vector channel (R40). -/
def srcIsVec (t : Team) : Src → Bool
  | .v _ => true
  | .q n => match t.chan? n.val with
    | some c => n.val != 14 && c.vector
    | none => false
  | _ => false

/-- A destination is a vector operand (R40). -/
def dstIsVec (t : Team) : Dst → Bool
  | .v _ => true
  | .q n => match t.chan? n.val with
    | some c => n.val != 14 && c.vector
    | none => false
  | _ => false

/-- A destination is a uniform register or channel (R40). -/
def dstIsUni (t : Team) : Dst → Bool
  | .s _ => true
  | .q n => match t.chan? n.val with
    | some c => n.val != 14 && !c.vector
    | none => false
  | _ => false

/-- D read as a source by the instructions of R43. -/
def dstSrc : Dst → Src
  | .v n => .v n
  | .q n => .q n
  | .nul => .lit
  | .s n => .s n

/-- A source register lies within the registers the kernel header declares, its high words too (R42). -/
def srcDeclared (nregs : Nat) (x : Src) (words : Nat) : Bool :=
  match x with
  | .v n => decide (n.val + words ≤ nregs)
  | _ => true

/-- A destination register lies within the registers the kernel header declares (R42). -/
def dstDeclared (nregs : Nat) (x : Dst) (words : Nat) : Bool :=
  match x with
  | .v n => decide (n.val + words ≤ nregs)
  | _ => true

/-- A source port is bound (R41). -/
def srcBound (t : Team) : Src → Bool
  | .q n => n.val == 14 || (t.chan? n.val).isSome
  | _ => true

/-- A destination port is bound (R41). -/
def dstBound (t : Team) : Dst → Bool
  | .q n => n.val == 14 || (t.chan? n.val).isSome
  | _ => true

/-- The operands of an instruction: sources in the order A, B, D of R41 with their positions, the destination with its
words, the sources that must be uniform when the destination is (R40, R92), and whether a uniform destination is
refused whatever the sources (R92, R270). -/
structure Uses where
  srcs    : List (Src × Pos)
  dst     : Dst
  words   : Nat
  uniform : List Src
  noUni   : Bool
  deriving DecidableEq, Repr

/-- The decode causes of an instruction's operands: OPERAND (0x02) before QUEUE (0x0D) (R53, R54); none when it may
run. -/
def Uses.refused (u : Uses) (t : Team) (nregs : Nat) : Option Nat :=
  let uni := dstIsUni t u.dst
  let operand := u.dst == .q 14 || (uni && (u.noUni || u.uniform.any (srcIsVec t))) ||
    !dstDeclared nregs u.dst u.words || u.srcs.any (fun x => !srcDeclared nregs x.1 x.2.words)
  if operand then some 0x02
  else if !(dstBound t u.dst) || u.srcs.any (fun x => !srcBound t x.1) then some 0x0D
  else none

/-- The ports the sources pop, with the entries each needs, in field order (R41). -/
def Uses.pops (u : Uses) : List (Nat × Nat) :=
  u.srcs.filterMap (fun x => match x.1 with
    | .q n => some (n.val, x.2.words)
    | _ => none)

/-- The port the destination pushes, with its entries. -/
def Uses.push (u : Uses) : Option (Nat × Nat) :=
  match u.dst with
  | .q n => some (n.val, u.words)
  | _ => none

/-- The channel behind a port: one of the team's, or the group's q14 (R20, R21). -/
def portOf (g : Group) (t : Team) (port : Nat) : Option Chan := if port = 14 then some g.q14 else t.chan? port

/-- The entries a queue holds. -/
def Chan.count (c : Chan) : Nat := c.tags.length

/-- Entries a port holds. -/
def portHolds (g : Group) (t : Team) (port : Nat) : Nat := ((portOf g t port).map Chan.count).getD 0

/-- Where a queue's entry lies in local memory, counted from the oldest: its ring has 16 places (R60). -/
def Chan.place (c : Chan) (base i : Nat) : Nat := base + c.ofs + 4 * c.words * ((c.head + i) % 16)

/-- A queue without its `n` oldest entries. -/
def Chan.drop (c : Chan) (n : Nat) : Chan := { c with head := (c.head + n) % 16, tags := c.tags.drop n }

/-- A queued entry as local memory holds it, each word poisoned by its own tag or its sector's (R41, R61, R312). -/
def State.entryAt (s : State) (core base : Nat) (c : Chan) (i : Nat) : List Reg :=
  (range 0 c.words).map (fun k =>
    let at_ := c.place base i + 4 * k
    { bits := BitVec.ofNat 32 (leNat (s.locBytes core at_ 4)), poison := (c.tags.getD i []).getD k false || s.locPoisonIn core at_ 4 })

/-- The oldest `n` entries of a queue. -/
def State.entriesOf (s : State) (core base : Nat) (c : Chan) (n : Nat) : List (List Reg) :=
  (range 0 (min n c.count)).map (s.entryAt core base c)

/-- Change the channel behind a port of a group. -/
def State.setPort (s : State) (slot port : Nat) (c : Chan) : State :=
  if port = 14 then s.modGroup slot (fun g => { g with q14 := c })
  else s.modTeam (s.group slot).team (fun t => { t with chans := mset t.chans port c })

/-- Entries a list of pops takes from a port. -/
def popsOf (pops : List (Nat × Nat)) (port : Nat) : Nat :=
  (pops.filter (fun p => p.1 == port)).foldl (fun n p => n + p.2) 0

/-- What the WAITCs of some lanes took from queue ports, once for each arming (R41, R212). -/
def Group.watchPops (g : Group) (ls : List Nat) : List (Nat × List (List Reg)) :=
  (nub (ls.filterMap (fun l => match (g.lane l).sleep with
    | .waitc w => some (w.token, w.popped)
    | _ => none))).flatMap (fun e => e.2)

/-- Entries of a port in what instructions have taken. -/
def poppedCount (es : List (Nat × List (List Reg))) (port : Nat) : Nat :=
  (es.filter (fun e => e.1 == port)).foldl (fun n e => n + e.2.length) 0

/-- The entries of a port that a group's instructions in course have taken and give back if they trap (R41): its outstanding
accesses, its lanes asleep at a WAITC. -/
def Group.owes (g : Group) (port : Nat) : Nat :=
  poppedCount (g.loads.flatMap (fun e => e.2.popped) ++ g.watchPops (range 0 g.lanes.length)) port

/-- The places of a port that are kept for entries that may come back (R41): of every group of the team, or of the group itself
for its q14. -/
def State.owed (s : State) (g : Group) (port : Nat) : Nat :=
  if port = 14 then g.owes 14
  else (s.groups.filter (fun e => e.2.team == g.team)).foldl (fun n e => n + e.2.owes port) 0

/-- The first port that cannot serve the instruction now: too few entries to pop, or no room to push once the
instruction's own pops are made, beside the places `owed` to entries that may come back (R41). -/
def blockedPort (g : Group) (t : Team) (owed : Nat → Nat) (pops : List (Nat × Nat)) (push : Option (Nat × Nat)) : Option Nat :=
  match pops.find? (fun p => decide (portHolds g t p.1 < popsOf pops p.1)) with
  | some p => some p.1
  | none => match push with
    | none => none
    | some (port, n) => if portHolds g t port - popsOf pops port + n + owed port ≤ 16 then none else some port

/-- What a source gives: a register, the literal, or the entries popped from a port (R90). -/
inductive Got where
  | reg (x : Src)
  | popped (vector : Bool) (entries : List (List Reg))
  deriving DecidableEq, Repr

/-- The words a lane reads of a source (R90). -/
def gotWords (g : Group) (lit : Word) (pos : Pos) (x : Got) (l : Nat) : List Reg :=
  match x with
  | .reg (.v n) => (range n.val pos.words).map (fun r => (g.lane l).vget r)
  | .reg (.s n) => (range n.val pos.words).map (fun r => g.sget r)
  | .reg .lit => litWords lit pos
  | .reg (.q _) => []
  | .popped vec es => es.map (fun e => e.getD (if vec then l else 0) Reg.zero)

/-- Take `n` entries from a port: the entries and the state without them (R41, R234). A pop of q14 observes
completions (R177). -/
def State.popPort (s : State) (slot port n : Nat) : List (List Reg) × State :=
  let g := s.group slot
  let t := s.team g.team
  match portOf g t port with
  | none => ([], s)
  | some c => (s.entriesOf (coreOfSlot slot) t.base c n, s.setPort slot port (c.drop n))

/-- What an instruction has taken from the ports of its group, by port: the state before and after (R41). -/
def State.poppedBy (old new : State) (slot : Nat) : List (Nat × List (List Reg)) :=
  let g := old.group slot
  let t := old.team g.team
  (range 0 15).filterMap (fun port =>
    let n := portHolds g t port - portHolds (new.group slot) (new.team g.team) port
    if n = 0 then none else (portOf g t port).map (fun c => (port, old.entriesOf (coreOfSlot slot) t.base c n)))

/-- Take what the sources give, popping ports in field order (R41). -/
def State.take (s : State) (slot : Nat) : List (Src × Pos) → List (Pos × Got) × State
  | [] => ([], s)
  | (x, pos) :: rest =>
    match x with
    | .q n =>
      let vec := srcIsVec (s.team (s.group slot).team) x
      let (es, s1) := s.popPort slot n.val pos.words
      let (tail, s2) := s1.take slot rest
      ((pos, .popped vec es) :: tail, s2)
    | _ =>
      let (tail, s1) := s.take slot rest
      ((pos, .reg x) :: tail, s1)

/-- The words each source gives a lane. -/
def laneWords (g : Group) (lit : Word) (gots : List (Pos × Got)) (l : Nat) : List (List Reg) :=
  gots.map (fun p => gotWords g lit p.1 p.2 l)

/-- Write consecutive vector register words of a lane. -/
def Lane.vput : Lane → Nat → List Reg → Lane
  | x, _, [] => x
  | x, r, w :: t => Lane.vput (x.vset r w) (r + 1) t

/-- Write consecutive uniform register words. -/
def Group.sput : Group → Nat → List Reg → Group
  | g, _, [] => g
  | g, r, w :: t => Group.sput (g.sset r w) (r + 1) t

/-- The result words of a lane. -/
def resultOf (res : List (Nat × List Reg)) (l : Nat) : List Reg := ((res.find? (fun e => e.1 == l)).map (fun e => e.2)).getD []

/-- The entries a push makes: one per result word; a vector channel's entry has a word per lane, 0 outside the class
(R41). -/
def pushEntries (vec : Bool) (width words : Nat) (res : List (Nat × List Reg)) : List (List Reg) :=
  (range 0 words).map (fun i =>
    if vec then (range 0 width).map (fun l => (resultOf res l).getD i Reg.zero)
    else [((res.head?.map (fun e => e.2)).getD []).getD i Reg.zero])

end Sys2Proof.Machine
end

