-- ==== Sys2Proof/Machine/Flags.lean ====
section
/-! DEFINITION. Flag and tag computations: the sticky floating-point flags of sr.fflags (R80, R81), packed elements
(R106), and the poison tags of results (R82, R95). The flags one operation raises are computed with its value, in
Fp.lean. -/

namespace Sys2Proof.Machine

/-- The flags of several lanes or elements together (R81). -/
def orAll (l : List Flags) : Flags := l.foldl (fun a f => a ||| f) 0#5

/-- The word SRD reads of sr.fflags (R80). -/
def fflagsWord (f : BitVec 5) : Word := f.setWidth 32

/-- The flags an SWR to sr.fflags leaves (R80). -/
def fflagsOf (w : Word) : BitVec 5 := w.setWidth 5

/-- The word SRD reads of sr.prio (R273). -/
def prioWord (p : BitVec 4) : Word := p.setWidth 32

/-- The priority an SWR to sr.prio leaves (R273). -/
def prioOf (w : Word) : BitVec 4 := w.setWidth 4

/-- A result of one evaluation: `n` words of a value under a tag, lowest word first. -/
def resWords (n : Nat) (x : DWord) (p : Bool) : List Reg :=
  if n = 1 then [{ bits := x.setWidth 32, poison := p }] else pairWords x p

/-- What one evaluation gives: result words with their tags, and flags. -/
structure Res where
  words : List Reg
  flags : Flags
  deriving DecidableEq, Repr

/-- An evaluation whose result is poisoned when any source word is (R82). -/
def plainly (n : Nat) (f : List DWord → DWord × Flags) (srcs : List (List Reg)) : Res :=
  let r := f (srcs.map wordsVal)
  { words := resWords n r.1 (srcs.any anyPoison), flags := r.2 }

/-- An integer function of two words as a value without flags. -/
def int2 (f : Word → Word → Word) : List DWord → DWord × Flags
  | a :: b :: _ => ((f (a.setWidth 32) (b.setWidth 32)).setWidth 64, 0#5)
  | _ => (0, 0#5)

/-- An integer function of two words and D. -/
def int3 (f : Word → Word → Word → Word) : List DWord → DWord × Flags
  | a :: b :: d :: _ => ((f (a.setWidth 32) (b.setWidth 32) (d.setWidth 32)).setWidth 64, 0#5)
  | _ => (0, 0#5)

/-- An integer function of one word. -/
def int1 (f : Word → Word) : List DWord → DWord × Flags
  | a :: _ => ((f (a.setWidth 32)).setWidth 64, 0#5)
  | _ => (0, 0#5)

/-- A function of two 64-bit values without flags. -/
def long2 (f : DWord → DWord → DWord) : List DWord → DWord × Flags
  | a :: b :: _ => (f a b, 0#5)
  | _ => (0, 0#5)

/-- A function of two 64-bit values and D. -/
def long3 (f : DWord → DWord → DWord → DWord) : List DWord → DWord × Flags
  | a :: b :: d :: _ => (f a b d, 0#5)
  | _ => (0, 0#5)

/-- A function of one 64-bit value. -/
def long1 (f : DWord → DWord) : List DWord → DWord × Flags
  | a :: _ => (f a, 0#5)
  | _ => (0, 0#5)

/-- A floating-point function of two codes. -/
def flt2 (f : Nat → Nat → Nat × Flags) : List DWord → DWord × Flags
  | a :: b :: _ =>
    let r := f a.toNat b.toNat
    (BitVec.ofNat 64 r.1, r.2)
  | _ => (0, 0#5)

/-- A floating-point function of two codes and D. -/
def flt3 (f : Nat → Nat → Nat → Nat × Flags) : List DWord → DWord × Flags
  | a :: b :: d :: _ =>
    let r := f a.toNat b.toNat d.toNat
    (BitVec.ofNat 64 r.1, r.2)
  | _ => (0, 0#5)

/-- A floating-point function of one code. -/
def flt1 (f : Nat → Nat × Flags) : List DWord → DWord × Flags
  | a :: _ =>
    let r := f a.toNat
    (BitVec.ofNat 64 r.1, r.2)
  | _ => (0, 0#5)

/-- A comparison of two codes, as an integer word (R105). -/
def fltTest (f : Nat → Nat → Bool × Flags) : List DWord → DWord × Flags
  | a :: b :: _ =>
    let r := f a.toNat b.toNat
    (BitVec.ofNat 64 (b2n r.1), r.2)
  | _ => (0, 0#5)

/-- Element i of a packed word (R65). -/
def element (x : DWord) (i : Nat) : Nat := (x.extractLsb' (16 * i) 16).toNat

/-- Two packed elements and their flags (R106). -/
def packed (r0 r1 : Nat × Flags) : DWord × Flags :=
  (BitVec.ofNat 64 (r0.1 % 65536 + 65536 * (r1.1 % 65536)), r0.2 ||| r1.2)

/-- A packed function of two words, element by element (R106). -/
def pack2 (f : Nat → Nat → Nat × Flags) : List DWord → DWord × Flags
  | a :: b :: _ => packed (f (element a 0) (element b 0)) (f (element a 1) (element b 1))
  | _ => (0, 0#5)

/-- A packed function of two words and D (R106). -/
def pack3 (f : Nat → Nat → Nat → Nat × Flags) : List DWord → DWord × Flags
  | a :: b :: d :: _ =>
    packed (f (element a 0) (element b 0) (element d 0)) (f (element a 1) (element b 1) (element d 1))
  | _ => (0, 0#5)

end Sys2Proof.Machine
end

