-- ==== Sys2Proof/Machine/Peer.lean ====
section
/-! DEFINITION. Sending remote requests: planes, request identifiers and re-sending (R181, R207, R295, R326, R359). -/

namespace Sys2Proof.Machine

/-- The plane count P (R359). -/
def State.planeCount (s : State) : Nat := 2 ^ s.planes.toNat

/-- The pod size (R359). -/
def State.podSize (s : State) : Nat := s.podM1.toNat + 1

/-- A plane works for a domain: the module has its place in the pod, the plane has not failed, and one of its ports is up and the domain's to use (R276, R326, R359). -/
def State.planeOk (s : State) (dom p : Nat) : Bool :=
  s.lnkLock && !s.planeDown.contains p &&
    (range 0 16).any (fun n => n % s.planeCount == p && s.uaUp.getLsbD n && (s.dom dom).lports.getLsbD n)

/-- The first working plane from p upward, wrapping (R326). -/
def State.planeFrom (s : State) (dom p : Nat) : Option Nat :=
  ((range 0 s.planeCount).map (fun i => (p + i) % s.planeCount)).find? (s.planeOk dom)

/-- Why the issuer refuses a request at once: 0 when it does not (R295, R359). -/
def State.issuerReason (s : State) (dom target : Nat) : Nat :=
  if !s.lnkLock then 5
  else if s.podSize ≤ target then 6
  else if (s.planeFrom dom 0).isNone then 5 else 0

/-- Requests to a target that are not acknowledged (R207). -/
def State.unackedTo (s : State) (target : Nat) : Nat := (s.remote.filter (fun r => r.target == target)).length

/-- The domain a request belongs to. -/
def State.reqDom (s : State) (k : ReqKind) : Nat :=
  match k with
  | .access slot _ _ _ _ _ => s.groupDom (s.group slot)
  | .delta dom _ _ => dom
  | .flush slot _ _ => s.groupDom (s.group slot)
  | .marker dom _ _ => dom

/-- A request as it leaves: with its source module and domain and the boot epoch (R295, R327). -/
def State.requestMsg (s : State) (target id plane : Nat) (k : ReqKind) : Msg :=
  .request target id plane s.device.toNat (s.reqDom k) s.epoch k

/-- A new request with the next identifier of its target (R207); `held` while an earlier one of its lane to the same
bytes is not acknowledged, or while no plane reaches its target. -/
def State.post (s : State) (target : Nat) (k : ReqKind) (held : Bool) : State :=
  let id := sget 0 s.nextReq target
  let plane := s.planeFrom (s.reqDom k) 0
  let send := !held && plane.isSome
  let r : OutReq := { target := target, id := id, kind := k, plane := plane.getD 0, sends := b2n send, sentAt := s.time, sent := send, seq := s.seq }
  { s with
    nextReq := sset 0 s.nextReq target ((id + 1) % 65536)
    remote := s.remote ++ [r]
    outbox := if send then s.outbox ++ [s.requestMsg target id r.plane k] else s.outbox }

/-- A request goes out on a plane (R326). -/
def State.transmit (s : State) (r : OutReq) (plane : Nat) : State :=
  let r' : OutReq := { r with plane := plane, sends := r.sends + 1, sentAt := s.time, sent := true }
  { s with
    remote := s.remote.map (fun x => if x.target = r.target ∧ x.id = r.id then r' else x)
    outbox := s.outbox ++ [s.requestMsg r.target r.id plane r.kind] }

/-- A request is over. -/
def State.dropReq (s : State) (target id : Nat) : State :=
  { s with remote := s.remote.filter (fun x => !(x.target == target && x.id == id)) }

/-- The request a reply answers, if it is still waiting. -/
def State.findReq (s : State) (target id : Nat) : Option OutReq :=
  s.remote.find? (fun x => x.target == target && x.id == id && x.sent)

end Sys2Proof.Machine
end

