-- ==== Sys2Proof/Machine/Erasure.lean ====
section
/-! DEFINITION. The erasure code of a rope (R344): arithmetic in GF(2^8), lines under the code, and the decoding of a
position from K clean inputs (R349, R353). -/

namespace Sys2Proof.Machine

/-! ### The code -/

/-- Multiplication by x in GF(2^8) with polynomial 0x11D (R344). -/
def gfDouble (a : Nat) : Nat := if a < 128 then 2 * a else (2 * a) ^^^ 0x11D

/-- Multiplication in GF(2^8) (R344). -/
def gfMulFrom : Nat → Nat → Nat → Nat
  | 0, _, _ => 0
  | n + 1, a, b => (if b % 2 = 1 then a else 0) ^^^ gfMulFrom n (gfDouble a) (b / 2)

/-- GfMul (R344). -/
def gfMul (a b : Nat) : Nat := gfMulFrom 8 a b

/-- A power of the generator (R344). -/
def gfPow : Nat → Nat
  | 0 => 1
  | n + 1 => gfDouble (gfPow n)

/-- g(j, i), the coefficient of data position i in parity position j (R344). -/
def coef (j i : Nat) : Nat := gfPow (j * i)

/-- A line of zeros without poison. -/
def Line.zero : Line := { bytes := List.replicate 128 0, poison := List.replicate 4 false }

/-- The difference of two lines, with the tags of the first (R345). -/
def lineXor (x y : Line) : Line := { bytes := List.zipWith (· ^^^ ·) x.bytes y.bytes, poison := x.poison }

/-- A line times a coefficient. -/
def lineMul (c : Nat) (x : Line) : Line := { x with bytes := x.bytes.map (fun b => BitVec.ofNat 8 (gfMul c b.toNat)) }

/-- A data position (R342). -/
def dataPos (p : Nat) : Bool := decide (p < 16)

/-- The positions of a rope (R342). -/
def usedPositions (k m : Nat) : List Nat := range 0 k ++ range 16 m

/-! ### Decoding -/

/-- A sector of a position that this module does not hold: free bytes, and whether they are clean (log 23). -/
def freeSector (k : Nat) : List Byte × Bool :=
  ((range 0 32).map (fun i => BitVec.ofNat 8 (Config.free (k + i))), Config.free (k + 32) % 2 == 1)

/-- A line of a position that this module does not hold (log 23). -/
def freeLine (k : Nat) : Line :=
  let secs := (range 0 4).map (fun i => freeSector (k + 33 * i))
  { bytes := secs.flatMap (fun x => x.1), poison := secs.map (fun x => x.2) }

/-- Two lines added, their tags joined (R344, R346). -/
def lineAdd (x y : Line) : Line :=
  { bytes := List.zipWith (· ^^^ ·) x.bytes y.bytes, poison := (range 0 4).map (fun i => x.poison.getD i false || y.poison.getD i false) }

/-- The inverse in GF(2^8) (R344). -/
def gfInv (a : Nat) : Nat := ((range 1 255).find? (fun b => gfMul a b == 1)).getD 0

/-- The row of a position: how it is made of the data positions (R344). -/
def codeRow (k p : Nat) : List Nat := (range 0 k).map (fun i => if dataPos p then b2n (i == p) else coef (p - 16) i)

/-- A row in echelon form: its pivot, its entries, and how it is made of the inputs. -/
structure Echelon where
  pivot : Nat
  row   : List Nat
  comb  : List Nat
  deriving DecidableEq, Repr

/-- One row less a multiple of another. -/
def rowSub (x y : List Nat) (c : Nat) : List Nat := List.zipWith (fun a b => a ^^^ gfMul c b) x y

/-- A row reduced by echelon rows, oldest first. -/
def reduceRow : List Echelon → List Nat × List Nat → List Nat × List Nat
  | [], v => v
  | e :: t, v =>
    let c := v.1.getD e.pivot 0
    reduceRow t (rowSub v.1 e.row c, rowSub v.2 e.comb c)

/-- The echelon rows of the positions of a choice of inputs. -/
def echelonOf (k : Nat) (ps : List Nat) : List Echelon :=
  (ps.zipIdx).foldl (fun acc p =>
    let v := reduceRow acc (codeRow k p.1, (range 0 ps.length).map (fun j => b2n (j == p.2)))
    match findIx (fun a => a != 0) v.1 with
    | none => acc
    | some c =>
      let i := gfInv (v.1.getD c 0)
      acc ++ [({ pivot := c, row := v.1.map (gfMul i), comb := v.2.map (gfMul i) } : Echelon)]) []

/-- The weights that make a position of K inputs (R344). -/
def decodeWeights (k self : Nat) (ps : List Nat) : List Nat :=
  (reduceRow (echelonOf k ps) (codeRow k self, (range 0 ps.length).map (fun _ => 0))).2

/-- One sector of a position, decoded of K clean inputs; fewer leave it poisoned, its bytes free (R353; log 23). -/
def decodeSector (free k self : Nat) (inputs : List StripeInput) (sec : Nat) : List Byte × Bool :=
  let clean := (inputs.filter (fun x => !(x.line.poison.getD sec false))).take k
  if clean.length < k then ((freeSector (2 ^ 130 * (free + 1) + 33 * sec)).1, true)
  else
    let ws := decodeWeights k self (clean.map (fun x => x.position))
    ((range 0 32).map (fun i => BitVec.ofNat 8 ((ws.zip clean).foldl (fun acc e =>
      acc ^^^ gfMul e.1 (e.2.line.bytes.getD (32 * sec + i) 0).toNat) 0)), false)

/-- A line of a position, decoded (R349, R353). -/
def decodeInputs (free k self : Nat) (inputs : List StripeInput) : Line :=
  let secs := (range 0 4).map (decodeSector free k self inputs)
  { bytes := secs.flatMap (fun x => x.1), poison := secs.map (fun x => x.2) }

/-- The sectors of a line take those of another where asked. -/
def mixLines (take : Nat → Bool) (x y : Line) : Line :=
  { bytes := (range 0 4).flatMap (fun i => slice (if take i then y else x).bytes (32 * i) 32)
    poison := (range 0 4).map (fun i => (if take i then y else x).poison.getD i false) }

/-- The inputs a repair asks for, of those that could answer (R349): K - 1 first, more while a sector it needs has fewer
than K clean ones. -/
def askedInputs (k : Nat) (need : Nat → Bool) (xs : List StripeInput) : List StripeInput :=
  let enough (ys : List StripeInput) : Bool :=
    (range 0 4).all (fun i => !need i || decide (k ≤ (ys.filter (fun x => !(x.line.poison.getD i false))).length))
  match (range (k - 1) (xs.length + 1 - (k - 1))).find? (fun n => enough (xs.take n)) with
  | some n => xs.take n
  | none => xs

end Sys2Proof.Machine
end

