-- ==== Sys2Proof/Machine/Protect.lean ====
section
/-! DEFINITION. Protected lines at their home (R342 to R349, R379): the frame map, line repair, and write-back with its deltas. What
other modules hold is not in this one: their inputs of a repair are free values (log 23). -/

namespace Sys2Proof.Machine

/-! ### The frame map -/

/-- The stripe of a physical line in a member's frame map (R343, R379). -/
def Rope.stripeOf (r : Rope) (line : Nat) : Option Nat :=
  (r.frames.find? (fun e => e.2 == line / 512)).map (fun e => 512 * e.1 + line % 512)

/-- The physical line of a stripe, when its place in the map holds a frame (R379). -/
def Rope.lineOf (r : Rope) (stripe : Nat) : Option Nat := (mget? r.frames (stripe / 512)).map (fun f => 512 * f + stripe % 512)

/-- The member whose protected range holds a physical line, with the stripe (R379): data members of this module. -/
def State.protectedAt (s : State) (line : Nat) : Option (Nat × Nat) :=
  s.doms.findSome? (fun e =>
    if e.2.rope.state = 0 then none
    else match e.2.rope.desc with
      | some d => if dataPos d.self then (e.2.rope.stripeOf line).map (fun n => (e.1, n)) else none
      | none => none)

/-- A protected line's home repairs errors (R349): the rope runs, or a rebuild has passed the line (R353). -/
def State.repairs (s : State) (line : Nat) : Bool :=
  match s.protectedAt line with
  | some (d, n) =>
    let r := (s.dom d).rope
    r.state == 2 || r.state == 3 || (r.state == 5 && decide (n < r.cur))
  | none => false

/-- Accesses to a protected line wait while its member rebuilds and the cursor has not passed it (R353). -/
def State.rebuildHolds (s : State) (line : Nat) : Bool :=
  match s.protectedAt line with
  | some (d, n) => (s.dom d).rope.state == 5 && decide ((s.dom d).rope.cur ≤ n)
  | none => false

/-- A line of host memory under the locked read of a split atomic (R202), of a group or of a peer. -/
def State.lineLocked (s : State) (line : Nat) : Bool :=
  s.flight.any (fun w => (match w.stage with
    | .locked _ => true
    | _ => false) && (linesOf w.spans).contains line) ||
    s.peerLocks.any (fun e => (linesOf e.2.at_).contains line)

/-- A line whose replica has not applied a write that the home has performed (R179). -/
def State.lineReplicating (s : State) (line : Nat) : Bool :=
  s.flight.any (fun w => match w.stage with
    | .replicating old => old.any (fun e => e.1 == line)
    | _ => false)

/-- A line whose accesses wait at its home: its rope member rebuilds it (R353), or a split atomic holds it (R202). -/
def State.lineHeld (s : State) (line : Nat) : Bool := s.rebuildHolds line || s.lineLocked line

/-- Write a whole line and its tags at its own place, without deltas (R349). -/
def State.putLine (s : State) (line : Nat) (x : Line) : State :=
  let s : State := { s with mem := putBytes s.mem (128 * line) x.bytes }
  (range 0 4).foldl (fun acc i => acc.setPoison (4 * line + i) (x.poison.getD i false)) s

/-- The member of this module that holds a position of a rope (R342). -/
def State.localMember (s : State) (d : RopeDesc) (p : Nat) : Option (Nat × Rope × RopeDesc) :=
  s.doms.findSome? (fun e => match e.2.rope.desc with
    | some x => if e.2.rope.state ≠ 0 ∧ x.ropeId = d.ropeId ∧ x.self = p then some (e.1, e.2.rope, x) else none
    | none => none)

/-- A home's line as it stands in DRAM (R345, R379). -/
def State.dramLine (s : State) (line : Nat) : Line :=
  match mget? s.dirty (lineOf (s.locate (128 * line))) with
  | some old => old
  | none => s.line line

/-- A parity line of a holder of this module once the deltas on their way to it are applied (R346, R349): a member asked for
its line answers only then. -/
def State.parityLine (s : State) (r : Rope) (d : RopeDesc) (stripe : Nat) : Line :=
  s.remote.foldl (fun x q => match q.kind with
    | .delta _ p y =>
      if p = d.self ∧ y.ropeId = d.ropeId ∧ y.stripe = stripe ∧ sget 0 r.seqs y.source < y.seq then lineAdd x y.line else x
    | _ => x) (s.line (d.parbase / 128 + stripe))

/-- What a position answers for its line of a stripe (R343, R349): the DRAM content of a frame, zeros where its map holds
nothing, a parity line; a free value when another module holds it (log 23). -/
def State.inputOf (s : State) (d : RopeDesc) (p stripe : Nat) : Line :=
  match s.localMember d p with
  | some (_, r, x) =>
    if dataPos p then (match r.lineOf stripe with
      | some n => s.dramLine n
      | none => Line.zero)
    else s.parityLine r x stripe
  | none => freeLine (2 ^ 130 * (s.free + 1) + 2 ^ 110 * (p + 1) + 2 ^ 10 * stripe)

/-- The other positions that are not lost, in the order a repair asks them: parity holder 0 first (R349; log 23). -/
def Rope.others (r : Rope) (d : RopeDesc) : List Nat :=
  (([16] ++ range 0 d.k ++ range 17 (d.m - 1)).filter (fun p => p != d.self && !r.lost.getLsbD p))

/-- The module and the domain of a position (R342). -/
def RopeDesc.module (d : RopeDesc) (p : Nat) : Nat := sget 0 d.members p % 1024
def RopeDesc.domain (d : RopeDesc) (p : Nat) : Nat := sget 0 d.members p / 1024 % 8

/-- Positions of other modules are asked for their line of a stripe (R349, R353). -/
def State.askStripe (s : State) (d : RopeDesc) (stripe : Nat) (ps : List Nat) : State :=
  { s with outbox := s.outbox ++ (ps.filter (fun p => (s.localMember d p).isNone)).map (fun p =>
      Msg.stripeAsk (d.module p) d.ropeId p d.self stripe) }

/-- A line of a protected stripe with the named sectors repaired (R344, R349): decoded from the clean inputs of the
positions asked. -/
def State.decodedLine (s : State) (line : Nat) (need : Nat → Bool) (x : Line) : Line × State :=
  match s.protectedAt line with
  | none => (x, s)
  | some (dom, n) =>
    let r := (s.dom dom).rope
    match r.desc with
    | none => (x, s)
    | some d =>
      let asked := askedInputs d.k need ((r.others d).map (fun p => { position := p, line := s.inputOf d p n }))
      let y := decodeInputs s.free d.k d.self asked
      let t := s.askStripe d n (asked.map (fun i => i.position))
      (mixLines need x y, { t with free := s.free + 1 })

/-- The sectors of a protected line that its home must repair to serve it (R349): they carry an error, and the slice does not
hold them as a write has left them. -/
def State.needsRepair (s : State) (line sec : Nat) : Bool :=
  let at_ := lineOf (s.locate (128 * line))
  s.poisonAt (128 * line + 32 * sec) && !((mget? s.dirty at_).isSome && sget false s.memPoison (4 * at_ + sec))

/-- A line as its home serves it, repaired when it is protected and carries an error (R349); the repair is written back
unless the channel is OFFLINE. -/
def State.homeLine (s : State) (line : Nat) : Line × State :=
  if (range 0 4).any (s.needsRepair line) && s.repairs line then
    let y := s.decodedLine line (s.needsRepair line) (s.line line)
    let at_ := s.locate (128 * line)
    (y.1, if s.offline at_ then y.2 else y.2.putLine (lineOf at_) y.1)
  else (s.line line, s)

/-- A protected line with an error is repaired in place before an access (R349). -/
def State.heal (s : State) (line : Nat) : State := (s.homeLine line).2

/-- A read of the line repairs it in place (R349): it is protected, carries an error, and its channel is not OFFLINE. -/
def State.mends (s : State) (line : Nat) : Bool :=
  (range 0 4).any (s.needsRepair line) && s.repairs line && !s.offline (s.locate (128 * line))

/-- Lines that one access reads are repaired together (R349), every value from the same moment (log 23). -/
def State.healAll (s : State) (lines : List Nat) : State :=
  let bad := lines.filter (fun n => (range 0 4).any (s.needsRepair n) && s.repairs n)
  if bad.isEmpty then s
  else { bad.foldl (fun acc n => { acc.heal n with free := s.free }) s with free := s.free + 1 }

/-- A byte as its home answers it, repaired when its protected sector carries an error (R349). -/
def State.homeByte (s : State) (pa : Nat) : Byte :=
  if s.poisonAt pa && s.repairs (lineOf pa) then (s.homeLine (lineOf pa)).1.bytes.getD (pa % 128) 0 else s.byte pa

/-- The tag of a byte's sector as its home answers it (R349). -/
def State.homePoison (s : State) (pa : Nat) : Bool :=
  s.poisonAt pa && (!s.repairs (lineOf pa) || (s.homeLine (lineOf pa)).1.poison.getD (pa % 128 / 32) false)

/-- `n` bytes as their home answers them. -/
def State.homeBytes (s : State) (pa n : Nat) : List Byte := (range pa n).map s.homeByte

/-- Some sector of a range carries poison in its home's answer. -/
def State.homePoisonIn (s : State) (pa n : Nat) : Bool :=
  (range (pa / 32) ((pa + n - 1) / 32 + 1 - pa / 32)).any (fun k => s.homePoison (32 * k))

/-- Bytes at a place. -/
def State.placeBytes (s : State) (p : Place) (n : Nat) : List Byte :=
  match p with
  | .phys pa => s.homeBytes pa n
  | .loc c off => s.locBytes c off n

/-- The tag of the sector at a place. -/
def State.placePoison (s : State) (p : Place) : Bool :=
  match p with
  | .phys pa => s.homePoison pa
  | .loc c off => s.locPoisonIn c off 1

/-! ### Write-back -/

/-- The positions that are parity holders of a rope. -/
def RopeDesc.holders (d : RopeDesc) : List Nat := range 16 d.m

/-- A position takes deltas: not lost, or lost with its replacement installed (R345, R354). -/
def Rope.takesDelta (r : Rope) (p : Nat) : Bool := !r.lost.getLsbD p || (mget? r.starts p).isSome

/-- The retire mark (R346): the greatest sequence every unlost holder has acknowledged. -/
def Rope.mark (r : Rope) (d : RopeDesc) : Nat :=
  match d.holders.filter (fun p => !r.lost.getLsbD p) with
  | [] => sget 0 r.seqs d.self
  | p :: t => t.foldl (fun m q => min m (sget 0 r.acked q)) (sget 0 r.acked p)

/-- Deltas of one change of a stripe go to every holder that takes them, under the member's next sequence (R345). -/
def State.sendDeltas (s : State) (dom stripe : Nat) (diff : Line) : State :=
  let r := (s.dom dom).rope
  match r.desc with
  | none => s
  | some d =>
    let seq := sget 0 r.seqs d.self + 1
    let mark := r.mark d
    let s := s.modDom dom (fun x => { x with rope := { x.rope with seqs := mset x.rope.seqs d.self seq } })
    (d.holders.filter r.takesDelta).foldl (fun acc p =>
      let x : Delta := { module := s.device.toNat, domain := dom, ropeId := d.ropeId, source := d.self, seq := seq, stripe := stripe, retire := mark,
                         line := lineMul (coef (p - 16) d.self) diff }
      acc.post (d.module p) (.delta dom p x) false) s

/-- A member sends deltas for a stripe (R345, R351, R353): it runs, or its cursor has passed the stripe; a replacement
that ended with too few positions sends none. -/
def Rope.sends (r : Rope) (stripe : Nat) : Bool :=
  r.state == 2 || r.state == 3 || (r.state == 4 && !r.mute) || ((r.state == 1 || r.state == 5) && decide (stripe < r.cur))

/-- The member may take one more sequence (R346). -/
def Rope.roomy (r : Rope) : Bool :=
  match r.desc with
  | some d => decide (sget 0 r.seqs d.self + 1 - r.mark d ≤ 4096)
  | none => true

/-- A write-back of a line must wait (R346, R349): its member's log is full, or the line is frozen by a repair. -/
def State.backHeld (s : State) (line : Nat) : Bool :=
  match s.protectedAt (lineOf (s.homeOf (128 * line))) with
  | some (d, n) =>
    let r := (s.dom d).rope
    r.sends n && (!r.roomy || r.frozen.contains n)
  | none => false

/-- The old value of a write-back, repaired when it holds an error (R345). -/
def State.oldLine (s : State) (line : Nat) (old : Line) : Line × State :=
  if old.poison.any id then s.decodedLine line (fun i => old.poison.getD i false) old else (old, s)

/-- The bytes of a write of the T940's own (log 76). -/
def OwnWrite.span : OwnWrite → Nat × Nat
  | .bytes pa bs => (pa, bs.length)
  | .count pa => (pa, 2)
  | .bits pa n _ _ => (pa, n)

/-- Some line of a range is held back by its home (R202, R353). -/
def State.rangeHeld (s : State) (lo n : Nat) : Bool :=
  (s.doms.any (fun e => e.2.rope.state == 5) || !s.flight.isEmpty || !s.peerLocks.isEmpty) &&
    (range (lo / 128) ((lo + n + 127) / 128 - lo / 128)).any s.lineHeld

/-- A write of the T940's own waits at the home slice (R353): its line is held back, or an earlier one to it waits. -/
def State.ownWaits (s : State) (w : OwnWrite) : Bool :=
  s.rangeHeld w.span.1 w.span.2 || s.ownWrites.any (fun x => overlap x.span w.span)

/-- What a write of the T940's own stores now. -/
def State.ownBytes (s : State) : OwnWrite → List Byte
  | .bytes _ bs => bs
  | .count pa => leBytes 2 (min 65535 (s.natAt pa 2 + 1))
  | .bits pa n clear set => leBytes n (s.natAt pa n &&& (2 ^ (8 * n) - 1 - clear) ||| set)

/-- A write of the T940's own is performed, or waits at its home slice. -/
def State.ownWrite (s : State) (w : OwnWrite) : State :=
  if s.ownWaits w then { s with ownWrites := s.ownWrites ++ [w] } else s.writeClean w.span.1 (s.ownBytes w)

/-- Bytes that the T940 writes on its own behalf. -/
def State.ownPut (s : State) (pa : Nat) (bs : List Byte) : State := s.ownWrite (.bytes pa bs)

/-- The oldest waiting write of the T940's own that nothing holds back any more is performed (R353). -/
def State.ownStepOf (s : State) : List OwnWrite → List OwnWrite → State
  | _, [] => s
  | before, w :: t =>
    if s.rangeHeld w.span.1 w.span.2 || before.any (fun x => overlap x.span w.span) then s.ownStepOf (before ++ [w]) t
    else ({ s with ownWrites := before ++ t } : State).writeClean w.span.1 (s.ownBytes w)

/-- A cairn counter rises (R341). -/
def State.countFrame (s : State) (dom pa : Nat) : State :=
  let d := s.dom dom
  let f := pa / 65536
  let at_ := d.crnBase.toNat + 2 * (f - d.crnFirst.toNat)
  if d.active && d.crnOn && decide (d.crnFirst.toNat ≤ f) && decide (f < d.crnFirst.toNat + d.crnCount.toNat) &&
      s.domHolds dom pa && s.domHolds dom at_ then
    s.ownWrite (.count at_)
  else s

/-- A line is read from its tier or written back to it: its device wakes and it is counted (R341, R360). -/
def State.touchTier (s : State) (pa : Nat) : State := (range 0 8).foldl (fun acc d => acc.countFrame d pa) (s.wake pa)

/-- A line is not in its slice as a dirty one, so that its tier is read; the place it is read from (R330). -/
def State.tierPlace (s : State) (line : Nat) : Option Nat :=
  let at_ := s.locate (128 * line)
  if (mget? s.dirty (lineOf at_)).isSome then none else some at_

/-- Lines are read by an access of the T940's own: their devices wake, nothing is counted (R341, R360). -/
def State.wakeLines (s : State) (lines : List Nat) : State :=
  lines.foldl (fun acc n => (acc.tierPlace n).elim acc acc.wake) s

/-- Lines are read by an access of a program, of the host or of a peer (R341, R360). -/
def State.readTier (s : State) (lines : List Nat) : State :=
  lines.foldl (fun acc n => (acc.tierPlace n).elim acc acc.touchTier) s

/-- A dirty line is written back to its place (R332, R345): deltas for a protected line of a member that sends them. -/
def State.writeBack (s : State) (line : Nat) : State :=
  match mget? s.dirty line with
  | none => s
  | some old =>
    let new := s.rawLine line
    let home := s.homeOf (128 * line)
    let s := (({ s with dirty := mdel s.dirty line } : State).touchTier (128 * line)).noteWrite home
    match s.protectedAt (lineOf home) with
    | some (d, n) =>
      if (s.dom d).rope.sends n then
        let (o, s) := s.oldLine (lineOf home) old
        s.sendDeltas d n (lineXor new o)
      else s
    | none => s

end Sys2Proof.Machine
end

