-- ==== Sys2Proof/Machine/Xlate.lean ====
section
/-! DEFINITION. Translation (R279 to R284), replayable faults (R317 to R321), and handle entries (R23, R286, R287). -/

namespace Sys2Proof.Machine

/-- One past the greatest virtual address (R281). -/
def vaLimit : Nat := 2 ^ 57

/-- The page size of a leaf at a level (R281). -/
def levelSize : Nat → Nat
  | 2 => 0x40000000
  | 3 => 0x200000
  | _ => 0x10000

/-- The index of a virtual address in a table of a level (R281). -/
def levelIndex (va : Nat) : Nat → Nat
  | 0 => bits va 48 9
  | 1 => bits va 39 9
  | 2 => bits va 30 9
  | 3 => bits va 21 9
  | _ => bits va 16 5

/-- The ADDR field of a table entry (R282). -/
def entryAddr (e : Nat) : Nat := bits e 12 40 * 4096

/-- A table entry that cannot be used at a level (R282). -/
def State.malformed (s : State) (dom level e : Nat) : Bool :=
  let leaf := bit e 1
  let size := if leaf then levelSize level else 4096
  bits e 53 11 != 0 || bits e 9 3 != 0 || (leaf && level < 2) || (!leaf && level == 4) ||
    (!leaf && (bits e 2 7 != 0 || bit e 52)) || !aligned (entryAddr e) size ||
    !(s.domHoldsRange dom (entryAddr e) size || isHost (entryAddr e))

/-- What a walk finds: a leaf entry at an address and level, or the level where V = 0 or a malformed entry stops it; or it
waits for a line of a table that its home holds back (R353). -/
inductive Walk where
  | leaf (at_ level entry : Nat)
  | bad (level : Nat)
  | held
  deriving DecidableEq, Repr

/-- One past the bytes of virtual addresses that an entry of a table of a level covers (R281). -/
def levelSpan : Nat → Nat
  | 0 => 2 ^ 48
  | 1 => 2 ^ 39
  | n => levelSize n

/-- The non-leaf entry a die's walk cache holds for an address at a level (R284). -/
def State.walkHeld (s : State) (die dom space va level : Nat) : Option Nat :=
  (s.walks.find? (fun e => e.die == die && e.dom == dom && e.space == space && e.level == level &&
    e.va == va / levelSpan level * levelSpan level)).map (fun e => e.entry)

/-- The walk from a table of a level (R281, R283), `held` giving the non-leaf entries a walk cache holds by level; a
poisoned entry counts as malformed (R320). -/
def State.walkFrom (s : State) (dom va : Nat) (held : Nat → Option Nat) : Nat → Nat → Nat → Walk
  | 0, _, level => .bad level
  | fuel + 1, table, level =>
    let at_ := table + 8 * levelIndex va level
    match held level with
    | some e => s.walkFrom dom va held fuel (entryAddr e) (level + 1)
    | none =>
      let e := leNat (s.homeBytes at_ 8)
      if s.homePoison at_ || !bit e 0 || s.malformed dom level e then .bad level
      else if bit e 1 then .leaf at_ level e
      else s.walkFrom dom va held fuel (entryAddr e) (level + 1)

/-- The walk of a virtual address in a domain's address space (R279, R281) with what a walk cache holds. -/
def State.walkWith (s : State) (dom space va : Nat) (held : Nat → Option Nat) : Walk :=
  let at_ := (s.dom dom).astab + 32 * space
  let root := leNat (s.homeBytes at_ 8)
  if s.homePoison at_ || !bit root 0 || bits root 1 11 != 0 || bits root 52 12 != 0 ||
      leNat (s.homeBytes (at_ + 8) 24) != 0 then .bad 0
  else s.walkFrom dom va held 5 (entryAddr root) 0

/-- The walk of a virtual address through the tables as they stand in memory (R279, R281). -/
def State.walk (s : State) (dom space va : Nat) : Walk := s.walkWith dom space va (fun _ => none)

/-- The addresses of the entries that a walk reads in memory (R281). -/
def State.readsFrom (s : State) (va : Nat) (held : Nat → Option Nat) : Nat → Nat → Nat → List Nat
  | 0, _, _ => []
  | fuel + 1, table, level =>
    match held level with
    | some e => s.readsFrom va held fuel (entryAddr e) (level + 1)
    | none =>
      let at_ := table + 8 * levelIndex va level
      let e := leNat (s.homeBytes at_ 8)
      at_ :: (if bit e 1 || !bit e 0 then [] else s.readsFrom va held fuel (entryAddr e) (level + 1))

/-- A walk waits for a line of a table that its home holds back (R353). -/
def State.walkWaits (s : State) (dom space va : Nat) (held : Nat → Option Nat) : Bool :=
  let at_ := (s.dom dom).astab + 32 * space
  (at_ :: s.readsFrom va held 5 (entryAddr (leNat (s.homeBytes at_ 8))) 0).any (fun pa => s.lineHeld (lineOf pa))

/-- The walk a die's walker makes, with its walk cache (R284). -/
def State.walkOn (s : State) (die dom space va : Nat) : Walk :=
  if s.walkWaits dom space va (s.walkHeld die dom space va) then .held else s.walkWith dom space va (s.walkHeld die dom space va)

/-- The non-leaf entries on the path of a walk, by level. -/
def State.pathFrom (s : State) (va : Nat) (held : Nat → Option Nat) : Nat → Nat → Nat → List (Nat × Nat)
  | 0, _, _ => []
  | fuel + 1, table, level =>
    let e := (held level).getD (leNat (s.homeBytes (table + 8 * levelIndex va level) 8))
    if bit e 1 then [] else (level, e) :: s.pathFrom va held fuel (entryAddr e) (level + 1)

/-- A structure within a list holds no more than its places: one entry that is over goes (log 9). -/
def trimIn {α : Type} (n : Nat) (mine : α → Bool) (l : List α) : List α :=
  if l.length ≤ n || (l.filter mine).length ≤ n then l
  else
    let ix := (range 0 l.length).filter (fun i => (l[i]?).any mine)
    removeIx l (ix.getD (Config.victim ix % ix.length) 0)

/-- The non-leaf entries of a walk that ends on a leaf stay in the die's walk cache (R284); the tables' devices wake
(R360). -/
def State.keepPath (s : State) (die dom space va : Nat) : State :=
  let root := leNat (s.homeBytes ((s.dom dom).astab + 32 * space) 8)
  let path := s.pathFrom va (s.walkHeld die dom space va) 5 (entryAddr root) 0
  let s := s.wakeLines (path.map (fun e => lineOf (entryAddr e.2)))
  path.foldl (fun acc e =>
    if (acc.walkHeld die dom space va e.1).isSome then acc
    else { acc with walks := trimIn Config.walkEntries (fun x => x.die == die) (acc.walks ++
      [{ die := die, dom := dom, space := space, level := e.1, va := va / levelSpan e.1 * levelSpan e.1, entry := e.2 }]) }) s

/-! ### The structures that hold translations (R284), by number

0 and 1 are the die TLBs; then come the core TLBs, the walk-ahead translators of the copy engines and of the term
engines, core by core, and the two last-level TLBs. -/

/-- The structure a core's lanes and fetches translate through. -/
def viaCore (core : Nat) : Nat := 2 + core

/-- The structure a core's copy engine, or term engine, translates through. -/
def viaEngine (core : Nat) (term : Bool) : Nat := 146 + core + (if term then 144 else 0)

/-- The last-level TLB of a die. -/
def viaLast (die : Nat) : Nat := 434 + die

/-- The die of a structure. -/
def tlbDie (n : Nat) : Nat := if n < 2 then n else if n < 434 then dieOfCore ((n - 2) % 144) else n - 434

/-- The structures an access goes through, the nearest first. -/
def tlbPath (via : Nat) : List Nat := (if via < 2 then [] else [via]) ++ [tlbDie via, viaLast (tlbDie via)]

/-- The places of a structure. -/
def tlbPlaces (n : Nat) : Nat :=
  if n < 2 then Config.dieTlb else if n < 146 then Config.coreTlb else if n < 434 then Config.aheadTlb else Config.lastTlb

/-- What an access needs of its leaf (R283): a kind of R320, or only V = 1 (CACHE). -/
inductive Need where
  | kind (k : AccessKind)
  | mapped
  deriving DecidableEq, Repr

/-- The leaf permits the access (R283). -/
def leafPermits (leaf : Nat) : Need → Bool
  | .mapped => true
  | .kind .read => bit leaf 2
  | .kind .write => bit leaf 3
  | .kind .atomic => bit leaf 2 && bit leaf 3
  | .kind .fetch => bit leaf 4

/-- The outcome of a translation (R283); `held` while its walk waits (R353). -/
inductive Xlat where
  | ok (pa leaf : Nat)
  | fault (level cause : Nat)
  | lost
  | held
  deriving DecidableEq, Repr

/-- What a leaf says to an access (R283): the rows of its table in order. -/
def leafFate (leaf size va : Nat) (need : Need) (t940 : Bool) : Xlat :=
  if bit leaf 52 then .lost
  else if need = .mapped then .ok (entryAddr leaf + va % size) leaf
  else if bit leaf 8 && !t940 then .fault 15 8
  else if !leafPermits leaf need then .fault 15 8
  else if bit leaf 5 then .fault 15 9
  else .ok (entryAddr leaf + va % size) leaf

/-- The translation a structure holds for an address (R284). -/
def State.heldIn (s : State) (n dom space va : Nat) : Option TlbEntry :=
  s.tlb.find? (fun e => e.store == n && e.dom == dom && e.space == space && decide (e.va ≤ va) && decide (va < e.va + e.size))

/-- The translation an access through a structure finds, the nearest first (R284). -/
def State.held (s : State) (via dom space va : Nat) : Option TlbEntry :=
  (tlbPath via).findSome? (fun n => s.heldIn n dom space va)

/-- Translate an address through a structure of R284: from what it and its die hold, else by a walk (R283). Lanes, engines,
fetches and peers never ask for an address at or above 2^57 (R281); the T940's own access there is a PAGE fault that may be
replayed (DESIGN CHOICE, log 80). -/
def State.translate (s : State) (via dom space va : Nat) (need : Need) (t940 : Bool) : Xlat :=
  if vaLimit ≤ va then .fault 0 8
  else match s.held via dom space va with
    | some e => leafFate e.leaf.toNat e.size va need t940
    | none => match s.walkOn (tlbDie via) dom space va with
      | .bad level => .fault level 8
      | .held => .held
      | .leaf _ level leaf => leafFate leaf (levelSize level) va need t940

/-- A translation enters every structure on the way that does not hold it (R284). -/
def State.keepLeaf (s : State) (via dom space va size leaf : Nat) : State :=
  (tlbPath via).foldl (fun acc n =>
    if (acc.heldIn n dom space va).isSome then acc
    else { acc with tlb := trimIn (tlbPlaces n) (fun x => x.store == n) (acc.tlb ++
      [{ store := n, dom := dom, space := space, va := va / size * size, size := size, leaf := BitVec.ofNat 64 leaf }]) }) s

/-- What a translation leaves behind: a held leaf that refuses is dropped from every structure of the die, one that
grants is held on the way, a leaf found by a walk that grants is held with its path (R284). -/
def State.touch (s : State) (via dom space va : Nat) (need : Need) (t940 : Bool) : State :=
  match s.translate via dom space va need t940, s.held via dom space va with
  | .ok _ leaf, some e => s.keepLeaf via dom space va e.size leaf
  | .ok _ leaf, none =>
    if bit leaf 5 || bit leaf 52 then s
    else match s.walkOn (tlbDie via) dom space va with
      | .leaf _ level _ => (s.keepPath (tlbDie via) dom space va).keepLeaf via dom space va (levelSize level) leaf
      | _ => s
  | .fault _ _, some e =>
    { s with tlb := s.tlb.filter (fun x => !(tlbDie x.store == tlbDie via && x.dom == dom && x.space == space && x.va == e.va && x.size == e.size)) }
  | _, _ => s

/-- The KIND byte's access bits (R320). -/
def kindBits : AccessKind → Nat
  | .read => 1
  | .write => 2
  | .atomic => 4
  | .fetch => 8

/-- The KIND byte's agent bits (R320). -/
def agentBits : Agent → Nat
  | .group _ _ _ => 0
  | .cmd _ => 0x10
  | .peer _ => 0x20
  | _ => 0x40

/-- A fault key matches (R318). -/
def FaultKey.is (k : FaultKey) (die dom space page : Nat) : Bool :=
  k.die == die && k.dom == dom && k.space == space && k.page == page

/-- The 32 bytes of a fault-buffer entry (R320). -/
def faultEntry (va space kind level cause die time : Nat) : List Byte :=
  leBytes 8 (va % vaLimit) ++ leBytes 2 space ++ leBytes 1 kind ++ leBytes 1 level ++ leBytes 1 cause ++ leBytes 1 die ++
    leBytes 2 0 ++ leBytes 8 time ++ leBytes 8 0

/-- A key was not written: DROPPED, and DROPCNT when the ring was full (R319, R321). -/
def State.dropKey (s : State) (dom : Nat) (count : Bool) : State :=
  (s.modDom dom (fun d => { d with dropped := true, dropCnt := if count && d.dropCnt != 0xFFFF then d.dropCnt + 1 else d.dropCnt })).interrupt
    (dom + 1) 0

/-- Enter a failing access in the pending table of its die (R318, R320, R321): it joins its key, or makes a new key and
a fault-buffer entry. An entry whose place lies outside the domain's memory is not written, and the tail rises all the same
(DESIGN CHOICE, log 80). -/
def State.enterKey (s : State) (die dom space va kind level cause : Nat) : State :=
  let page := va / 65536
  if s.pending.any (fun k => k.is die dom space page) then s
  else if 1024 ≤ (s.pending.filter (fun k => k.die == die)).length then s.dropKey dom false
  else
    let d := s.dom dom
    let written := d.fbDepth != 0 && !(d.fbTail - d.fbHead == d.fbDepth.setWidth 32)
    let key : FaultKey := { die := die, dom := dom, space := space, page := page, written := written }
    let s : State := { s with pending := s.pending ++ [key] }
    if !written then s.dropKey dom true
    else
      let at_ := d.fbBase.toNat + 32 * (d.fbTail.toNat % d.fbDepth.toNat)
      let s := if s.domHolds dom at_ then s.ownPut at_ (faultEntry va space kind level cause die (s.dieTime die)) else s
      (s.modDom dom (fun d => { d with fbTail := d.fbTail + 1 })).interruptAfter (dom + 1) 0 (s.visibleAll [(at_, 32)])

/-- An access of an agent waits on its fault (R317); `t940` for an access the T940 makes on its own behalf (R283). -/
def State.enterFault (s : State) (agent : Agent) (via dom space va : Nat) (k : AccessKind) (t940 : Bool) (level cause : Nat) : State :=
  let die := tlbDie via
  let kind := kindBits k + (if t940 then 0x40 else agentBits agent)
  let s := (s.touch via dom space va (.kind k) t940).enterKey die dom space va kind level cause
  let s : State := { s with waits := s.waits.filter (fun w => w.agent != agent || w.fate != .retry) }
  let w : FaultWait := { agent := agent, die := die, dom := dom, space := space, page := va / 65536, cause := cause, fate := .pending }
  if s.waits.contains w then s else { s with waits := s.waits ++ [w] }

/-- The class of a group that a lane belongs to, as the maker of its accesses (R222, R317). -/
def State.classAgent (s : State) (slot lane : Nat) : Agent :=
  let x := (s.group slot).lane lane
  .group slot x.pc.toNat x.depth.toNat

/-- The issuing class as the maker of its accesses. -/
def State.me (s : State) : Agent := s.classAgent s.ix.slot (s.ix.lanes.headD 0)

/-- The agent is a class of a group. -/
def Agent.ofGroup (a : Agent) (slot : Nat) : Bool :=
  match a with
  | .group g _ _ => g == slot
  | _ => false

/-- Nothing of a group waits any more. -/
def State.clearGroup (s : State) (slot : Nat) : State := { s with waits := s.waits.filter (fun w => !w.agent.ofGroup slot) }

/-- The agent waits on a fault that nothing has covered yet. -/
def State.agentWaits (s : State) (a : Agent) : Bool := s.waits.any (fun w => w.agent == a && w.fate == .pending)

/-- The cause under which an access of the agent to a page was ended without replay (R322). -/
def State.endedCause (s : State) (a : Agent) (via space va : Nat) : Option Nat :=
  (s.waits.find? (fun w => w.agent == a && w.fate == .ended && w.die == tlbDie via && w.space == space && w.page == va / 65536)).map (fun w => w.cause)

/-- The agent's waits are over: its access has succeeded or failed. -/
def State.clearWaits (s : State) (a : Agent) : State := { s with waits := s.waits.filter (fun w => w.agent != a) }

/-- The pieces of a range that lie in one 64 KiB page each: start and length. -/
def pieces : Nat → Nat → Nat → List (Nat × Nat)
  | 0, _, _ => []
  | fuel + 1, va, n =>
    if n = 0 then []
    else
      let k := min n (65536 - va % 65536)
      (va, k) :: pieces fuel (va + k) (n - k)

/-- The pieces of any range. -/
def piecesOf (va n : Nat) : List (Nat × Nat) := pieces (n / 65536 + 2) va n

/-- What an agent's access to a range meets first: nothing, a replayable fault, an end (also a lost page), or a table's line
that its home holds back (R353). -/
inductive Reach where
  | ok
  | fault (va level cause : Nat)
  | failed (va cause : Nat)
  | held
  deriving DecidableEq, Repr

/-- Test an agent's access to a range, page by page. -/
def State.reach (s : State) (agent : Agent) (die dom space : Nat) (need : Need) (t940 : Bool) : List (Nat × Nat) → Reach
  | [] => .ok
  | (va, _) :: t =>
    match s.endedCause agent die space va with
    | some c => .failed va c
    | none => match s.translate die dom space va need t940 with
      | .ok _ _ => s.reach agent die dom space need t940 t
      | .fault l c => .fault va l c
      | .held => .held
      | .lost => .failed va 0x0E

/-- The physical address of a virtual address that translates. -/
def State.paOf (s : State) (die dom space va : Nat) (need : Need) (t940 : Bool) : Nat :=
  match s.translate die dom space va need t940 with
  | .ok pa _ => pa
  | _ => 0

/-- The leaf of a virtual address that translates. -/
def State.leafOf (s : State) (die dom space va : Nat) (need : Need) (t940 : Bool) : Nat :=
  match s.translate die dom space va need t940 with
  | .ok _ leaf => leaf
  | _ => 0

/-- The translation through which a core may speculate (R297): held already, permitted, and to memory of the module itself that
needs no repair; its address and leaf. -/
def State.specAt (s : State) (via dom space va : Nat) (k : AccessKind) : Option (Nat × Nat) :=
  if (s.held via dom space va).isNone then none
  else match s.translate via dom space va (.kind k) false with
    | .ok pa leaf =>
      let at_ := s.locate pa
      if isHost at_ || (cxlOf at_).isSome || (range 0 4).any (s.needsRepair (lineOf pa)) then none else some (pa, leaf)
    | _ => none

/-- The bytes of a range that a T940 access may read (R283). -/
def State.tBytes (s : State) (die dom space va n : Nat) : List Byte :=
  (piecesOf va n).flatMap (fun p => s.homeBytes (s.paOf die dom space p.1 (.kind .read) true) p.2)

/-- Some byte of the range lies in a poisoned sector. -/
def State.tPoison (s : State) (die dom space va n : Nat) : Bool :=
  (piecesOf va n).any (fun p => s.homePoisonIn (s.paOf die dom space p.1 (.kind .read) true) p.2)

/-- The lines of a range that a T940 access may read. -/
def State.tLines (s : State) (via dom space va n : Nat) : List Nat :=
  linesOf ((piecesOf va n).map (fun p => (s.paOf via dom space p.1 (.kind .read) true, p.2)))

/-- The result of a T940 access: done, waiting on a fault now entered, or failed (ended without replay, or lost). -/
inductive TRead where
  | ok (s : State) (bytes : List Byte) (poison : Bool)
  | wait (s : State)
  | failed
  deriving DecidableEq, Repr

/-- Some line of a range that a T940 access reaches is held back by its home (R202, R353). -/
def State.tHolds (s : State) (via dom space va n : Nat) (k : AccessKind) : Bool :=
  (piecesOf va n).any (fun p => (linesOf [(s.paOf via dom space p.1 (.kind k) true, p.2)]).any s.lineHeld)

/-- A read the T940 makes on its own behalf (R283, R317). -/
def State.tRead (s : State) (agent : Agent) (die dom space va n : Nat) : TRead :=
  match s.reach agent die dom space (.kind .read) true (piecesOf va n) with
  | .ok =>
    if s.tHolds die dom space va n .read then .wait s
    else
      let t := s.healAll (s.tLines die dom space va n)
      .ok (t.wakeLines (t.tLines die dom space va n)) (t.tBytes die dom space va n) (t.tPoison die dom space va n)
  | .held => .wait s
  | .fault va l c => .wait (s.enterFault agent die dom space va .read true l c)
  | .failed _ _ => .failed

/-- Write bytes at a virtual range the T940 reaches (R283). -/
def State.tPut (s : State) (die dom space : Nat) : List (Nat × Nat) → List Byte → State
  | [], _ => s
  | (va, k) :: t, bs => (s.writeClean (s.paOf die dom space va (.kind .write) true) (bs.take k)).tPut die dom space t (bs.drop k)

/-- The result of a T940 write. -/
inductive TWrite where
  | ok (s : State)
  | wait (s : State)
  | failed
  deriving DecidableEq, Repr

/-- A write the T940 makes on its own behalf (R283, R317). -/
def State.tWrite (s : State) (agent : Agent) (die dom space va : Nat) (bs : List Byte) : TWrite :=
  match s.reach agent die dom space (.kind .write) true (piecesOf va bs.length) with
  | .ok => if s.tHolds die dom space va bs.length .write then .wait s else .ok (s.tPut die dom space (piecesOf va bs.length) bs)
  | .held => .wait s
  | .fault va l c => .wait (s.enterFault agent die dom space va .write true l c)
  | .failed _ _ => .failed

/-- A little-endian field of a handle entry (R23). -/
def HEntry.field (e : HEntry) (at_ n : Nat) : Nat := leNat (slice e.bytes at_ n)

/-- BASE without VALID (R23). -/
def HEntry.base (e : HEntry) : Nat := bits (e.field 0 8) 0 57

/-- LENGTH (R23). -/
def HEntry.length (e : HEntry) : Nat := e.field 8 8

/-- SPACE: 0 GLOBAL, 1 LOCAL, 2 CONST, 3 PEER, 4 EXACT, 5 TERM, 6 CODE, 7 STACK (R23). -/
def HEntry.space (e : HEntry) : Nat := e.field 16 1

/-- PERM: bit 0 R, 1 W, 2 A, 3 X, 4 D (R23). -/
def HEntry.perm (e : HEntry) : Nat := e.field 17 1

/-- The cache policy (R23, R165). -/
def HEntry.policy (e : HEntry) : Nat := e.field 18 1

/-- WIDE: offsets come from an even pair (R23). -/
def HEntry.wide (e : HEntry) : Bool := bit (e.field 19 1) 0

/-- ESIZE, or the window number of a PEER handle (R23). -/
def HEntry.esize (e : HEntry) : Nat := e.field 20 4

/-- An entry that counts as VALID (R23, R294). -/
def HEntry.valid (e : HEntry) : Bool :=
  bit (e.field 0 8) 63 && bits (e.field 0 8) 57 6 == 0 && decide (e.space ≤ 7) && decide (e.policy ≤ 4) &&
    decide (e.perm < 32) && decide (e.field 19 1 < 2) && e.field 24 8 == 0 &&
    (e.space != 4 || e.esize == 40 || e.esize == 272) && (e.space != 3 || decide (e.esize ≤ 2047))

/-- The bytes of a handle entry with the given fields (R23). -/
def handleBytes (valid : Bool) (base length space perm policy : Nat) (wide : Bool) (esize : Nat) : List Byte :=
  leBytes 8 (base + (if valid then 2 ^ 63 else 0)) ++ leBytes 8 length ++ leBytes 1 space ++ leBytes 1 perm ++
    leBytes 1 policy ++ leBytes 1 (b2n wide) ++ leBytes 4 esize ++ leBytes 8 0

/-- The result of a handle lookup (R287): an entry, a wait on a T940 fault, a wait for a line its home holds back, or a
table that cannot be read. -/
inductive Look where
  | entry (e : HEntry)
  | fault (va level cause : Nat)
  | held
  | failed
  deriving DecidableEq, Repr

/-- The key of a launch's handle in a core's handle cache. -/
def handleKey (lid i : Nat) : Nat := 4096 * lid + i

/-- Look up handle entry i of a launch, i at most 4,095, for an agent on a core (R286, R287). -/
def State.lookup (s : State) (agent : Agent) (core lid i : Nat) : Look :=
  match mget? (s.core core).hcache (handleKey lid i) with
  | some e => .entry e
  | none =>
    let l := s.launch lid
    let va := l.htab + 32 * i
    let die := dieOfCore core
    match s.reach agent die l.dom l.space (.kind .read) true (piecesOf va 32) with
    | .ok => if s.tHolds die l.dom l.space va 32 .read then .held else .entry { bytes := s.tBytes die l.dom l.space va 32, poison := s.tPoison die l.dom l.space va 32 }
    | .held => .held
    | .fault va lv c => .fault va lv c
    | .failed _ _ => .failed

/-- Keep a looked-up entry in the core's handle cache of 64 entries (R287). -/
def State.keepHandle (s : State) (core lid i : Nat) (e : HEntry) : State :=
  s.modCore core (fun c => { c with hcache := trim Config.handleEntries Config.victim (mset c.hcache (handleKey lid i) e) })

/-- A handle entry a group's access looked up stays in its core's handle cache, and the translation of its table held
(R284, R287). -/
def State.keepEntry (s : State) (slot lid i : Nat) (e : HEntry) : State :=
  let l := s.launch lid
  let lines := s.tLines (dieOfSlot slot) l.dom l.space (l.htab + 32 * i) 32
  let s := if (mget? (s.core (coreOfSlot slot)).hcache (handleKey lid i)).isSome then s else (s.healAll lines).wakeLines lines
  (s.touch (dieOfSlot slot) l.dom l.space (l.htab + 32 * i) (.kind .read) true).keepHandle (coreOfSlot slot) lid i e

/-- Every group slot of a launch's teams. -/
def State.launchSlots (s : State) (lid : Nat) : List Nat :=
  (s.groups.filter (fun e => (s.team e.2.team).lid == lid)).map (fun e => e.1)

/-- Record a launch's first failure (R246, R309). -/
def Launch.note (l : Launch) (status t : Nat) : Launch := if l.fail.isNone then { l with fail := some (status, t) } else l

/-- End a launch with STATUS 0x07 KILLED (R246, R322): no team of it starts any more, every lane of its groups exits, its
commands and queued tasks end without effect on it, and what waits for it waits no longer. -/
def State.killLaunch (s : State) (lid t : Nat) : State :=
  let slots := s.launchSlots lid
  { s with
    launches := mupd s.launches lid (fun l => { l.note 7 t with killed := true, next := l.gx * l.gy * l.gz, ringHead := l.ringTail, ringInfo := [] })
    groups := s.groups.map (fun e => if slots.contains e.1 then
      (e.1, { e.2 with lanes := e.2.lanes.map (fun x => { x with exited := true, sleep := .awake, chain := false }), k := [],
                       loads := [], storeQ := e.2.storeQ, deferred := [], held := false, trapped := true }) else e)
    cmds := s.cmds.filter (fun e => e.2.lid != lid)
    waits := s.waits.filter (fun w => match w.agent with
      | .group g _ _ => !slots.contains g
      | .teamStart l => l != lid
      | .ringTask l => l != lid
      | .handles l => l != lid
      | .cmd n => (match mget? s.cmds n with | some c => c.lid != lid | none => true)
      | _ => true)
    cores := s.cores.map (fun e => (e.1, { e.2 with tasks := e.2.tasks.filter (fun q => q.lid != lid) }))
    saved := s.saved.filter (fun t => t.lid != lid) }

end Sys2Proof.Machine
end

