-- ==== Sys2Proof/Machine/Access.lean ====
section
/-! DEFINITION. Addressing through handles: forming each lane's access (R188), the checks of R189 in their order, the
places an access reaches, and the writes a class sends on their way (R184, R191). -/

namespace Sys2Proof.Machine

/-- A trap as the raising rule gives it (R305, R308). -/
structure Trap where
  cause : Nat
  xval  : Word
  pc    : DWord
  lane  : Nat
  xaddr : DWord
  deriving DecidableEq, Repr

/-- What an instruction asks of a handle (R189, R192): the uniform register with the index, the offset operand, whether
the literal is added, the size in bytes (`image` when it is the entry's element size), the alignment, the spaces
accepted, the permissions and whether one of them suffices, the need at the leaf, the atomic with whether it is 64 bits
wide, and whether the instruction itself names an offset pair. -/
structure Ask where
  h      : Nat
  a      : Src
  disp   : Bool
  size   : Nat
  image  : Bool
  align  : Nat
  spaces : List Nat
  perms  : Nat
  anyOf  : Bool
  need   : Need
  aop    : Option (Aop × Bool)
  pairA  : Bool
  deriving DecidableEq, Repr

/-- What step 1 to 3 of R189 give the class: the index and its entry, a trap of the whole class, a wait on the table
(R287), a wait for a line of it that its home holds back (R353), or a table that cannot be read (R322). -/
inductive Opened where
  | ok (hx : Nat) (e : HEntry)
  | trap (cause : Nat) (xval : Word) (xaddr : DWord)
  | wait (va level cause : Nat)
  | held
  | failed
  deriving DecidableEq, Repr

/-- The address of handle entry i of a launch (R286). -/
def Launch.entryVa (l : Launch) (i : Nat) : Nat := l.htab + 32 * i

/-- The offset operand is an odd register (R39). -/
def srcOddReg : Src → Bool
  | .v n => n.val % 2 == 1
  | .s n => n.val % 2 == 1
  | _ => false

/-- PERM holds what is asked: every permission, or one of them (R192). -/
def HEntry.permits (e : HEntry) (perms : Nat) (anyOf : Bool) : Bool :=
  if anyOf then e.perm &&& perms != 0 else e.perm &&& perms == perms

/-- Steps 1 to 3 of R189 for the issuing class, with the odd offset of a WIDE handle between steps 2 and 3. -/
def State.openHandle (s : State) (x : Ask) (uniform : Bool) : Opened :=
  let g := s.cur
  let lid := (s.team g.team).lid
  let r := g.sget x.h
  if r.poison then .trap 0x0A 0 0
  else if 4095 < r.bits.toNat then .trap 0x05 r.bits 0
  else
    let hx := r.bits.toNat
    match s.lookup s.me (coreOfSlot s.ix.slot) lid hx with
    | .fault va l c => .wait va l c
    | .held => .held
    | .failed => .failed
    | .entry e =>
      if e.poison then .trap 0x0A r.bits (BitVec.ofNat 64 ((s.launch lid).entryVa hx))
      else if !e.valid || !x.spaces.contains e.space || (e.space == 7 && uniform) || (e.space == 3 && e.wide) then
        .trap 0x05 r.bits 0
      else if e.wide && srcOddReg x.a then .trap 0x01 s.ix.word 0
      else if !e.permits x.perms x.anyOf then .trap 0x04 r.bits 0
      else .ok hx e

/-- The offset operand is read as a pair (R188, R204). -/
def Ask.offPos (x : Ask) (e : HEntry) : Pos := if x.pairA || e.wide then .pair else .word

/-- Where one lane's access lands: its offset and virtual address, and the bytes it touches, as physical pieces or as
one piece of the core's local memory; the leaf it went through. -/
structure Spot where
  lane : Nat
  off  : Nat
  va   : Nat
  loc  : Bool
  at_  : List (Nat × Nat)
  leaf : Nat
  deriving DecidableEq, Repr

/-- What steps 4 to 9 of R189 give one lane; `held` while a line of a table is held back by its home (R353). -/
inductive LaneFate where
  | ok (p : Spot)
  | trap (t : Trap)
  | wait (va level cause : Nat)
  | held
  deriving DecidableEq, Repr

/-- The low 64 bits of an address. -/
def addrWord (va : Nat) : DWord := BitVec.ofNat 64 va

/-- Region(l) of a slot (R247): the byte offset of a lane's private region. -/
def regionOf (slot lane stack : Nat) : Nat := (256 * slot + lane) * stack

/-- The image kind and the space fit the AOP (R201). -/
def aopFits (e : HEntry) : Option (Aop × Bool) → Bool
  | none => true
  | some (.addX, wide) => e.space == 4 && !(wide && e.esize == 40)
  | some (_, _) => e.space != 4

/-- The code of an atomic operation (R49). -/
def aopNat : Aop → Nat
  | .addI => 0 | .addF => 1 | .minS => 2 | .maxS => 3 | .minU => 4 | .maxU => 5 | .minF => 6 | .maxF => 7
  | .and => 8 | .or => 9 | .xor => 10 | .xchg => 11 | .cas => 12 | .incWrap => 13 | .addX => 14

/-- A host range that cannot be locked (R202). -/
def State.unlockable (s : State) (pa : Nat) : Bool :=
  s.noLock.any (fun r => decide (r.1 ≤ pa) && decide (pa < r.1 + r.2))

/-- Step 9 of R189 for a range (R283, R202, R322). -/
def State.laneReach (s : State) (x : Ask) (via dom space lane off va size : Nat) : LaneFate :=
  let fail (cause : Nat) : LaneFate :=
    .trap { cause := cause, xval := BitVec.ofNat 32 va, pc := s.ix.pc, lane := lane, xaddr := addrWord va }
  let ps := piecesOf va size
  match s.reach s.me via dom space x.need false ps with
  | .fault fva l c => .wait fva l c
  | .failed _ c => fail c
  | .held => .held
  | .ok =>
    let at_ := ps.map (fun p => (s.paOf via dom space p.1 x.need false, p.2))
    if x.aop.isSome && at_.any (fun p => s.unlockable p.1) then fail 0x13
    else .ok { lane := lane, off := off, va := va, loc := false, at_ := at_, leaf := s.leafOf via dom space va x.need false }

/-- Steps 5 to 9 of R189 for one lane whose displaced offset is `off` (`exact` for an access to a whole image, whose
offset itself is aligned): bounds, alignment, the AOP, the data, translation
(R23, R188, R201, R204). A remote access is bounded by its handle and translated at its target. -/
def State.laneSpot (s : State) (x : Ask) (e : HEntry) (lane : Nat) (off : Int) (size align : Nat) (exact dataPoison : Bool) :
    LaneFate :=
  let g := s.cur
  let t := s.team g.team
  let l := s.launch t.lid
  let o := off.toNat
  let region := if e.space = 7 then regionOf s.ix.slot lane l.hdr.stackB else 0
  let va := e.base + region + o
  let trap (cause : Nat) (xval : Word) (xaddr : DWord) : LaneFate :=
    .trap { cause := cause, xval := xval, pc := s.ix.pc, lane := lane, xaddr := xaddr }
  let limit := if e.space = 7 then t.hdr.stackB else e.length
  if off < 0 then trap 0x03 (ofI 32 off) 0
  else if limit < o + size || (e.space == 7 && decide (e.length < region + o + size)) ||
      (e.space == 1 && decide (t.len < va + size)) || decide (vaLimit < va + size) then
    trap 0x03 (BitVec.ofNat 32 o) (addrWord va)
  else if !aligned va align || (exact && !aligned o align) then trap 0x06 (BitVec.ofNat 32 va) (addrWord va)
  else if !aopFits e x.aop then
    trap 0x13 (BitVec.ofNat 32 ((x.aop.elim 0 (fun p => aopNat p.1)) + 256 * e.space)) (addrWord va)
  else if dataPoison then trap 0x0A 0 (addrWord va)
  else if e.space = 1 then .ok { lane := lane, off := o, va := va, loc := true, at_ := [(t.base + va, size)], leaf := 0 }
  else if e.space = 3 then .ok { lane := lane, off := o, va := va, loc := false, at_ := [], leaf := 0 }
  else s.laneReach x (viaCore (coreOfSlot s.ix.slot)) l.dom l.space lane o va size

/-- The offset a lane forms: the operand read as unsigned, and the literal when L = 1 (R44, R188). For an instruction
that names an offset pair of its own, the low word is the offset. -/
def State.laneOffset (s : State) (x : Ask) (ws : List Reg) : Int :=
  let base := if x.pairA then ((ws.head?.map (fun r => r.bits.toNat)).getD 0) else (wordsVal ws).toNat
  (base : Int) + (if x.disp then s.ix.lit.toInt else 0)

/-- Steps 4 to 9 of R189 for one lane. -/
def State.checkLane (s : State) (x : Ask) (e : HEntry) (lane : Nat) (ws : List Reg) (dataPoison : Bool) : LaneFate :=
  if anyPoison ws then .trap { cause := 0x0A, xval := 0, pc := s.ix.pc, lane := lane, xaddr := 0 }
  else
    let exact := x.image && e.space == 4
    s.laneSpot x e lane (s.laneOffset x ws) (if exact then e.esize else x.size) (if exact then 8 else x.align) exact dataPoison

/-- What the checks give the class (R190): the spots of every lane, the lowest failing lane's trap, a wait for a home (R353), or waits. A lane that
fails a check traps the class at once, also while a lower lane's translation waits (DESIGN CHOICE, log 68). -/
inductive ClassFate where
  | ok (spots : List Spot)
  | trap (t : Trap)
  | held
  | wait (faults : List (Nat × Nat × Nat))
  deriving DecidableEq, Repr

/-- The fates of the lanes together (R190). -/
def classFate (l : List LaneFate) : ClassFate :=
  match l.findSome? (fun f => match f with
    | .trap t => some t
    | _ => none) with
  | some t => .trap t
  | none =>
    if l.contains .held then .held
    else
    let ws := l.filterMap (fun f => match f with
      | .wait va lv c => some (va, lv, c)
      | _ => none)
    if ws.isEmpty then .ok (l.filterMap (fun f => match f with
      | .ok p => some p
      | _ => none))
    else .wait ws

/-- The access kind of a need, for the fault buffer (R320). -/
def needKind : Need → AccessKind
  | .kind k => k
  | .mapped => .read

/-- The class waits on faults of its own accesses (R189 step 9, R317). -/
def State.waitLanes (s : State) (need : Need) (faults : List (Nat × Nat × Nat)) : State :=
  let dom := s.groupDom s.cur
  let space := s.groupSpace s.cur
  faults.foldl (fun acc f =>
    acc.enterFault s.me (viaCore (coreOfSlot s.ix.slot)) dom space f.1 (needKind need) false f.2.1 f.2.2) s

/-- The class waits on a fault of an access the T940 makes for it (R287, R317). -/
def State.waitTable (s : State) (k : AccessKind) (va level cause : Nat) : State :=
  s.enterFault s.me (dieOfSlot s.ix.slot) (s.groupDom s.cur) (s.groupSpace s.cur) va k true level cause

/-- Translations that served the class stay held (R284), and its waits are over. -/
def State.settleSpots (s : State) (need : Need) (spots : List Spot) : State :=
  let dom := s.groupDom s.cur
  let space := s.groupSpace s.cur
  (spots.foldl (fun acc p =>
    if p.loc then acc
    else (piecesOf p.va (p.at_.foldl (fun n q => n + q.2) 0)).foldl (fun acc q =>
      acc.touch (viaCore (coreOfSlot s.ix.slot)) dom space q.1 need false) acc) s).clearWaits s.me

/-- The key by which lanes' writes share a request (R184, R199): the sector of a store or an atomic, the place of an
image. -/
def Sent.key (w : Sent) : Nat := (w.at_.head?.map (fun p => p.1)).getD 0 / 32

/-- A lane's write joins the latest request of its key, unless a request after that one touches its bytes: those it must
follow (R191). -/
def joinSent (w : Sent) : List (List Sent) → Option (List (List Sent))
  | [] => none
  | r :: t => match joinSent w t with
    | some u => some (r :: u)
    | none =>
      if r.any (fun x => x.key == w.key) && !t.any (fun q => q.any (fun x => spansMeet x.at_ w.at_)) then some ((r ++ [w]) :: t)
      else none

/-- The writes of one instruction, lanes ascending, as requests by key (R184), each lane's bytes after those of the lanes
below it (R191). -/
def gatherSent (ws : List Sent) : List (List Sent) := ws.foldl (fun rs w => (joinSent w rs).getD (rs ++ [[w]])) []

/-- One request as a store-queue entry. -/
def homeWriteOf (id slot dom space : Nat) (ret : Option Nat) (ws : List Sent) : HomeWrite :=
  { id := id, slot := slot, spans := ws.flatMap (fun w => w.at_), ops := ws.map (fun w => { lane := w.lane, act := w.act }),
    ret := ret, dom := dom, space := space, va := (ws.head?.map (fun w => w.va)).getD 0,
    prot := ws.any (fun w => w.prot), repl := ws.any (fun w => w.repl), stage := .fresh }

/-- Number the requests of one instruction. -/
def numberWrites (slot dom space : Nat) (ret : Option Nat) : Nat → List (List Sent) → List HomeWrite
  | _, [] => []
  | n, ws :: t => homeWriteOf n slot dom space ret ws :: numberWrites slot dom space ret (n + 1) t

/-- The lines of an access's pieces, each with its virtual address; the pieces follow one another from `va`. -/
def linesFrom : Nat → List (Nat × Nat) → List (Nat × Nat)
  | _, [] => []
  | va, (pa, n) :: t => (linesOf [(pa, n)]).map (fun l => (l, va + 128 * l - pa)) ++ linesFrom (va + n) t

/-- What a write leaves to be covered by a survivable release (R182, R209). -/
def writtenOf (ws : List Sent) : List Written :=
  ws.flatMap (fun w => (linesFrom w.va (match w.act with
    | .close _ _ _ => []
    | _ => w.at_)).map (fun n => { lane := w.lane, line := n.1, va := n.2 / 128 * 128, prot := w.prot }))

/-- A group's writes enter its store queue (R184). -/
def State.sendAs (s : State) (slot : Nat) (ret : Option Nat) (ws : List Sent) : State :=
  let g := s.group slot
  let reqs := gatherSent ws
  let hs := numberWrites slot (s.groupDom g) (s.groupSpace g) ret s.seq reqs
  { s.modGroup slot (fun g => { g with storeQ := g.storeQ ++ hs, written := nub (g.written ++ writtenOf ws) }) with
    seq := s.seq + reqs.length }

/-- The writes of the issuing class enter its group's store queue. -/
def State.send (s : State) (ret : Option Nat) (ws : List Sent) : State := s.sendAs s.ix.slot ret ws

/-- The group's store queue is full, so that nothing more enters it (R184). -/
def State.queueFull (s : State) : Bool := decide (64 ≤ s.cur.storeQ.length)

/-- The writes of a group that are not performed yet, oldest first. -/
def State.pendingWrites (s : State) (slot : Nat) : List HomeWrite :=
  s.flight.filter (fun w => w.slot == slot) ++ (s.group slot).storeQ

end Sys2Proof.Machine
end

