-- ==== Sys2Proof/Machine/Loads.lean ====
section
/-! DEFINITION. Issuing a read of memory: what a lane's own pending stores give it (R162), what the core's L1 and the
die's remote-data cache serve (R165, R169, R175), and the outstanding access that waits for the rest (R184). -/

namespace Sys2Proof.Machine

/-- The lane number under which a uniform operation's write stands in a request: it names no lane (R40, R188). -/
def uniformLane : Nat := 256

/-- The byte a write gives an address, if it stores there. -/
def actByte (a : WriteAct) (b : Nat) : Option Byte :=
  match a with
  | .store pa bs => if pa ≤ b then bs[b - pa]? else none
  | _ => none

/-- The byte a lane's own pending stores give an address, the latest one (R162). -/
def ownByte (ws : List HomeWrite) (lane b : Nat) : Option Byte :=
  ws.foldl (fun acc w => w.ops.foldl (fun acc o => if o.lane = lane then (actByte o.act b).or acc else acc) acc) none

/-- The bytes an act touches. -/
def actSpans (w : HomeWrite) (a : WriteAct) : List (Nat × Nat) :=
  match a with
  | .store pa bs => [(pa, bs.length)]
  | .atomic _ pa n _ _ => [(pa, n)]
  | _ => w.spans

/-- An act whose bytes the group does not know before it is performed. -/
def actHidden : WriteAct → Bool
  | .store _ _ => false
  | _ => true

/-- An act stores every byte of a range, known before it is performed. -/
def actCovers (a : WriteAct) (span : Nat × Nat) : Bool :=
  match a with
  | .store pa bs => decide (pa ≤ span.1) && decide (span.1 + span.2 ≤ pa + bs.length)
  | _ => false

/-- The acts of pending writes that touch a range, by the lanes a test admits, oldest first. -/
def actsOn (ws : List HomeWrite) (mine : Nat → Bool) (span : Nat × Nat) : List WriteAct :=
  ws.flatMap (fun w => (w.ops.filter (fun o => mine o.lane && (actSpans w o.act).any (fun p => overlap p span))).map (fun o => o.act))

/-- A pending write of the group must be performed before a lane may read a range (R162): a uniform operation's write, for a
uniform read any write of the group, and else the lane's own, unless the latest of these that touches the range is a store of
all its bytes: a load returns one store's bytes whole (R164; log 31). -/
def mustWait (ws : List HomeWrite) (lane : Nat) (span : Nat × Nat) : Bool :=
  !(actsOn ws (fun l => lane == uniformLane || l == uniformLane) span).isEmpty ||
    (actsOn ws (fun l => l == lane) span).getLast?.any (fun a => !actCovers a span)

/-- A copy that may serve a load: in lease at its die's time, and granted late enough for the lanes' last SC fence
(R169, R175). -/
def Copy.serves (c : Copy) (now sc : Nat) : Bool := decide (now < c.ends) && decide (sc ≤ c.grant)

/-- A core has a write to the line whose acknowledgement has not arrived (R169). -/
def State.unacked (s : State) (core line : Nat) : Bool :=
  s.flight.any (fun w => coreOfSlot w.slot == core && (linesOf w.spans).contains line) ||
    s.acks.any (fun a => coreOfSlot a.slot == core && a.lines.contains line)

/-- A die has a write to the line that has passed its remote-data cache and is not acknowledged (R169). -/
def State.dieUnacked (s : State) (die line : Nat) : Bool :=
  s.flight.any (fun w => dieOfSlot w.slot == die && (linesOf w.spans).contains line) ||
    s.acks.any (fun a => dieOfSlot a.slot == die && a.lines.contains line)

/-- A space whose lines an L1 may hold (R165): GLOBAL, TERM and STACK. -/
def spaceCached (space : Nat) : Bool := space == 0 || space == 5 || space == 7

/-- A space and a cache policy that let a die's remote-data cache hold a line (R165): GLOBAL and TERM only. -/
def rdcAllowed (space policy : Nat) : Bool := (space == 0 || space == 5) && policy != 2 && policy != 4

/-- A fill of the line is on its way to the core past its die's remote-data cache. -/
def State.directFill (s : State) (core line : Nat) : Bool := s.fills.any (fun f => f.core == core && f.line == line && !f.far)

/-- What the core's L1 or, where `rdc` allows it, its die's remote-data cache serves for a sector now (R12, R169, R184). The
remote-data cache does not serve a core that a fill is on its way to past it: that fill may be the older one (R162). -/
def State.served (s : State) (core sec sc : Nat) (cached rdc : Bool) : Option Copy :=
  let die := dieOfCore core
  let now := s.dieTime die
  let line := sec / 4
  let fits (c : Copy) : Bool := c.serves now sc && c.secs.contains sec
  if !cached then none
  else match (mget? (s.core core).l1 line).filter fits with
    | some c => some c
    | none =>
      if homeDie (128 * line) = die ∨ !rdc ∨ s.directFill core line then none
      else (mget? s.rdc line).filter fits

/-- A served line stays in, or enters, the L1 with the lease it has (R168), unless the core has an unacknowledged write
to it. -/
def State.keepServed (s : State) (core line : Nat) (c : Copy) : State :=
  if s.unacked core line then s
  else s.modCore core (fun x => { x with l1 := trim Config.l1Lines Config.victim (mset x.l1 line c) })

/-- The completion time of the last SC fence of the issuing lanes (R175). -/
def State.scOf (s : State) : Nat := s.ix.lanes.foldl (fun n l => max n (s.cur.lane l).scAfter) 0

/-- The time a copy must not precede to serve one lane's read of a sector: its WAITCs have seen words of it at the home
(R162, R176). -/
def Lane.seenAfter (x : Lane) (sec : Nat) (at_ : List (Nat × Nat)) : Nat :=
  x.waited.foldl (fun n e => if e.1 / 32 = sec ∧ at_.any (overlap (e.1, 4)) then max n e.2 else n) 0

/-- The time copies must not precede to serve the class's read of a sector (R162, R175, R176). -/
def State.notBefore (s : State) (sec : Nat) (spots : List Spot) : Nat :=
  spots.foldl (fun n p =>
    (s.ix.lanes.filter (fun l => p.lane == l || p.lane == uniformLane)).foldl (fun n l => max n ((s.cur.lane l).seenAfter sec p.at_)) n) s.scOf

/-- The read of each lane at its first physical address: its own pending stores' bytes beside it. -/
def laneAccess (ws : List HomeWrite) (p : Spot) : LaneAccess :=
  let pa := (p.at_.head?.map (fun q => q.1)).getD 0
  let n := p.at_.foldl (fun n q => n + q.2) 0
  { lane := p.lane, pa := pa, size := n, own := (range pa n).map (ownByte ws p.lane) }

/-- An access of the issuing class is outstanding from now, under the next number (R184). -/
def State.outstand (s : State) (op : LoadOp) : State :=
  { s.modCur (fun g => { g with loads := g.loads ++ [(s.seq, op)] }) with seq := s.seq + 1 }

/-- The outstanding access of the class begins (R184): copies in lease serve their sectors, the others wait for the home.
Under policy 4 the core's L1 copies of the lines are dropped (R165). `popped` is what the instruction took from queue ports. -/
def State.startLoad (s : State) (kind : LoadKind) (popped : List (Nat × List (List Reg))) (uniform : Bool) (space policy : Nat)
    (spots : List Spot) : State :=
  let core := coreOfSlot s.ix.slot
  let cached := spaceCached space && policy != 4
  let rdc := rdcAllowed space policy
  let repl := linesOf ((spots.filter (fun p => bit p.leaf 7)).flatMap (fun p => p.at_))
  let secs := sectorsOf (spots.flatMap (fun p => p.at_))
  let got := secs.filterMap (fun k =>
    (s.served core k (s.notBefore k spots) cached (rdc && !repl.contains (k / 4))).map (fun c => (k, c)))
  let op : LoadOp :=
    { kind := kind, uniform := uniform, policy := policy, cached := cached, rdc := rdc, repl := repl, sc := s.scOf, lanes := s.ix.lanes,
      access := spots.map (laneAccess (s.pendingWrites s.ix.slot)),
      missing := secs.filter (fun k => !(got.any (fun e => e.1 == k))),
      lines := got.map (fun e => (e.1, e.2.data)), values := [], waiting := [], flags := 0#5, refusals := [], popped := popped }
  let lines := nub (secs.map (fun k => k / 4))
  let s := if policy = 4 then s.modCore core (fun x => { x with l1 := x.l1.filter (fun e => !lines.contains e.1) }) else s
  (got.foldl (fun acc e => acc.keepServed core (e.1 / 4) e.2) s).outstand op

/-- A byte of a line. -/
def lineByte (x : Line) (at_ : Nat) : Byte := x.bytes.getD at_ 0

/-- The supplied content of a sector, as its line. -/
def suppliedLine (lines : List (Nat × Line)) (n : Nat) : Line :=
  ((lines.find? (fun e => e.1 == n)).map (fun e => e.2)).getD { bytes := [], poison := [] }

/-- The bytes a lane's read returns. -/
def accessBytes (lines : List (Nat × Line)) (a : LaneAccess) : List Byte :=
  (range 0 a.size).map (fun i =>
    match a.own.getD i none with
    | some b => b
    | none => lineByte (suppliedLine lines ((a.pa + i) / 32)) ((a.pa + i) % 128))

/-- Some sector the lane's read touches carries poison. -/
def accessPoison (lines : List (Nat × Line)) (a : LaneAccess) : Bool :=
  (range (a.pa / 32) ((a.pa + a.size - 1) / 32 + 1 - a.pa / 32)).any (fun k =>
    (suppliedLine lines k).poison.getD (k % 4) false)

/-- The register words a load of a size makes of its bytes (R193, R194). -/
def loadWords (size : Nat) (signed : Bool) (bs : List Byte) (p : Bool) : List Reg :=
  let x := leNat bs
  if size = 1 then [{ bits := if signed then (BitVec.ofNat 8 x).signExtend 32 else BitVec.ofNat 32 x, poison := p }]
  else if size = 2 then [{ bits := if signed then (BitVec.ofNat 16 x).signExtend 32 else BitVec.ofNat 32 x, poison := p }]
  else (range 0 (size / 4)).map (fun i => { bits := BitVec.ofNat 32 (x / 2 ^ (32 * i)), poison := p })

/-- The words a load of a size writes. -/
def loadCount (size : Nat) : Nat := if size ≤ 4 then 1 else size / 4

end Sys2Proof.Machine
end

