-- ==== Sys2Proof/Machine/Ops.lean ====
section
/-! DEFINITION. The named operations the meanings share: slot indices (R30), moving on, falling asleep and waking
(R232 to R236), monitors (R212, R213), local memory (R166), atomic updates (R198), taking a trap and returning from one
(R306 to R311), the operand prologue and the two ways an arithmetic instruction writes its results (R89 to R91, R111). -/

namespace Sys2Proof.Machine

/-- The outcome of a row: nothing runs once a thermal trip has stopped the module (R362). -/
def State.runs (s t : State) : Host.Outcome State Fault Refusal := if s.stopped then .fault .moduleStopped else .next t

/-- The slot index of an address (R30). -/
def sidx (a : Nat) : Nat := 3 * (a / 16) + a % 16 / 4

/-- The address of a slot index; one below 0 names no address, and its low 64 bits are kept (R30, R256). -/
def addrOf (i : Int) : DWord := ofI 64 (16 * (i / 3) + 4 * (i % 3))

/-- The sequential successor (R30). -/
def nextPc (a : DWord) : DWord := addrOf ((sidx a.toNat : Int) + 1)

/-- A slot-relative target (R30). -/
def target (a : DWord) (off : Int) : DWord := addrOf ((sidx a.toNat : Int) + off)

/-- A target address that a program counter may hold (R31). -/
def pcLegal (a : DWord) : Bool := a.toNat % 4 == 0 && a.toNat % 16 != 12

/-- The lowest lane of the issuing class. -/
def State.lowest (s : State) : Nat := s.ix.lanes.headD 0

/-- The issuing class moves on to an address: awake, and inside a chain only when its word ties the next (R33, R224). -/
def State.moveTo (s : State) (a : DWord) : State :=
  s.modCur (fun g => g.modLanes s.ix.lanes (fun _ x => { x with pc := a, chain := s.ix.chain, sleep := .awake }))

/-- The issuing class moves on to the sequential successor. -/
def State.advance (s : State) : State := s.moveTo (nextPc s.ix.pc)

/-- The issuing class falls asleep where it is (R232). -/
def State.sleepAs (s : State) (why : Sleep) : State :=
  s.modCur (fun g => g.modLanes s.ix.lanes (fun _ x => { x with sleep := why }))

/-- The place in line of a class that joins lanes of its group asleep on the same port at its address and depth (R224,
R234). -/
def Group.queueToken (g : Group) (port : Nat) (pc : DWord) (depth : BitVec 16) : Option Nat :=
  g.lanes.findSome? (fun x => match x.sleep with
    | .queue p token _ _ => if p = port ∧ x.pc = pc ∧ x.depth = depth ∧ !x.exited then some token else none
    | _ => none)

/-- The issuing class falls asleep on a queue port (R41, R232, R234). -/
def State.sleepOn (s : State) (port : Nat) (u : Uses) : State :=
  match s.cur.queueToken port s.ix.pc (s.cur.lane s.lowest).depth with
  | some token => s.sleepAs (.queue port token u.pops u.push)
  | none => { s.sleepAs (.queue port s.seq u.pops u.push) with seq := s.seq + 1 }

/-! ### Barriers -/

/-- Every non-exited lane of a group has arrived at a barrier; a group that has ended is gone and holds none back (R235). -/
def Group.arrivedAt (g : Group) (n : Nat) : Bool := g.lanes.all (fun x => x.exited || x.arrived.getLsbD n)

/-- Some lane of a group has arrived. -/
def Group.someArrived (g : Group) (n : Nat) : Bool := g.lanes.any (fun x => x.arrived.getLsbD n)

/-- A lane at the completion of a generation: its arrival is cleared; asleep on it, it wakes, past a wait, or at a
second arrival's own BAR (R235, R236). -/
def Lane.released (x : Lane) (n : Nat) : Lane :=
  let x := { x with arrived := x.arrived &&& ~~~(BitVec.twoPow 16 n) }
  match x.sleep with
  | .barWait m => if m = n then { x with sleep := .awake, pc := nextPc x.pc, chain := false } else x
  | .barAgain m => if m = n then { x with sleep := .awake } else x
  | _ => x

/-- A group's writes before a point are acknowledged (R172). -/
def State.writesDone (s : State) (slot seq : Nat) : Bool :=
  (s.group slot).storeQ.all (fun w => decide (seq ≤ w.id)) &&
    s.flight.all (fun w => w.slot != slot || decide (seq ≤ w.id)) &&
    s.acks.all (fun a => a.slot != slot || decide (seq ≤ a.id))

/-- The groups of a team. -/
def State.teamGroups (s : State) (team : Nat) : List Group :=
  (s.groups.filter (fun e => e.2.team == team)).map (fun e => e.2)

/-- The releases of a group's arrivals at a barrier are complete, at team scope (R172, R237). -/
def State.arrivalDone (s : State) (slot n : Nat) : Bool := s.writesDone slot (sget 0 (s.group slot).arrSeq n)

/-- A generation of a barrier completes when every group of the team has arrived (R235) and what the arrivals release is
performed (R237). -/
def State.barrierCheck (s : State) (team n : Nat) : State :=
  let gs := s.teamGroups team
  if gs.all (fun g => g.arrivedAt n) && gs.any (fun g => g.someArrived n) &&
      s.groups.all (fun e => e.2.team != team || s.arrivalDone e.1 n) then
    { s.modTeam team (fun t => { t with gens := sset 0 t.gens n ((sget 0 t.gens n + 1) % 2 ^ 32) }) with
      groups := s.groups.map (fun e =>
        if e.2.team = team then (e.1, { e.2 with lanes := e.2.lanes.map (fun x => x.released n), arrSeq := mdel e.2.arrSeq n }) else e) }
  else s

/-- Every barrier of a team is looked at again, when lanes have exited or writes are acknowledged (R235, R237, R264). -/
def State.barriersCheck (s : State) (team : Nat) : State := (range 0 16).foldl (fun acc n => acc.barrierCheck team n) s

/-! ### Counters -/

/-- A counter falls by one; lanes asleep on YIELD at a threshold now met wake at their continuation, an observation of
completion (R144, R233, R265). -/
def Group.kDown (g : Group) (k : Nat) : Group :=
  let v := g.kget k - 1
  let wakes (x : Lane) : Bool := match x.sleep with
    | .yield j threshold _ => j == k && decide (v ≤ threshold)
    | _ => false
  let g := g.kset k v
  { g with
    lanes := g.lanes.map (fun x => match x.sleep with
      | .yield _ _ cont => if wakes x then { x with sleep := .awake, pc := cont, chain := false } else x
      | _ => x) }

/-- A counter rises by one (R141). -/
def Group.kUp (g : Group) (k : Nat) : Group := g.kset k (g.kget k + 1)

/-! ### The link stack, and traps -/

/-- A link-stack entry's access (R259): 8 bytes through the launch's STACK handle. -/
def stackAsk (k : AccessKind) : Ask :=
  { h := 0, a := .lit, disp := false, size := 8, image := false, align := 8, spaces := [7],
    perms := if k = .write then 2 else 1, anyOf := false, need := .kind k, aop := none, pairA := false }

/-- The launch's STACK handle for a push or a pop, looked up as the access issues: steps 2 and 3 of R189 (R259, R287). -/
def State.openStack (s : State) (k : AccessKind) : Opened :=
  let lid := (s.team s.cur.team).lid
  let l := s.launch lid
  match s.lookup s.me (coreOfSlot s.ix.slot) lid l.stackH with
  | .fault va lv c => .wait va lv c
  | .held => .held
  | .failed => .failed
  | .entry e =>
    if e.poison then .trap 0x0A (BitVec.ofNat 32 l.stackH) (BitVec.ofNat 64 (l.entryVa l.stackH))
    else if !e.valid || e.space != 7 then .trap 0x05 (BitVec.ofNat 32 l.stackH) 0
    else if !e.permits (stackAsk k).perms false then .trap 0x04 (BitVec.ofNat 32 l.stackH) 0
    else .ok l.stackH e

/-- What an access to the link stack leaves held (R284, R287), its waits over. -/
def State.settleStack (s : State) (k : AccessKind) (hx : Nat) (e : HEntry) (spots : List Spot) : State :=
  (s.keepEntry s.ix.slot (s.team s.cur.team).lid hx e).settleSpots (.kind k) spots

/-- BASE of the launch's STACK entry as the lookup finds it, else as it was accepted (R247, R287). -/
def State.stackBase (s : State) : Nat :=
  let lid := (s.team s.cur.team).lid
  match s.lookup s.me (coreOfSlot s.ix.slot) lid (s.launch lid).stackH with
  | .entry e => e.base
  | _ => (s.launch lid).stack.base

/-- The checks of one lane's entry at an offset of its region. -/
def State.stackSpot (s : State) (k : AccessKind) (e : HEntry) (lane : Nat) (lsp : Nat) : LaneFate :=
  s.laneSpot (stackAsk k) e lane (lsp : Int) 8 8 false false

/-- Entries of return addresses are stored, one per lane (R259). -/
def State.sendReturns (s : State) (spots : List Spot) (ret : DWord) : State :=
  s.send none (spots.map (fun p =>
    { lane := p.lane, at_ := p.at_, va := p.va, prot := bit p.leaf 6, repl := bit p.leaf 7,
      act := .store ((p.at_.head?.map (fun q => q.1)).getD 0) (leBytes 8 ret.toNat) }))

/-- A lane after a push (R259). -/
def Lane.pushed (x : Lane) (pc : DWord) : Lane :=
  { x with pc := pc, depth := x.depth + 1, lsp := x.lsp + 8, chain := false, sleep := .awake }

/-- A lane after a pop (R259). -/
def Lane.popped (x : Lane) (pc : DWord) : Lane :=
  { x with pc := pc, depth := x.depth - 1, lsp := x.lsp - 8, chain := false, sleep := .awake }

/-- EndGroup(TRAPPED) (R309): every lane exits, deferred failures are discarded, the launch and a task's join learn it,
and barriers that waited for the group may complete. -/
def State.endGroup (s : State) : State :=
  let tid := s.cur.team
  let t := s.team tid
  ((((s.modCur (fun g => { g with lanes := g.lanes.map (fun x => { x with exited := true, sleep := .awake, chain := false }),
                                  deferred := [], loads := [], trapped := true })).modTeam tid
    (fun t => { t with failed := true })).modLaunch t.lid (fun l => l.note 5 t.t)).barriersCheck tid).clearGroup s.ix.slot

/-- The trap registers as a trap records them (R308). -/
def State.recordTrap (s : State) (t : Trap) : State :=
  s.modCur (fun g => { g with xcause := BitVec.ofNat 32 t.cause, xval := t.xval, xpc := t.pc,
                              xlane := BitVec.ofNat 32 t.lane, xaddr := t.xaddr })

/-- A lane's link stack cannot take one more entry (R308). -/
def Lane.full (x : Lane) (limit : Nat) : Bool := x.depth == BitVec.allOnes 16 || decide (limit < x.lsp.toNat + 8)

/-- The handle table of a launch cannot be read: the launch ends (R287, R322). -/
def State.tableLost (s : State) : State :=
  let tid := s.cur.team
  s.killLaunch (s.team tid).lid (s.team tid).t

/-- The pushes of trap entry (R308), with the trap registers recorded: a link-stack entry of `pc` in every lane of the
issuing class, the handler at depth + 1. Without a vector, or when an entry cannot be pushed, the group ends; a replayable
fault of a push stalls the class between the record and the push; a handle table that cannot be read ends the
launch (R322). -/
def State.enterVector (s : State) (pc : DWord) : State :=
  let g := s.cur
  let team := s.team g.team
  let stalled := s.sleepAs (.entering pc)
  match (s.launch team.lid).vector with
  | none => s.endGroup
  | some v =>
    if s.ix.lanes.any (fun l => (g.lane l).full team.hdr.stackB) then s.endGroup
    else match s.openStack .write with
      | .wait va l c => stalled.waitTable .read va l c
      | .held => stalled
      | .ok hx e =>
        match classFate (s.ix.lanes.map (fun l => s.stackSpot .write e l (g.lane l).lsp.toNat)) with
        | .trap _ => s.endGroup
        | .held => stalled
        | .wait fs => stalled.waitLanes (.kind .write) fs
        | .ok spots =>
          if s.queueFull then stalled
          else (((s.settleStack .write hx e spots).clearWaits s.me).sendReturns spots pc).modCur (fun g =>
            g.modLanes s.ix.lanes (fun _ x => { x.pushed v with run := 0 }))
      | .failed => s.tableLost
      | .trap _ _ _ => s.endGroup

/-- Trap entry for the issuing class (R308): the five registers, then the pushes. -/
def State.takeTrap (s : State) (t : Trap) : State := (s.recordTrap t).enterVector t.pc

/-- A trap of the issuing instruction that names the class (R255). -/
def State.trapAt (s : State) (cause : Nat) (xval : Word) (xaddr : DWord) : State :=
  s.takeTrap { cause := cause, xval := xval, pc := s.ix.pc, lane := s.lowest, xaddr := xaddr }

/-- A decode trap (R54). -/
def State.decodeTrap (s : State) (cause : Nat) : State := s.trapAt cause s.ix.word 0

/-- A trap of a class that is not issuing: it is taken at its own address. -/
def State.trapAsleep (s : State) (slot : Nat) (lanes : List Nat) (t : Trap) : State :=
  let ix := s.ix
  { ({ s with ix := { slot := slot, lanes := lanes, pc := t.pc, word := 0, lit := 0, chain := false } }.takeTrap t) with ix := ix }

/-- XRET (R311): the checks of its class, then the entry load, whose value is not used; the class goes to sr.xpc as it stands
now. -/
def State.xret (s : State) : State :=
  let g := s.cur
  match s.ix.lanes.find? (fun l => (g.lane l).depth == 0) with
  | some l => s.takeTrap { cause := 0x0B, xval := BitVec.ofNat 32 0xC0000000, pc := s.ix.pc, lane := l, xaddr := 0 }
  | none => match s.openStack .read with
    | .ok hx e =>
      match classFate (s.ix.lanes.map (fun l => s.stackSpot .read e l ((g.lane l).lsp.toNat - 8))) with
      | .trap t => s.takeTrap t
      | .held => s
      | .wait fs => s.waitLanes (.kind .read) fs
      | .ok spots =>
        if !pcLegal g.xpc then s.trapAt 0x06 (g.xpc.setWidth 32) 0
        else (s.settleStack .read hx e spots).startLoad (.xret g.xpc) [] false 7 e.policy spots
    | .trap c xval xaddr => s.trapAt c xval xaddr
    | .wait va l c => s.waitTable .read va l c
    | .held => s
    | .failed => s.tableLost

/-- The end of XRET: every lane of the class pops and goes to the address it read from sr.xpc (R311). -/
def State.finishXret (s : State) (to_ : DWord) : State := s.modCur (fun g => g.modLanes s.ix.lanes (fun _ x => x.popped to_))

/-! ### Monitors -/

/-- The condition of a WAITC (R212). -/
def Cond.holds : Cond → Word → Word → Bool
  | .eq, m, d => m == d
  | .ne, m, d => m != d
  | .ge, m, d => !(m - d).msb

/-- The word a monitor watches, as it stands. -/
def State.watched (s : State) (p : Place) : Word := BitVec.ofNat 32 (leNat (s.placeBytes p 4))

/-- A monitor after its word has been written (R212). -/
def State.testWatch (s : State) (w : Watch) : Watch :=
  if w.latched || s.placePoison w.place then w else { w with latched := w.cond.holds (s.watched w.place) w.d }

/-- A lane has seen a word at its home (R176): later loads of its bytes are not served from a copy granted before then
(R162). Entries that no lease can outlive are forgotten. -/
def Lane.sees (x : Lane) (p : Place) (now : Nat) : Lane :=
  match p with
  | .phys pa => { x with waited := mset (x.waited.filter (fun e => decide (now ≤ e.2 + Config.maxLease + Config.skewGuard))) pa now }
  | .loc _ _ => x

/-- Two lanes that sleep at one WAITC: they share depth and program counter, so they are one class (R222, R224). -/
def Lane.sameWait (x y : Lane) : Bool :=
  x.pc == y.pc && x.depth == y.depth && !x.exited && !y.exited && (match x.sleep, y.sleep with
    | .waitc _, .waitc _ => true
    | _, _ => false)

/-- Every lane of a WAITC class has latched, so it wakes past its WAITC (R212, R232), each lane having loaded its word at
the home (R176); `now` is the device time at which a copy must be granted to hold what was seen. It sleeps on while a write of
a word it watches is not performed everywhere (`held`, R179). -/
def wakeWatches (now : Nat) (held : Place → Bool) (g : Group) : Group :=
  let open_ (x : Lane) : Bool := g.lanes.any (fun y => x.sameWait y && (match y.sleep with
    | .waitc w => !w.latched || held w.place
    | _ => false))
  { g with lanes := g.lanes.map (fun x => match x.sleep with
    | .waitc w => if open_ x then x else { (x.sees w.place now) with sleep := .awake, pc := nextPc x.pc }
    | _ => x) }

/-- The device time of either die next after now: no copy granted earlier holds what is performed now (R7). -/
def State.after (s : State) : Nat := max (s.dieTime 0) (s.dieTime 1) + 1

/-- A replica has not applied a write of the word that its home has performed (R179). -/
def State.replicating (s : State) (p : Place) : Bool :=
  match p with
  | .phys pa => s.lineReplicating (lineOf pa)
  | .loc _ _ => false

/-- Test the monitors of a group whose words meet a test of their place. -/
def State.testGroup (s : State) (hit : Place → Bool) (g : Group) : Group :=
  wakeWatches s.after s.replicating { g with lanes := g.lanes.map (fun x => match x.sleep with
    | .waitc w => if hit w.place then { x with sleep := .waitc (s.testWatch w) } else x
    | _ => x) }

/-- Test a saved lane's monitor (R254). -/
def State.testSleep (s : State) (hit : Place → Bool) (x : Sleep) : Sleep :=
  match x with
  | .waitc w => if hit w.place then .waitc (s.testWatch w) else x
  | _ => x

/-- The lanes that watch a poisoned word with a monitor still open, one in each group: slot, lowest such lane (R213). -/
def State.poisonedWatches (s : State) (hit : Place → Bool) : List (Nat × Nat) :=
  s.groups.filterMap (fun e => (findIx (fun x => match x.sleep with
      | .waitc w => !x.exited && !w.latched && hit w.place && s.placePoison w.place
      | _ => false) e.2.lanes).map (fun l => (e.1, l)))

/-- The lanes of a group that sleep at one WAITC with a lane. -/
def Group.watchLanes (g : Group) (l : Nat) : List Nat :=
  (range 0 g.width).filter (fun k => (g.lane l).sameWait (g.lane k))

/-- Entries an instruction took from a port go back to the head of their queue, for it traps (R41): to the places it
left, as far as these are free (log 65). -/
def State.putBack (s : State) (slot : Nat) (es : List (Nat × List (List Reg))) : State :=
  es.foldl (fun acc e =>
    let t := acc.team (acc.group slot).team
    match portOf (acc.group slot) t e.1 with
    | none => acc
    | some c =>
      let es := e.2.drop (e.2.length + c.count - 16)
      let c' : Chan := { c with head := (c.head + 16 - es.length) % 16, tags := es.map (fun ws => ws.map (fun r => r.poison)) ++ c.tags }
      (es.zipIdx.foldl (fun acc x => acc.writeLoc (coreOfSlot slot) (c'.place t.base x.2) (x.1.flatMap (fun r => leBytes 4 r.bits.toNat)))
        acc).setPort slot e.1 c') s

/-- The monitors on a word are tested after a value is performed there: one latches, one on a word that has become
poisoned raises POISON at its WAITC (R191, R212, R213). -/
def State.notify (s : State) (hit : Place → Bool) : State :=
  let bad := s.poisonedWatches hit
  let s := bad.foldl (fun acc e =>
    (acc.putBack e.1 ((acc.group e.1).watchPops ((acc.group e.1).watchLanes e.2))).trapAsleep e.1 ((acc.group e.1).watchLanes e.2)
      { cause := 0x0A, xval := 0, pc := ((acc.group e.1).lane e.2).pc, lane := e.2, xaddr := 0 }) s
  { s with
    groups := s.groups.map (fun e => (e.1, s.testGroup hit e.2))
    saved := s.saved.map (fun t => { t with groups := t.groups.map (fun g => { g with sleeps := g.sleeps.map (s.testSleep hit) }) }) }

/-- The places whose word shares a byte with a physical range. -/
def hitsPhys (pa n : Nat) (p : Place) : Bool :=
  match p with
  | .phys q => overlap (q, 4) (pa, n)
  | .loc _ _ => false

/-- The places whose word shares a byte with a range of local memory. -/
def hitsLocal (core off n : Nat) (p : Place) : Bool :=
  match p with
  | .phys _ => false
  | .loc c o => c == core && overlap (o, 4) (off, n)

/-- Monitors on a physical range are tested. -/
def State.notifyPhys (s : State) (pa n : Nat) : State := s.notify (hitsPhys pa n)

/-- Monitors on a range of local memory are tested. -/
def State.notifyLocal (s : State) (core off n : Nat) : State := s.notify (hitsLocal core off n)

/-! ### Local memory -/

/-- The sectors that a list of ranges covers whole (R315). -/
def wholeSectors (spans : List (Nat × Nat)) : List Nat :=
  (sectorsOf spans).filter (fun k => (range (32 * k) 32).all (fun b => spans.any (fun p => decide (p.1 ≤ b) && decide (b < p.1 + p.2))))

/-- Writes of one instruction or command to local memory, one after another, each with its poison (R130) and tested by
the monitors once its tag stands (R213); sectors that clean ones cover whole lose their tags (R166, R191, R315). -/
def State.putLocalAs (s : State) (core : Nat) (ws : List (Nat × List Byte × Bool)) : State :=
  let spans (p : Bool) : List (Nat × Nat) := (ws.filter (fun w => w.2.2 == p)).map (fun w => (w.1, w.2.1.length))
  let bad := sectorsOf (spans true)
  let s := ws.foldl (fun acc w =>
    let t := acc.writeLoc core w.1 w.2.1
    (if w.2.2 then (sectorsOf [(w.1, w.2.1.length)]).foldl (fun t k => t.setLocPoison core k true) t else t).notifyLocal
      core w.1 w.2.1.length) s
  ((wholeSectors (spans false)).filter (fun k => !bad.contains k)).foldl (fun acc k => acc.setLocPoison core k false) s

/-- A lane instruction's writes to local memory. -/
def State.putLocal (s : State) (core : Nat) (ws : List (Nat × List Byte)) : State :=
  s.putLocalAs core (ws.map (fun w => (w.1, w.2, false)))

/-! ### Destinations -/

/-- An entry enters a queue behind the others: its words are written to its place in local memory (R21, R41, R234). -/
def State.pushEntry (s : State) (slot port : Nat) (ws : List Reg) : State :=
  let t := s.team (s.group slot).team
  match portOf (s.group slot) t port with
  | none => s
  | some c =>
    let core := coreOfSlot slot
    (s.putLocalAs core [(c.place t.base c.count, ws.flatMap (fun r => leBytes 4 r.bits.toNat), false)]).setPort slot port
      { c with tags := c.tags ++ [ws.map (fun r => r.poison)] }

/-- Write results to a destination (R90): to each lane of the class, once to a uniform register or channel, or nowhere.
For a uniform destination the first result is the one written. -/
def State.writeDst (s : State) (slot : Nat) (d : Dst) (words : Nat) (res : List (Nat × List Reg)) : State :=
  let g := s.group slot
  match d with
  | .nul => s
  | .v n => s.modGroup slot (fun g => g.modLanes (res.map (fun e => e.1)) (fun i x => x.vput n.val (resultOf res i)))
  | .s n => s.modGroup slot (fun g => g.sput n.val ((res.head?.map (fun e => e.2)).getD []))
  | .q n => match (s.team g.team).chan? n.val with
    | none => s
    | some c => (pushEntries c.vector g.width words res).foldl (fun acc ws => acc.pushEntry slot n.val ws) s

/-! ### Atomic updates -/

/-- The new value of an atomic's target of `n` bytes (R198). -/
def newValue (aop : Aop) (n m d swap : Nat) : Nat :=
  let w := 8 * n
  let sm := (BitVec.ofNat w m).toInt
  let sd := (BitVec.ofNat w d).toInt
  let f := if n = 4 then Fmt.f32 else Fmt.f64
  match aop with
  | .addI => (m + d) % 2 ^ w
  | .addF => (fpAdd f m d).1
  | .minS => if sd < sm then d else m
  | .maxS => if sm < sd then d else m
  | .minU => min m d
  | .maxU => max m d
  | .minF => (fpMinMax f false m d).1
  | .maxF => (fpMinMax f true m d).1
  | .and => m &&& d
  | .or => m ||| d
  | .xor => m ^^^ d
  | .xchg => d
  | .cas => if m = d then swap else m
  | .incWrap => if d ≤ m then 0 else m + 1
  | .addX => m

/-! ### Operands -/

/-- A uniform operation: no destination and no source is a vector operand (R35, R40). -/
def Uses.isUniform (u : Uses) (t : Team) : Bool := !dstIsVec t u.dst && u.srcs.all (fun x => !srcIsVec t x.1)

/-- The lanes for which an operation is evaluated: the class, or once (R40, R90). -/
def State.evalLanes (s : State) (u : Uses) : List Nat :=
  if u.isUniform (s.team s.cur.team) then [s.lowest] else s.ix.lanes

/-- Why operands are not ready: a decode trap, or a queue port that cannot serve (R41, R54). -/
inductive Held where
  | trap (cause : Nat)
  | port (p : Nat)
  deriving DecidableEq, Repr

/-- The fate of an instruction's operands before it issues; none when they are ready. -/
def State.heldBy (s : State) (u : Uses) : Option Held :=
  let g := s.cur
  let t := s.team g.team
  match u.refused t g.nregs with
  | some c => some (.trap c)
  | none => (blockedPort g t (s.owed g) u.pops u.push).map Held.port

/-- The operand prologue of R41 and R54: a decode trap, sleep on a queue port, or the operands taken. -/
def State.withOperands (s : State) (u : Uses) (go : List (Pos × Got) → State → State) : State :=
  match s.heldBy u with
  | some (.trap c) => s.decodeTrap c
  | some (.port p) => s.sleepOn p u
  | none =>
    let r := s.take s.ix.slot u.srcs
    go r.1 r.2

/-- The words the sources give a lane. -/
def State.srcWords (s : State) (gots : List (Pos × Got)) (l : Nat) : List (List Reg) := laneWords s.cur s.ix.lit gots l

/-- Results are written, flags are ORed, and the class moves on (R81, R90). -/
def State.retire (s : State) (u : Uses) (rs : List (Nat × Res)) : State :=
  ((s.writeDst s.ix.slot u.dst u.words (rs.map (fun e => (e.1, e.2.words)))).orFlags (orAll (rs.map (fun e => e.2.flags)))).advance

/-- An arithmetic instruction: each lane's result from its own operands (R89, R94). -/
def State.alu (s : State) (u : Uses) (f : List (List Reg) → Res) : State :=
  s.withOperands u (fun gots t => t.retire u ((s.evalLanes u).map (fun l => (l, f (t.srcWords gots l)))))

/-- A lane operation (R111): each lane's result from the operands of the whole class, or one result for a uniform
destination (R115 to R117); D = nul is none, so it is evaluated for each lane (R38, R40; log 29). `f` takes whether the result is the group's, the class, the lane that evaluates, and the
operands of every lane. -/
def State.cross (s : State) (u : Uses) (f : Bool → List Nat → Nat → (Nat → List (List Reg)) → Res) : State :=
  let t := s.team s.cur.team
  let once := dstIsUni t u.dst
  s.withOperands u (fun gots t =>
    t.retire u ((if once then [s.lowest] else s.ix.lanes).map (fun l => (l, f once s.ix.lanes l (t.srcWords gots)))))

/-- The operands of an F3 instruction that reads A and B. -/
def use2 (d : Dst) (words : Nat) (a : Src) (pa : Pos) (b : Src) (pb : Pos) : Uses :=
  { srcs := [(a, pa), (b, pb)], dst := d, words := words, uniform := [a, b], noUni := false }

/-- The operands of an F3 instruction that reads D too (R43). -/
def use3 (d : Dst) (words : Nat) (a : Src) (pa : Pos) (b : Src) (pb pd : Pos) : Uses :=
  { srcs := [(a, pa), (b, pb), (dstSrc d, pd)], dst := d, words := words, uniform := [a, b], noUni := false }

/-- The operands of an F2 instruction. -/
def use1 (d : Dst) (words : Nat) (a : Src) (pa : Pos) : Uses :=
  { srcs := [(a, pa)], dst := d, words := words, uniform := [a], noUni := false }

end Sys2Proof.Machine
end

