-- ==== Sys2Proof/Machine/Integer.lean ====
section
/-! DEFINITION. The integer instructions (R94 to R100): 32-bit and 64-bit arithmetic, the INTU functions, TCNT, and
the immediates. None sets a flag. -/

namespace Sys2Proof.Machine

/-- The outcome of a row of the opcode table. -/
abbrev Out := Host.Outcome State Fault Refusal

/-- A 32-bit F3 integer instruction (R94). -/
def State.word2 (s : State) (d : Dst) (a b : Src) (f : Word → Word → Word) : Out :=
  s.runs (s.alu (use2 d 1 a .word b .word) (plainly 1 (int2 f)))

/-- A 64-bit F3 integer instruction whose B is a pair (R96). -/
def State.pair2 (s : State) (d : Dst) (a b : Src) (f : DWord → DWord → DWord) : Out :=
  s.runs (s.alu (use2 d 2 a .pair b .pair) (plainly 2 (long2 f)))

/-- A 64-bit shift: B is a 32-bit count (R96). -/
def State.shift2 (s : State) (d : Dst) (a b : Src) (f : DWord → DWord → DWord) : Out :=
  s.runs (s.alu (use2 d 2 a .pair b .word) (plainly 2 (long2 f)))

/-- A 64-bit comparison into a word (R96). -/
def State.test2 (s : State) (d : Dst) (a b : Src) (f : DWord → DWord → Bool) : Out :=
  s.runs (s.alu (use2 d 1 a .pair b .pair) (plainly 1 (long2 (fun x y => BitVec.ofNat 64 (b2n (f x y))))))

/-- A widening accumulation into the pair D (R96). -/
def State.wide3 (s : State) (d : Dst) (a b : Src) (f : DWord → DWord → DWord → DWord) : Out :=
  s.runs (s.alu (use3 d 2 a .word b .word .pair) (plainly 2 (long3 f)))

/-- An INTU function of a word (R97). -/
def State.word1 (s : State) (d : Dst) (a : Src) (f : Word → Word) : Out :=
  s.runs (s.alu (use1 d 1 a .word) (plainly 1 (int1 f)))

/-- An INTU function of a pair (R97). -/
def State.pair1 (s : State) (d : Dst) (a : Src) (f : DWord → DWord) : Out :=
  s.runs (s.alu (use1 d 2 a .pair) (plainly 2 (long1 f)))

/-- 1 or 0 as a word. -/
def bitWord (b : Bool) : Word := BitVec.ofNat 32 (b2n b)

/-- Bits of a product (R94). -/
def mulhs (a b : Word) : Word := (a.signExtend 64 * b.signExtend 64).extractLsb' 32 32

/-- The high half of the unsigned product (R94). -/
def mulhu (a b : Word) : Word := (a.setWidth 64 * b.setWidth 64).extractLsb' 32 32

/-- Bits reversed (R97). -/
def bitRev (a : Word) : Word := BitVec.ofBoolListBE ((range 0 32).map a.getLsbD)

/-- Bytes reversed (R97). -/
def byteRev (a : Word) : Word :=
  a.extractLsb' 0 8 ++ (a.extractLsb' 8 8 ++ (a.extractLsb' 16 8 ++ a.extractLsb' 24 8))

/-- The count of leading zero bits (R97). -/
def leadZeros (a : Word) : Nat := if a = 0 then 32 else 31 - Nat.log2 a.toNat

/-- The count of trailing zero bits (R97). -/
def trailZeros (a : Word) : Nat := (findIx (fun i => a.getLsbD i) (range 0 32)).getD 32

/-- The count of one bits (R97). -/
def oneBits (a : Word) : Nat := ((range 0 32).filter (fun i => a.getLsbD i)).length

/-- The number of terms in the NAF of the low 16 bits read as S16 (R98). -/
def termCount (a : Word) : Nat := (naf (a.extractLsb' 0 16).toInt).length

/-- SEL (R95): the word selected, and the tag of a and of that word only. -/
def selRes : List (List Reg) → Res
  | [a] :: [b] :: [d] :: _ =>
    let w := if a.bits = 0 then d else b
    { words := [{ bits := w.bits, poison := a.poison || w.poison }], flags := 0#5 }
  | _ => { words := [Reg.zero], flags := 0#5 }

/-- NOP (R46): no effect but its issue. -/
def execNop (s : State) : Out := s.runs s.advance

/-- ADD (R94). -/
def execAdd (d : Dst) (a b : Src) (s : State) : Out :=
  s.word2 d a b (fun x y => x + y)

/-- SUB (R94). -/
def execSub (d : Dst) (a b : Src) (s : State) : Out :=
  s.word2 d a b (fun x y => x - y)

/-- MUL (R94). -/
def execMul (d : Dst) (a b : Src) (s : State) : Out :=
  s.word2 d a b (fun x y => x * y)

/-- MULH (R94). -/
def execMulh (d : Dst) (a b : Src) (s : State) : Out :=
  s.word2 d a b mulhs

/-- MULHU (R94). -/
def execMulhu (d : Dst) (a b : Src) (s : State) : Out :=
  s.word2 d a b mulhu

/-- MAD (R94): D is read. -/
def execMad (d : Dst) (a b : Src) (s : State) : Out :=
  s.runs (s.alu (use3 d 1 a .word b .word .word) (plainly 1 (int3 (fun x y z => x * y + z))))

/-- AND (R94). -/
def execAnd (d : Dst) (a b : Src) (s : State) : Out :=
  s.word2 d a b (fun x y => x &&& y)

/-- OR (R94). -/
def execOr (d : Dst) (a b : Src) (s : State) : Out :=
  s.word2 d a b (fun x y => x ||| y)

/-- XOR (R94). -/
def execXor (d : Dst) (a b : Src) (s : State) : Out :=
  s.word2 d a b (fun x y => x ^^^ y)

/-- SHL (R94): every bit of the count takes part. -/
def execShl (d : Dst) (a b : Src) (s : State) : Out :=
  s.word2 d a b (fun x y => x <<< y.toNat)

/-- SHR (R94). -/
def execShr (d : Dst) (a b : Src) (s : State) : Out :=
  s.word2 d a b (fun x y => x >>> y.toNat)

/-- SAR (R94). -/
def execSar (d : Dst) (a b : Src) (s : State) : Out :=
  s.word2 d a b (fun x y => x.sshiftRight y.toNat)

/-- MIN (R94), signed. -/
def execMin (d : Dst) (a b : Src) (s : State) : Out :=
  s.word2 d a b (fun x y => if y.slt x then y else x)

/-- MAX (R94), signed. -/
def execMax (d : Dst) (a b : Src) (s : State) : Out :=
  s.word2 d a b (fun x y => if x.slt y then y else x)

/-- MINU (R94). -/
def execMinu (d : Dst) (a b : Src) (s : State) : Out :=
  s.word2 d a b (fun x y => if y.ult x then y else x)

/-- MAXU (R94). -/
def execMaxu (d : Dst) (a b : Src) (s : State) : Out :=
  s.word2 d a b (fun x y => if x.ult y then y else x)

/-- SLT (R94). -/
def execSlt (d : Dst) (a b : Src) (s : State) : Out :=
  s.word2 d a b (fun x y => bitWord (x.slt y))

/-- SLTU (R94). -/
def execSltu (d : Dst) (a b : Src) (s : State) : Out :=
  s.word2 d a b (fun x y => bitWord (x.ult y))

/-- SEQ (R94). -/
def execSeq (d : Dst) (a b : Src) (s : State) : Out :=
  s.word2 d a b (fun x y => bitWord (x == y))

/-- SEL (R94, R95). -/
def execSel (d : Dst) (a b : Src) (s : State) : Out :=
  s.runs (s.alu (use3 d 1 a .word b .word .word) selRes)

/-- ADD64 (R96). -/
def execAdd64 (d : Dst) (a b : Src) (s : State) : Out :=
  s.pair2 d a b (fun x y => x + y)

/-- SUB64 (R96). -/
def execSub64 (d : Dst) (a b : Src) (s : State) : Out :=
  s.pair2 d a b (fun x y => x - y)

/-- MUL64 (R96). -/
def execMul64 (d : Dst) (a b : Src) (s : State) : Out :=
  s.pair2 d a b (fun x y => x * y)

/-- SHL64 (R96). -/
def execShl64 (d : Dst) (a b : Src) (s : State) : Out :=
  s.shift2 d a b (fun x y => x <<< y.toNat)

/-- SHR64 (R96). -/
def execShr64 (d : Dst) (a b : Src) (s : State) : Out :=
  s.shift2 d a b (fun x y => x >>> y.toNat)

/-- SAR64 (R96). -/
def execSar64 (d : Dst) (a b : Src) (s : State) : Out :=
  s.shift2 d a b (fun x y => x.sshiftRight y.toNat)

/-- SLT64 (R96). -/
def execSlt64 (d : Dst) (a b : Src) (s : State) : Out :=
  s.test2 d a b BitVec.slt

/-- SLTU64 (R96). -/
def execSltu64 (d : Dst) (a b : Src) (s : State) : Out :=
  s.test2 d a b BitVec.ult

/-- MADWU (R96): the sources are zero-extended words. -/
def execMadwu (d : Dst) (a b : Src) (s : State) : Out :=
  s.wide3 d a b (fun x y z => z + x * y)

/-- ADDWU (R96). -/
def execAddwu (d : Dst) (a b : Src) (s : State) : Out :=
  s.wide3 d a b (fun x y z => z + x + y)

/-- MOV (R97). -/
def execMov (d : Dst) (a : Src) (s : State) : Out :=
  s.word1 d a (fun x => x)

/-- NOT (R97). -/
def execNot (d : Dst) (a : Src) (s : State) : Out :=
  s.word1 d a (fun x => ~~~x)

/-- NEG (R97). -/
def execNeg (d : Dst) (a : Src) (s : State) : Out :=
  s.word1 d a (fun x => -x)

/-- ABS (R97). -/
def execAbs (d : Dst) (a : Src) (s : State) : Out :=
  s.word1 d a (fun x => if x.msb then -x else x)

/-- CLZ (R97). -/
def execClz (d : Dst) (a : Src) (s : State) : Out :=
  s.word1 d a (fun x => BitVec.ofNat 32 (leadZeros x))

/-- CTZ (R97). -/
def execCtz (d : Dst) (a : Src) (s : State) : Out :=
  s.word1 d a (fun x => BitVec.ofNat 32 (trailZeros x))

/-- POPC (R97). -/
def execPopc (d : Dst) (a : Src) (s : State) : Out :=
  s.word1 d a (fun x => BitVec.ofNat 32 (oneBits x))

/-- BREV (R97). -/
def execBrev (d : Dst) (a : Src) (s : State) : Out :=
  s.word1 d a (fun x => bitRev x)

/-- BSWAP (R97). -/
def execBswap (d : Dst) (a : Src) (s : State) : Out :=
  s.word1 d a (fun x => byteRev x)

/-- SEXTB (R97). -/
def execSextb (d : Dst) (a : Src) (s : State) : Out :=
  s.word1 d a (fun x => (x.extractLsb' 0 8).signExtend 32)

/-- SEXTH (R97). -/
def execSexth (d : Dst) (a : Src) (s : State) : Out :=
  s.word1 d a (fun x => (x.extractLsb' 0 16).signExtend 32)

/-- ZEXTB (R97). -/
def execZextb (d : Dst) (a : Src) (s : State) : Out :=
  s.word1 d a (fun x => (x.extractLsb' 0 8).setWidth 32)

/-- ZEXTH (R97). -/
def execZexth (d : Dst) (a : Src) (s : State) : Out :=
  s.word1 d a (fun x => (x.extractLsb' 0 16).setWidth 32)

/-- TCNT (R98). -/
def execTcnt (d : Dst) (a : Src) (s : State) : Out :=
  s.word1 d a (fun x => BitVec.ofNat 32 (termCount x))

/-- MOV64 (R97). -/
def execMov64 (d : Dst) (a : Src) (s : State) : Out :=
  s.pair1 d a (fun x => x)

/-- NEG64 (R97). -/
def execNeg64 (d : Dst) (a : Src) (s : State) : Out :=
  s.pair1 d a (fun x => -x)

/-- MOVI (R99). -/
def execMovi (d : Dst) (i : BitVec 16) (s : State) : Out :=
  s.runs (s.alu { srcs := [], dst := d, words := 1, uniform := [], noUni := false }
    (fun _ => { words := [Reg.of (i.signExtend 32)], flags := 0#5 }))

/-- MOVIH (R100): D is read, and its tag is kept. -/
def execMovih (d : Dst) (i : BitVec 16) (s : State) : Out :=
  s.runs (s.alu { srcs := [(dstSrc d, .word)], dst := d, words := 1, uniform := [], noUni := false }
    (plainly 1 (int1 (fun x => i ++ x.extractLsb' 0 16))))

end Sys2Proof.Machine
end

