-- ==== Sys2Proof/Machine/Sched.lean ====
section
/-! DEFINITION. Which class of a group issues (R222, R223), which group of a partition issues (R230), and the waits at
issue of FX instructions (R141, R142, R250, R268). -/

namespace Sys2Proof.Machine

/-- Some class of a group fell asleep on the port before. -/
def Group.earlier (g : Group) (port token : Nat) : Bool :=
  g.lanes.any (fun x => match x.sleep with
    | .queue p k _ _ => !x.exited && p == port && decide (k < token)
    | _ => false)

/-- Some class fell asleep on the port before (R234): of any group of the team, or of the group itself for its q14. -/
def State.earlierInLine (s : State) (g : Group) (port token : Nat) : Bool :=
  if port = 14 then g.earlier port token else (s.teamGroups g.team).any (fun x => x.earlier port token)

/-- A lane may be chosen to issue (R222): awake, stalled in a trap entry, or asleep on a queue port that can serve it and
first in its line (R232, R234, R308). -/
def State.candidate (s : State) (g : Group) (x : Lane) : Bool :=
  !x.exited && !x.parked && (match x.sleep with
    | .awake => true
    | .entering _ => true
    | .queue port token pops push =>
      (blockedPort g (s.team g.team) (s.owed g) pops push).isNone && !s.earlierInLine g port token
    | _ => false)

/-- A lane stalled at a fence is not asleep: it stays a candidate of its group, which other classes issue past (R208,
R227, R232). -/
def Lane.atFence (x : Lane) : Bool :=
  !x.exited && !x.parked && (match x.sleep with
    | .fence _ => true
    | _ => false)

/-- A candidate lane (R222, R227), one that could issue or one stalled at a fence. -/
def State.counts (s : State) (g : Group) (x : Lane) : Bool := s.candidate g x || x.atFence

/-- The trap entry a lane is stalled in: the entry's value (R308). -/
def Lane.enters (x : Lane) : Option DWord :=
  match x.sleep with
  | .entering pc => some pc
  | _ => none

/-- One lane's issue key is higher than another's (R222). -/
def keyHigher (a b : Lane) : Bool := decide (b.depth < a.depth) || (a.depth == b.depth && decide (a.pc < b.pc))

/-- The candidate lanes of a group, only those between the words of a chain when there are any (R34, R223). -/
def State.candidates (s : State) (g : Group) : List Nat :=
  let all := (range 0 g.lanes.length).filter (fun l => s.candidate g (g.lane l))
  if all.any (fun l => (g.lane l).chain) then all.filter (fun l => (g.lane l).chain) else all

/-- The issuing class of a group: its candidates with the highest key (R222). -/
def State.issuingClass (s : State) (g : Group) : List Nat :=
  let cs := s.candidates g
  match bestBy (fun a b => keyHigher (g.lane b) (g.lane a)) cs with
  | none => []
  | some l => cs.filter (fun m => (g.lane m).pc == (g.lane l).pc && (g.lane m).depth == (g.lane l).depth &&
      (g.lane m).enters == (g.lane l).enters)

/-- Free q14 entries that no command in flight has reserved (R142), beside those kept for entries that may come back (R41). -/
def Group.q14Free (g : Group) : Nat := 16 - g.q14.count - g.q14res - g.owes 14

/-- The commands of one engine of a core that have not ended: the copy engine, or the term engine (R141). A command that has
started keeps its place in the queue until it completes (DESIGN CHOICE, log 74). -/
def State.engineLoad (s : State) (core : Nat) (term : Bool) : Nat :=
  (s.cmds.filter (fun e => e.2.core == core && (e.2.op == .mtask || e.2.op == .mtaskStream) == term)).length

/-- A drain of the space of a team's group is in progress (R250); a task's group is never stalled by it. -/
def State.drained (s : State) (g : Group) : Bool :=
  let t := s.team g.team
  let l := s.launch t.lid
  t.task.isNone && (match (s.dom l.dom).drain with
    | some d => d.space == l.space && !d.resume
    | none => false)

/-- What an FX instruction needs to issue: its counter, whether it asks for a record, and the engine that queues it. -/
def fxNeeds : Instr → Option (Nat × Bool × Option Bool)
  | .xcopy _ r k _ => some (k.val, r, some false)
  | .xgather _ r _ k _ => some (k.val, r, some false)
  | .xscatter _ r _ k _ => some (k.val, r, some false)
  | .xencTerm _ r k _ => some (k.val, r, some false)
  | .xencBlock _ r k _ => some (k.val, r, some false)
  | .xdecTerm _ r k _ => some (k.val, r, some false)
  | .xdecBlock _ r k _ => some (k.val, r, some false)
  | .mtask _ r k _ => some (k.val, r, some true)
  | .mtaskStream _ r k _ => some (k.val, r, some true)
  | .spawn r _ k _ => some (k.val, r, none)
  | _ => none

/-- The instruction has the FX format. -/
def isFx (i : Instr) : Bool :=
  match i with
  | .mbound _ _ _ => true
  | .xstat _ _ _ => true
  | _ => (fxNeeds i).isSome

/-- The issuing class of a group stands at a boundary at which a deferred trap is taken: not between the words of a chain,
and not at an instruction whose access has met a fault (R146, R306, R322). -/
def State.deferredDue (s : State) (slot : Nat) : Bool :=
  let g := s.group slot
  let l := (s.issuingClass g).headD 0
  !g.deferred.isEmpty && !(g.lane l).chain && (g.lane l).enters.isNone && s.waits.all (fun w => w.agent != s.classAgent slot l)

/-- Issue of an FX instruction waits: a counter at 255, no room in q14, a full engine queue, a drain (R141, R142,
R250). -/
def State.fxStalled (s : State) (slot : Nat) (i : Instr) : Bool :=
  let g := s.group slot
  (isFx i && s.drained g) || (match fxNeeds i with
    | none => false
    | some (k, r, engine) => g.kget k == 255 || (r && decide (g.q14Free < 4)) ||
        (match engine with
        | some term => decide ((if term then 16 else 32) ≤ s.engineLoad (coreOfSlot slot) term)
        | none => false))

/-- Some lanes of a group have an access outstanding (R184). -/
def Group.outstanding (g : Group) (ls : List Nat) : Bool := g.loads.any (fun e => e.2.lanes.any ls.contains)

/-- The group can issue its class's next word: not held, nothing of the class outstanding, no fault of it waiting, its
last store's writes all in the queue (R184, R189, R223, R250). -/
def State.mayIssue (s : State) (slot : Nat) : Bool :=
  let g := s.group slot
  let ls := s.issuingClass g
  !g.held && !ls.isEmpty && !g.outstanding ls && decide (g.storeQ.length ≤ 64) &&
    !s.agentWaits (s.classAgent slot (ls.headD 0))

/-- The destination an outstanding access will write. -/
def LoadKind.dst : LoadKind → Option (Dst × Nat)
  | .load d size _ => some (d, max 1 (size / 4))
  | .atom d size _ => some (d, size / 4)
  | .remote d size => some (d, size / 4)
  | _ => none

/-- A word may name a uniform register or a queue port that an outstanding access of another class still writes (R91,
R223): the three low bytes of a word hold every specifier it names, and FX words name eight registers (log 6). -/
def Group.inFlight (g : Group) (w : Word) : Bool :=
  let fields := (range 0 3).map (fun i => (w.extractLsb' (8 * i) 8).toNat)
  g.loads.any (fun e => match e.2.kind.dst with
    | some (.s n, k) => fields.any (fun b => decide (n.val < b % 128 + 8) && decide (b % 128 < n.val + k))
    | some (.q _, _) => fields.any (fun b => decide (0x70 ≤ b) && decide (b < 0x7F))
    | _ => false)

/-! ### The two words of a core cycle -/

/-- A specifier names a vector register or a vector channel (R35, R40). -/
def specVec (t : Team) (b : Nat) : Bool :=
  decide (b ≤ 0x6F) || (decide (b < 0x7E) && (t.chan? (b - 0x70)).any (fun c => c.vector))

/-- The pipe of a word (R35, R46); `ends` for a word of pipe B. -/
def pipeOf (t : Team) (w : Word) (ends : Bool) : Pipe :=
  let op := (w.extractLsb' 24 7).toNat
  let f (i : Nat) : Nat := (w.extractLsb' (8 * i) 8).toNat
  let named := if op = 0x47 ∨ op = 0x48 ∨ op = 0x49 then [f 2]
    else if op = 0x1F ∨ op = 0x2A ∨ op = 0x34 ∨ op = 0x3B ∨ op = 0x3C then [f 2, f 1] else [f 2, f 1, f 0]
  if op = 0 then .none
  else if ends then .b
  else if op ≤ 0x3C ∨ (0x47 ≤ op ∧ op ≤ 0x49) then (if named.any (specVec t) then .v else .u)
  else if op ≤ 0x46 then .v
  else if op = 0x4A then .u
  else if op ≤ 0x67 then .m
  else .x

/-- Two words go to different pipes (R14, R35). -/
def pipesPair (p q : Pipe) : Bool := p == .none || q == .none || p != q

/-- The later word of a chain names nothing that the earlier one writes, pops or pushes (R34): no field of it lies within
a quad of the earlier word's destination, no queue port is named by both, and a YIELD follows no FX word. -/
def wordsPair (a b : Word) : Bool :=
  let f (w : Word) (i : Nat) : Nat := (w.extractLsb' (8 * i) 8).toNat
  let op (w : Word) : Nat := (w.extractLsb' 24 7).toNat
  let port (x : Nat) : Bool := decide (0x70 ≤ x) && decide (x < 0x7F)
  !((range 0 3).any (fun i => decide (f a 2 < f b i + 8) && decide (f b i < f a 2 + 4) && f a 2 != 0x7F)) &&
    !((range 0 3).any (fun i => port (f a i) && (range 0 3).any (fun j => f b j == f a i))) &&
    !(decide (0x68 ≤ op a) && (op b == 0x7C || decide (0x68 ≤ op b)))

/-- The effective priority of a group (R230). -/
def Group.effective (g : Group) : Nat := if g.boost then 16 else g.prio.toNat

/-- One group stands before another of its partition (R230). -/
def before (a b : Group) : Bool :=
  decide (b.effective < a.effective) ||
    (a.effective == b.effective && (decide (a.lastIssue < b.lastIssue) ||
      (a.lastIssue == b.lastIssue && decide (a.resident < b.resident))))

/-- The groups of one partition that a test admits. -/
def State.partGroups (s : State) (core part : Nat) (ok : Nat → Bool) : List Nat :=
  (s.groups.filter (fun e => coreOfSlot e.1 == core && partOfSlot e.1 == part && ok e.1)).map (fun e => e.1)

/-- The ready group that issues first on a partition (R230). -/
def State.chooseGroup (s : State) (core part : Nat) (ok : Nat → Bool) : Option Nat :=
  bestBy (fun a b => before (s.group b) (s.group a)) (s.partGroups core part ok)

/-- A group that is ready now, at a core cycle: it has priority 16 once it has been ready for 1,024 cycles (R230). -/
def Group.aged (g : Group) (now : Nat) : Group := if g.ready + 1024 ≤ now then { g with boost := true } else g

/-- Ready times kept up: a group that is not ready now starts its count of consecutive ready cycles afresh, one that is gains
priority 16 in time (R230). -/
def State.aged (s : State) (ok : Nat → Bool) : State :=
  { s with groups := s.groups.map (fun e =>
      let now := s.cycleOf (coreOfSlot e.1)
      (e.1, if ok e.1 then e.2.aged now else { e.2 with ready := now })) }

end Sys2Proof.Machine
end

