-- ==== Sys2Proof/Machine/Control.lean ====
section
/-! DEFINITION. The control instructions (R255 to R266, R310, R311): branches with their parking, calls and returns,
EXIT, YIELD, barriers, TRAP, BKPT and XRET. The checks of one instruction are made one after another, each for every
lane (R306; log 21). -/

namespace Sys2Proof.Machine

/-- The lowest lane of the class that fails a check. -/
def State.failing (s : State) (bad : Lane → Bool) : Option Nat := s.ix.lanes.find? (fun l => bad (s.cur.lane l))

/-- A trap that names one lane. -/
def State.trapLane (s : State) (cause lane : Nat) (xval : Word) (xaddr : DWord) : State :=
  s.takeTrap { cause := cause, xval := xval, pc := s.ix.pc, lane := lane, xaddr := xaddr }

/-! ### Branches -/

/-- The greatest taken-branch run (R228). -/
def runLimit : Nat := 65536

/-- A lane outside the issuing class is a candidate (R228). -/
def State.otherCandidate (s : State) : Bool :=
  let g := s.cur
  (range 0 g.lanes.length).any (fun l => !s.ix.lanes.contains l && s.counts g (g.lane l))

/-- Automatic parking (R228): the lanes of the class that have just taken a backward branch park at their target, when the
count of one has reached the limit and another lane is a candidate (log 32). -/
def State.autoPark (s : State) (took : List Nat) : State :=
  if s.otherCandidate && took.any (fun l => (s.cur.lane l).run == runLimit) then
    s.modCur (fun g => g.modLanes took (fun _ x => { x with parked := true, run := 0 }))
  else s

/-- One lane under a branch (R258): `back` when the target is at or below the branch's own slot index. -/
def Lane.branch (x : Lane) (taken back spin : Bool) (t next : DWord) : Lane :=
  let x := { x with pc := if taken then t else next, chain := false, sleep := .awake }
  if back && !taken then { x with run := 0 }
  else if back && spin then { x with run := 0, parked := true }
  else if back then { x with run := min (x.run + 1) runLimit }
  else x

/-- A branch by a condition on each lane's word, after the poison check of every lane (R258). -/
def State.branchOn (s : State) (spin : Bool) (off : BitVec 16) (cond : Nat → Reg) (test : Word → Bool) : State :=
  match s.ix.lanes.find? (fun l => (cond l).poison) with
  | some l => s.trapLane 0x0A l 0 0
  | none =>
    let t := target s.ix.pc off.toInt
    let back := decide (off.toInt ≤ 0)
    let taken (l : Nat) : Bool := test (cond l).bits
    let s' := s.modCur (fun g => g.modLanes s.ix.lanes (fun l x => x.branch (taken l) back spin t (nextPc s.ix.pc)))
    if back && !spin then s'.autoPark (s.ix.lanes.filter taken) else s'

/-- A branch with a condition operand (R257). A trap pops nothing. -/
def State.branchAs (s : State) (spin : Bool) (a : Src) (off : BitVec 16) (test : Word → Bool) : Out :=
  let u : Uses := { srcs := [(a, .word)], dst := .nul, words := 0, uniform := [], noUni := false }
  s.runs (s.withOperands u (fun gots t =>
    let cond (l : Nat) : Reg := ((t.srcWords gots l).headD []).headD Reg.zero
    if s.ix.lanes.any (fun l => (cond l).poison) then s.branchOn spin off cond test else t.branchOn spin off cond test))

/-- A branch that is always taken. -/
def State.branchAlways (s : State) (spin : Bool) (off : BitVec 16) : Out :=
  s.runs (s.branchOn spin off (fun _ => Reg.zero) (fun _ => true))

/-- B (R257, R258). -/
def execB (o : BitVec 16) (s : State) : Out := s.branchAlways false o

/-- BZ (R257, R258). -/
def execBz (a : Src) (o : BitVec 16) (s : State) : Out := s.branchAs false a o (fun c => c == 0)

/-- BNZ (R257, R258). -/
def execBnz (a : Src) (o : BitVec 16) (s : State) : Out := s.branchAs false a o (fun c => c != 0)

/-- BLTZ (R257, R258). -/
def execBltz (a : Src) (o : BitVec 16) (s : State) : Out := s.branchAs false a o (fun c => c.msb)

/-- BGEZ (R257, R258). -/
def execBgez (a : Src) (o : BitVec 16) (s : State) : Out := s.branchAs false a o (fun c => !c.msb)

/-- B.S (R226, R258). -/
def execBS (o : BitVec 16) (s : State) : Out := s.branchAlways true o

/-- BZ.S (R226, R258). -/
def execBzS (a : Src) (o : BitVec 16) (s : State) : Out := s.branchAs true a o (fun c => c == 0)

/-- BNZ.S (R226, R258). -/
def execBnzS (a : Src) (o : BitVec 16) (s : State) : Out := s.branchAs true a o (fun c => c != 0)

/-! ### Calls and returns -/

/-- The STACK trap's sr.xval (R260): the reason and the lane's depth. -/
def stackXval (reason : Nat) (x : Lane) : Word := BitVec.ofNat 32 (reason * 2 ^ 30 + x.depth.toNat)

/-- The virtual address of a byte of a lane's region (R247, R260). -/
def State.regionVa (s : State) (lane lsp : Nat) : Nat :=
  let l := s.launch (s.team s.cur.team).lid
  s.stackBase + regionOf s.ix.slot lane l.hdr.stackB + lsp

/-- Push the sequential successor in every lane and go to each lane's target (R259 to R262): the checks of R260 in
order, then R189 for the entry stores. -/
def State.callTo (s : State) (t : Nat → DWord) : State :=
  let limit := (s.team s.cur.team).hdr.stackB
  match s.failing (fun x => x.depth == BitVec.allOnes 16) with
  | some l => s.trapLane 0x0B l (stackXval 1 (s.cur.lane l)) 0
  | none => match s.failing (fun x => decide (limit < x.lsp.toNat + 8)) with
    | some l => s.trapLane 0x0B l (stackXval 2 (s.cur.lane l)) (addrWord (s.regionVa l (s.cur.lane l).lsp.toNat))
    | none => match s.openStack .write with
      | .ok hx e =>
        match classFate (s.ix.lanes.map (fun l => s.stackSpot .write e l (s.cur.lane l).lsp.toNat)) with
        | .trap tr => (s.clearWaits s.me).takeTrap tr
        | .held => s
        | .wait fs => s.waitLanes (.kind .write) fs
        | .ok spots =>
          if s.queueFull then s
          else ((s.settleStack .write hx e spots).sendReturns spots (nextPc s.ix.pc)).modCur (fun g =>
            g.modLanes s.ix.lanes (fun l x => x.pushed (t l)))
      | .trap c xval xaddr => s.trapAt c xval xaddr
      | .wait va l c => s.waitTable .read va l c
      | .held => s
      | .failed => s.tableLost

/-- CALL (R261). -/
def execCall (o : BitVec 24) (s : State) : Out := s.runs (s.callTo (fun _ => target s.ix.pc o.toInt))

/-- The target pair of CALLR and JR, of each lane (R262). -/
def State.jumpPair (s : State) (a : Src) (l : Nat) : List Reg := gotWords s.cur s.ix.lit .pair (.reg a) l

/-- The checks of CALLR and JR in their order (R262): decode, POISON, MISALIGN; then `go` with each lane's target. -/
def State.jumpAs (s : State) (a : Src) (go : (Nat → DWord) → State) : Out :=
  let u : Uses := { srcs := [(a, .pair)], dst := .nul, words := 0, uniform := [], noUni := false }
  s.runs (s.withOperands u (fun _ _ =>
    match s.ix.lanes.find? (fun l => anyPoison (s.jumpPair a l)) with
    | some l => s.trapLane 0x0A l 0 0
    | none =>
      let t (l : Nat) : DWord := wordsVal (s.jumpPair a l)
      match s.ix.lanes.find? (fun l => !pcLegal (t l)) with
      | some l => s.trapLane 0x06 l ((t l).setWidth 32) 0
      | none => go t))

/-- CALLR (R262). -/
def execCallr (a : Src) (s : State) : Out := s.jumpAs a s.callTo

/-- JR (R262, R228): a jump to an address at or below its own counts toward automatic parking. -/
def execJr (a : Src) (s : State) : Out :=
  s.jumpAs a (fun t =>
    let back (l : Nat) : Bool := decide ((t l).toNat ≤ s.ix.pc.toNat)
    (s.modCur (fun g => g.modLanes s.ix.lanes (fun l x =>
      { x with pc := t l, chain := false, sleep := .awake, run := if back l then min (x.run + 1) runLimit else x.run }))).autoPark
      (s.ix.lanes.filter back))

/-- RET (R263): the checks of its class up to the entry load, which the group waits for. -/
def execRet (s : State) : Out :=
  s.runs (match s.failing (fun x => x.depth == 0) with
    | some l => s.trapLane 0x0B l (stackXval 3 (s.cur.lane l)) 0
    | none => match s.openStack .read with
      | .ok hx e =>
        match classFate (s.ix.lanes.map (fun l => s.stackSpot .read e l ((s.cur.lane l).lsp.toNat - 8))) with
        | .trap tr => (s.clearWaits s.me).takeTrap tr
        | .held => s
        | .wait fs => s.waitLanes (.kind .read) fs
        | .ok spots =>
          if spots.any (fun p => p.at_.any (fun q => mustWait (s.pendingWrites s.ix.slot) p.lane q)) then s
          else (s.settleStack .read hx e spots).startLoad .ret [] false 7 e.policy spots
      | .trap c xval xaddr => s.trapAt c xval xaddr
      | .wait va l c => s.waitTable .read va l c
      | .held => s
      | .failed => s.tableLost)

/-- The end of RET, with each lane's entry (R263): a poisoned entry, then a target no program counter may hold, else
every lane pops. -/
def State.finishRet (s : State) (entry : Nat → DWord × Bool) : State :=
  match s.ix.lanes.find? (fun l => (entry l).2) with
  | some l => s.trapLane 0x0A l 0 (addrWord (s.regionVa l ((s.cur.lane l).lsp.toNat - 8)))
  | none => match s.ix.lanes.find? (fun l => !pcLegal (entry l).1) with
    | some l => s.trapLane 0x06 l ((entry l).1.setWidth 32) 0
    | none => s.modCur (fun g => g.modLanes s.ix.lanes (fun l x => x.popped (entry l).1))

/-! ### Exit, counters, barriers -/

/-- EXIT (R264): the exit state of every lane of the class; barriers that waited for them may complete (R235). -/
def execExit (s : State) : Out :=
  s.runs ((s.modCur (fun g => g.modLanes s.ix.lanes (fun _ x =>
    { x with exited := true, chain := false, sleep := .awake }))).barriersCheck s.cur.team)

/-- YIELD (R265): the continuation at once, or sleep until the counter is at or below the threshold. -/
def execYield (t : Fin 32) (k : Fin 8) (i : BitVec 16) (s : State) : Out :=
  let cont := target s.ix.pc i.toInt
  s.runs (if s.cur.kget k.val ≤ t.val then s.moveTo cont else s.sleepAs (.yield k.val t.val cont))

/-- A lane that arrives at a barrier (R235, R236, R266): a second arrival sleeps for the current generation, a first one
arrives, and waits or goes on. -/
def Lane.arrive (x : Lane) (n : Nat) (waits : Bool) : Lane :=
  if x.arrived.getLsbD n then { x with sleep := .barAgain n, chain := false }
  else
    let x := { x with arrived := x.arrived ||| BitVec.twoPow 16 n, chain := false }
    if waits then { x with sleep := .barWait n } else { x with sleep := .awake, pc := nextPc x.pc }

/-- The issuing lanes arrive at a barrier: what they wrote before belongs to their release (R237, R266). -/
def State.arriveAt (s : State) (n : Nat) (waits : Bool) : State :=
  (s.modCur (fun g => { g.modLanes s.ix.lanes (fun _ x => x.arrive n waits) with arrSeq := mset g.arrSeq n s.seq })).barrierCheck
    s.cur.team n

/-- BAR (R266), kind 0: arrive and wait. -/
def execBar (n : Fin 16) (s : State) : Out := s.runs (s.arriveAt n.val true)

/-- BAR.ARR (R266), kind 1: arrive. -/
def execBarArr (n : Fin 16) (s : State) : Out := s.runs (s.arriveAt n.val false)

/-- BAR.WAIT (R236, R266), kind 2: wait for the generation of the lane's last arrival, if it has not completed. -/
def execBarWait (n : Fin 16) (s : State) : Out :=
  s.runs (s.modCur (fun g => g.modLanes s.ix.lanes (fun _ x =>
    if x.arrived.getLsbD n.val then { x with sleep := .barWait n.val, chain := false }
    else { x with sleep := .awake, pc := nextPc x.pc, chain := false })))

/-! ### TRAP, BKPT, XRET -/

/-- TRAP (R311): the operand of the lowest lane; sr.xpc names the next instruction. -/
def execTrap (a : Src) (s : State) : Out :=
  let u : Uses := { srcs := [(a, .word)], dst := .nul, words := 0, uniform := [], noUni := false }
  s.runs (s.withOperands u (fun gots _ =>
    let v := ((s.srcWords gots s.lowest).headD []).headD Reg.zero
    if v.poison then s.trapAt 0x0A 0 0
    else s.takeTrap { cause := 0x10, xval := v.bits, pc := nextPc s.ix.pc, lane := s.lowest, xaddr := 0 }))

/-- BKPT (R311). -/
def execBkpt (s : State) : Out :=
  s.runs (s.takeTrap { cause := 0x11, xval := 0, pc := nextPc s.ix.pc, lane := s.lowest, xaddr := 0 })

/-- XRET (R311). -/
def execXret (s : State) : Out := s.runs s.xret

end Sys2Proof.Machine
end

