-- ==== Sys2Proof/Machine/Handles.lean ====
section
/-! DEFINITION. HNARROW and HQUERY (R288, R289). -/

namespace Sys2Proof.Machine

/-- The eight parameter words of an FX-style instruction (R36, R139): s(8a) to s(8a + 7). -/
def State.params (s : State) (a : Fin 16) : List Reg := (range (8 * a.val) 8).map s.cur.sget

/-- A parameter word as a number. -/
def paramNat (ps : List Reg) (i : Nat) : Nat := (ps.getD i Reg.zero).bits.toNat

/-- A 64-bit parameter: word i low, word i + 1 high. -/
def paramLong (ps : List Reg) (i : Nat) : Nat := paramNat ps i + 2 ^ 32 * paramNat ps (i + 1)

/-- The first parameter word of HNARROW with a reserved bit set, P6 or P7 non-zero, or POL above 4 (R288 step 2). -/
def narrowBad (ps : List Reg) : Option Nat :=
  let p0 := paramNat ps 0
  let p5 := paramNat ps 5
  if bits p0 28 4 != 0 || bits p0 12 4 != 0 then some 0
  else if bits p5 13 19 != 0 || bit p5 11 || decide (4 < bits p5 8 3) || bits p5 5 3 != 0 then some 5
  else if paramNat ps 6 != 0 then some 6
  else if paramNat ps 7 != 0 then some 7
  else none

/-- The entry HNARROW writes (R288). A base past the 57 bits of BASE (R23) leaves bit 57 set, and so an entry that is not VALID
(DESIGN CHOICE, log 78). -/
def narrowed (p : HEntry) (ofs len pol perm : Nat) (wide : Bool) : List Byte :=
  let b := p.base + ofs
  handleBytes true (if b < 2 ^ 57 then b else b % 2 ^ 57 + 2 ^ 57) len p.space (p.perm &&& perm) pol wide p.esize

/-- Drop one entry of a launch from every handle cache of the module (R288). -/
def State.dropHandle (s : State) (lid i : Nat) : State :=
  { s with cores := s.cores.map (fun e => (e.1, { e.2 with hcache := mdel e.2.hcache (handleKey lid i) })) }

/-- HNARROW's checks 3 to 8 and its effect, for a parent entry as looked up (R288). Its 32-byte write leaves the tag of a poisoned
table sector as it is: it is no write of a lane or of an engine command (R315; DEDUCED, log 78). -/
def State.narrow (s : State) (d : Dst) (ps : List Reg) (parent : Nat) (p : HEntry) : State :=
  let lid := (s.team s.cur.team).lid
  let l := s.launch lid
  let new := bits (paramNat ps 0) 16 12
  let ofs := paramLong ps 1
  let len := paramLong ps 3
  let p5 := paramNat ps 5
  let at_ := addrWord (p.base + ofs)
  let va := l.entryVa new
  let die := dieOfSlot s.ix.slot
  if p.poison then s.trapAt 0x0A (BitVec.ofNat 32 parent) (addrWord (l.entryVa parent))
  else if !p.valid || p.space == 7 || p.space == 6 then s.trapAt 0x05 (BitVec.ofNat 32 parent) 0
  else if !bit p.perm 4 then s.trapAt 0x04 (BitVec.ofNat 32 parent) 0
  else if new < l.hcnt then s.trapAt 0x05 (BitVec.ofNat 32 new) 0
  else if len = 0 ∨ p.length < ofs + len then s.trapAt 0x03 (BitVec.ofNat 32 ofs) at_
  else if p.space == 4 && (!aligned ofs 8 || !aligned len p.esize) then s.trapAt 0x06 (BitVec.ofNat 32 ofs) at_
  else match s.reach s.me die l.dom l.space (.kind .write) true (piecesOf va 32) with
    | .held => s
    | .fault fva lv c => s.waitTable .write fva lv c
    | .failed _ c => (s.clearWaits s.me).trapAt (if c = 0x0E then 0x0E else 0x08) (BitVec.ofNat 32 new) (addrWord va)
    | .ok =>
      if s.tHolds die l.dom l.space va 32 .write then s
      else ((((s.tPut die l.dom l.space (piecesOf va 32)
        (narrowed p ofs len (bits p5 8 3) (bits p5 0 5) (bit p5 12))).dropHandle lid new).clearWaits s.me).writeDst
        s.ix.slot d 1 [(s.lowest, [Reg.of (BitVec.ofNat 32 new)])]).advance

/-- HNARROW (R288). -/
def execHnarrow (d : Dst) (a : Fin 16) (s : State) : Out :=
  let ps := s.params a
  let lid := (s.team s.cur.team).lid
  let parent := bits (paramNat ps 0) 0 12
  s.runs (if anyPoison ps then s.trapAt 0x0A 0 0
    else match narrowBad ps with
      | some w => s.trapAt 0x05 (BitVec.ofNat 32 (0x10000 + w)) 0
      | none => match s.lookup s.me (coreOfSlot s.ix.slot) lid parent with
        | .fault va lv c => s.waitTable .read va lv c
        | .held => s
        | .failed => s.tableLost
        | .entry e => s.narrow d ps parent e)

/-- The eight words of a handle entry (R289). -/
def entryWords (e : HEntry) : List Reg := (range 0 8).map (fun i => Reg.of (BitVec.ofNat 32 (e.field (4 * i) 4)))

/-- HQUERY (R289): the entry's words, or zeros for an index beyond the table or an entry that is not VALID. -/
def execHquery (d : Fin 16) (a : Src) (s : State) : Out :=
  let dst : Dst := .s ⟨8 * d.val, by omega⟩
  let lid := (s.team s.cur.team).lid
  let u : Uses := { srcs := [(a, .word)], dst := dst, words := 8, uniform := [a], noUni := false }
  s.runs (s.withOperands u (fun gots t =>
    let w := ((t.srcWords gots s.lowest).headD []).headD Reg.zero
    let i := w.bits.toNat
    let zeros := (range 0 8).map (fun _ => Reg.zero)
    if w.poison then s.trapAt 0x0A 0 0
    else if 4095 < i then t.retire u [(s.lowest, { words := zeros, flags := 0#5 })]
    else match s.lookup s.me (coreOfSlot s.ix.slot) lid i with
      | .fault va lv c => s.waitTable .read va lv c
      | .held => s
      | .failed => s.tableLost
      | .entry e =>
        if e.poison then (s.clearWaits s.me).trapAt 0x0A (BitVec.ofNat 32 i) (addrWord ((s.launch lid).entryVa i))
        else ((t.keepEntry s.ix.slot lid i e).clearWaits s.me).retire u
          [(s.lowest, { words := if e.valid then entryWords e else zeros, flags := 0#5 })]))

end Sys2Proof.Machine
end

