-- ==== Sys2Proof/Machine/TermList.lean ====
section
/-! DEFINITION. TL16 rows, S24 scales and block weights (R69 to R76), the encoder (R118 to R120) and the block quantiser
(R153). -/

namespace Sys2Proof.Machine

/-! ### Scales -/

/-- The exponent field of an S24 scale (R69). -/
def scaleExp (w : Nat) : Nat := bits w 16 8

/-- The NaN scale (R69). -/
def scaleIsNan (w : Nat) : Bool := scaleExp w == 255

/-- A zero scale (R69). -/
def scaleIsZero (w : Nat) : Bool := scaleExp w == 0

/-- The value of an S24 scale (R69); bits 31:24 of a stored word are ignored. -/
def scaleVal (w : Nat) : FVal :=
  if scaleIsNan w then .nan false
  else if scaleIsZero w then .fin false 0 0
  else .fin false (65536 + bits w 0 16) ((scaleExp w : Int) - 143)

/-- The S24 scale NaN (R118). -/
def nanScale : Nat := 255 * 65536

/-! ### Weights -/

/-- The floating-point format of a weight code, none for S8 and S4 (R151). -/
def wfFmt : Nat → Option Fmt
  | 0 => some Fmt.e4m3
  | 1 => some Fmt.e5m2
  | 2 => some Fmt.e3m2
  | 3 => some Fmt.e2m1
  | _ => none

/-- A weight format packs two elements in a byte (R70). -/
def wfHalf (wf : Nat) : Bool := wf == 3 || wf == 5

/-- Bytes of n packed elements (R70). -/
def wfBytes (wf n : Nat) : Nat := if wfHalf wf then (n + 1) / 2 else n

/-- The element j of a packed row (R70). -/
def wfElem (wf : Nat) (row : List Byte) (j : Nat) : Nat :=
  if wfHalf wf then bits (row.getD (j / 2) 0).toNat (4 * (j % 2)) 4 else (row.getD j 0).toNat

/-- The value of a weight code (R66, R68, R70). -/
def wfValue (wf code : Nat) : FVal :=
  match wfFmt wf with
  | some f => f.decode code
  | none =>
    let w := if wf = 4 then 8 else 4
    let n := bits code 0 w
    ofInteger (if bit n (w - 1) then (n : Int) - (2 ^ w : Nat) else (n : Int))

/-- The exponent of a format's step (R70). -/
def wfStep (wf : Nat) : Int :=
  match wfFmt wf with
  | some f => f.qmin
  | none => 0

/-- The signed step count of a weight code; none for a NaN or an infinity (R70, R71). -/
def wfCount (wf code : Nat) : Option Int :=
  match wfValue wf code with
  | .fin neg m e => some (scaled neg m e (wfStep wf))
  | _ => none

/-- Lmax of a weight format (R153). -/
def wfMax : Nat → Nat
  | 0 => 448
  | 1 => 57344
  | 2 => 28
  | 3 => 6
  | 4 => 127
  | _ => 7

/-- The code of a value in a weight format, with its flags (R153). -/
def wfCode (wf : Nat) (v : FVal) : Nat × Flags :=
  match wfFmt wf with
  | some f => toFmt f .ne v
  | none =>
    let w := if wf = 4 then 8 else 4
    let r := toInt .ne (-(2 ^ (w - 1) : Nat)) ((2 ^ (w - 1) - 1 : Nat)) v
    (bits ((r.1 % (2 ^ 64 : Nat)).toNat) 0 w, r.2)

/-- Codes packed into bytes (R70); an unused nibble is 0 (R153). -/
def packNibbles : List Nat → List Byte
  | [] => []
  | [a] => [BitVec.ofNat 8 a]
  | a :: b :: t => BitVec.ofNat 8 (a + 16 * b) :: packNibbles t

/-- A weight row as bytes. -/
def wfPack (wf : Nat) (codes : List Nat) : List Byte :=
  if wfHalf wf then packNibbles codes else codes.map (BitVec.ofNat 8)

/-! ### The encoder -/

/-- The magnitude of a value. -/
def FVal.abs : FVal → FVal
  | .nan sg => .nan sg
  | .inf _ => .inf false
  | .fin _ m e => .fin false m e

/-- The greatest magnitude of a list of finite values. -/
def maxAbs (xs : List FVal) : FVal := xs.foldl (fun a x => if ltVal a x.abs then x.abs else a) (.fin false 0 0)

/-- The least n with m x 2^e / 2^n at most `lmax`, m not zero (R118, R153). -/
def leastExp (lmax m : Nat) (e : Int) : Int :=
  let l := Nat.log2 lmax
  let k := Nat.log2 m
  let n := e + (k : Int) - (l : Int)
  if m * 2 ^ l ≤ lmax * 2 ^ k then n else n + 1

/-- The value divided by 2^n. -/
def FVal.over : FVal → Int → FVal
  | .fin neg m e, n => .fin neg m (e - n)
  | v, _ => v

/-- A value of a row is a NaN or an infinity. -/
def anySpecial (xs : List FVal) : Bool := xs.any (fun x => x.isNan || x.isInf)

/-- The nearest integer of q / 2^p, ties to even, times 2^p. -/
def cutAt (q : Int) (p : Nat) : Int :=
  (roundInt .ne (decide (q < 0)) q.natAbs (-(p : Int))).1 * (2 ^ p : Nat)

/-- CutToT's loop (R120). -/
def cutFrom (t : Nat) : Nat → Int → Nat → Int
  | 0, q, _ => q
  | fuel + 1, q, p =>
    let r := cutAt q p
    if (naf r).length ≤ t then r else cutFrom t fuel r (p + 1)

/-- CutToT (R120). -/
def cutToT (q : Int) (t : Nat) : Int :=
  if (naf q).length ≤ t then q else cutFrom t 20 q (((naf q).getD (t - 1) (0, false)).1)

/-- An encoded row: its scale, its elements, its flags. -/
structure Encoded where
  scale : Nat
  q     : List Int
  flags : Flags
  deriving DecidableEq, Repr

/-- One element of EncodeRow, with NX when the quantisation or the cut changed it (R118, R143). -/
def encodeElem (t : Nat) (n : Int) (x : FVal) : Int × Flags :=
  match x with
  | .fin neg m e =>
    let r := roundInt .ne neg m (e - n)
    let c := cutToT r.1 t
    (c, if r.2 || c != r.1 then Flags.nx else 0#5)
  | _ => (0, 0#5)

/-- EncodeRow (R118) with the flags of R143. -/
def encodeRow (xs : List FVal) (t : Nat) : Encoded :=
  let none_ := xs.map (fun _ => (0 : Int))
  if anySpecial xs then { scale := nanScale, q := none_, flags := Flags.nv }
  else match maxAbs xs with
    | .fin _ m e =>
      if m = 0 then { scale := 0, q := none_, flags := 0#5 }
      else
        let n := max (leastExp 32767 m e) (-126)
        if n > 127 then { scale := nanScale, q := none_, flags := Flags.ofl ||| Flags.nx }
        else
          let rs := xs.map (encodeElem t n)
          { scale := (n + 127).toNat * 65536, q := rs.map (fun r => r.1), flags := (rs.map (fun r => r.2)).foldl (· ||| ·) 0#5 }
    | _ => { scale := nanScale, q := none_, flags := Flags.nv }

/-- The term bytes of an element, terms descending, the last with E (R73). -/
def termBytes : List (Nat × Bool) → List Byte
  | [] => []
  | [(p, neg)] => [BitVec.ofNat 8 (p + 64 * b2n neg + 128)]
  | (p, neg) :: t => BitVec.ofNat 8 (p + 64 * b2n neg) :: termBytes t

/-- A presence mask (R73). -/
def maskOf : List Int → Nat
  | [] => 0
  | q :: t => b2n (q != 0) + 2 * maskOf t

/-- The blocks of a row's elements (R73). -/
def blockBytes : Nat → List Int → List Byte
  | 0, _ => []
  | n + 1, qs =>
    let b := qs.take 32
    leBytes 4 (maskOf b) ++ b.flatMap (fun q => termBytes (naf q)) ++ blockBytes n (qs.drop 32)

/-- Terms of an encoded row. -/
def Encoded.terms (x : Encoded) : Nat := x.q.foldl (fun n q => n + (naf q).length) 0

/-- Bytes up to the next multiple of 16. -/
def pad16 (n : Nat) : Nat := (n + 15) / 16 * 16

/-- A TL16 row as bytes, with its padding (R73). -/
def Encoded.bytes (x : Encoded) (t : Nat) : List Byte :=
  let k := x.q.length
  let body := blockBytes ((k + 31) / 32) x.q
  leBytes 3 x.scale ++ leBytes 1 t ++ leBytes 4 k ++ leBytes 4 body.length ++ leBytes 4 0 ++ body ++
    List.replicate (pad16 body.length - body.length) 0

/-- The most bytes one row of k elements at cap t can take (R152). -/
def worstRow (k t : Nat) : Nat := 16 + pad16 (4 * ((k + 31) / 32) + k * t)

/-! ### Reading rows -/

/-- The terms of one element, from the position below `top`: its value, their number, the bytes after them (R76). -/
def readTerms : Nat → Nat → List Byte → Option (Int × Nat × List Byte)
  | 0, _, _ => none
  | _, _, [] => none
  | fuel + 1, top, b :: rest =>
    let p := bits b.toNat 0 4
    if bits b.toNat 4 2 != 0 || decide (top ≤ p) then none
    else
      let v : Int := if bit b.toNat 6 then -(2 ^ p : Nat) else (2 ^ p : Nat)
      if bit b.toNat 7 then some (v, 1, rest)
      else (readTerms fuel p rest).map (fun r => (v + r.1, r.2.1 + 1, r.2.2))

/-- The elements of one block by its mask (R76). -/
def readElems (t : Nat) : Nat → Nat → List Byte → Option (List (Int × Nat) × List Byte)
  | 0, mask, bs => if mask = 0 then some ([], bs) else none
  | n + 1, mask, bs =>
    if mask % 2 = 1 then
      (readTerms t 16 bs).bind (fun r => (readElems t n (mask / 2) r.2.2).map (fun z => ((r.1, r.2.1) :: z.1, z.2)))
    else (readElems t n (mask / 2) bs).map (fun z => ((0, 0) :: z.1, z.2))

/-- The blocks of a row of k elements; `bare` when no mask bit may be set (R76). -/
def readBlocks (t : Nat) (bare : Bool) : Nat → Nat → List Byte → Option (List (Int × Nat))
  | 0, _, bs => if bs.isEmpty then some [] else none
  | n + 1, k, bs =>
    let mask := leNat (bs.take 4)
    if bs.length < 4 || (bare && mask != 0) then none
    else (readElems t (min k 32) mask (bs.drop 4)).bind (fun r =>
      (readBlocks t bare n (k - 32) r.2).map (fun z => r.1 ++ z))

/-- A TL16 header (R73). -/
structure RowHead where
  scale : Nat
  t     : Nat
  k     : Nat
  plen  : Nat
  rest  : Nat
  deriving DecidableEq, Repr

/-- The fields of 16 header bytes. -/
def rowHead (bs : List Byte) : RowHead :=
  { scale := leNat (slice bs 0 3), t := leNat (slice bs 3 1), k := leNat (slice bs 4 4), plen := leNat (slice bs 8 4),
    rest := leNat (slice bs 12 4) }

/-- A header whose own fields are well-formed (R76). -/
def RowHead.good (h : RowHead) : Bool := decide (1 ≤ h.t) && decide (h.t ≤ 8) && h.k != 0 && h.rest == 0

/-- The value-independent number of terms per element that the engine applies: none under a zero or NaN scale (R123). -/
structure RowRead where
  scale : Nat
  elems : List (Int × Nat)
  deriving DecidableEq, Repr

/-- A row's elements from its block data; none when malformed (R76). -/
def readRow (h : RowHead) (body : List Byte) : Option RowRead :=
  (readBlocks h.t (scaleIsNan h.scale) ((h.k + 31) / 32) h.k body).map (fun es => { scale := h.scale, elems := es })

/-! ### The block quantiser -/

/-- The scale and the codes of one block of one column (R153). -/
def quantBlock (wf : Nat) (xs : List FVal) : Nat × List Nat × Flags :=
  let zeros := xs.map (fun _ => 0)
  if anySpecial xs then (nanScale, zeros, Flags.nv)
  else match maxAbs xs with
    | .fin _ m e =>
      if m = 0 then (0, zeros, 0#5)
      else
        let n := max (leastExp (wfMax wf) m e) (-126)
        if n > 127 then (nanScale, zeros, Flags.ofl ||| Flags.nx)
        else
          let rs := xs.map (fun x => wfCode wf (x.over n))
          ((n + 127).toNat * 65536, rs.map (fun r => r.1), (rs.map (fun r => r.2)).foldl (· ||| ·) 0#5)
    | _ => (nanScale, zeros, Flags.nv)

end Sys2Proof.Machine
end

