-- ==== Sys2Proof/Machine/Engine.lean ====
section
/-! DEFINITION. Engine commands: the checks at issue (R140), acceptance (R141, R142, R148), the fetches and the writes
of a running command (R144, R145, R149, R178), MBOUND and XSTAT (R158, R159). A command's effect comes about in one
step (log 8). -/

namespace Sys2Proof.Machine

/-! ### Checks at issue -/

/-- A handle a command uses: the parameter word that names it, its index, the spaces and the permissions (R140). -/
structure HandleUse where
  word   : Nat
  index  : Nat
  spaces : List Nat
  perms  : Nat
  deriving DecidableEq, Repr

/-- An extent a command checks: the parameter word that names it, its handle, its first byte and the byte after its
last, as offsets, and whether its elements are aligned (R140, R150). -/
structure Extent where
  word : Nat
  e    : HEntry
  lo   : Int
  hi   : Int
  fits : Bool
  deriving DecidableEq, Repr

/-- What the checks at issue come to; `held` while a home holds back a line of the handle table (R353). -/
inductive Checked where
  | ok (handles : List HEntry)
  | trap (cause : Nat) (xval : Word) (xaddr : DWord)
  | wait (va level cause : Nat)
  | held
  | failed
  deriving DecidableEq, Repr

/-- sr.xval of a failing check (R140): the parameter word and the status. -/
def engineXval (word status : Nat) : Word := BitVec.ofNat 32 (256 * word + status)

/-- Look up the handles of a command in order (R140 check 3). -/
def State.openAll (s : State) (lid : Nat) : List HandleUse → Checked
  | [] => .ok []
  | u :: rest =>
    match s.lookup s.me (coreOfSlot s.ix.slot) lid u.index with
    | .fault va l c => .wait va l c
    | .held => .held
    | .failed => .failed
    | .entry e =>
      if e.poison then .trap 0x0A (engineXval u.word 0) (addrWord ((s.launch lid).entryVa u.index))
      else if !e.valid || !u.spaces.contains e.space then .trap 0x05 (engineXval u.word 0) 0
      else match s.openAll lid rest with
        | .ok es => .ok (e :: es)
        | c => c

/-- An extent fails InBounds or reaches 2^57, or its elements are not aligned (R23, R140 check 5, R281). -/
def Extent.fails (x : Extent) (teamLen : Nat) : Bool :=
  decide (x.lo < 0) || decide ((x.e.length : Int) < x.hi) || (x.e.space == 1 && decide ((teamLen : Int) < x.e.base + x.hi)) ||
    decide ((vaLimit : Int) < x.e.base + x.hi) || !x.fits

/-- The conditions a command checks (R140): its fields in order, each with the word it names and whether it fails; its
handles; its extents, once the handles are known; accumulator rows that fail. -/
structure Checks where
  fields  : List (Nat × Bool)
  handles : List HandleUse
  tiles   : Bool
  deriving DecidableEq, Repr

/-- The first poisoned parameter word (R140 check 1). -/
def firstPoison (ps : List Reg) : Option Nat := findIx (fun r => r.poison) ps

/-- The extents of a command fail, or its accumulator rows (R140 checks 5 and 6). The parameter word concerned is taken to be
the one that holds the extent's offset, and word 0, which holds AROW, for the rows (DESIGN CHOICE, log 74). -/
def State.checkExtents (s : State) (c : Checks) (es : List HEntry) (xs : List Extent) : Checked :=
  match xs.find? (fun x => x.fails (s.team s.cur.team).len) with
  | some x => .trap 0x03 (engineXval x.word 0) (ofI 64 (x.e.base + x.lo))
  | none => if c.tiles then .trap 0x0C (engineXval 0 2) 0 else .ok es

/-- The checks of R140 in their order. -/
def State.engineCheck (s : State) (ps : List Reg) (c : Checks) (extents : List HEntry → List Extent) : Checked :=
  match firstPoison ps with
  | some w => .trap 0x0A (engineXval w 0) 0
  | none => match c.fields.find? (fun f => f.2) with
    | some f => .trap 0x0C (engineXval f.1 1) 0
    | none => match s.openAll (s.team s.cur.team).lid c.handles with
      | .ok es =>
        match (c.handles.zip es).find? (fun p => !p.2.permits p.1.perms false) with
        | some p => .trap 0x04 (engineXval p.1.word 0) 0
        | none => s.checkExtents c es (extents es)
      | r => r

/-! ### Acceptance -/

/-- Issue of a command waits (R141, R142). -/
def State.engineFull (s : State) (k : Nat) (record : Bool) (term : Bool) : Bool :=
  let g := s.cur
  g.kget k == 255 || (record && decide (g.q14Free < 4)) ||
    decide ((if term then 16 else 32) ≤ s.engineLoad (coreOfSlot s.ix.slot) term)

/-- A command as its instruction names it. -/
structure Order where
  op      : CmdOp
  k       : Nat
  record  : Bool
  notrap  : Bool
  nullIdx : Bool
  deriving DecidableEq, Repr

/-- What acceptance keeps of a command: its handles by position, descriptors, and scoreboard ranges (R148). -/
structure Taken where
  handles : List HEntry
  descs   : List TDesc
  reads   : List (Nat × Nat)
  writes  : List (Nat × Nat)
  deriving DecidableEq, Repr

/-- The handles a command used stay in the core's handle cache (R287). -/
def State.keepAll (s : State) (us : List HandleUse) (es : List HEntry) : State :=
  (us.zip es).foldl (fun acc p => acc.keepEntry s.ix.slot (s.team s.cur.team).lid p.1.index p.2) s

/-- Positions of a list as keys. -/
def keyed {α : Type} (l : List α) : List (Nat × α) := l.mapIdx (fun i x => (i, x))

/-- The command as accepted (R141, R148). -/
def State.cmdOf (s : State) (o : Order) (ps : List Reg) (t : Taken) : Cmd :=
  let g := s.cur
  { slot := s.ix.slot, team := g.team, lid := (s.team g.team).lid, core := coreOfSlot s.ix.slot, op := o.op, ctr := o.k,
    ord := g.ord, record := o.record, notrap := o.notrap, nullIdx := o.nullIdx, w := ps.map (fun r => r.bits),
    handles := keyed t.handles, descs := t.descs, reads := t.reads, writes := t.writes, fence := s.seq, phase := .queued,
    status := 0, failAt := 0, idxRec := none, flags := 0#5, words := [], wvt := 0, lane0 := 0, rows := [], nextBlk := [] }

/-- Acceptance (R141, R142): the counter rises, a record's room is reserved, the command joins its queue. -/
def State.accept (s : State) (o : Order) (ps : List Reg) (t : Taken) : State :=
  ({ (s.modCur (fun g => { g.kUp o.k with ord := g.ord + 1, q14res := g.q14res + (if o.record then 4 else 0) })) with
      cmds := mset s.cmds s.seq (s.cmdOf o ps t), seq := s.seq + 1 }).advance

/-- An engine command's issue (R139 to R142, R250): `go` gives the ranges once every check has passed. -/
def State.engineAs (s : State) (o : Order) (a : Fin 16) (term : Bool) (c : List Reg → Checks)
    (extents : List Reg → List HEntry → List Extent) (go : List Reg → List HEntry → Taken) : Host.Outcome State Fault Refusal :=
  let ps := s.params a
  s.runs (if s.drained s.cur then s
    else match s.engineCheck ps (c ps) (extents ps) with
      | .trap cause xval xaddr => (s.clearWaits s.me).trapAt cause xval xaddr
      | .wait va l c => s.waitTable .read va l c
      | .held => s
      | .failed => s.tableLost
      | .ok es =>
        if s.engineFull o.k o.record term then s
        else ((s.keepAll (c ps).handles es).clearWaits s.me).accept o ps (go ps es))

/-- A scoreboard range of a LOCAL handle (R148): offsets `lo` to `hi`, as bytes of the core's local memory. -/
def State.localSpan (s : State) (e : HEntry) (lo hi : Int) : List (Nat × Nat) :=
  if e.space = 1 then [((s.team s.cur.team).base + e.base + lo.toNat, (hi - lo).toNat)] else []

/-- The range of a whole LOCAL handle. -/
def State.wholeSpan (s : State) (e : HEntry) : List (Nat × Nat) := s.localSpan e 0 e.length

/-- The bytes of `rows` rows at a stride, the last `n` bytes long. -/
def spanBytes (rows stride n : Nat) : Nat := (rows - 1) * stride + n

/-- The extent of a dense matrix whose elements have a size (R150). -/
def denseExtent (word : Nat) (e : HEntry) (ofs rows stride n size : Nat) : Extent :=
  { word := word, e := e, lo := ofs, hi := (ofs + spanBytes rows stride (n * size) : Nat),
    fits := aligned (e.base + ofs) size && (rows == 1 || aligned stride size) }

/-- An extent without elements of its own to align. -/
def plainExtent (word : Nat) (e : HEntry) (ofs n : Nat) : Extent :=
  { word := word, e := e, lo := ofs, hi := (ofs + n : Nat), fits := true }

/-- Elements of a weight row by its stride in 16-byte units (R151). -/
def strideElems (wf stride : Nat) : Nat := if wfHalf wf then 32 * stride else 16 * stride

/-- Bytes from the first to the last scale of k rows and n columns (R151). -/
def scaleBytes (wf stride k n : Nat) : Nat := 4 * strideElems wf stride * ((k + 31) / 32 - 1) + 4 * n

/-! ### A running command -/

/-- Why a command stops: it waits on a fault, it ends with a status of R145 at an address, a home holds it back (R353), or
homes repair lines it reads (R349). -/
inductive EStop where
  | wait (va level cause : Nat) (k : AccessKind)
  | fail (status va : Nat)
  | held
  | mend (lines : List Nat)
  deriving DecidableEq, Repr

/-- What reading for a command comes to: why it stops, or a value and what was read at homes: addresses of pages (R284), each
with the lines read there (R341). -/
inductive ERead (α : Type) where
  | stop (e : EStop)
  | got (a : α) (lines : List (Nat × List Nat))
  deriving DecidableEq, Repr

/-- One read after another. -/
def ERead.bind {α β : Type} (x : ERead α) (f : α → ERead β) : ERead β :=
  match x with
  | .stop e => .stop e
  | .got a ls => match f a with
    | .stop e => .stop e
    | .got b ms => .got b (ls ++ ms)

/-- What is made of a read. -/
def ERead.map {α β : Type} (f : α → β) (x : ERead α) : ERead β :=
  match x with
  | .stop e => .stop e
  | .got a ls => .got (f a) ls

/-- The handle of a command at a position of its list. -/
def Cmd.handle (c : Cmd) (i : Nat) : HEntry := (mget? c.handles i).getD HEntry.blank

/-- Parameter word i of a command. -/
def Cmd.word (c : Cmd) (i : Nat) : Nat := (c.w.getD i 0).toNat

/-- The status of a page that cannot be reached (R145). -/
def reachStatus (cause : Nat) : Nat := if cause = 0x0E then 7 else 6

/-- The walk-ahead translator of a command's engine (R284). -/
def Cmd.via (c : Cmd) : Nat := viaEngine c.core (c.op == .mtask || c.op == .mtaskStream)

/-- The places of bytes of an object: pieces of local or of physical memory, or why the command stops (R145, R317). Bytes of a
LOCAL row found at run that pass the team's allocation are out of bounds (R23): RANGE, the status whose trap is BOUNDS (R145;
log 74). -/
def State.engineReach (s : State) (n : Nat) (c : Cmd) (e : HEntry) (off len : Nat) (k : AccessKind) :
    Except EStop (List (Nat × Nat)) :=
  if e.space = 1 then
    if (s.team c.team).len < e.base + off + len then .error (.fail 4 (e.base + off))
    else .ok [((s.team c.team).base + e.base + off, len)]
  else
    let l := s.launch c.lid
    let ps := piecesOf (e.base + off) len
    match s.reach (.cmd n) c.via l.dom l.space (.kind k) false ps with
    | .ok =>
      let at_ := ps.map (fun p => (s.paOf c.via l.dom l.space p.1 (.kind k) false, p.2))
      if (linesOf at_).any s.lineHeld then .error .held else .ok at_
    | .held => .error .held
    | .fault va lv cause => .error (.wait va lv cause k)
    | .failed va cause => .error (.fail (reachStatus cause) va)

/-- A byte of a command's operand lies in a poisoned sector. -/
def State.poisonByte (s : State) (c : Cmd) (loc : Bool) (at_ : Nat) : Bool :=
  if loc then s.locPoisonIn c.core at_ 1 else s.homePoison at_

/-- A command fetches bytes at their home, or in local memory (R145, R178, R314). -/
def State.engineRead (s : State) (n : Nat) (c : Cmd) (e : HEntry) (off len : Nat) : ERead (List Byte) :=
  match s.engineReach n c e off len .read with
  | .error x => .stop x
  | .ok ps =>
    let loc := e.space == 1
    let places := ps.flatMap (fun p => range p.1 p.2)
    if !loc && (linesOf ps).any s.mends then .stop (.mend (linesOf ps))
    else match findIx (s.poisonByte c loc) places with
    | some i => .stop (.fail 5 (e.base + off + i))
    | none => .got (ps.flatMap (fun p => if loc then s.locBytes c.core p.1 p.2 else s.homeBytes p.1 p.2)) (if loc then [] else (piecesOf (e.base + off) len).zipWith (fun v p => (v.1, linesOf [p])) ps)

/-- Bytes a command writes: its handle, their offset, and whether their value is poisoned (R130). -/
structure EPut where
  e      : HEntry
  off    : Nat
  bytes  : List Byte
  poison : Bool
  deriving DecidableEq, Repr

/-- Cut bytes to the pieces they go to. -/
def cutTo : List (Nat × Nat) → List Byte → List (Nat × List Byte)
  | [], _ => []
  | (a, n) :: t, bs => (a, bs.take n) :: cutTo t (bs.drop n)

/-- The places of a command's writes: whether local, the pieces, poison. -/
def State.placePuts (s : State) (n : Nat) (c : Cmd) : List EPut → Except EStop (List (Bool × List (Nat × List Byte) × Bool))
  | [] => .ok []
  | p :: rest =>
    match s.engineReach n c p.e p.off p.bytes.length .write with
    | .error x => .error x
    | .ok ps => (s.placePuts n c rest).map (fun t => (p.e.space == 1, cutTo ps p.bytes, p.poison) :: t)

/-- Writes of one agent at their homes, each with its poison (R130) and tested by the monitors once its tag stands (R178,
R212, R213); where `clears`, the sectors that clean ones cover whole lose their tags (R315). -/
def State.putHomeAs (s : State) (clears : Bool) (ws : List (Nat × List Byte × Bool)) : State :=
  let spans (p : Bool) : List (Nat × Nat) := (ws.filter (fun w => w.2.2 == p)).map (fun w => (w.1, w.2.1.length))
  let bad := sectorsOf (spans true)
  let whole := (wholeSectors (spans false)).filter (fun k => clears && !bad.contains k)
  let s := s.healAll (linesOf (spans true ++ spans false))
  let s := ws.foldl (fun acc w =>
    let t := acc.writeHome w.1 w.2.1
    (if w.2.2 then t.poisonRange w.1 w.2.1.length else t).notifyPhys w.1 w.2.1.length) s
  (sectorsOf (spans true ++ spans false)).foldl (fun acc k => acc.settlePoison k (whole.contains k)) s

/-- Writes that no lane and no engine command makes: tags stay (R315). -/
def State.putHome (s : State) (ws : List (Nat × List Byte)) : State := s.putHomeAs false (ws.map (fun w => (w.1, w.2, false)))

/-- The latest write-visible time of writes by a die (R170, R177). -/
def State.latestWvt (s : State) (die : Nat) (ws : List (Nat × List Byte)) : Nat :=
  (linesOf (ws.map (fun w => (w.1, w.2.length)))).foldl (fun t n => max t (s.wvt n die).2) 0

/-- The pieces of a command's writes to local memory, or at home slices, each with its poison. -/
def piecesIn (loc : Bool) (ps : List (Bool × List (Nat × List Byte) × Bool)) : List (Nat × List Byte × Bool) :=
  (ps.filter (fun p => p.1 == loc)).flatMap (fun p => p.2.1.map (fun w => (w.1, w.2, p.2.2)))

/-- The translations of a command's writes stay held (R284). -/
def State.touchPuts (s : State) (c : Cmd) (puts : List EPut) : State :=
  let l := s.launch c.lid
  (nub ((puts.filter (fun p => p.e.space != 1)).flatMap (fun p =>
    (piecesOf (p.e.base + p.off) p.bytes.length).map (fun q => q.1)))).foldl (fun acc va =>
      acc.touch c.via l.dom l.space va (.kind .write) false) s

/-- A command's writes, all of them (R144, R178): the state after them and their latest write-visible time. -/
def State.enginePut (s : State) (n : Nat) (c : Cmd) (puts : List EPut) : Except EStop (State × Nat) :=
  (s.placePuts n c (puts.filter (fun p => !p.bytes.isEmpty))).map (fun ps =>
    let home := piecesIn false ps
    (((s.putLocalAs c.core (piecesIn true ps)).putHomeAs true home).touchPuts c puts, s.latestWvt (dieOfCore c.core) (home.map (fun w => (w.1, w.2.1)))))

/-- What a command's work comes to: its writes, its flags, record words 1 to 3, and a failure that leaves those writes
standing (R218). -/
structure EDone where
  puts   : List EPut
  flags  : Flags
  words  : List Nat
  index  : Option (Nat × Nat × Nat)
  deriving DecidableEq, Repr

/-- A command waits on a fault (R145, R317). -/
def State.engineWait (s : State) (n : Nat) (c : Cmd) (va level cause : Nat) (k : AccessKind) : State :=
  let l := s.launch c.lid
  s.enterFault (.cmd n) c.via l.dom l.space va k false level cause

/-- A command has done its work, or failed with a status (R145). -/
def State.engineEnd (s : State) (n : Nat) (f : Cmd → Cmd) : State :=
  (s.modCmd n (fun c => { f c with phase := .finishing })).clearWaits (.cmd n)

/-- A command ends with a failure. -/
def State.engineFail (s : State) (n status va : Nat) : State :=
  s.engineEnd n (fun c => { c with status := status, failAt := va })

/-- A command stops (R145, R317, R353). -/
def State.engineStop (s : State) (n : Nat) (c : Cmd) (x : EStop) : State :=
  match x with
  | .wait va l cause k => s.engineWait n c va l cause k
  | .fail st va => s.engineFail n st va
  | .held => s
  | .mend ls => s.healAll ls

/-- What a command has read leaves its traces: lines of OFFLINE channels are asked for (R349), tiers are read and counted
(R341), and its translations stay held on their way (R284). -/
def State.fetched (s : State) (c : Cmd) (ls : List (Nat × List Nat)) : State :=
  let l := s.launch c.lid
  let lines := nub (ls.flatMap (fun p => p.2))
  (nub (ls.map (fun p => p.1))).foldl (fun acc va => acc.touch c.via l.dom l.space va (.kind .read) false)
    ((s.healAll lines).readTier lines)

/-- A command's work is applied (R144, R145): the lines it read count once each (R341); a count above 32 bits in its record
wraps (DESIGN CHOICE, log 75). -/
def State.engineApply (s : State) (n : Nat) (c : Cmd) (r : ERead EDone) : State :=
  match r with
  | .stop x => s.engineStop n c x
  | .got d ls =>
    match (s.fetched c ls).enginePut n c d.puts with
    | .error x => s.engineStop n c x
    | .ok (t, w) =>
      t.engineEnd n (fun c => { c with
        flags := c.flags ||| d.flags, words := d.words.map (BitVec.ofNat 32), wvt := max c.wvt w
        status := if d.index.isSome then 8 else c.status
        failAt := (d.index.map (fun i => i.2.2)).getD c.failAt
        idxRec := d.index.map (fun i => (i.1, i.2.1)) })

/-- Two commands' ranges conflict (R149): one writes what the other reads or writes. -/
def Cmd.conflicts (x y : Cmd) : Bool :=
  x.writes.any (fun a => (y.reads ++ y.writes).any (overlap a)) || x.reads.any (fun a => y.writes.any (overlap a))

/-- The scoreboard has released a command (R149). -/
def State.released (s : State) (n : Nat) (c : Cmd) : Bool :=
  s.cmds.all (fun e => !(decide (e.1 < n) && e.2.core == c.core && c.conflicts e.2))

/-- No lane of the command's group waits at an ENG release that was issued before the command (R177). -/
def State.fenceClear (s : State) (c : Cmd) : Bool :=
  (s.group c.slot).lanes.all (fun x => match x.sleep with
    | .fence f => !(f.eng && f.kind != .acq && decide (f.seq < c.fence))
    | _ => true)

/-- A command may begin its accesses (R149, R177, R317). -/
def State.mayStart (s : State) (n : Nat) (c : Cmd) : Bool :=
  c.phase == .queued && s.released n c && s.fenceClear c && !s.agentWaits (.cmd n)

/-! ### Completion -/

/-- The major opcode of a command (R143). -/
def CmdOp.code : CmdOp → Nat
  | .xcopy => 0x68
  | .xgather => 0x69
  | .xscatter => 0x6A
  | .xencTerm => 0x6B
  | .xencBlock => 0x6B
  | .xdecTerm => 0x6C
  | .xdecBlock => 0x6C
  | .mtask => 0x6D
  | .mtaskStream => 0x6D

/-- Word 0 of a completion record (R143). -/
def recordWord (op status : Nat) (flags : BitVec 5) (ctr ord : Nat) : Word :=
  BitVec.ofNat 32 (op * 2 ^ 24 + status * 2 ^ 16 + flags.toNat * 2 ^ 11 + ctr * 2 ^ 8 + ord % 256)

/-- The trap cause of a run status (R145, R218, R323). -/
def statusCause (status : Nat) : Nat :=
  match status with
  | 3 => 0x0C | 4 => 0x03 | 5 => 0x0A | 6 => 0x08 | 7 => 0x0E | 8 => 0x07 | _ => 0x0C

/-- Words 1 to 3 of a completion record (R143, R218, R219). -/
def Cmd.recordTail (c : Cmd) : List Word :=
  match c.idxRec with
  | some (p, x) => [BitVec.ofNat 32 p, BitVec.ofNat 32 x, BitVec.ofNat 32 (x / 2 ^ 32)]
  | none => if c.status = 0 then (range 0 3).map (fun i => c.words.getD i 0) else [0, 0, 0]

/-- Word 0 of a command's record; a failed command's flags reach nothing, so its record shows none (R147, log 40). -/
def Cmd.word0 (c : Cmd) : Word := recordWord c.op.code c.status (if c.status = 0 then c.flags else 0#5) c.ctr c.ord

/-- A group when one of its commands completes (R141, R142, R146, R159). -/
def Group.completed (g : Group) (c : Cmd) : Group :=
  let t : DeferredTrap := { cause := statusCause c.status, xval := c.word0, xaddr := addrWord c.failAt }
  let g := if c.record then { g with q14res := g.q14res - 4 } else g
  let g := if c.status = 0 then g
    else { g with failed := if g.nfailed = 0 then c.word0 else g.failed, nfailed := min 255 (g.nfailed + 1)
                  deferred := if c.notrap || g.trapped then g.deferred else g.deferred ++ [t] }
  g.kDown c.ctr

/-- A completion record enters q14, four entries (R41, R142). -/
def State.pushRecord (s : State) (slot : Nat) (ws : List Word) : State :=
  ws.foldl (fun acc w => acc.pushEntry slot 14 [Reg.of w]) s

/-- A command may complete (R144, R177): its work is done, and device time has passed its writes' visibility. -/
def State.mayComplete (s : State) (c : Cmd) : Bool :=
  c.phase == .finishing && decide (c.wvt < s.dieTime (dieOfCore c.core))

/-- ENGINE_COMMAND_COMPLETE (R141 to R146, R218, R219): the counter falls and the record enters q14 in one step. -/
def execEngineCommandComplete (n : Nat) (s : State) : Host.Outcome State Fault Refusal :=
  s.runs (match mget? s.cmds n with
    | none => s
    | some c => if s.mayComplete c then
        let t : State := { s with cmds := mdel s.cmds n }
        (if c.record then t.pushRecord c.slot (c.word0 :: c.recordTail) else t).modGroup c.slot (fun g => g.completed c)
      else s)

/-! ### MBOUND and XSTAT -/

/-- G of a task record (R155). -/
def taskG (w7 : Nat) : Nat := 8 * 2 ^ bits w7 13 3

/-- D of a task record (R155). -/
def taskD (w7 : Nat) : Nat := if bits w7 10 3 = 0 then 0 else 2 ^ (bits w7 10 3 - 1)

/-- M, N and T of a task record (R155). -/
def taskM (w7 : Nat) : Nat := bits w7 23 9 + 1
def taskN (w7 : Nat) : Nat := bits w7 16 7 + 1
def taskT (w7 : Nat) : Nat := bits w7 7 3 + 1

/-- A field of W7 that is FIELD by itself, highest first (R155). -/
def taskBadW7 (w7 : Nat) : Bool :=
  decide (4 < bits w7 13 3) || decide (5 < bits w7 10 3) || decide (5 < bits w7 3 4) || bits w7 0 2 != 0

/-- The conditions of R155 over M and G. -/
def taskBadShape (stream : Bool) (w7 : Nat) : Bool :=
  (decide (128 < taskM w7) && taskG w7 != 8) || (stream && (decide (8 < taskM w7) || taskG w7 != 8))

/-- The bound of R125 for a task record (R158). -/
def boundOf (stream : Bool) (w4 w7 : Nat) : Nat :=
  let k := bits w4 0 16
  if k = 0 || taskBadW7 w7 || taskBadShape stream w7 then 0
  else
    let g := taskG w7
    let groups := (taskM w7 + g - 1) / g
    (k * taskT w7 + 2 * ((k + 31) / 32) + 24) * ((groups + 15) / 16)

/-- MBOUND (R158). -/
def execMbound (d : Fin 128) (a : Fin 16) (m : Bool) (s : State) : Host.Outcome State Fault Refusal :=
  let ps := s.params a
  let p := (ps.getD 4 Reg.zero).poison || (ps.getD 7 Reg.zero).poison
  s.runs (if s.drained s.cur then s
    else (s.modCur (fun g => g.sset d.val
      { bits := BitVec.ofNat 32 (boundOf m (paramNat ps 4) (paramNat ps 7)), poison := p })).advance)

/-- XSTAT (R159): the earliest failed command's word, the count, or the counters' sum; reading the word clears both. -/
def execXstat (d : Fin 128) (_a : Fin 16) (f : Fin 4) (s : State) : Host.Outcome State Fault Refusal :=
  let g := s.cur
  let w : Nat := match f.val with
    | 0 => g.failed.toNat
    | 1 => g.nfailed
    | _ => (range 0 8).foldl (fun n k => n + g.kget k) 0
  s.runs (if s.drained g then s
    else ((s.modCur (fun g => if f.val = 0 then { g with failed := 0, nfailed := 0 } else g)).modCur (fun g =>
      g.sset d.val (Reg.of (BitVec.ofNat 32 w)))).advance)

end Sys2Proof.Machine
end

