-- ==== Sys2Proof/Machine/Encode.lean ====
section
/-! DEFINITION. XENC and XDEC (R150 to R154): their checks, their scoreboard ranges and what they write. -/

namespace Sys2Proof.Machine

/-! ### Types of elements -/

/-- The type of a STYPE or DTYPE code (R48, R150). -/
def denseTy (code : Nat) : Ty :=
  match code with
  | 5 => .f64
  | 4 => .f32
  | 6 => .f16
  | _ => .bf16

/-- A code that STYPE and DTYPE allow (R150). -/
def denseCode (code : Nat) : Bool := decide (4 ≤ code) && decide (code ≤ 7)

/-- Bytes of an element of a type. -/
def tySize (t : Ty) : Nat := (tyBits t + 7) / 8

/-- The elements of a dense row's bytes. -/
def denseCodes : Nat → Nat → List Byte → List Nat
  | 0, _, _ => []
  | n + 1, size, bs => leNat (bs.take size) :: denseCodes n size (bs.drop size)

/-! ### Fields -/

/-- Fields of W0 (R150): SH or the source, DH or the destination, the type, the low four bits. -/
def w0SH (w : Nat) : Nat := bits w 20 12
def w0DH (w : Nat) : Nat := bits w 8 12
def w0Type (w : Nat) : Nat := bits w 4 4
def w0Low (w : Nat) : Nat := bits w 0 4

/-- K outside 1 to 2^31 - 1 (R150). -/
def badK (k : Nat) : Bool := k == 0 || decide (2 ^ 31 ≤ k)

/-- M or N outside 1 to 65,535 (R150). -/
def badRows (m : Nat) : Bool := m == 0 || decide (65535 < m)

/-- The spaces of dense operands, weights and scales; those of term lists (R150). -/
def denseSpaces : List Nat := [0, 1]
def termSpaces : List Nat := [1, 5]

/-! ### XENC.TERM -/

/-- The worst-case span of M rows of K elements at cap T (R152). -/
def worstSpan (m k t : Nat) : Nat := m * worstRow k t

/-- The checks of XENC.TERM (R150, R152). -/
def encTermChecks (ps : List Reg) : Checks :=
  let w := paramNat ps
  { fields := [(0, !denseCode (w0Type (w 0))), (0, w0Low (w 0) == 0 || decide (8 < w0Low (w 0))), (3, !aligned (w 3) 8),
               (4, !aligned (w 4) 16), (5, badK (w 5)), (6, badRows (w 6)),
               (6, overlap (w 3, 8 * w 6) (w 4, worstSpan (w 6) (w 5) (w0Low (w 0)))), (7, w 7 != 0)]
    handles := [{ word := 0, index := w0SH (w 0), spaces := denseSpaces, perms := 1 },
                { word := 0, index := w0DH (w 0), spaces := termSpaces, perms := 2 }]
    tiles := false }

/-- The extents of XENC.TERM. -/
def encTermExtents (ps : List Reg) (es : List HEntry) : List Extent :=
  let w := paramNat ps
  let sz := tySize (denseTy (w0Type (w 0)))
  [denseExtent 1 (es.getD 0 HEntry.blank) (w 1) (w 6) (w 2) (w 5) sz, plainExtent 3 (es.getD 1 HEntry.blank) (w 3) (8 * w 6),
   plainExtent 4 (es.getD 1 HEntry.blank) (w 4) (worstSpan (w 6) (w 5) (w0Low (w 0)))]

/-- What XENC.TERM keeps: the source span is read, the directory and the rows' worst-case span are written (R148). -/
def State.encTermTaken (s : State) (ps : List Reg) (es : List HEntry) : Taken :=
  let w := paramNat ps
  let x := es.getD 0 HEntry.blank
  let y := es.getD 1 HEntry.blank
  let sz := tySize (denseTy (w0Type (w 0)))
  { handles := es, descs := []
    reads := s.localSpan x (w 1) (w 1 + spanBytes (w 6) (w 2) (w 5 * sz) : Nat)
    writes := s.localSpan y (w 3) (w 3 + 8 * w 6 : Nat) ++ s.localSpan y (w 4) (w 4 + worstSpan (w 6) (w 5) (w0Low (w 0)) : Nat) }

/-- A dense row as read: the codes of `k` elements at an offset. -/
def State.readDense (s : State) (n : Nat) (c : Cmd) (e : HEntry) (ofs k size : Nat) : ERead (List Nat) :=
  (s.engineRead n c e ofs (k * size)).map (denseCodes k size)

/-- The rows of a dense matrix as values (R150). -/
def State.readRows (s : State) (n : Nat) (c : Cmd) (e : HEntry) (t : Ty) (ofs stride k : Nat) : Nat → ERead (List (List FVal))
  | 0 => .got [] []
  | m + 1 => (s.readDense n c e ofs k (tySize t)).bind (fun r =>
    (s.readRows n c e t (ofs + stride) stride k m).map (fun rest => r.map (tyValue t) :: rest))

/-- Rows of bytes one after another from an offset (R152). -/
def placeRows (e : HEntry) (poison : Bool) : Nat → List (List Byte) → List EPut
  | _, [] => []
  | off, r :: t => { e := e, off := off, bytes := r, poison := poison } :: placeRows e poison (off + r.length) t

/-- The offsets of rows written one after another. -/
def rowOffsets : Nat → List (List Byte) → List Nat
  | _, [] => []
  | off, r :: t => off :: rowOffsets (off + r.length) t

/-- A directory and its rows (R75, R152). -/
def putTermList (e : HEntry) (dir rows : Nat) (rs : List (List Byte)) (poison : Bool) : List EPut :=
  { e := e, off := dir, bytes := (rowOffsets rows rs).flatMap (leBytes 8), poison := poison } :: placeRows e poison rows rs

/-- OR of flags of encoded rows. -/
def encodedFlags (xs : List Encoded) : Flags := (xs.map (fun x => x.flags)).foldl (· ||| ·) 0#5

/-- XENC.TERM's work (R118, R152); record words of R143. -/
def State.doEncTerm (s : State) (n : Nat) (c : Cmd) : ERead EDone :=
  let t := denseTy (w0Type (c.word 0))
  let cap := w0Low (c.word 0)
  (s.readRows n c (c.handle 0) t (c.word 1) (c.word 2) (c.word 5) (c.word 6)).map (fun rows =>
    let xs := rows.map (fun r => encodeRow r cap)
    let bs := xs.map (fun x => x.bytes cap)
    { puts := putTermList (c.handle 1) (c.word 3) (c.word 4) bs false, flags := encodedFlags xs
      words := [c.word 6, xs.foldl (fun a x => a + x.terms) 0, bs.foldl (fun a b => a + b.length) 0], index := none })

/-- XENC.TERM (R138 to R142, R150, R152). -/
def execXencTerm (notrap record : Bool) (k : Fin 8) (a : Fin 16) (s : State) : Host.Outcome State Fault Refusal :=
  s.engineAs { op := .xencTerm, k := k.val, record := record, notrap := notrap, nullIdx := false } a false encTermChecks
    encTermExtents s.encTermTaken

/-! ### XENC.BLOCK -/

/-- The stride and the zero field of a word that also names the scales' handle (R150). -/
def wScaleH (w : Nat) : Nat := bits w 20 12
def wStride (w : Nat) : Nat := bits w 0 16

/-- The checks of XENC.BLOCK (R150). -/
def encBlockChecks (ps : List Reg) : Checks :=
  let w := paramNat ps
  { fields := [(0, !denseCode (w0Type (w 0))), (0, decide (5 < w0Low (w 0))), (3, !aligned (w 3) 16), (4, bits (w 4) 16 4 != 0),
               (5, !aligned (w 5) 4), (6, badK (w 6)), (7, badRows (w 7))]
    handles := [{ word := 0, index := w0SH (w 0), spaces := denseSpaces, perms := 1 },
                { word := 0, index := w0DH (w 0), spaces := denseSpaces, perms := 2 },
                { word := 4, index := wScaleH (w 4), spaces := denseSpaces, perms := 2 }]
    tiles := false }

/-- Bytes from the first to the last byte of k weight rows of n elements (R151). -/
def weightBytes (wf stride k n : Nat) : Nat := spanBytes k (16 * stride) (wfBytes wf n)

/-- The extents of XENC.BLOCK. -/
def encBlockExtents (ps : List Reg) (es : List HEntry) : List Extent :=
  let w := paramNat ps
  let wf := w0Low (w 0)
  [denseExtent 1 (es.getD 0 HEntry.blank) (w 1) (w 6) (w 2) (w 7) (tySize (denseTy (w0Type (w 0)))),
   plainExtent 3 (es.getD 1 HEntry.blank) (w 3) (weightBytes wf (wStride (w 4)) (w 6) (w 7)),
   plainExtent 5 (es.getD 2 HEntry.blank) (w 5) (scaleBytes wf (wStride (w 4)) (w 6) (w 7))]

/-- Scoreboard spans of extents: those read, those written. -/
def State.spansOf (s : State) (xs : List Extent) : List (Nat × Nat) := xs.flatMap (fun x => s.localSpan x.e x.lo x.hi)

/-- What XENC.BLOCK keeps (R148). -/
def State.encBlockTaken (s : State) (ps : List Reg) (es : List HEntry) : Taken :=
  let xs := encBlockExtents ps es
  { handles := es, descs := [], reads := s.spansOf (xs.take 1), writes := s.spansOf (xs.drop 1) }

/-- The columns of a block of rows. -/
def columnsOf (n : Nat) (rows : List (List FVal)) : List (List FVal) :=
  (range 0 n).map (fun c => rows.map (fun r => r.getD c (.fin false 0 0)))

/-- The blocks of 32 rows of a matrix. -/
def blocksOf {α : Type} : Nat → List α → List (List α)
  | 0, _ => []
  | n + 1, l => l.take 32 :: blocksOf n (l.drop 32)

/-- The weight rows and the scales of one block (R153): code rows, one scale word per column, flags. -/
def quantRows (wf n : Nat) (rows : List (List FVal)) : List (List Nat) × List Nat × Flags :=
  let qs := (columnsOf n rows).map (quantBlock wf)
  ((range 0 rows.length).map (fun i => qs.map (fun q => q.2.1.getD i 0)), qs.map (fun q => q.1),
   (qs.map (fun q => q.2.2)).foldl (· ||| ·) 0#5)

/-- Rows of bytes at a stride. -/
def strideRows (e : HEntry) (stride : Nat) : Nat → List (List Byte) → List EPut
  | _, [] => []
  | off, r :: t => { e := e, off := off, bytes := r, poison := false } :: strideRows e stride (off + stride) t

/-- XENC.BLOCK's work (R153). -/
def State.doEncBlock (s : State) (n : Nat) (c : Cmd) : ERead EDone :=
  let wf := w0Low (c.word 0)
  let k := c.word 6
  let cols := c.word 7
  let stride := wStride (c.word 4)
  (s.readRows n c (c.handle 0) (denseTy (w0Type (c.word 0))) (c.word 1) (c.word 2) cols k).map (fun rows =>
    let qs := (blocksOf ((k + 31) / 32) rows).map (quantRows wf cols)
    { puts := strideRows (c.handle 1) (16 * stride) (c.word 3) ((qs.flatMap (fun q => q.1)).map (wfPack wf)) ++
        strideRows (c.handle 2) (4 * strideElems wf stride) (c.word 5) (qs.map (fun q => q.2.1.flatMap (leBytes 4)))
      flags := (qs.map (fun q => q.2.2)).foldl (· ||| ·) 0#5, words := [k, k * cols, 0], index := none })

/-- XENC.BLOCK (R138 to R142, R150, R153). -/
def execXencBlock (notrap record : Bool) (k : Fin 8) (a : Fin 16) (s : State) : Host.Outcome State Fault Refusal :=
  s.engineAs { op := .xencBlock, k := k.val, record := record, notrap := notrap, nullIdx := false } a false encBlockChecks
    encBlockExtents s.encBlockTaken

/-! ### Term lists as operands -/

/-- A row found at run passes its handle's end, or reaches 2^57 through a virtual address (R145, R281). -/
def rowPasses (e : HEntry) (ro n : Nat) : Bool :=
  decide (e.length < ro + n) || (e.space != 1 && decide (vaLimit < e.base + ro + n))

/-- A row of a term list through its directory entry (R75, R76, R145): RANGE for an entry that is no multiple of 16 or
a row that passes the handle's end, ROW for a malformed row or one that fails `fits`. The header is judged before the
extent its PLEN gives (DESIGN CHOICE, log 74). -/
def State.readTermRow (s : State) (n : Nat) (c : Cmd) (e : HEntry) (dirOfs : Nat) (fits : RowHead → Bool) : ERead RowRead :=
  (s.engineRead n c e dirOfs 8).bind (fun d =>
    let ro := leNat d
    if !aligned ro 16 || rowPasses e ro 16 then .stop (.fail 4 (e.base + ro))
    else (s.engineRead n c e ro 16).bind (fun hb =>
      let h := rowHead hb
      if !h.good || !fits h then .stop (.fail 3 (e.base + ro))
      else if rowPasses e ro (16 + h.plen) then .stop (.fail 4 (e.base + ro))
      else (s.engineRead n c e (ro + 16) h.plen).bind (fun body => match readRow h body with
        | none => .stop (.fail 3 (e.base + ro))
        | some r => .got r [])))

/-- The rows of a directory, in order. -/
def State.readTermRows (s : State) (n : Nat) (c : Cmd) (e : HEntry) (fits : RowHead → Bool) : Nat → Nat → ERead (List RowRead)
  | _, 0 => .got [] []
  | dirOfs, m + 1 => (s.readTermRow n c e dirOfs fits).bind (fun r =>
    (s.readTermRows n c e fits (dirOfs + 8) m).map (fun t => r :: t))

/-! ### XDEC.TERM -/

/-- The checks of XDEC.TERM (R150). -/
def decTermChecks (ps : List Reg) : Checks :=
  let w := paramNat ps
  { fields := [(0, !denseCode (w0Type (w 0))), (0, w0Low (w 0) != 0), (1, !aligned (w 1) 8), (4, badK (w 4)), (5, badRows (w 5)),
               (6, w 6 != 0), (7, w 7 != 0)]
    handles := [{ word := 0, index := w0SH (w 0), spaces := termSpaces, perms := 1 },
                { word := 0, index := w0DH (w 0), spaces := denseSpaces, perms := 2 }]
    tiles := false }

/-- The extents of XDEC.TERM. -/
def decTermExtents (ps : List Reg) (es : List HEntry) : List Extent :=
  let w := paramNat ps
  [plainExtent 1 (es.getD 0 HEntry.blank) (w 1) (8 * w 5),
   denseExtent 2 (es.getD 1 HEntry.blank) (w 2) (w 5) (w 3) (w 4) (tySize (denseTy (w0Type (w 0))))]

/-- What XDEC.TERM keeps: the whole term-list handle is read (R148). -/
def State.decTermTaken (s : State) (ps : List Reg) (es : List HEntry) : Taken :=
  { handles := es, descs := [], reads := s.wholeSpan (es.getD 0 HEntry.blank), writes := s.spansOf ((decTermExtents ps es).drop 1) }

/-- Element e of a row as a value: q x s (R74); every element of a NaN-scale row is NaN (R154). -/
def RowRead.value (r : RowRead) (q : Int) : FVal :=
  if scaleIsNan r.scale then .nan false
  else if q = 0 || scaleIsZero r.scale then .fin false 0 0
  else (mulVal (ofInteger q) (scaleVal r.scale)).1

/-- A row of values in a type, with flags (R154). -/
def denseRow (t : Ty) (vs : List FVal) : List Byte × Flags :=
  let f := (tyFmt t).getD Fmt.f64
  let rs := vs.map (toFmt f .ne)
  (rs.flatMap (fun r => leBytes (tySize t) r.1), (rs.map (fun r => r.2)).foldl (· ||| ·) 0#5)

/-- XDEC.TERM's work (R154). -/
def State.doDecTerm (s : State) (n : Nat) (c : Cmd) : ERead EDone :=
  let k := c.word 4
  let m := c.word 5
  (s.readTermRows n c (c.handle 0) (fun h => h.k == k) (c.word 1) m).map (fun rows =>
    let rs := rows.map (fun r => denseRow (denseTy (w0Type (c.word 0))) (r.elems.map (fun e => r.value e.1)))
    { puts := strideRows (c.handle 1) (c.word 3) (c.word 2) (rs.map (fun r => r.1)),
      flags := (rs.map (fun r => r.2)).foldl (· ||| ·) 0#5, words := [m, m * k, 0], index := none })

/-- XDEC.TERM (R138 to R142, R150, R154). -/
def execXdecTerm (notrap record : Bool) (k : Fin 8) (a : Fin 16) (s : State) : Host.Outcome State Fault Refusal :=
  s.engineAs { op := .xdecTerm, k := k.val, record := record, notrap := notrap, nullIdx := false } a false decTermChecks
    decTermExtents s.decTermTaken

/-! ### XDEC.BLOCK -/

/-- The checks of XDEC.BLOCK (R150). -/
def decBlockChecks (ps : List Reg) : Checks :=
  let w := paramNat ps
  { fields := [(0, !denseCode (w0Type (w 0))), (0, decide (5 < w0Low (w 0))), (1, !aligned (w 1) 16), (2, bits (w 2) 16 4 != 0),
               (3, !aligned (w 3) 4), (6, badK (w 6)), (7, badRows (w 7))]
    handles := [{ word := 0, index := w0SH (w 0), spaces := denseSpaces, perms := 1 },
                { word := 0, index := w0DH (w 0), spaces := denseSpaces, perms := 2 },
                { word := 2, index := wScaleH (w 2), spaces := denseSpaces, perms := 1 }]
    tiles := false }

/-- The extents of XDEC.BLOCK: weights, scales, destination. -/
def decBlockExtents (ps : List Reg) (es : List HEntry) : List Extent :=
  let w := paramNat ps
  let wf := w0Low (w 0)
  [plainExtent 1 (es.getD 0 HEntry.blank) (w 1) (weightBytes wf (wStride (w 2)) (w 6) (w 7)),
   plainExtent 3 (es.getD 2 HEntry.blank) (w 3) (scaleBytes wf (wStride (w 2)) (w 6) (w 7)),
   denseExtent 4 (es.getD 1 HEntry.blank) (w 4) (w 6) (w 5) (w 7) (tySize (denseTy (w0Type (w 0))))]

/-- What XDEC.BLOCK keeps (R148). -/
def State.decBlockTaken (s : State) (ps : List Reg) (es : List HEntry) : Taken :=
  let xs := decBlockExtents ps es
  { handles := es, descs := [], reads := s.spansOf (xs.take 2), writes := s.spansOf (xs.drop 2) }

/-- Rows of bytes read at a stride, `m` of `len` bytes. -/
def State.readStride (s : State) (n : Nat) (c : Cmd) (e : HEntry) (stride len : Nat) : Nat → Nat → ERead (List (List Byte))
  | _, 0 => .got [] []
  | ofs, m + 1 => (s.engineRead n c e ofs len).bind (fun r =>
    (s.readStride n c e stride len (ofs + stride) m).map (fun t => r :: t))

/-- The scales of one block's columns. -/
def scaleRow (n : Nat) (bs : List Byte) : List Nat := denseCodes n 4 bs

/-- A weight decoded (R71, R78, R154): a NaN or infinite code, or a NaN scale, gives NaN, a signalling code a signalling one;
a zero scale gives +0. -/
def decodeWeight (wf code scale : Nat) : FVal :=
  let v := wfValue wf code
  if v.isNan then v
  else if v.isInf || scaleIsNan scale then .nan false
  else if scaleIsZero scale then .fin false 0 0
  else (mulVal v (scaleVal scale)).1

/-- XDEC.BLOCK's work (R154). -/
def State.doDecBlock (s : State) (n : Nat) (c : Cmd) : ERead EDone :=
  let wf := w0Low (c.word 0)
  let k := c.word 6
  let cols := c.word 7
  let stride := wStride (c.word 2)
  (s.readStride n c (c.handle 0) (16 * stride) (wfBytes wf cols) (c.word 1) k).bind (fun ws =>
    (s.readStride n c (c.handle 2) (4 * strideElems wf stride) (4 * cols) (c.word 3) ((k + 31) / 32)).map (fun ss =>
      let rs := ws.mapIdx (fun i row =>
        let sc := scaleRow cols (ss.getD (i / 32) [])
        denseRow (denseTy (w0Type (c.word 0))) ((range 0 cols).map (fun j => decodeWeight wf (wfElem wf row j) (sc.getD j 0))))
      { puts := strideRows (c.handle 1) (c.word 5) (c.word 4) (rs.map (fun r => r.1)),
        flags := (rs.map (fun r => r.2)).foldl (· ||| ·) 0#5, words := [k, k * cols, 0], index := none }))

/-- XDEC.BLOCK (R138 to R142, R150, R154). -/
def execXdecBlock (notrap record : Bool) (k : Fin 8) (a : Fin 16) (s : State) : Host.Outcome State Fault Refusal :=
  s.engineAs { op := .xdecBlock, k := k.val, record := record, notrap := notrap, nullIdx := false } a false decBlockChecks
    decBlockExtents s.decBlockTaken

end Sys2Proof.Machine
end

