-- ==== Sys2Proof/Machine/Copy.lean ====
section
/-! DEFINITION. The copy commands XCOPY, XGATHER and XSCATTER (R214 to R220): tensor descriptors, the checks at issue in
R215's order, and what each command moves. -/

namespace Sys2Proof.Machine

/-! ### Tensor descriptors -/

/-- A signed number of `8 * n` bits. -/
def signedBytes (bs : List Byte) : Int :=
  let x := leNat bs
  if bit x (8 * bs.length - 1) then (x : Int) - (2 ^ (8 * bs.length) : Nat) else x

/-- A descriptor's fields (R215). -/
def descOf (b : List Byte) : TDesc :=
  { handle := bits (leNat (slice b 0 2)) 0 12, etype := leNat (slice b 2 1), rank := leNat (slice b 3 1),
    tl := bit (leNat (slice b 4 4)) 0, base := leNat (slice b 8 8),
    ext := (range 0 5).map (fun i => leNat (slice b (16 + 4 * i) 4)),
    str := (range 0 5).map (fun i => signedBytes (slice b (36 + 4 * i) 4)), dirofs := leNat (slice b 56 8) }

/-- The element type of a dense descriptor (R48). -/
def tyOfCode (n : Nat) : Ty :=
  match n with
  | 0 => .s32 | 1 => .u32 | 2 => .s64 | 3 => .u64 | 4 => .f32 | 5 => .f64 | 6 => .f16 | 7 => .bf16
  | 8 => .e4m3 | 9 => .e5m2 | 10 => .e3m2 | 11 => .e2m1 | 12 => .s8 | 13 => .u8 | 14 => .s16 | _ => .u16

/-- An element's type and size. -/
def TDesc.ty (d : TDesc) : Ty := tyOfCode d.etype
def TDesc.size (d : TDesc) : Nat := tySize d.ty

/-- An extent and a stride of a descriptor. -/
def TDesc.extOf (d : TDesc) (i : Nat) : Nat := d.ext.getD i 1
def TDesc.strOf (d : TDesc) (i : Nat) : Int := d.str.getD i 0

/-- A field of a descriptor is outside its range (R215, R216). -/
def TDesc.badFields (d : TDesc) (b : List Byte) : Bool :=
  bits (leNat (slice b 0 2)) 12 4 != 0 ||
    (if d.tl then d.etype != 0 else decide (15 < d.etype) || d.etype == 11) ||
    d.rank == 0 || decide (5 < d.rank) || bits (leNat (slice b 4 4)) 1 31 != 0 ||
    (range 0 5).any (fun i => if i < d.rank then d.extOf i == 0 else d.extOf i != 1) ||
    (range 0 5).any (fun i => decide (d.rank ≤ i) && d.strOf i != 0) ||
    (if d.tl then d.rank != 1 || d.strOf 0 != 0 || !aligned d.dirofs 8 else d.dirofs != 0)

/-- The offsets of the elements of a box from a first offset, EXT0 innermost (R215). -/
def boxOffsets : List Nat → List Int → Int → List Int
  | [], _, b => [b]
  | e :: es, st, b =>
    (boxOffsets es (st.drop 1) b).flatMap (fun o => (range 0 e).map (fun (i : Nat) => o + (i : Int) * st.headD 0))

/-- How far a box reaches below and above its first element. -/
def boxLow (d : TDesc) : Int := (range 0 d.rank).foldl (fun a i => a + min 0 (((d.extOf i : Int) - 1) * d.strOf i)) 0
def boxHigh (d : TDesc) : Int := (range 0 d.rank).foldl (fun a i => a + max 0 (((d.extOf i : Int) - 1) * d.strOf i)) 0

/-- The extent a descriptor checks at issue (R215): its box, or its directory for a term list. -/
def descExtent (word : Nat) (d : TDesc) (e : HEntry) : Extent :=
  if d.tl then plainExtent word e d.dirofs (8 * d.extOf 0)
  else
    { word := word, e := e, lo := (d.base : Int) + boxLow d, hi := (d.base : Int) + boxHigh d + (d.size : Int),
      fits := aligned d.base d.size && aligned (e.base + d.base) d.size &&
        (range 0 d.rank).all (fun i => d.strOf i % (d.size : Int) == 0) }

/-! ### Checks at issue -/

/-- Look up one handle for a command: HANDLE or a poisoned entry, then PERM (R215). -/
def State.openOne (s : State) (u : HandleUse) : Except Checked HEntry :=
  match s.openAll (s.team s.cur.team).lid [u] with
  | .ok es =>
    let e := es.headD HEntry.blank
    if e.permits u.perms false then .ok e else .error (.trap 0x04 (engineXval u.word 0) 0)
  | r => .error r

/-- BOUNDS of an extent. -/
def State.boundsOne (s : State) (x : Extent) : Except Checked Unit :=
  if x.fails (s.team s.cur.team).len then .error (.trap 0x03 (engineXval x.word 0) (ofI 64 (x.e.base + x.lo))) else .ok ()

/-- The first failing field of the parameter words (R140 checks 1 and 2). -/
def wordsFirst (ps : List Reg) (fields : List (Nat × Bool)) : Except Checked Unit :=
  match firstPoison ps with
  | some w => .error (.trap 0x0A (engineXval w 0) 0)
  | none => match fields.find? (fun f => f.2) with
    | some f => .error (.trap 0x0C (engineXval f.1 1) 0)
    | none => .ok ()

/-- The descriptor a word locates, in the team's local memory: POISON of its bytes, then FIELD of its fields and of its
agreement with what came before (R215 step 3). -/
def State.readDesc (s : State) (word : Nat) (dh : HEntry) (ofs : Nat) (agrees : TDesc → Bool) : Except Checked TDesc :=
  let core := coreOfSlot s.ix.slot
  let at_ := (s.team s.cur.team).base + dh.base + ofs
  if s.locPoisonIn core at_ 64 then .error (.trap 0x0A (engineXval word 0) 0)
  else
    let b := s.locBytes core at_ 64
    let d := descOf b
    if d.badFields b || !agrees d then .error (.trap 0x0C (engineXval word 1) 0) else .ok d

/-- The data handle of a descriptor, with its box (R215 step 4); of the spaces R216 gives XCOPY, for the descriptors of XGATHER and
XSCATTER too, of which R217 names no space (DESIGN CHOICE, log 78). -/
def State.openDesc (s : State) (word : Nat) (d : TDesc) (perms : Nat) : Except Checked HEntry :=
  match s.openOne { word := word, index := d.handle, spaces := [0, 1, 5], perms := perms } with
  | .error r => .error r
  | .ok e => (s.boundsOne (descExtent word d e)).map (fun _ => e)

/-- The descriptor handle, and the two descriptors it holds (R215 steps 2 and 3). -/
def State.openDescs (s : State) (ps : List Reg) (first : TDesc → Bool) (second : TDesc → TDesc → Bool) : Except Checked (TDesc × TDesc) :=
  let w := paramNat ps
  match s.openOne { word := 0, index := w0SH (w 0), spaces := [1], perms := 1 } with
  | .error r => .error r
  | .ok dh =>
    match (s.boundsOne (plainExtent 1 dh (w 1) 64)).bind (fun _ => s.boundsOne (plainExtent 2 dh (w 2) 64)) with
    | .error r => .error r
    | .ok _ =>
      match s.readDesc 1 dh (w 1) first with
      | .error r => .error r
      | .ok d1 => (s.readDesc 2 dh (w 2) (second d1)).map (fun d2 => (d1, d2))

/-- A copy command as checked. -/
structure CopyOk where
  uses    : List HandleUse
  handles : List HEntry
  descs   : List TDesc
  deriving DecidableEq, Repr

/-- A copy command's issue (R214, R215): `reads` and `writes` give its ranges (R220). -/
def State.copyAs (s : State) (o : Order) (a : Fin 16) (check : List Reg → Except Checked CopyOk)
    (ranges : List Reg → CopyOk → List (Nat × Nat) × List (Nat × Nat)) : Host.Outcome State Fault Refusal :=
  let ps := s.params a
  s.runs (if s.drained s.cur then s
    else match check ps with
      | .error (.trap cause xval xaddr) => (s.clearWaits s.me).trapAt cause xval xaddr
      | .error (.wait va l c) => s.waitTable .read va l c
      | .error .held => s
      | .error _ => s.tableLost
      | .ok k =>
        if s.engineFull o.k o.record false then s
        else
          let r := ranges ps k
          ((s.keepAll k.uses k.handles).clearWaits s.me).accept o ps
            { handles := k.handles, descs := k.descs, reads := r.1, writes := r.2 })

/-- The span of a descriptor's box (R220). -/
def State.boxSpan (s : State) (d : TDesc) (e : HEntry) : List (Nat × Nat) :=
  let x := descExtent 0 d e
  s.localSpan e x.lo x.hi

/-! ### XCOPY -/

/-- The fields of XCOPY's parameter words (R216). -/
def copyFields (ps : List Reg) : List (Nat × Bool) :=
  let w := paramNat ps
  [(0, bits (w 0) 0 20 != 0), (1, !aligned (w 1) 64), (2, !aligned (w 2) 64), (3, w 3 != 0), (4, w 4 != 0), (5, w 5 != 0),
   (6, w 6 != 0), (7, w 7 != 0)]

/-- Source and destination of XCOPY agree (R216): both dense with equal rank and extents, or both term lists with equal
rows and a destination base of 16. -/
def copyAgrees (x y : TDesc) : Bool := x.tl == y.tl && x.rank == y.rank && x.ext == y.ext && (!y.tl || aligned y.base 16)

/-- The checks of XCOPY (R215, R216). -/
def State.copyCheck (s : State) (ps : List Reg) : Except Checked CopyOk :=
  match wordsFirst ps (copyFields ps) with
  | .error r => .error r
  | .ok _ => match s.openDescs ps (fun _ => true) copyAgrees with
    | .error r => .error r
    | .ok (d1, d2) => match s.openDesc 1 d1 1 with
      | .error r => .error r
      | .ok e1 => (s.openDesc 2 d2 2).map (fun e2 =>
        { uses := [{ word := 1, index := d1.handle, spaces := [], perms := 1 }, { word := 2, index := d2.handle, spaces := [], perms := 2 }],
          handles := [e1, e2], descs := [d1, d2] })

/-- XCOPY's scoreboard ranges (R220). -/
def State.copyRanges (s : State) (_ps : List Reg) (k : CopyOk) : List (Nat × Nat) × List (Nat × Nat) :=
  let e1 := k.handles.getD 0 HEntry.blank
  let e2 := k.handles.getD 1 HEntry.blank
  let d1 := k.descs.getD 0 (descOf [])
  let d2 := k.descs.getD 1 (descOf [])
  (if d1.tl then s.wholeSpan e1 else s.boxSpan d1 e1,
   if d2.tl then s.boxSpan d2 e2 ++ s.localSpan e2 d2.base e2.length else s.boxSpan d2 e2)

/-- XCOPY (R214 to R216). -/
def execXcopy (notrap record : Bool) (k : Fin 8) (a : Fin 16) (s : State) : Host.Outcome State Fault Refusal :=
  s.copyAs { op := .xcopy, k := k.val, record := record, notrap := notrap, nullIdx := false } a s.copyCheck s.copyRanges

/-- An element moved, converted when the types differ (R216); bits above its type's width are ignored and written 0 (R66). -/
def moveElem (dst src : Ty) (x : Nat) : Nat × Flags := if dst = src then (x % 2 ^ tyBits dst, 0#5) else convert .ne dst src x

/-- Elements moved from one list of offsets to another. -/
def State.moveElems (s : State) (n : Nat) (c : Cmd) (es ed : HEntry) (ts td : Ty) : List (Int × Int) → ERead (List EPut × Flags)
  | [] => .got ([], 0#5) []
  | (a, b) :: rest =>
    (s.engineRead n c es a.toNat (tySize ts)).bind (fun bs =>
      let r := moveElem td ts (leNat bs)
      (s.moveElems n c es ed ts td rest).map (fun t =>
        ({ e := ed, off := b.toNat, bytes := leBytes (tySize td) r.1, poison := false } :: t.1, r.2 ||| t.2)))

/-- Every offset of a descriptor's box. -/
def TDesc.offsets (d : TDesc) : List Int := boxOffsets (d.ext.take d.rank) d.str d.base

/-- Dense XCOPY (R216, R219). -/
def State.doDense (s : State) (n : Nat) (c : Cmd) (x y : TDesc) : ERead EDone :=
  (s.moveElems n c (c.handle 0) (c.handle 1) x.ty y.ty (List.zip x.offsets y.offsets)).map (fun r =>
    { puts := r.1, flags := r.2, words := [r.1.length, r.1.length * y.size, 0], index := none })

/-- One row of a term list as XCOPY copies it (R216): 16 + PLEN bytes padded to 16, headers checked, blocks not. -/
def State.copyRow (s : State) (n : Nat) (c : Cmd) (e : HEntry) (dirOfs : Nat) : ERead (List Byte) :=
  (s.engineRead n c e dirOfs 8).bind (fun d =>
    let ro := leNat d
    if !aligned ro 16 || rowPasses e ro 16 then .stop (.fail 4 (e.base + ro))
    else (s.engineRead n c e ro 16).bind (fun hb =>
      let h := rowHead hb
      if !h.good then .stop (.fail 3 (e.base + ro))
      else if rowPasses e ro (16 + h.plen) then .stop (.fail 4 (e.base + ro))
      else (s.engineRead n c e (ro + 16) h.plen).map (fun body => hb ++ body ++ List.replicate (pad16 h.plen - h.plen) 0)))

/-- The rows of a term list, written one after another from an offset of the destination. -/
def State.copyRows (s : State) (n : Nat) (c : Cmd) (es ed : HEntry) : Nat → Nat → Nat → ERead (List (List Byte))
  | _, _, 0 => .got [] []
  | dirOfs, off, m + 1 =>
    (s.copyRow n c es dirOfs).bind (fun r =>
      if rowPasses ed off r.length then .stop (.fail 4 (ed.base + off))
      else (s.copyRows n c es ed (dirOfs + 8) (off + r.length) m).map (fun t => r :: t))

/-- XCOPY's work (R216, R219). -/
def State.doCopy (s : State) (n : Nat) (c : Cmd) : ERead EDone :=
  let x := c.descs.getD 0 (descOf [])
  let y := c.descs.getD 1 (descOf [])
  if x.tl then
    (s.copyRows n c (c.handle 0) (c.handle 1) x.dirofs y.base (x.extOf 0)).map (fun rows =>
      { puts := putTermList (c.handle 1) y.dirofs y.base rows false, flags := 0#5,
        words := [rows.length, rows.foldl (fun a r => a + r.length) 0 + 8 * rows.length, 0], index := none })
  else s.doDense n c x y

/-! ### XGATHER and XSCATTER -/

/-- Bytes of an index (R217). -/
def idxSize (ityp : Nat) : Nat := if ityp < 2 then 4 else 8

/-- The value of an index as ITYPE reads it. -/
def idxVal (ityp x : Nat) : Int :=
  if ityp = 0 then (BitVec.ofNat 32 x).toInt else if ityp = 2 then (BitVec.ofNat 64 x).toInt else (x : Int)

/-- The fields of the parameter words (R217). -/
def gatherFields (ps : List Reg) : List (Nat × Bool) :=
  let w := paramNat ps
  [(0, decide (3 < bits (w 0) 4 4)), (0, bits (w 0) 0 4 != 0), (1, !aligned (w 1) 64), (2, !aligned (w 2) 64),
   (3, !aligned (w 3) (idxSize (bits (w 0) 4 4))), (4, badK (w 4)), (6, w 6 != 0), (7, w 7 != 0)]

/-- The table is dense, of rank 2 to 5 (R217). -/
def tableOk (d : TDesc) : Bool := !d.tl && decide (2 ≤ d.rank)

/-- The dense descriptor agrees with the table (R217). -/
def gatherAgrees (nidx : Nat) (x y : TDesc) : Bool :=
  !y.tl && x.rank == y.rank && x.ext.take (x.rank - 1) == y.ext.take (x.rank - 1) && y.extOf (x.rank - 1) == nidx

/-- The index range (R215 step 4, R217). -/
def idxExtent (ps : List Reg) (e : HEntry) : Extent :=
  let w := paramNat ps
  let n := idxSize (bits (w 0) 4 4)
  { plainExtent 0 e (w 3) (n * w 4) with fits := aligned (e.base + w 3) n }

/-- The checks of XGATHER and XSCATTER (R215, R217): permissions of the table and of the dense descriptor. -/
def State.gatherCheck (s : State) (tableP denseP : Nat) (ps : List Reg) : Except Checked CopyOk :=
  let w := paramNat ps
  match wordsFirst ps (gatherFields ps) with
  | .error r => .error r
  | .ok _ => match s.openDescs ps tableOk (gatherAgrees (w 4)) with
    | .error r => .error r
    | .ok (d1, d2) => match s.openDesc 1 d1 tableP with
      | .error r => .error r
      | .ok e1 => match s.openDesc 2 d2 denseP with
        | .error r => .error r
        | .ok e2 =>
          let u : HandleUse := { word := 0, index := w0DH (w 0), spaces := denseSpaces, perms := 1 }
          match s.openOne u with
          | .error r => .error r
          | .ok ei => (s.boundsOne (idxExtent ps ei)).map (fun _ =>
            { uses := [{ word := 1, index := d1.handle, spaces := [], perms := 0 }, { word := 2, index := d2.handle, spaces := [], perms := 0 }, u],
              handles := [e1, e2, ei], descs := [d1, d2] })

/-- Their scoreboard ranges (R220): a table as a read or a write, the index list as a read. -/
def State.gatherRanges (s : State) (scatter : Bool) (ps : List Reg) (k : CopyOk) : List (Nat × Nat) × List (Nat × Nat) :=
  let e1 := k.handles.getD 0 HEntry.blank
  let e2 := k.handles.getD 1 HEntry.blank
  let ix := s.spansOf [idxExtent ps (k.handles.getD 2 HEntry.blank)]
  let t := s.boxSpan (k.descs.getD 0 (descOf [])) e1
  let d := s.boxSpan (k.descs.getD 1 (descOf [])) e2
  if scatter then (d ++ ix, t) else (t ++ ix, d)

/-- XGATHER (R214, R215, R217). -/
def execXgather (notrap record nullidx : Bool) (k : Fin 8) (a : Fin 16) (s : State) : Host.Outcome State Fault Refusal :=
  s.copyAs { op := .xgather, k := k.val, record := record, notrap := notrap, nullIdx := nullidx } a (s.gatherCheck 1 2)
    (s.gatherRanges false)

/-- XSCATTER (R214, R215, R217). -/
def execXscatter (notrap record nullidx : Bool) (k : Fin 8) (a : Fin 16) (s : State) : Host.Outcome State Fault Refusal :=
  s.copyAs { op := .xscatter, k := k.val, record := record, notrap := notrap, nullIdx := nullidx } a (s.gatherCheck 2 1)
    (s.gatherRanges true)

/-- The offsets of slice j of a descriptor (R217). -/
def TDesc.slice (d : TDesc) (j : Int) : List Int :=
  boxOffsets (d.ext.take (d.rank - 1)) d.str ((d.base : Int) + j * d.strOf (d.rank - 1))

/-- What the positions done so far come to. -/
structure Gathered where
  puts  : List EPut
  flags : Flags
  nulls : Nat
  bad   : Option (Nat × Nat × Nat)
  deriving DecidableEq, Repr

/-- One more position. -/
def Gathered.add (g : Gathered) (ps : List EPut) (f : Flags) (null : Bool) : Gathered :=
  { g with puts := g.puts ++ ps, flags := g.flags ||| f, nulls := g.nulls + b2n null }

/-- Positions in ascending order from p (R217, R218): an index outside the table ends the command there. -/
def State.positions (s : State) (n : Nat) (c : Cmd) (scatter : Bool) (t d : TDesc) : Nat → Nat → Gathered → ERead Gathered
  | 0, _, acc => .got acc []
  | m + 1, p, acc =>
    let ityp := bits (c.word 0) 4 4
    let sz := idxSize ityp
    let off := c.word 3 + p * sz
    (s.engineRead n c (c.handle 2) off sz).bind (fun ib =>
      let x := leNat ib
      if c.nullIdx && x == 2 ^ (8 * sz) - 1 then
        let zeros := if scatter then [] else (d.slice p).map (fun (o : Int) =>
          ({ e := c.handle 1, off := o.toNat, bytes := leBytes d.size 0, poison := false } : EPut))
        s.positions n c scatter t d m (p + 1) (acc.add zeros 0#5 true)
      else
        let j := idxVal ityp x - (BitVec.ofNat 32 (c.word 5)).toInt
        if j < 0 ∨ (t.extOf (t.rank - 1) : Int) ≤ j then .got { acc with bad := some (p, x, (c.handle 2).base + off) } []
        else
          (if scatter then s.moveElems n c (c.handle 1) (c.handle 0) d.ty t.ty (List.zip (d.slice p) (t.slice j))
            else s.moveElems n c (c.handle 0) (c.handle 1) t.ty d.ty (List.zip (t.slice j) (d.slice p))).bind (fun r =>
            s.positions n c scatter t d m (p + 1) (acc.add r.1 r.2 false)))

/-- The work of XGATHER and XSCATTER (R217 to R219). -/
def State.doGather (s : State) (n : Nat) (c : Cmd) (scatter : Bool) : ERead EDone :=
  (s.positions n c scatter (c.descs.getD 0 (descOf [])) (c.descs.getD 1 (descOf [])) (c.word 4) 0
    { puts := [], flags := 0#5, nulls := 0, bad := none }).map (fun g =>
    { puts := g.puts, flags := g.flags, words := [c.word 4, g.puts.foldl (fun a p => a + p.bytes.length) 0, g.nulls], index := g.bad })

/-! ### Starting a command -/

/-- The work of a command of the copy engine. -/
def State.work (s : State) (n : Nat) (c : Cmd) : ERead EDone :=
  match c.op with
  | .xcopy => s.doCopy n c
  | .xgather => s.doGather n c false
  | .xscatter => s.doGather n c true
  | .xencTerm => s.doEncTerm n c
  | .xencBlock => s.doEncBlock n c
  | .xdecTerm => s.doDecTerm n c
  | .xdecBlock => s.doDecBlock n c
  | _ => .stop (.fail 1 0)

/-- ENGINE_COMMAND_START (R149): a command of the copy engine does its work once the scoreboard releases it; its record
and its counter follow at completion. -/
def execEngineCommandStart (n : Nat) (s : State) : Host.Outcome State Fault Refusal :=
  s.runs (match mget? s.cmds n with
    | none => s
    | some c =>
      if s.mayStart n c && c.op != .mtask && c.op != .mtaskStream then s.engineApply n c (s.work n c) else s)

end Sys2Proof.Machine
end

