-- ==== Sys2Proof/Machine/Cross.lean ====
section
/-! DEFINITION. The lane operations (R111 to R117): shuffles, segmented and plain scans, reductions, the ballot and
RDLANE. C is the issuing class in ascending lane order. -/

namespace Sys2Proof.Machine

/-- A lane's A word. -/
def wordA (ws : List (List Reg)) : Reg := (ws.headD []).headD Reg.zero

/-- A lane's B word. -/
def wordB (ws : List (List Reg)) : Reg := ((ws.drop 1).headD []).headD Reg.zero

/-- A shuffle (R112): the lane read is found from the lane and b. -/
def shuffle (find : Nat → Nat → Int) (_once : Bool) (c : List Nat) (l : Nat) (ws : Nat → List (List Reg)) : Res :=
  let b := wordB (ws l)
  let j := find l b.bits.toNat
  let a := if 0 ≤ j ∧ c.contains j.toNat then wordA (ws j.toNat) else wordA (ws l)
  { words := [{ bits := a.bits, poison := a.poison || b.poison }], flags := 0#5 }

/-- A shuffle as an instruction: D may not be uniform (R92). -/
def State.shuffleAs (s : State) (d : Dst) (a b : Src) (find : Nat → Nat → Int) : Out :=
  s.runs (s.cross { use2 d 1 a .word b .word with noUni := true } (shuffle find))

/-- The lanes of a segmented scan's segment that ends at a lane (R113): those after which no lane up to it starts one. -/
def segment (c : List Nat) (l : Nat) (flag : Nat → Bool) : List Nat :=
  c.filter (fun m => decide (m ≤ l) && c.all (fun k => !(decide (m < k) && decide (k ≤ l) && flag k)))

/-- The sum a scan or reduction writes: modulo 2^32, or exact and rounded once (R113, R114). -/
inductive SumKind where
  | int | f32 | f64
  deriving DecidableEq, Repr

/-- Words of a sum's operands. -/
def SumKind.words : SumKind → Nat
  | .f64 => 2
  | _ => 1

/-- Position of a sum's operands. -/
def SumKind.pos : SumKind → Pos
  | .f64 => .dbl
  | _ => .word

/-- The sum of values (R113, R114). -/
def SumKind.sum (k : SumKind) (xs : List DWord) : DWord × Flags :=
  match k with
  | .int => (BitVec.ofNat 64 (xs.foldl (fun n x => n + x.toNat) 0 % 2 ^ 32), 0#5)
  | .f32 =>
    let r := exactSum Fmt.f32 (xs.map (fun x => x.toNat))
    (BitVec.ofNat 64 r.1, r.2)
  | .f64 =>
    let r := exactSum Fmt.f64 (xs.map (fun x => x.toNat))
    (BitVec.ofNat 64 r.1, r.2)

/-- The sum of the A operands of some lanes, with their tags and a further tag. -/
def sumOver (k : SumKind) (ls : List Nat) (ws : Nat → List (List Reg)) (more : Bool) : Res :=
  let r := k.sum (ls.map (fun m => wordsVal ((ws m).headD [])))
  { words := resWords k.words r.1 (ls.any (fun m => anyPoison ((ws m).headD [])) || more), flags := r.2 }

/-- A segmented scan (R113). -/
def segScan (k : SumKind) (_once : Bool) (c : List Nat) (l : Nat) (ws : Nat → List (List Reg)) : Res :=
  let seg := segment c l (fun m => (wordB (ws m)).bits != 0)
  sumOver k seg ws (seg.any (fun m => (wordB (ws m)).poison))

/-- A segmented scan as an instruction: B is the segment flag, D may not be uniform (R92, R113). -/
def State.segAs (s : State) (d : Dst) (a b : Src) (k : SumKind) : Out :=
  s.runs (s.cross { use2 d k.words a k.pos b .word with noUni := true } (segScan k))

/-- A LUN function as an instruction (R115): a uniform D takes a vector A (R40). -/
def State.lunAs (s : State) (d : Dst) (a : Src) (k : SumKind)
    (f : Bool → List Nat → Nat → (Nat → List (List Reg)) → Res) : Out :=
  s.runs (s.cross { use1 d k.words a k.pos with uniform := [] } f)

/-- An inclusive scan; for the group, the sum over the class (R115). -/
def scan (k : SumKind) (once : Bool) (c : List Nat) (l : Nat) (ws : Nat → List (List Reg)) : Res :=
  sumOver k (if once then c else c.filter (fun m => decide (m ≤ l))) ws false

/-- The sum over the class (R115). -/
def reduce (k : SumKind) (_once : Bool) (c : List Nat) (_l : Nat) (ws : Nat → List (List Reg)) : Res := sumOver k c ws false

/-- A word formed from the A words of the whole class (R115). -/
def overClass (c : List Nat) (ws : Nat → List (List Reg)) (f : List Word → Word) : Res :=
  let as := c.map (fun m => wordA (ws m))
  { words := [{ bits := f (as.map (fun r => r.bits)), poison := anyPoison as }], flags := 0#5 }

/-- The greatest word of a list under an order. -/
def extreme (lt : Word → Word → Bool) : List Word → Word
  | [] => 0
  | x :: t => t.foldl (fun m y => if lt m y then y else m) x

/-- The number of non-zero words. -/
def nonZero (l : List Word) : Nat := (l.filter (fun w => w != 0)).length

/-- The ballot: bit m is 1 when m is in C and its A word is not 0 (R116). -/
def ballot (c : List Nat) (ws : Nat → List (List Reg)) : Nat :=
  c.foldl (fun n m => n + (if (wordA (ws m)).bits = 0 then 0 else 2 ^ m)) 0

/-- LBALLOT's word (R116). -/
def ballotWord (width : Nat) (_once : Bool) (c : List Nat) (l : Nat) (ws : Nat → List (List Reg)) : Res :=
  let b := wordB (ws l)
  let j := b.bits.toNat
  let w := if 32 * j < width then BitVec.ofNat 32 (ballot c ws / 2 ^ (32 * j)) else 0
  { words := [{ bits := w, poison := c.any (fun m => (wordA (ws m)).poison) || b.poison }], flags := 0#5 }

/-- RDLANE's word (R117). -/
def readLane (_once : Bool) (c : List Nat) (l : Nat) (ws : Nat → List (List Reg)) : Res :=
  let b := wordB (ws l)
  let j := b.bits.toNat
  let a := if c.contains j then wordA (ws j) else Reg.zero
  { words := [{ bits := a.bits, poison := a.poison || b.poison }], flags := 0#5 }

/-- SHFL (R112). -/
def execShfl (d : Dst) (a b : Src) (s : State) : Out :=
  s.shuffleAs d a b (fun _ b => (b : Int))

/-- SHFLX (R112). -/
def execShflx (d : Dst) (a b : Src) (s : State) : Out :=
  s.shuffleAs d a b (fun l b => ((l ^^^ b : Nat) : Int))

/-- SHFLU (R112): an integer difference, which may be negative. -/
def execShflu (d : Dst) (a b : Src) (s : State) : Out :=
  s.shuffleAs d a b (fun l b => (l : Int) - b)

/-- SHFLD (R112). -/
def execShfld (d : Dst) (a b : Src) (s : State) : Out :=
  s.shuffleAs d a b (fun l b => (l : Int) + b)

/-- LSEGI (R113). -/
def execLsegi (d : Dst) (a b : Src) (s : State) : Out :=
  s.segAs d a b .int

/-- LSEGF (R113). -/
def execLsegf (d : Dst) (a b : Src) (s : State) : Out :=
  s.segAs d a b .f32

/-- LSEGD (R113). -/
def execLsegd (d : Dst) (a b : Src) (s : State) : Out :=
  s.segAs d a b .f64

/-- LSCANI (R115). -/
def execLscani (d : Dst) (a : Src) (s : State) : Out :=
  s.lunAs d a .int (scan .int)

/-- LSCANF (R115). -/
def execLscanf (d : Dst) (a : Src) (s : State) : Out :=
  s.lunAs d a .f32 (scan .f32)

/-- LSCAND (R115). -/
def execLscand (d : Dst) (a : Src) (s : State) : Out :=
  s.lunAs d a .f64 (scan .f64)

/-- LREDI (R115). -/
def execLredi (d : Dst) (a : Src) (s : State) : Out :=
  s.lunAs d a .int (reduce .int)

/-- LREDF (R115). -/
def execLredf (d : Dst) (a : Src) (s : State) : Out :=
  s.lunAs d a .f32 (reduce .f32)

/-- LREDD (R115). -/
def execLredd (d : Dst) (a : Src) (s : State) : Out :=
  s.lunAs d a .f64 (reduce .f64)

/-- LMINI (R115). -/
def execLmini (d : Dst) (a : Src) (s : State) : Out :=
  s.lunAs d a .int (fun _ c _ ws => overClass c ws (extreme (fun m y => y.slt m)))

/-- LMAXI (R115). -/
def execLmaxi (d : Dst) (a : Src) (s : State) : Out :=
  s.lunAs d a .int (fun _ c _ ws => overClass c ws (extreme (fun m y => m.slt y)))

/-- LANY (R115). -/
def execLany (d : Dst) (a : Src) (s : State) : Out :=
  s.lunAs d a .int (fun _ c _ ws => overClass c ws (fun l => bitWord (l.any (fun w => w != 0))))

/-- LALL (R115). -/
def execLall (d : Dst) (a : Src) (s : State) : Out :=
  s.lunAs d a .int (fun _ c _ ws => overClass c ws (fun l => bitWord (l.all (fun w => w != 0))))

/-- LCOUNT (R115). -/
def execLcount (d : Dst) (a : Src) (s : State) : Out :=
  s.lunAs d a .int (fun _ c _ ws => overClass c ws (fun l => BitVec.ofNat 32 (nonZero l)))

/-- LRANK (R115): the lower lanes of the class, or as LCOUNT for the group; every A word contributes its tag. -/
def execLrank (d : Dst) (a : Src) (s : State) : Out :=
  s.lunAs d a .int (fun once c l ws =>
    { overClass c ws (fun _ => BitVec.ofNat 32 (nonZero ((c.filter (fun m => once || decide (m < l))).map (fun m => (wordA (ws m)).bits))))
      with flags := 0#5 })

/-- LBALLOT (R116): a uniform D takes a vector A, not a vector B (R92). -/
def execLballot (d : Dst) (a b : Src) (s : State) : Out :=
  s.runs (s.cross { use2 d 1 a .word b .word with uniform := [b] } (ballotWord s.cur.width))

/-- RDLANE (R117): a uniform D takes a vector A, not a vector B (R92). -/
def execRdlane (d : Dst) (a b : Src) (s : State) : Out :=
  s.runs (s.cross { use2 d 1 a .word b .word with uniform := [b] } readLane)

end Sys2Proof.Machine
end

