-- ==== Sys2Proof/Machine/Matrix.lean ====
section
/-! DEFINITION. The term engine (R121 to R137, R155, R156): MTASK, its start, block closes, epilogue and counted cycles. -/

namespace Sys2Proof.Machine

/-! ### The task record -/

/-- Fields of a task record (R155). -/
def Cmd.taskM (c : Cmd) : Nat := Machine.taskM (c.word 7)
def Cmd.taskN (c : Cmd) : Nat := Machine.taskN (c.word 7)
def Cmd.taskG (c : Cmd) : Nat := Machine.taskG (c.word 7)
def Cmd.taskK (c : Cmd) : Nat := bits (c.word 4) 0 16
def Cmd.taskWf (c : Cmd) : Nat := bits (c.word 7) 3 4
def Cmd.taskStr (c : Cmd) : Nat := bits (c.word 4) 16 16
def Cmd.taskAcc (c : Cmd) : Bool := bit (c.word 7) 2
def Cmd.taskEpi (c : Cmd) : Nat := bits (c.word 5) 16 4
def Cmd.taskRow (c : Cmd) : Nat := 8 * bits (c.word 0) 0 6

/-- Blocks of a task's elements (R123). -/
def Cmd.blocks (c : Cmd) : Nat := (c.taskK + 31) / 32

/-- Term groups of a task (R122). -/
def Cmd.groups (c : Cmd) : Nat := (c.taskM + c.taskG - 1) / c.taskG

/-- The dense type of an EPI code (R155). -/
def epiTy (epi : Nat) : Ty :=
  match epi with
  | 1 => .f64 | 2 => .f32 | 3 => .f16 | 4 => .bf16 | 5 => .e4m3 | _ => .e5m2

/-- Bytes of the directory area of a TL16 output (R156). -/
def epiDir (m : Nat) : Nat := 16 * ((m + 1) / 2)

/-- The checks of MTASK (R155). -/
def taskChecks (stream : Bool) (tiles : Nat) (ps : List Reg) : Checks :=
  let w := paramNat ps
  let epi := bits (w 5) 16 4
  let ostr := bits (w 5) 0 16
  let w7 := w 7
  let out : HandleUse := { word := 5, index := bits (w 5) 20 12, spaces := denseSpaces, perms := 2 }
  { fields := [(0, bits (w 0) 6 2 != 0), (1, !aligned (w 1) 8), (2, !aligned (w 2) 16), (3, !aligned (w 3) 4),
               (4, bits (w 4) 0 16 == 0), (5, epi == 7), (5, decide (8 ≤ epi) && ostr != 0), (6, !aligned (w 6) 16),
               (7, taskBadW7 w7), (7, taskBadShape stream w7),
               (7, epi != 0 && decide (epi < 7) && decide (16 * ostr < taskN w7 * tySize (epiTy epi)))]
    handles := [{ word := 0, index := bits (w 0) 20 12, spaces := [1], perms := 1 },
                { word := 0, index := bits (w 0) 8 12, spaces := if stream then [0] else [1], perms := 1 }] ++
               (if epi = 0 then [] else [out])
    tiles := decide (128 * tiles < 8 * bits (w 0) 0 6 + taskM w7) }

/-- The extents of MTASK (R155, R156): a TL16 output has two, its directory and its rows' worst-case span (R148); a BOUNDS of the
second names its first byte (DESIGN CHOICE, log 74). -/
def taskExtents (ps : List Reg) (es : List HEntry) : List Extent :=
  let w := paramNat ps
  let wf := bits (w 7) 3 4
  let k := bits (w 4) 0 16
  let str := bits (w 4) 16 16
  let epi := bits (w 5) 16 4
  let m := taskM (w 7)
  let n := taskN (w 7)
  let y := es.getD 2 HEntry.blank
  [plainExtent 1 (es.getD 0 HEntry.blank) (w 1) (8 * m), plainExtent 2 (es.getD 1 HEntry.blank) (w 2) (weightBytes wf str k n),
   plainExtent 3 (es.getD 1 HEntry.blank) (w 3) (scaleBytes wf str k n)] ++
    (if epi = 0 then [] else if epi < 8 then [denseExtent 6 y (w 6) m (16 * bits (w 5) 0 16) n (tySize (epiTy epi))]
     else [plainExtent 6 y (w 6) (8 * m), plainExtent 6 y (w 6 + epiDir m) (worstSpan m n (epi - 7))])

/-- What MTASK keeps: the whole activation handle and its weights are read, its output is written (R148). -/
def State.taskTaken (s : State) (ps : List Reg) (es : List HEntry) : Taken :=
  let xs := taskExtents ps es
  { handles := es, descs := [], reads := s.wholeSpan (es.getD 0 HEntry.blank) ++ s.spansOf ((xs.drop 1).take 2),
    writes := s.spansOf (xs.drop 3) }

/-- The tiles of the issuing team. -/
def State.myTiles (s : State) : Nat := (s.team s.cur.team).tiles.length

/-- MTASK in tile mode (R138 to R142, R155). -/
def execMtask (notrap record : Bool) (k : Fin 8) (a : Fin 16) (s : State) : Host.Outcome State Fault Refusal :=
  s.engineAs { op := .mtask, k := k.val, record := record, notrap := notrap, nullIdx := false } a true
    (taskChecks false s.myTiles) taskExtents s.taskTaken

/-- MTASK.STREAM (R135, R138 to R142, R155). -/
def execMtaskStream (notrap record : Bool) (k : Fin 8) (a : Fin 16) (s : State) : Host.Outcome State Fault Refusal :=
  s.engineAs { op := .mtaskStream, k := k.val, record := record, notrap := notrap, nullIdx := false } a true
    (taskChecks true s.myTiles) taskExtents s.taskTaken

/-! ### The cycle model -/

/-- The greatest of a list. -/
def maxOf (l : List Nat) : Nat := l.foldl max 0

/-- One element of R123: finish times of the lanes, and the greatest finish times of the block so far, latest first. -/
def elemTimes (d z : Nat) (fs hist cs : List Nat) : List Nat :=
  List.zipWith (fun f c => max (max z f) (hist.getD d z) + c) fs cs

/-- The recurrence of R123 over the elements' columns of term counts, from element `i`. -/
def groupTimes (d : Nat) : Nat → Nat → List Nat → List Nat → List (List Nat) → Nat
  | _, _, fs, _, [] => maxOf fs + 2
  | i, z, fs, hist, cs :: rest =>
    if i % 32 = 0 && i != 0 then
      let z' := maxOf fs + 2
      let fs' := elemTimes d z' (fs.map (fun _ => z')) [] cs
      groupTimes d (i + 1) z' fs' [maxOf fs'] rest
    else
      let fs' := elemTimes d z fs hist cs
      groupTimes d (i + 1) z fs' (maxOf fs' :: hist) rest

/-- F_g of a term group: its rows' term counts (R123). -/
def groupCycles (d k : Nat) (rows : List (List Nat)) : Nat :=
  groupTimes d 0 0 (rows.map (fun _ => 0)) [] ((range 0 k).map (fun j => rows.map (fun r => r.getD j 0)))

/-- Rows in runs of g. -/
def runsOf {α : Type} (g : Nat) : Nat → List α → List (List α)
  | 0, _ => []
  | n + 1, l => l.take g :: runsOf g n (l.drop g)

/-- The counted cycles of a task (R123, R124): 24 and the greatest F_g of each wave. -/
def countedCycles (d k g : Nat) (rows : List (List Nat)) : Nat :=
  let fs := (runsOf g ((rows.length + g - 1) / g) rows).map (groupCycles d k)
  (runsOf 16 ((fs.length + 15) / 16) fs).foldl (fun t w => t + 24 + maxOf w) 0

/-! ### Starting a task -/

/-- The task still holds its lanes (R132, R133). -/
def Cmd.inLanes (c : Cmd) : Bool := c.phase == .folding && c.nextBlk.any (fun b => decide (b < c.blocks))

/-- Lanes a task takes (R133). -/
def Cmd.lanes (c : Cmd) : Nat := if 128 < c.taskM then 128 else c.groups * c.taskG

/-- A command of the term engine. -/
def Cmd.isTask (c : Cmd) : Bool := c.op == .mtask || c.op == .mtaskStream

/-- The tasks of a core. -/
def State.tasksOn (s : State) (core : Nat) : List (Nat × Cmd) := s.cmds.filter (fun e => e.2.core == core && e.2.isTask)

/-- A lane of the engine is free (R133). -/
def State.laneFree (s : State) (core lane : Nat) : Bool :=
  (s.tasksOn core).all (fun e => !(e.2.inLanes && decide (e.2.lane0 ≤ lane) && decide (lane < e.2.lane0 + e.2.lanes)))

/-- The lowest run of free lanes for a task (R133 condition 3). -/
def State.freeRun (s : State) (c : Cmd) : Option Nat :=
  let step := if 128 < c.taskM then 128 else c.taskG
  ((range 0 (128 / step)).map (fun i => i * step)).find? (fun l =>
    decide (l + c.lanes ≤ 128) && (range l c.lanes).all (s.laneFree c.core))

/-- Two tasks name a common accumulator row (R128). -/
def Cmd.sharesRows (x y : Cmd) : Bool := x.team == y.team && overlap (x.taskRow, x.taskM) (y.taskRow, y.taskM)

/-- The conditions of R133, the fence rule of R177 and no fault waiting. -/
def State.taskMayStart (s : State) (n : Nat) (c : Cmd) : Bool :=
  let ts := s.tasksOn c.core
  s.mayStart n c && c.isTask && ts.all (fun e => !(decide (e.1 < n) && e.2.phase == .queued)) &&
    decide ((ts.filter (fun e => e.2.inLanes)).length < 4) && (s.freeRun c).isSome &&
    ts.all (fun e => !(decide (e.1 < n) && e.2.phase == .folding && c.sharesRows e.2))

/-- The tile and the row in it of a task's row i (R13, R155). -/
def State.rowPlace (s : State) (c : Cmd) (i : Nat) : Nat × Nat :=
  let r := c.taskRow + i
  ((s.team c.team).tiles.getD (r / 128) 0, r % 128)

/-- An accumulator value with its tag of poison. -/
def Core.accGet (c : Core) (key : Nat) : DWord × Bool := sget (0, false) c.acc key

/-- Write an accumulator value. -/
def Core.accSet (c : Core) (key : Nat) (v : DWord × Bool) : Core := { c with acc := sset (0, false) c.acc key v }

/-- The key of an accumulator value, and of a row's tag. -/
def accKey (p : Nat × Nat) (col : Nat) : Nat := 16384 * p.1 + 128 * p.2 + col
def tagKey (p : Nat × Nat) : Nat := 128 * p.1 + p.2

/-- A row's tag (R129). -/
def Core.tagGet (c : Core) (key : Nat) : Nat := sget 0 c.tags key

/-- Write a row's tag. -/
def Core.tagSet (c : Core) (key v : Nat) : Core := { c with tags := sset 0 c.tags key v }

/-- a x old / new, rounded once (R129): the exact ratio of two S24 scales, with a sticky bit below 128 more bits. -/
def rescaled (a : DWord) (old new : Nat) : Nat × Flags :=
  match Fmt.f64.decode a.toNat with
  | .fin neg m e =>
    if m = 0 then (a.toNat, 0#5)
    else
      let num := m * (65536 + bits old 0 16) * 2 ^ 128
      let den := 65536 + bits new 0 16
      roundFin Fmt.f64 .ne neg (sticky (num / den) (num % den != 0))
        (e + ((scaleExp old : Nat) : Int) - ((scaleExp new : Nat) : Int) - 129)
  | v => toFmt Fmt.f64 .ne v

/-- The 128 values of a row, each replaced. -/
def Core.mapRow (c : Core) (p : Nat × Nat) (f : DWord × Bool → DWord × Bool) : Core :=
  (range 0 128).foldl (fun acc col => acc.accSet (accKey p col) (f (acc.accGet (accKey p col)))) c

/-- A row prepared at a task's start (R129), with the rescales' flags. -/
def Core.prepare (c : Core) (acc : Bool) (p : Nat × Nat) (new : Nat) : Core × Flags :=
  let old := c.tagGet (tagKey p)
  if !acc then ((c.mapRow p (fun _ => (0, false))).tagSet (tagKey p) new, 0#5)
  else if scaleIsZero new then (c, 0#5)
  else if scaleIsZero old || old == new || scaleIsNan new || scaleIsNan old then (c.tagSet (tagKey p) new, 0#5)
  else
    let fl := (range 0 128).foldl (fun f col => f ||| (rescaled (c.accGet (accKey p col)).1 old new).2) 0#5
    ((c.mapRow p (fun v => (BitVec.ofNat 64 (rescaled v.1 old new).1, v.2))).tagSet (tagKey p) new, fl)

/-- Every accumulator row a failed task names (R147). -/
def State.spoilRows (s : State) (c : Cmd) : State :=
  s.modCore c.core (fun x => (range 0 c.taskM).foldl (fun acc i =>
    let p := s.rowPlace c i
    (acc.mapRow p (fun _ => (BitVec.ofNat 64 Fmt.f64.nan, false))).tagSet (tagKey p) nanScale) x)

/-- A row as the lanes apply it: no terms under a zero or a NaN scale (R123). -/
def RowRead.task (r : RowRead) : TRow :=
  let idle := scaleIsZero r.scale || scaleIsNan r.scale
  { scale := r.scale, q := r.elems.map (fun e => if idle then 0 else e.1), n := r.elems.map (fun e => if idle then 0 else e.2) }

/-- Prepare every row of a task (R129). -/
def State.prepareRows (s : State) (c : Cmd) (rows : List TRow) : Core × Flags :=
  (keyed rows).foldl (fun acc e =>
    let r := acc.1.prepare c.taskAcc (s.rowPlace c e.1) e.2.scale
    (r.1, acc.2 ||| r.2)) (s.core c.core, 0#5)

/-- A task's start once its rows are read: lanes, prepared rows, and the counts of its record (R124, R129, R133, R137). -/
def State.startTask (s : State) (n : Nat) (c : Cmd) (rows : List TRow) : State :=
  let counts := rows.map (fun r => r.n)
  let r := s.prepareRows c rows
  let wait := if c.op = .mtaskStream then Config.free s.free else 0
  let words := [countedCycles (Machine.taskD (c.word 7)) c.taskK c.taskG counts, counts.foldl (fun t l => t + l.foldl (· + ·) 0) 0, wait]
  { ((s.modCore c.core (fun _ => r.1)).modCmd n (fun c => { c with
      phase := .folding, lane0 := (s.freeRun c).getD 0, rows := rows, nextBlk := List.replicate c.groups 0,
      flags := c.flags ||| r.2, words := words.map (BitVec.ofNat 32) })).clearWaits (.cmd n) with
    free := if c.op = .mtaskStream then s.free + 1 else s.free }

/-- A task fails: its rows hold NaN (R145, R147). -/
def State.taskFail (s : State) (n : Nat) (c : Cmd) (status va : Nat) : State := (s.spoilRows c).engineFail n status va

/-- A task stops (R145, R147, R317, R353). -/
def State.taskStop (s : State) (n : Nat) (c : Cmd) (x : EStop) : State :=
  match x with
  | .fail st va => s.taskFail n c st va
  | x => s.engineStop n c x

/-- MTASK_START (R133, R156). -/
def execMtaskStart (n : Nat) (s : State) : Host.Outcome State Fault Refusal :=
  s.runs (match mget? s.cmds n with
    | none => s
    | some c =>
      if !s.taskMayStart n c then s
      else match s.readTermRows n c (c.handle 0) (fun h => h.k == c.taskK && decide (h.t ≤ Machine.taskT (c.word 7))) (c.word 1) c.taskM with
        | .stop x => s.taskStop n c x
        | .got rows ls => (s.fetched c ls).startTask n c (rows.map RowRead.task))

/-! ### Block close -/

/-- The contribution of one block to a row's column (R127): `qs` the row's elements, `codes` the weight codes. -/
def contribution (wf bs : Nat) (rowScale : Nat) (qs : List Int) (codes : List Nat) : Nat × Flags :=
  let counts := codes.map (wfCount wf)
  if counts.any Option.isNone || scaleIsNan bs || scaleIsNan rowScale then (Fmt.f64.nan, 0#5)
  else
    let p : Int := (List.zipWith (fun q c => q * c) qs (counts.map (fun c => c.getD 0))).foldl (· + ·) 0
    if p = 0 || scaleIsZero bs then (0, 0#5)
    else roundFin Fmt.f64 .ne (decide (p < 0)) (p.natAbs * (65536 + bits bs 0 16)) (wfStep wf + ((scaleExp bs : Nat) : Int) - 143)

/-- One fold (R127, R130). -/
def Core.fold (x : Core) (key : Nat) (contrib : Nat) : Core × Flags :=
  let a := x.accGet key
  let r := fpAdd Fmt.f64 a.1.toNat contrib
  (x.accSet key (BitVec.ofNat 64 r.1, a.2), r.2)

/-- The folds of one row over its columns (R127). -/
def Core.foldRow (x : Core) (c : Cmd) (p : Nat × Nat) (row : TRow) (blk : Nat) (ws : List (List Byte)) (scales : List Nat) : Core × Flags :=
  let qs := slice row.q (32 * blk) 32
  (range 0 c.taskN).foldl (fun acc col =>
    let k := contribution c.taskWf (scales.getD col 0) row.scale qs (ws.map (fun w => wfElem c.taskWf w col))
    let f := acc.1.fold (accKey p col) k.1
    (f.1, acc.2 ||| k.2 ||| f.2)) (x, 0#5)

/-- Term group tg may close its next block (R122, R124): every earlier wave is done. -/
def Cmd.mayClose (c : Cmd) (tg : Nat) : Bool :=
  c.phase == .folding && decide (tg < c.groups) && decide (c.nextBlk.getD tg 0 < c.blocks) &&
    (range 0 (tg / 16 * 16)).all (fun g => c.nextBlk.getD g 0 == c.blocks)

/-- A task after a block close: its last one ends a task without an epilogue (R131). -/
def Cmd.closed (c : Cmd) (tg : Nat) (fl : Flags) : Cmd :=
  let c := { c with nextBlk := updIx c.nextBlk tg (· + 1), flags := c.flags ||| fl }
  if c.taskEpi = 0 && !c.inLanes then { c with phase := .finishing } else c

/-- BLOCK_CLOSE (R127, R128): each partial of a term group's block is folded into its accumulator value. -/
def execBlockClose (n tg : Nat) (s : State) : Host.Outcome State Fault Refusal :=
  s.runs (match mget? s.cmds n with
    | none => s
    | some c =>
      let b := c.nextBlk.getD tg 0
      let str := c.taskStr
      if !(c.mayClose tg) || s.agentWaits (.cmd n) then s
      else match (s.readStride n c (c.handle 1) (16 * str) (wfBytes c.taskWf c.taskN) (c.word 2 + 16 * str * (32 * b)) (min 32 (c.taskK - 32 * b))).bind
          (fun ws => (s.engineRead n c (c.handle 1) (c.word 3 + 4 * strideElems c.taskWf str * b) (4 * c.taskN)).map (fun sb => (ws, sb))) with
        | .stop x => s.taskStop n c x
        | .got d ls =>
          let rows := (keyed c.rows).filter (fun e => e.1 / c.taskG == tg)
          let r := rows.foldl (fun acc e =>
            let f := acc.1.foldRow c (s.rowPlace c e.1) e.2 b d.1 (scaleRow c.taskN d.2)
            (f.1, acc.2 ||| f.2)) (s.core c.core, 0#5)
          (((s.fetched c ls).modCore c.core (fun _ => r.1)).modCmd n (fun c => c.closed tg r.2)).clearWaits (.cmd n))

/-! ### Epilogue -/

/-- acc x tag, exact (R131). -/
def tagged (a tag : Nat) : FVal × Flags := mulVal (Fmt.f64.decode a) (scaleVal tag)

/-- The values of a row for the epilogue. -/
def State.epiRow (s : State) (c : Cmd) (i : Nat) : List ((FVal × Flags) × Bool) :=
  let p := s.rowPlace c i
  let x := s.core c.core
  (range 0 c.taskN).map (fun col =>
    let a := x.accGet (accKey p col)
    (tagged a.1.toNat (x.tagGet (tagKey p)), a.2))

/-- The dense output of a row (R131, R156): element writes with their flags. -/
def epiDense (c : Cmd) (i : Nat) (vs : List ((FVal × Flags) × Bool)) : List EPut × Flags :=
  let t := epiTy c.taskEpi
  let rs := vs.map (fun v => roundVal ((tyFmt t).getD Fmt.f64) v.1)
  ((List.zip vs rs).mapIdx (fun col e =>
    { e := c.handle 2, off := c.word 6 + 16 * bits (c.word 5) 0 16 * i + col * tySize t, bytes := leBytes (tySize t) e.2.1, poison := e.1.2 }),
   (rs.map (fun r => r.2)).foldl (· ||| ·) 0#5)

/-- The TL16 row of an output (R131). -/
def epiTerm (c : Cmd) (vs : List ((FVal × Flags) × Bool)) : List Byte × Bool × Flags :=
  let rs := vs.map (fun v => roundVal Fmt.f64 v.1)
  let x := encodeRow (rs.map (fun r => Fmt.f64.decode r.1)) (c.taskEpi - 7)
  (x.bytes (c.taskEpi - 7), vs.any (fun v => v.2), x.flags ||| (rs.map (fun r => r.2)).foldl (· ||| ·) 0#5)

/-- The puts of TL16 rows, each with its own poison. -/
def placeTagged (e : HEntry) : Nat → List (List Byte × Bool × Flags) → List EPut
  | _, [] => []
  | off, r :: t => { e := e, off := off, bytes := r.1, poison := r.2.1 } :: placeTagged e (off + r.1.length) t

/-- What the epilogue writes (R131, R132, R156). In a TL16 output a poisoned value tags the sectors of its row's encoding and no
directory entry (DESIGN CHOICE, log 75). -/
def State.epiDone (s : State) (c : Cmd) : EDone :=
  let rows := (range 0 c.taskM).map (s.epiRow c)
  let words := c.words.map (fun w => w.toNat)
  if c.taskEpi < 8 then
    let ds := rows.mapIdx (fun i vs => epiDense c i vs)
    { puts := ds.flatMap (fun d => d.1), flags := (ds.map (fun d => d.2)).foldl (· ||| ·) 0#5, words := words, index := none }
  else
    let ts := rows.map (epiTerm c)
    let base := c.word 6 + epiDir c.taskM
    { puts := { e := c.handle 2, off := c.word 6, bytes := (rowOffsets base (ts.map (fun t => t.1))).flatMap (leBytes 8), poison := false } ::
        placeTagged (c.handle 2) base ts
      flags := (ts.map (fun t => t.2.2)).foldl (· ||| ·) 0#5, words := words, index := none }

/-- EPILOGUE (R131, R132, R147): after its last fold a task writes its output rows from the accumulator. -/
def execEpilogue (n : Nat) (s : State) : Host.Outcome State Fault Refusal :=
  s.runs (match mget? s.cmds n with
    | none => s
    | some c =>
      if c.phase == .folding && !c.inLanes && c.taskEpi != 0 && !s.agentWaits (.cmd n) then s.engineApply n c (.got (s.epiDone c) []) else s)

end Sys2Proof.Machine
end

