-- ==== Sys2Proof/Machine/Memory.lean ====
section
/-! DEFINITION. The memory instructions of one module (R193 to R203, R210 to R213): loads, stores, constant loads,
atomics, reductions, RCLOSE, CACHE and WAITC. Each passes every check of R189 for every lane of its class before it has
any effect (R190). -/

namespace Sys2Proof.Machine

/-- A memory instruction's operands: the offset, the data it reads, the destination. -/
structure MemUse where
  ask   : Ask
  data  : Option (Src × Pos)
  dst   : Dst
  words : Nat
  deriving DecidableEq, Repr

/-- The operands as R41 and R53 see them, the offset a word or a pair. -/
def MemUse.uses (m : MemUse) (off : Pos) : Uses :=
  { srcs := (m.ask.a, off) :: (m.data.map (fun d => [d])).getD [], dst := m.dst, words := m.words, uniform := [m.ask.a], noUni := false }

/-- A checked access: the entry, whether it is a uniform operation, where each lane lands, and the words each lane gives:
its offset words, then its data words. -/
structure Passed where
  entry   : HEntry
  uniform : Bool
  spots   : List Spot
  words   : List (Nat × List Reg × List Reg)
  deriving DecidableEq, Repr

/-- The data words of a lane. -/
def Passed.data (p : Passed) (lane : Nat) : List Reg :=
  ((p.words.find? (fun e => e.1 == lane)).map (fun e => e.2.2)).getD []

/-- The words two source lists give: the offset's, the data's. -/
def splitWords (ws : List (List Reg)) : List Reg × List Reg := (ws.headD [], (ws.drop 1).headD [])

/-- What the common course of a memory instruction comes to: the checked access and the state with the operands taken,
or a trap, a wait or a sleep instead of any effect (R190). -/
inductive CheckedAccess where
  | go (p : Passed) (s : State)
  | stop (s : State)

/-- The name a lane's part carries in a request: its number, or none for a uniform operation (R40, R188). -/
def partName (uniform : Bool) (l : Nat) : Nat := if uniform then uniformLane else l

/-- The access that passed: spots and words under their parts' names. -/
def passedOf (e : HEntry) (uniform : Bool) (spots : List Spot) (words : List (Nat × List Reg × List Reg)) : Passed :=
  { entry := e, uniform := uniform, spots := spots.map (fun p => { p with lane := partName uniform p.lane }),
    words := words.map (fun w => (partName uniform w.1, w.2)) }

/-- The state of an access that passed: translations and the handle entry stay held, waits are over (R284, R287). -/
def State.settled (t s : State) (x : Ask) (hx : Nat) (e : HEntry) (spots : List Spot) : State :=
  (t.keepEntry s.ix.slot (s.team s.cur.team).lid hx e).settleSpots x.need spots

/-- The fates of the lanes of an access (R189, R190): `more` checks each lane's spot further. -/
def State.laneFates (s : State) (x : Ask) (e : HEntry) (trapsOnData : Bool)
    (more : HEntry → Nat → List Reg → Spot → LaneFate) (words : List (Nat × List Reg × List Reg)) : ClassFate :=
  classFate (words.map (fun w =>
    match s.checkLane x e w.1 w.2.1 (trapsOnData && anyPoison w.2.2) with
    | .ok p => more e w.1 w.2.1 p
    | f => f))

/-- The operands of a memory instruction under a handle entry: a WIDE handle makes the offset a pair (R188). -/
def MemUse.usesOf (m : MemUse) : Opened → Uses
  | .ok _ e => m.uses (m.ask.offPos e)
  | _ => m.uses (if m.ask.pairA then .pair else .word)

/-- The common course of a memory instruction (R41, R189, R190): decode checks, the handle, queue service, the checks of
every lane with a further check `more` of each lane's spot. `trapsOnData` when poisoned data traps at step 8. -/
def State.checked (s : State) (m : MemUse) (trapsOnData : Bool)
    (more : HEntry → Nat → List Reg → Spot → LaneFate) : CheckedAccess :=
  let x := m.ask
  let uniform := (m.uses .word).isUniform (s.team s.cur.team)
  let opened := s.openHandle x uniform
  let u := m.usesOf opened
  match s.heldBy u with
  | some (.trap c) => .stop (s.decodeTrap c)
  | some (.port p) => .stop (s.sleepOn p u)
  | none => match opened with
    | .trap c xval xaddr => .stop ((s.clearWaits s.me).trapAt c xval xaddr)
    | .wait va l c => .stop (s.waitTable .read va l c)
    | .held => .stop s
    | .failed => .stop s.tableLost
    | .ok hx e =>
      let taken := s.take s.ix.slot u.srcs
      let words := (if uniform then [s.lowest] else s.ix.lanes).map (fun l => (l, splitWords (taken.2.srcWords taken.1 l)))
      match s.laneFates x e trapsOnData more words with
      | .trap tr => .stop ((s.clearWaits s.me).takeTrap tr)
      | .held => .stop s
      | .wait fs => .stop (s.waitLanes x.need fs)
      | .ok spots => .go (passedOf e uniform spots words) (taken.2.settled s x hx e spots)

/-- A memory instruction: its effect `go` once every check has passed, else what the failing check does (R190). -/
def State.access (s : State) (m : MemUse) (trapsOnData : Bool)
    (more : HEntry → Nat → List Reg → Spot → LaneFate) (go : Passed → State → State) : State :=
  match s.checked m trapsOnData more with
  | .go p t => go p t
  | .stop t => t

/-- No check of a lane beyond R189. -/
def noMore (_ : HEntry) (_ : Nat) (_ : List Reg) (p : Spot) : LaneFate := .ok p

/-- The first byte an access touches: a physical address, or a byte of the core's local memory. -/
def Spot.start (p : Spot) : Nat := (p.at_.head?.map (fun q => q.1)).getD 0

/-- The bytes an access touches. -/
def Spot.size (p : Spot) : Nat := p.at_.foldl (fun n q => n + q.2) 0

/-- What a lane's spot makes a write (R191). -/
def Spot.sent (p : Spot) (act : WriteAct) : Sent :=
  { lane := p.lane, at_ := p.at_, va := p.va, prot := bit p.leaf 6, repl := bit p.leaf 7, act := act }

/-- Results go to the destination and the class moves on, without flags. -/
def State.deliver (s : State) (d : Dst) (words : Nat) (rs : List (Nat × List Reg)) : State :=
  (s.writeDst s.ix.slot d words rs).advance

/-- A pending write of the group must be performed first (R162). -/
def State.waitsOnOwn (s : State) (spots : List Spot) : Bool :=
  spots.any (fun p => p.at_.any (fun q => mustWait (s.pendingWrites s.ix.slot) p.lane q))

/-! ### Loads -/

/-- A line the constant cache serves, filled from the home (R165, R167). -/
def State.constLine (s : State) (core line : Nat) : Line := (mget? (s.core core).ccache line).getD (s.homeLine line).1

/-- A line the instruction cache serves (R165, R211). -/
def State.iLine (s : State) (core line : Nat) : Line := (mget? (s.core core).icache line).getD (s.homeLine line).1

/-- The lines that the constant or the instruction cache must fetch from their homes. -/
def State.unkept (s : State) (core : Nat) (code : Bool) (lines : List Nat) : List Nat :=
  lines.filter (fun n => (mget? (if code then (s.core core).icache else (s.core core).ccache) n).isNone)

/-- The lines read through the constant or the instruction cache stay there, as many as it holds (R9). -/
def State.keepLines (s : State) (core : Nat) (code : Bool) (lines : List Nat) : State :=
  let s := s.readTier (s.unkept core code lines)
  lines.foldl (fun acc n => acc.modCore core (fun c =>
    if code then { c with icache := trim Config.codeLines Config.victim (mset c.icache n (s.iLine core n)) }
    else { c with ccache := trim Config.constLines Config.victim (mset c.ccache n (s.constLine core n)) })) s

/-- A line that the constant or the instruction cache must fetch from a home that holds its accesses back (R353). -/
def State.fillHeld (s : State) (core : Nat) (code : Bool) (lines : List Nat) : Bool := (s.unkept core code lines).any s.lineHeld

/-- The words a load of a spot makes of its bytes in local memory. -/
def State.localLoad (s : State) (core size : Nat) (signed : Bool) (p : Spot) : List Reg :=
  loadWords size signed (s.locBytes core p.start size) (s.locPoisonIn core p.start size)

/-- The words a load of a spot makes of cached lines. -/
def linesLoad (line : Nat → Line) (size : Nat) (signed : Bool) (p : Spot) : List Reg :=
  let x := line (lineOf p.start)
  loadWords size signed (slice x.bytes (p.start % 128) size) (x.poison.getD (p.start % 128 / 32) false)

/-- A load's effect (R165, R166, R194): local memory and the caches that are not leased answer at once; every other
space, and policy 4, starts an access for which the group waits; `old` is the state before the operands were taken. -/
def State.loadGo (old : State) (d : Dst) (size : Nat) (signed : Bool) (p : Passed) (s : State) : State :=
  let core := coreOfSlot s.ix.slot
  let words := loadCount size
  let lines := nub (p.spots.map (fun q => lineOf q.start))
  let cached (code : Bool) (line : State → Nat → Line) : State :=
    if s.fillHeld core code lines then old
    else
      let t := s.healAll (s.unkept core code lines)
      (t.keepLines core code lines).deliver d words (p.spots.map (fun q => (q.lane, linesLoad (line t) size signed q)))
  if p.entry.space = 1 then s.deliver d words (p.spots.map (fun q => (q.lane, s.localLoad core size signed q)))
  else if p.entry.space = 2 ∧ p.entry.policy ≠ 4 then cached false (fun t => t.constLine core)
  else if p.entry.space = 6 ∧ p.entry.policy ≠ 4 then cached true (fun t => t.iLine core)
  else if s.waitsOnOwn p.spots then old
  else (s.startLoad (.load d size signed) (old.poppedBy s s.ix.slot) p.uniform p.entry.space p.entry.policy p.spots).advance

/-- The handle question of a load, a store or a constant load (R192, R193). -/
def memAsk (h : Fin 128) (a : Src) (l : Bool) (size : Nat) (spaces : List Nat) (perms : Nat) (k : AccessKind) : Ask :=
  { h := h.val, a := a, disp := l, size := size, image := false, align := size, spaces := spaces, perms := perms,
    anyOf := false, need := .kind k, aop := none, pairA := false }

/-- The spaces of the loads and stores (R192): GLOBAL, LOCAL, EXACT, TERM, CODE, STACK. -/
def dataSpaces : List Nat := [0, 1, 4, 5, 6, 7]

/-- A load of a size (R193, R194). -/
def State.loadAs (s : State) (d : Dst) (a : Src) (l : Bool) (h : Fin 128) (size : Nat) (signed : Bool) (spaces : List Nat) : Out :=
  s.runs (s.access { ask := memAsk h a l size spaces 1 .read, data := none, dst := d, words := loadCount size } false noMore
    (s.loadGo d size signed))

/-! ### Stores -/

/-- The bytes a store takes from its data words, lowest first (R193, R195). -/
def dataBytes (size : Nat) (ws : List Reg) : List Byte := (ws.flatMap (fun r => leBytes 4 r.bits.toNat)).take size

/-- A store's effect (R166, R184, R191, R195): local memory at once, every other space through the store queue, where the
class waits for room; `old` is the state before the operands were taken. -/
def State.storeGo (old : State) (size : Nat) (p : Passed) (s : State) : State :=
  let bytes (q : Spot) : List Byte := dataBytes size (p.data q.lane)
  if p.entry.space = 1 then
    (s.putLocal (coreOfSlot s.ix.slot) (p.spots.map (fun q => (q.start, bytes q)))).advance
  else if s.queueFull then old
  else (s.send none (p.spots.map (fun q => q.sent (.store q.start (bytes q))))).advance

/-- How a store reads its data (R193, R195). -/
def storePos (size : Nat) : Pos := if size = 8 then .pair else if size = 16 then .quad else .word

/-- A store of a size (R193, R195). -/
def State.storeAs (s : State) (d a : Src) (l : Bool) (h : Fin 128) (size : Nat) : Out :=
  s.runs (s.access { ask := memAsk h a l size dataSpaces 2 .write, data := some (d, storePos size), dst := .nul, words := 0 } true
    noMore (s.storeGo size))

/-! ### Atomics -/

/-- The operand and, for CAS, the swap value of an atomic of `n` bytes (R197): CAS reads compare then swap. -/
def atomData (p : Aop) (n : Nat) (ws : List Reg) : DWord × DWord :=
  let k := n / 4
  if p = .cas then (wordsVal (ws.take k), wordsVal (ws.drop k)) else (wordsVal ws, 0)

/-- Atomics of a class on local memory, one lane after another in ascending order: old values with their tags (R191,
R199, R200). -/
def State.localAtoms (s : State) (core n : Nat) (aop : Aop) (data : Nat → List Reg) : List Spot → List (Nat × List Reg) × State
  | [] => ([], s)
  | q :: rest =>
    let m := leNat (s.locBytes core q.start n)
    let d := atomData aop n (data q.lane)
    let old := resWords (n / 4) (BitVec.ofNat 64 m) (s.locPoisonIn core q.start n)
    let t := (s.writeLoc core q.start (leBytes n (newValue aop n m d.1.toNat d.2.toNat))).notifyLocal core q.start n
    let r := t.localAtoms core n aop data rest
    ((q.lane, old) :: r.1, r.2)

/-- What one lane's atomic does at its home (R198, R201). -/
def atomAct (aop : Aop) (n esize : Nat) (q : Spot) (ws : List Reg) : WriteAct :=
  if aop = .addX then .addX q.at_ esize (wordsVal ws) (n == 8)
  else .atomic aop q.start n (atomData aop n ws).1 (atomData aop n ws).2

/-- The outstanding access of an ATOM, an RCLOSE or a remote access: every lane waits for its home (R184, R199, R203, R204);
`popped` is what the instruction took from queue ports (R41). -/
def State.startReturn (s : State) (kind : LoadKind) (popped : List (Nat × List (List Reg))) (p : Passed) : State :=
  let op : LoadOp :=
    { kind := kind, uniform := p.uniform, policy := p.entry.policy, cached := false, rdc := false, repl := [], sc := 0, lanes := s.ix.lanes,
      access := [], missing := [], lines := [], values := [], waiting := p.spots.map (fun q => q.lane), flags := 0#5,
      refusals := [], popped := popped }
  s.outstand op

/-- Writes of the issuing class whose results an outstanding access waits for: both have the next numbers (R184). -/
def State.ask (s : State) (ws : List Sent) (kind : LoadKind) (popped : List (Nat × List (List Reg))) (p : Passed) : State :=
  (s.startReturn kind popped p).send (some s.seq) ws

/-- An atomic's or a reduction's effect (R199), which shares the store queue: `dst` is the destination of an ATOM, none
for a RED; `old` is the state before the operands were taken. -/
def State.atomGo (old : State) (dst : Option Dst) (n : Nat) (aop : Aop) (p : Passed) (s : State) : State :=
  if p.entry.space = 1 then
    let r := s.localAtoms (coreOfSlot s.ix.slot) n aop p.data p.spots
    match dst with
    | some d => r.2.deliver d (n / 4) r.1
    | none => r.2.advance
  else if s.queueFull then old
  else
    let ws := p.spots.map (fun q => q.sent (atomAct aop n p.entry.esize q (p.data q.lane)))
    match dst with
    | some d => (s.ask ws (.atom d n (aop == .addX)) (old.poppedBy s s.ix.slot) p).advance
    | none => (s.send none ws).advance

/-- The position of an atomic's data (R197). -/
def atomPos (n : Nat) (aop : Aop) : Pos :=
  if aop = .cas then (if n = 4 then .pair else .quad) else (if n = 4 then .word else .pair)

/-- The handle question of an atomic (R192, R197, R201). -/
def atomAsk (a : Src) (p : Aop) (h : Fin 16) (n : Nat) : Ask :=
  { h := h.val, a := a, disp := false, size := n, image := p == .addX, align := n, spaces := [0, 1, 4], perms := 4,
    anyOf := false, need := .kind .atomic, aop := some (p, n == 8), pairA := false }

/-- An atomic with a returned value (R197, R199). -/
def State.atomAs (s : State) (d : Dst) (a : Src) (p : Aop) (h : Fin 16) (n : Nat) : Out :=
  s.runs (s.access { ask := atomAsk a p h n, data := some (dstSrc d, atomPos n p), dst := d, words := n / 4 } true noMore
    (s.atomGo (some d) n p))

/-- A reduction (R197, R199): D is data only; at the leaf it is a store (R282, R283). -/
def State.redAs (s : State) (d : Dst) (a : Src) (p : Aop) (h : Fin 16) (n : Nat) : Out :=
  s.runs (s.access { ask := { atomAsk a p h n with need := .kind .write }, data := some (dstSrc d, atomPos n p), dst := .nul, words := 0 }
    true noMore (s.atomGo none n p))

/-! ### RCLOSE -/

/-- The result cell of a close, checked after its image (R203): steps 5 to 9 with the overlap test after the bounds.
The cell's pieces are appended to the image's. -/
def State.cellCheck (s : State) (x : Ask) (n : Nat) (e : HEntry) (lane : Nat) (ws : List Reg) (img : Spot) : LaneFate :=
  let off := ((ws.drop 1).headD Reg.zero).bits.toNat
  let cell := s.laneSpot { x with image := false, need := .kind .write } e lane (off : Int) n n false false
  let clash := overlap (e.base + off, n) (img.va, e.esize)
  let outside := match cell with
    | .trap t => t.cause == 0x03
    | _ => false
  if clash && !outside then
    .trap { cause := 0x03, xval := BitVec.ofNat 32 off, pc := s.ix.pc, lane := lane, xaddr := addrWord (e.base + off) }
  else match cell with
    | .ok c => .ok { img with at_ := img.at_ ++ c.at_, leaf := c.leaf }
    | f => f

/-- The image's pieces of a close's spot. -/
def imagePart (esize : Nat) : List (Nat × Nat) → List (Nat × Nat)
  | [] => []
  | (a, n) :: t => if esize = 0 then [] else (a, n) :: imagePart (esize - n) t

/-- The result cell's offset of a lane: the high word of its pair (R203). -/
def Passed.cellOff (p : Passed) (lane : Nat) : Nat :=
  (((p.words.find? (fun e => e.1 == lane)).map (fun e => (e.2.1.getD 1 Reg.zero).bits.toNat))).getD 0

/-- Where a lane's result cell of `n` bytes lies. -/
def cellSpans (cells : List (Nat × Nat × Nat × Nat)) (n lane : Nat) : List (Nat × Nat) :=
  (cells.filter (fun c => c.1 == lane)).map (fun c => (c.2.1, n))

/-- The closes that go out together: those before the first whose image meets the cell of a lower lane among them, which that
cell must precede (R191). -/
def closeRun (cell : Nat → List (Nat × Nat)) : List (Nat × Nat) → List Sent → List Sent × List Sent
  | _, [] => ([], [])
  | before, w :: t =>
    if spansMeet before w.at_ then ([], w :: t)
    else
      let r := closeRun cell (before ++ cell w.lane) t
      (w :: r.1, r.2)

/-- RCLOSE (R203): each lane's image is read whole at its home and its rounded value stored to its cell; a lane whose image a
lower lane's cell overlaps is read once that cell is stored (R191; log 27). -/
def State.closeAs (s : State) (a : Src) (l : Bool) (h : Fin 128) (n : Nat) : Out :=
  let x : Ask := { h := h.val, a := a, disp := l, size := 40, image := true, align := 8, spaces := [4], perms := 3, anyOf := false,
                   need := .kind .read, aop := none, pairA := true }
  s.runs (s.access { ask := x, data := none, dst := .nul, words := 0 } false (s.cellCheck x n) (fun p t =>
    let image (q : Spot) : List (Nat × Nat) := imagePart p.entry.esize q.at_
    let cells := p.spots.map (fun q => (q.lane, (q.at_.getLastD (0, 0)).1, p.entry.base + p.cellOff q.lane, q.leaf))
    let ws := p.spots.map (fun q => { q.sent (.close (image q) p.entry.esize (n == 8)) with at_ := image q })
    let run := closeRun (cellSpans cells n) [] ws
    (t.ask run.1 (.close cells run.2) (s.poppedBy t s.ix.slot) { p with spots := p.spots.take run.1.length }).advance))

/-! ### CACHE -/

/-- The handle question of CACHE with address fields (R192, R210, R283). -/
def cacheAsk (a : Src) (l : Bool) (h : Fin 128) : Ask :=
  { h := h.val, a := a, disp := l, size := 1, image := false, align := 1, spaces := [0, 1, 2, 4, 5, 6, 7], perms := 11,
    anyOf := true, need := .mapped, aop := none, pairA := false }

/-- CACHE with address fields: the lines its lanes name, merged; local memory has none (R210). -/
def State.cacheAs (s : State) (a : Src) (l : Bool) (h : Fin 128) (go : List Nat → State → State) : Out :=
  s.runs (s.access { ask := cacheAsk a l h, data := none, dst := .nul, words := 0 } false noMore (fun p t =>
    go (nub ((p.spots.filter (fun q => !q.loc)).map (fun q => lineOf q.start))) t))

/-- A write of the issuing lanes to one of some lines is not performed yet (R210). -/
def State.storesPending (s : State) (lines : List Nat) : Bool :=
  (s.pendingWrites s.ix.slot).any (fun w => (linesOf w.spans).any (fun n => lines.contains n))

/-- Dirty lines of host memory are written back to the host's point of coherence (R180, R210). -/
def State.hostBack (s : State) (lines : List Nat) : State :=
  let ls := lines.filter (fun n => isHost (128 * n) && (mget? s.dirty n).isSome)
  { s with
    dirty := s.dirty.filter (fun e => !ls.contains e.1)
    outbox := s.outbox ++ ls.map (fun n => Msg.hostWriteBack n (s.line n)) }

/-- The core's L1 copies of some lines are dropped (R210). -/
def State.dropL1 (s : State) (core : Nat) (lines : List Nat) : State :=
  s.modCore core (fun c => { c with l1 := c.l1.filter (fun e => !lines.contains e.1) })

/-- CACHE.WB (R210): the class waits until its stores to the lines are performed. -/
def execCacheWb (a : Src) (l : Bool) (h : Fin 128) (s : State) : Out :=
  s.cacheAs a l h (fun lines t => if t.storesPending lines then s else (t.hostBack lines).advance)

/-- CACHE.WBINV (R210): as WB, then the core's L1 copies are dropped. -/
def execCacheWbinv (a : Src) (l : Bool) (h : Fin 128) (s : State) : Out :=
  s.cacheAs a l h (fun lines t =>
    if t.storesPending lines then s else ((t.hostBack lines).dropL1 (coreOfSlot s.ix.slot) lines).advance)

/-- CACHE.INV (R210). -/
def execCacheInv (a : Src) (l : Bool) (h : Fin 128) (s : State) : Out :=
  s.cacheAs a l h (fun lines t => (t.dropL1 (coreOfSlot s.ix.slot) lines).advance)

/-- CACHE.CINV (R210): the core's constant cache is emptied. -/
def execCacheCinv (s : State) : Out :=
  s.runs ((s.modCore (coreOfSlot s.ix.slot) (fun c => { c with ccache := [] })).advance)

/-- CACHE.IINV (R210, R211): the core's instruction-cache copies are dropped. -/
def execCacheIinv (a : Src) (l : Bool) (h : Fin 128) (s : State) : Out :=
  s.cacheAs a l h (fun lines t =>
    (t.modCore (coreOfSlot s.ix.slot) (fun c => { c with icache := c.icache.filter (fun e => !lines.contains e.1) })).advance)

/-- CACHE.FETCHB (R211): the issuing lanes discard the words they hold. -/
def execCacheFetchb (s : State) : Out :=
  s.runs (s.modCur (fun g => g.modLanes s.ix.lanes (fun _ x => { x with fetched := [] }))).advance

/-! ### WAITC -/

/-- Where a monitor's word lies. -/
def Spot.place (p : Spot) (core : Nat) : Place := if p.loc then .loc core p.start else .phys p.start

/-- A lane's monitor as it is armed: it latches at once when its word already meets the condition (R212). -/
def State.armed (s : State) (cond : Cond) (popped : List (Nat × List (List Reg))) (p : Spot) (d : Word) : Watch :=
  s.testWatch { place := p.place (coreOfSlot s.ix.slot), va := addrWord p.va, d := d, cond := cond, latched := false,
                token := s.seq, popped := popped }

/-- A watched word that is poisoned when it is armed raises POISON for its lane (R213). -/
def State.watchCheck (s : State) (_e : HEntry) (lane : Nat) (_ws : List Reg) (p : Spot) : LaneFate :=
  if s.placePoison (p.place (coreOfSlot s.ix.slot)) then
    .trap { cause := 0x0A, xval := 0, pc := s.ix.pc, lane := lane, xaddr := 0 }
  else .ok p

/-- WAITC's effect (R212): a monitor per lane; the class sleeps unless every one has latched, and then has loaded its
words at the home (R176). The group's own writes to the words are performed first (R162), and so are writes on their way to a
replica of them (R179). -/
def State.waitGo (old : State) (cond : Cond) (p : Passed) (s : State) : State :=
  let pend := s.pendingWrites s.ix.slot
  if p.spots.any (fun q => !q.loc && (s.lineReplicating (lineOf q.start) ||
      pend.any (fun w => w.spans.any (fun z => overlap z (q.start, 4))))) then old
  else
    let ws := p.spots.map (fun q => (q.lane, s.armed cond (old.poppedBy s s.ix.slot) q (((p.data q.lane).headD Reg.zero).bits)))
    let watch (l : Nat) : Option Watch := (ws.find? (fun e => e.1 == l || e.1 == uniformLane)).map (fun e => e.2)
    if ws.all (fun e => e.2.latched) then
      (s.modCur (fun g => g.modLanes s.ix.lanes (fun l x => match watch l with
        | some w => x.sees w.place s.after
        | none => x))).advance
    else { s.modCur (fun g => g.modLanes s.ix.lanes (fun l x => match watch l with
      | some w => { x with sleep := .waitc w, chain := s.ix.chain }
      | none => x)) with seq := s.seq + 1 }

/-- WAITC with a condition (R212). A poisoned comparand is used as its bits. -/
def State.waitAs (s : State) (d a : Src) (l : Bool) (h : Fin 128) (cond : Cond) : Out :=
  s.runs (s.access { ask := memAsk h a l 4 [0, 1] 1 .read, data := some (d, .word), dst := .nul, words := 0 } false
    s.watchCheck (s.waitGo cond))

/-- LD.B (R193, R194). -/
def execLdB (d : Dst) (a : Src) (l : Bool) (h : Fin 128) (s : State) : Out := s.loadAs d a l h 1 true dataSpaces

/-- LD.BU (R193, R194). -/
def execLdBu (d : Dst) (a : Src) (l : Bool) (h : Fin 128) (s : State) : Out := s.loadAs d a l h 1 false dataSpaces

/-- LD.H (R193, R194). -/
def execLdH (d : Dst) (a : Src) (l : Bool) (h : Fin 128) (s : State) : Out := s.loadAs d a l h 2 true dataSpaces

/-- LD.HU (R193, R194). -/
def execLdHu (d : Dst) (a : Src) (l : Bool) (h : Fin 128) (s : State) : Out := s.loadAs d a l h 2 false dataSpaces

/-- LD.W (R193, R194). -/
def execLdW (d : Dst) (a : Src) (l : Bool) (h : Fin 128) (s : State) : Out := s.loadAs d a l h 4 false dataSpaces

/-- LD.D (R193, R194). -/
def execLdD (d : Dst) (a : Src) (l : Bool) (h : Fin 128) (s : State) : Out := s.loadAs d a l h 8 false dataSpaces

/-- LD.Q (R193, R194). -/
def execLdQ (d : Dst) (a : Src) (l : Bool) (h : Fin 128) (s : State) : Out := s.loadAs d a l h 16 false dataSpaces

/-- ST.B (R193, R195). -/
def execStB (d a : Src) (l : Bool) (h : Fin 128) (s : State) : Out := s.storeAs d a l h 1

/-- ST.H (R193, R195). -/
def execStH (d a : Src) (l : Bool) (h : Fin 128) (s : State) : Out := s.storeAs d a l h 2

/-- ST.W (R193, R195). -/
def execStW (d a : Src) (l : Bool) (h : Fin 128) (s : State) : Out := s.storeAs d a l h 4

/-- ST.D (R193, R195). -/
def execStD (d a : Src) (l : Bool) (h : Fin 128) (s : State) : Out := s.storeAs d a l h 8

/-- ST.Q (R193, R195). -/
def execStQ (d a : Src) (l : Bool) (h : Fin 128) (s : State) : Out := s.storeAs d a l h 16

/-- LDC.W (R196). -/
def execLdcW (d : Dst) (a : Src) (l : Bool) (h : Fin 128) (s : State) : Out := s.loadAs d a l h 4 false [2]

/-- LDC.D (R196). -/
def execLdcD (d : Dst) (a : Src) (l : Bool) (h : Fin 128) (s : State) : Out := s.loadAs d a l h 8 false [2]

/-- ATOM.W (R197 to R201). -/
def execAtomW (d : Dst) (a : Src) (p : Aop) (h : Fin 16) (s : State) : Out := s.atomAs d a p h 4

/-- ATOM.D (R197 to R201). -/
def execAtomD (d : Dst) (a : Src) (p : Aop) (h : Fin 16) (s : State) : Out := s.atomAs d a p h 8

/-- RED.W (R197 to R201). -/
def execRedW (d : Dst) (a : Src) (p : Aop) (h : Fin 16) (s : State) : Out := s.redAs d a p h 4

/-- RED.D (R197 to R201). -/
def execRedD (d : Dst) (a : Src) (p : Aop) (h : Fin 16) (s : State) : Out := s.redAs d a p h 8

/-- RCLOSE.F32 (R203). -/
def execRcloseF32 (a : Src) (l : Bool) (h : Fin 128) (s : State) : Out := s.closeAs a l h 4

/-- RCLOSE.F64 (R203). -/
def execRcloseF64 (a : Src) (l : Bool) (h : Fin 128) (s : State) : Out := s.closeAs a l h 8

/-- WAITC.EQ (R212). -/
def execWaitcEq (d a : Src) (l : Bool) (h : Fin 128) (s : State) : Out := s.waitAs d a l h .eq

/-- WAITC.NE (R212). -/
def execWaitcNe (d a : Src) (l : Bool) (h : Fin 128) (s : State) : Out := s.waitAs d a l h .ne

/-- WAITC.GE (R212). -/
def execWaitcGe (d a : Src) (l : Bool) (h : Fin 128) (s : State) : Out := s.waitAs d a l h .ge

end Sys2Proof.Machine
end

