-- ==== Sys2Proof/Machine/Home.lean ====
section
/-! DEFINITION. The memory system's own steps: store queues and home slices (R161 to R171, R184), fills and leases
(R168, R169), the end of an outstanding access (R184, R190), write-back (R345), the host (R180, R290, R291) and
uncorrectable errors (R312). -/

namespace Sys2Proof.Machine

/-- An event outside the cores ends IDLE before it is served (R360). -/
def State.endIdle (s : State) : State := { s with idle := false }

/-- The outcome of a step of the module. -/
abbrev Ev := Host.Outcome State Fault Refusal

/-! ### Writes on their way -/

/-- The write of a store queue with a number, when no earlier entry of the queue touches its bytes (R162). -/
def leaving : List HomeWrite → Nat → Option HomeWrite
  | [], _ => none
  | w :: t, n =>
    if w.id = n then some w
    else match leaving t n with
      | some x => if spansMeet w.spans x.spans then none else some x
      | none => none

/-- Copies of lines that a write passes are dropped (R169): the core's L1, and its die's remote-data cache. -/
def State.dropPassed (s : State) (slot : Nat) (lines : List Nat) : State :=
  let die := dieOfSlot slot
  { s.dropL1 (coreOfSlot slot) lines with
    rdc := s.rdc.filter (fun e => !(lines.contains e.1 && homeDie (128 * e.1) != die)) }

/-- STORE_LEAVES_CORE (R169, R184). -/
def execStoreLeavesCore (g n : Nat) (s : State) : Ev :=
  s.runs (match leaving (s.group g).storeQ n with
    | none => s
    | some w =>
      let t := (s.modGroup g (fun x => { x with storeQ := x.storeQ.filter (fun y => y.id != n) })).dropPassed g (linesOf w.spans)
      { t with flight := t.flight ++ [w] })

/-- The page of a write is LOST now (R337). -/
def State.lostPage (s : State) (w : HomeWrite) : Bool :=
  match s.walk w.dom w.space w.va with
  | .leaf _ _ e => bit e 52
  | _ => false

/-- The bytes of a list of pieces as their homes answer them (R349). -/
def State.pieceBytes (s : State) (at_ : List (Nat × Nat)) : List Byte := at_.flatMap (fun p => s.homeBytes p.1 p.2)

/-- Bytes written to a list of pieces; monitors and tags are the caller's. -/
def State.layPieces (s : State) : List (Nat × Nat) → List Byte → State
  | [], _ => s
  | (pa, n) :: t, bs => (s.writeHome pa (bs.take n)).layPieces t (bs.drop n)

/-- The monitors on a list of pieces are tested. -/
def State.notifyPieces (s : State) (at_ : List (Nat × Nat)) : State := at_.foldl (fun acc p => acc.notifyPhys p.1 p.2) s

/-- Bytes written to a list of pieces, tested by the monitors. -/
def State.putPieces (s : State) (at_ : List (Nat × Nat)) (bs : List Byte) : State := (s.layPieces at_ bs).notifyPieces at_

/-- A write the T940 makes on its own behalf that programs may watch: the monitors test it (R212, R213). -/
def State.tStore (s : State) (agent : Agent) (die dom space va : Nat) (bs : List Byte) : TWrite :=
  match s.tWrite agent die dom space va bs with
  | .ok t => .ok ((piecesOf va bs.length).foldl (fun acc p => acc.notifyPhys (s.paOf die dom space p.1 (.kind .write) true) p.2) t)
  | x => x

/-- An atomic that the host performs when its link's peer supports the PCIe atomic operations (R202, R355): FetchAdd,
Swap and CAS of 4 and 8 bytes. -/
def hostPerforms (p : Aop) : Bool := p == .addI || p == .xchg || p == .cas

/-- An atomic of host memory that the bridge splits into a locked read and a write (R202). -/
def WriteAct.isSplit : WriteAct → Bool
  | .atomic aop pa _ _ _ => isHost pa && !(hostPerforms aop && Config.hostAtomics)
  | .addX at_ _ _ _ => at_.any (fun p => isHost p.1)
  | _ => false

/-- Bytes take their place in host memory itself: no line becomes dirty (R180, R202). -/
def State.putHost (s : State) (pa : Nat) (bs : List Byte) : State :=
  { (s.hostBack (linesOf [(pa, bs.length)])) with mem := putBytes s.mem pa bs }

/-- What performing one lane's part gives: the words it returns, and flags. -/
structure Performed where
  s     : State
  words : List Reg
  flags : BitVec 5
  deriving DecidableEq, Repr

/-- The value an ADD.X adds (R84, R201). -/
def addXValue (d : DWord) (double : Bool) : FVal := if double then Fmt.f64.decode d.toNat else Fmt.f32.decode (d.toNat % 2 ^ 32)

/-- The bytes a part reads before it writes: an atomic's target, an image. -/
def State.actReads (s : State) : WriteAct → List Byte
  | .atomic _ pa n _ _ => s.homeBytes pa n
  | .addX at_ _ _ _ => s.pieceBytes at_
  | .close at_ _ _ => s.pieceBytes at_
  | _ => []

/-- One lane's part of a write performed at the home (R161, R191, R198, R201, R203), `read` being the bytes it reads
there. An atomic of host memory takes effect in host memory itself (R202). -/
def State.performAct (s : State) (read : List Byte) : WriteAct → Performed
  | .store pa bs => { s := (s.writeHome pa bs).notifyPhys pa bs.length, words := [], flags := 0#5 }
  | .atomic aop pa n d swap =>
    let m := leNat read
    let bs := leBytes n (newValue aop n m d.toNat swap.toNat)
    let t := if isHost pa then
        let t := s.putHost pa bs
        if hostPerforms aop && Config.hostAtomics then { t with outbox := t.outbox ++ [.atomicOp aop pa n d swap] }
        else { t with outbox := t.outbox ++ [.hostWriteBack (lineOf pa) (t.line (lineOf pa))] }
      else s.writeHome pa bs
    { s := t.notifyPhys pa n, words := resWords (n / 4) (BitVec.ofNat 64 m) (s.homePoison pa), flags := 0#5 }
  | .addX at_ esize d double =>
    let t := s.putPieces at_ (leBytes esize (imageAdd esize (leNat read) (addXValue d double)))
    { s := t.hostBack (linesOf at_), words := [], flags := 0#5 }
  | .close at_ esize double =>
    let r := imageClose esize (leNat read) (if double then Fmt.f64 else Fmt.f32)
    { s := s, words := resWords (if double then 2 else 1) (BitVec.ofNat 64 r.1) (at_.any (fun p => s.homePoisonIn p.1 p.2)), flags := r.2 }
  | .cell pa bs p =>
    let t := s.writeHome pa bs
    { s := (if p then t.poisonRange pa bs.length else t).notifyPhys pa bs.length, words := [], flags := 0#5 }

/-- The parts of a write, one after another: the state, the words each lane gets, the flags. -/
def State.performOps (s : State) : List LaneOp → State × List (Nat × List Reg) × BitVec 5
  | [] => (s, [], 0#5)
  | o :: t =>
    let p := s.performAct (s.actReads o.act) o.act
    let r := p.s.performOps t
    (r.1, (o.lane, p.words) :: r.2.1, p.flags ||| r.2.2)

/-- The bytes a part stores whatever memory holds: those that can clear a tag (R200, R315). -/
def LaneOp.covers (o : LaneOp) : List (Nat × Nat) :=
  match o.act with
  | .store pa bs => [(pa, bs.length)]
  | .cell pa bs false => [(pa, bs.length)]
  | _ => []

/-- Values return to the outstanding access that waits for them (R184, R199, R203). -/
def Group.returned (g : Group) (n : Nat) (rs : List (Nat × List Reg)) (f : BitVec 5) : Group :=
  { g with loads := mupd g.loads n (fun op => { op with
      values := op.values ++ rs, flags := op.flags ||| f, waiting := op.waiting.filter (fun l => !rs.any (fun r => r.1 == l)) }) }

/-- The results of a write's parts return to what waits for them, if anything does (R184, R199, R203). -/
def State.returnTo (s : State) (w : HomeWrite) (rs : List (Nat × List Reg)) (f : BitVec 5) : State :=
  w.ret.elim s (fun n => s.modGroup w.slot (fun g => g.returned n rs f))

/-- A write that only reads an image: it changes nothing and has no acknowledgement (R203). -/
def HomeWrite.readsOnly (w : HomeWrite) : Bool := w.ops.all (fun o => match o.act with
  | .close _ _ _ => true
  | _ => false)

/-- The acknowledgement of a write performed now (R170). -/
def State.ackOf (s : State) (w : HomeWrite) : Ack :=
  let lines := linesOf w.spans
  let die := dieOfSlot w.slot
  { id := w.id, slot := w.slot, lines := lines, same := lines.foldl (fun t n => max t (s.wvt n die).1) 0,
    all := lines.foldl (fun t n => max t (s.wvt n die).2) 0, seq := s.seq }

/-- A write is no longer on its way. -/
def State.landed (s : State) (w : HomeWrite) : State := { s with flight := s.flight.filter (fun x => x.id != w.id) }

/-- A write on its way changes. -/
def State.modFlight (s : State) (n : Nat) (f : HomeWrite → HomeWrite) : State :=
  { s with flight := s.flight.map (fun x => if x.id = n then f x else x) }

/-- The acknowledgement of a performed write leaves (R170). -/
def State.sendAck (s : State) (w : HomeWrite) : State := { s with acks := s.acks ++ [s.ackOf w], seq := s.seq + 1 }

/-- The address of the instruction whose access is outstanding: a load's class has moved past its word. -/
def loadPc (k : LoadKind) (pc : DWord) : DWord :=
  match k with
  | .ret => pc
  | .xret _ => pc
  | .remote _ _ => pc
  | _ => addrOf ((sidx pc.toNat : Int) - 1)

/-- The access's own class stands as the issuing one. -/
def State.asClass (s : State) (slot : Nat) (lanes : List Nat) : State :=
  let x := (s.group slot).lane (lanes.headD 0)
  { s with ix := { slot := slot, lanes := lanes, pc := x.pc, word := s.ix.word, lit := s.ix.lit, chain := x.chain } }

/-- An outstanding access is over. -/
def State.dropLoad (s : State) (slot n : Nat) : State := s.modGroup slot (fun g => { g with loads := mdel g.loads n })

/-- An outstanding access ends in MIGLOSS at its instruction, with the lane and the address that met the lost page (R189
step 9, R337); its writes still on their way have no effect, and what it popped goes back (R41). -/
def State.loseLoad (s : State) (slot n lane va : Nat) : State :=
  match mget? (s.group slot).loads n with
  | none => s
  | some op =>
    let t := (s.dropLoad slot n).modGroup slot (fun g => { g with storeQ := g.storeQ.filter (fun w => w.ret != some n) })
    let t : State := { t with flight := t.flight.filter (fun w => !(w.slot == slot && w.ret == some n)) }
    let first := op.lanes.headD 0
    (t.putBack slot op.popped).trapAsleep slot op.lanes
      { cause := 0x0E, xval := BitVec.ofNat 32 va, pc := loadPc op.kind ((t.group slot).lane first).pc,
        lane := if lane = uniformLane then first else lane, xaddr := addrWord va }

/-- A write meets the loss of its page at its home (R337): it has no effect. An access that waits for it traps at its
instruction; the group of a posted one, which has moved on, takes MIGLOSS as a deferred trap (DEDUCED, log 69). -/
def State.loseWrite (s : State) (w : HomeWrite) : State :=
  match w.ret with
  | some n => s.loseLoad w.slot n ((w.ops.head?.map (fun o => o.lane)).getD 0) w.va
  | none => ((s.landed w).sendAck w).modGroup w.slot (fun g => { g with
    deferred := if g.trapped then g.deferred else g.deferred ++ [{ cause := 0x0E, xval := BitVec.ofNat 32 w.va, xaddr := addrWord w.va }] })

/-- A write has been performed at its home: its acknowledgement leaves, once the replica has applied it on a replicated
page (R179); `old` holds its lines as they were. -/
def State.applied (s : State) (w : HomeWrite) (old : List (Nat × Line)) : State :=
  if w.readsOnly then s.landed w
  else if w.repl then
    let t := s.landed w
    { t with flight := t.flight ++ [{ w with stage := .replicating old }] }
  else (s.landed w).sendAck w

/-- The parts of a write take effect at its home (R161, R170): protected lines with errors are repaired first (R349), the
tiers of lines it reads are read (R341), its parts take effect in lane order, and sectors it stores whole lose their
tags. -/
def State.perform (s : State) (w : HomeWrite) : State :=
  let lines := linesOf w.spans
  let s := lines.foldl (fun acc n => acc.wake (acc.locate (128 * n))) (s.healAll lines)
  let s := s.readTier (if w.ops.any (fun o => actHidden o.act) then lines else [])
  let old := lines.map (fun n => (n, s.line n))
  let r := s.performOps w.ops
  let whole := wholeSectors (w.ops.flatMap LaneOp.covers)
  let t := if w.readsOnly then r.1
    else (sectorsOf w.spans).foldl (fun acc k => acc.settlePoison k (whole.contains k)) r.1
  (t.returnTo w r.2.1 r.2.2).applied w old

/-- The write of a split atomic's lane, with the bytes its locked read gave (R202); the parts of the lanes that follow come at
once, each with its own locked read, so that the request is one run of points (R176, R199). -/
def State.performSplit (s : State) (w : HomeWrite) (o : LaneOp) (rest : List LaneOp) (read : List Byte) : State :=
  let p := s.performAct read o.act
  let t := (sectorsOf w.spans).foldl (fun acc k => acc.settlePoison k false) p.s
  let t := t.returnTo w [(o.lane, p.words)] p.flags
  match rest with
  | [] => t.applied w []
  | next :: _ => t.modFlight w.id (fun x => { x with ops := rest, stage := .locked (t.actReads next.act) })

/-- A write may take its next step: no earlier write of its group to its bytes is on its way (R162), its lines are not
held back (R202, R353), and the replica has applied the writes before it, in the home's order (R179). -/
def State.mayPerform (s : State) (w : HomeWrite) : Bool :=
  let lines := linesOf w.spans
  !(s.flight.any (fun x => x.slot == w.slot && decide (x.id < w.id) && spansMeet x.spans w.spans)) &&
    (match w.stage with
    | .fresh => !(lines.any (fun n => s.lineHeld n || s.lineReplicating n))
    | _ => true)

/-- One step of a write at its home (R161, R170, R179, R202): it ends with the loss of its page, a split atomic makes its
locked read and then its write, the replica applies what the home performed, so that classes whose monitors latched on it wake
(R176), and any other write is performed. -/
def State.writeStep (s : State) (w : HomeWrite) : State :=
  match w.stage with
  | .replicating _ => ((s.landed w).sendAck w).notify (fun _ => false)
  | .locked bs => match w.ops with
    | o :: rest => s.performSplit w o rest bs
    | [] => s.applied w []
  | .fresh =>
    if s.lostPage w then s.loseWrite w
    else match w.ops with
      | o :: _ => if o.act.isSplit then s.modFlight w.id (fun x => { x with stage := .locked (s.actReads o.act) }) else s.perform w
      | [] => s.perform w

/-- HOME_WRITE_PERFORM (R161, R170, R176). -/
def execHomeWritePerform (n : Nat) (s : State) : Ev :=
  s.runs (match s.flight.find? (fun w => w.id == n) with
    | none => s
    | some w => if s.mayPerform w then s.writeStep w else s)

/-- The answers of a home slice to one core, and those to one remote-data cache, arrive in the order in which it gave
them (R169): an earlier one stands before an answer to a core, which passes its die's remote-data cache when `far`. -/
def State.answersBefore (s : State) (core seq : Nat) (lines : List Nat) (far : Bool) : Bool :=
  let slices := lines.map sliceOf
  let die := dieOfCore core
  s.fills.any (fun f => (f.core == core || (far && f.far && dieOfCore f.core == die)) && decide (f.seq < seq) &&
      slices.contains (sliceOf f.line)) ||
    s.acks.any (fun a => (coreOfSlot a.slot == core || (far && dieOfSlot a.slot == die)) && decide (a.seq < seq) &&
      a.lines.any (fun n => slices.contains (sliceOf n)))

/-- A line is homed on another die than a core's, so that its writes pass the core's remote-data cache (R12, R169). -/
def farLine (die line : Nat) : Bool := homeDie (128 * line) != die

/-- A task waits for the writes its spawner made before it (R269). -/
def QTask.acked (q : QTask) (slot id all : Nat) : QTask :=
  if q.join.spawner = slot ∧ id < q.seq then { q with need := max q.need all } else q

/-- A group's horizons after an acknowledgement (R171). -/
def Group.acked (g : Group) (a : Ack) : Group :=
  { g with horDie := max g.horDie a.same, horDev := max g.horDev a.all, horPod := max g.horPod a.all }

/-- What the module's groups have heard, with one more acknowledgement to a die (R174). -/
def Heard.after (h : Heard) (die : Nat) (a : Ack) : Heard :=
  { same0 := if die = 0 then max h.same0 a.same else h.same0, same1 := if die = 0 then h.same1 else max h.same1 a.same,
    all := max h.all a.all, pod := max h.pod a.all }

/-- WRITE_ACK (R170, R171): the group's horizons rise, and so does what its queued tasks wait for (R269);
barriers that waited for the release may complete (R237). -/
def execWriteAck (n : Nat) (s : State) : Ev :=
  s.runs (match s.acks.find? (fun a => a.id == n) with
    | none => s
    | some a =>
      if s.answersBefore (coreOfSlot a.slot) a.seq a.lines (a.lines.any (farLine (dieOfSlot a.slot))) then s
      else
        let t := s.modGroup a.slot (fun g => g.acked a)
        ({ t with
          heard := t.heard.after (dieOfSlot a.slot) a
          acks := t.acks.filter (fun x => x.id != n)
          cores := t.cores.map (fun e => (e.1, { e.2 with tasks := e.2.tasks.map (fun q => q.acked a.slot a.id a.all) }))
          launches := t.launches.map (fun e => (e.1, { e.2 with ringInfo := e.2.ringInfo.map (fun r => (r.1, r.2.acked a.slot a.id a.all)) })) } : State).barriersCheck
          (s.group a.slot).team)

/-! ### Fills -/

/-- How a line comes to a core: whether the L1 may keep it, whether it passes the remote-data cache, and whether the die's
own copy of a replicated page serves it (R165, R179). -/
structure FillPath where
  keep : Bool
  far  : Bool
  repl : Bool
  deriving DecidableEq, Repr

/-- How a load's line comes to a core of a die. -/
def LoadOp.path (op : LoadOp) (die line : Nat) : FillPath :=
  let repl := op.repl.contains line
  { keep := op.cached, far := farLine die line && op.rdc && !repl, repl := repl }

/-- The sectors of a line that a load misses (R184). -/
def LoadOp.missesOf (op : LoadOp) (line : Nat) : List Nat := op.missing.filter (fun k => k / 4 == line)

/-- The loads of a core that miss sectors of a line that no fill on its way brings them: slot, number and access. -/
def State.missers (s : State) (core line : Nat) : List (Nat × Nat × LoadOp) :=
  (s.groups.filter (fun e => coreOfSlot e.1 == core)).flatMap (fun e =>
    (e.2.loads.filter (fun x => !(x.2.missesOf line).isEmpty &&
      !(s.fills.any (fun f => f.line == line && f.asks.contains (e.1, x.1))))).map (fun x => (e.1, x.1, x.2)))

/-- A line as a die's copy of a replicated page holds it (R179): the replica still holds the previous content of a write
it has not applied. -/
def State.replicaLine (s : State) (die line : Nat) (x : Line) : Line :=
  if !farLine die line then x
  else (s.flight.findSome? (fun w => match w.stage with
    | .replicating old => (old.find? (fun e => e.1 == line)).map (fun e => e.2)
    | _ => none)).getD x

/-- A lease the home may grant for a line (R168). -/
def leaseLegal (line lease : Nat) : Bool :=
  decide (Config.minLease ≤ lease) && decide (lease ≤ if isHost (128 * line) then Config.hostLease else Config.maxLease)

/-- A home, or a die's own copy of a replicated page, answers a core with sectors of a line, under a lease unless no copy
may be kept (R165, R168, R179, R349). -/
def State.answerFill (s : State) (core line lease : Nat) (p : FillPath) (secs : List Nat) (asks : List (Nat × Nat)) : State :=
  let die := dieOfCore core
  let now := s.dieTime (if p.repl then die else homeDie (128 * line))
  let (x, t) := s.homeLine line
  let t := if p.keep then t.grantLease line die (now + lease) else t
  let f : Fill :=
    { core := core, line := line, secs := secs, data := if p.repl then s.replicaLine die line x else x, ends := now + lease,
      grant := now, asks := asks, keep := p.keep, far := p.far, seq := t.seq }
  { t with fills := t.fills ++ [f], seq := t.seq + 1 }

/-- HOME_FILL (R165, R168, R184, R349): the home answers the loads of a core that miss sectors of a line, the line's tier
being read (R341). -/
def execHomeFill (core line lease : Nat) (s : State) : Ev :=
  s.runs (match s.missers core line with
    | [] => s
    | (g, n, op) :: rest =>
      if !leaseLegal line lease || s.lineHeld line then s
      else
        let p := op.path (dieOfCore core) line
        let same := (g, n, op) :: rest.filter (fun e => e.2.2.path (dieOfCore core) line == p)
        (s.readTier [line]).answerFill core line lease p (nub (same.flatMap (fun e => e.2.2.missesOf line))) (same.map (fun e => (e.1, e.2.1))))

/-- The sectors of the line of a virtual address that lie within a handle. -/
def HEntry.sectorsAt (e : HEntry) (va pa : Nat) : List Nat :=
  (range (4 * lineOf pa) 4).filter (fun k =>
    let at_ := va / 128 * 128 + 32 * (k % 4)
    decide (e.base ≤ at_) && decide (at_ + 32 ≤ e.base + e.length))

/-- A speculative fill for a group at an offset of a handle of its launch (R28, R168): no load asked for it, it waits for
nothing, and nothing is counted (R341). It keeps to the handle's bounds and permissions, to the copies its space and policy
allow (R165), to translations that are held and permitted, and to the die's own copy of a replicated page (R179, R297). -/
def State.specFill (s : State) (slot hx off lease : Nat) : State :=
  let core := coreOfSlot slot
  let die := dieOfCore core
  let lid := (s.team (s.group slot).team).lid
  let l := s.launch lid
  match (mget? s.groups slot).bind (fun _ => mget? (s.core core).hcache (handleKey lid hx)) with
  | none => s
  | some e =>
    let va := e.base + off
    if e.poison || !e.valid || !e.permits 1 false || !spaceCached e.space || e.policy == 4 then s
    else match s.specAt (viaCore core) l.dom l.space va .read with
      | none => s
      | some (pa, leaf) =>
        let line := lineOf pa
        let secs := e.sectorsAt va pa
        let p : FillPath := { keep := true, far := farLine die line && rdcAllowed e.space e.policy && !bit leaf 7, repl := bit leaf 7 }
        if secs.isEmpty || !leaseLegal line lease || s.lineHeld line then s
        else (s.wakeLines [line]).answerFill core line lease p secs []

/-- Sectors of a line reach a load that misses them. -/
def LoadOp.supplied (op : LoadOp) (secs : List Nat) (x : Line) : LoadOp :=
  { op with missing := op.missing.filter (fun k => !secs.contains k)
            lines := op.lines ++ (op.missing.filter (fun k => secs.contains k)).map (fun k => (k, x)) }

/-- The copy a fill brings. -/
def Fill.copy (f : Fill) : Copy := { secs := f.secs, data := f.data, ends := f.ends, grant := f.grant }

/-- A fill in the core's L1 (R169): kept unless a write of the core to the line is not acknowledged; one that may not be
kept leaves no older copy behind. -/
def State.fillL1 (s : State) (f : Fill) : State :=
  s.modCore f.core (fun x =>
    if f.keep && !s.unacked f.core f.line then { x with l1 := trim Config.l1Lines Config.victim (mset x.l1 f.line f.copy) }
    else { x with l1 := mdel x.l1 f.line })

/-- A fill in the die's remote-data cache (R165, R169). One that comes past it leaves no older copy there, nor may an
answer given earlier to the die enter it any more (R162; log 22). -/
def State.fillRdc (s : State) (f : Fill) : State :=
  let die := dieOfCore f.core
  if !farLine die f.line then s
  else if !f.far then
    { s with rdc := mdel s.rdc f.line
             fills := s.fills.map (fun x =>
               if x.line == f.line && dieOfCore x.core == die && decide (x.seq < f.seq) then { x with far := false } else x) }
  else if s.dieUnacked die f.line then { s with rdc := mdel s.rdc f.line }
  else { s with rdc := trimBy Config.rdcLines (farLine die) Config.victim (mset s.rdc f.line f.copy) }

/-- CACHE_FILL_ARRIVAL (R169): the fill serves the loads that asked for it. -/
def execCacheFillArrival (n : Nat) (s : State) : Ev :=
  s.runs (match s.fills[n]? with
    | none => s
    | some f =>
      if s.answersBefore f.core f.seq [f.line] f.far then s
      else
        let t := f.asks.foldl (fun acc a => acc.modGroup a.1 (fun x => { x with loads := mupd x.loads a.2 (fun op => op.supplied f.secs f.data) })) s
        let t := (t.fillRdc f).fillL1 f
        { t with fills := removeIx t.fills n })

/-- A copy in a cache. -/
def State.copyAt (s : State) (c : CacheId) (line : Nat) : Option Copy :=
  match c with
  | .l1 core => mget? (s.core core).l1 line
  | .rdc die => if homeDie (128 * line) = die then none else mget? s.rdc line

/-- The die in whose device time a cache's leases end. -/
def cacheDie : CacheId → Nat
  | .l1 core => dieOfCore core
  | .rdc die => die

/-- A cache drops its copy of a line. -/
def State.dropCopyAt (s : State) (c : CacheId) (line : Nat) : State :=
  match c with
  | .l1 core => s.dropL1 core [line]
  | .rdc die => if homeDie (128 * line) = die then s else { s with rdc := mdel s.rdc line }

/-- LEASE_EXPIRY (R169). -/
def execLeaseExpiry (c : CacheId) (line : Nat) (s : State) : Ev :=
  s.runs (match s.copyAt c line with
    | none => s
    | some x => if x.ends ≤ s.dieTime (cacheDie c) then s.dropCopyAt c line else s)

/-- L2_EVICT (R168): a clean line leaves its slice and its lease records join the slice's eviction times. -/
def execL2Evict (line : Nat) (s : State) : Ev :=
  s.runs (if (mget? s.dirty (lineOf (s.locate (128 * line)))).isSome then s
    else match mget? s.leases line with
      | none => s
      | some (a, b) =>
        let (x, y) := sget (0, 0) s.evicted (sliceOf line)
        { s with leases := mdel s.leases line, evicted := mset s.evicted (sliceOf line) (max a x, max b y) })

/-- L2_WRITEBACK (R345, R346, R349): a dirty line goes back to its place, or to the host. -/
def execL2Writeback (line : Nat) (s : State) : Ev :=
  s.runs (if s.backHeld line then s else if isHost (128 * line) then s.hostBack [line] else s.writeBack line)

/-- A slice gives back the dirty lines past its 16,384 (R9); which ones the spec leaves open (log 9). Lines that a full log or a
repair holds back stay (R346, R349). -/
def State.trimSlice (s : State) (k : Nat) : State :=
  let mine := (s.dirty.filter (fun e => sliceOf e.1 == k)).map (fun e => e.1)
  let free := mine.filter (fun n => !s.backHeld n)
  let at_ := Config.victim free % max 1 free.length
  ((free.drop at_ ++ free.take at_).take (mine.length - Config.sliceLines)).foldl (fun acc n =>
    if isHost (128 * n) then acc.hostBack [n] else acc.writeBack n) s

/-- Every slice within its capacity (R9). -/
def State.trimSlices (s : State) : State :=
  if s.dirty.length ≤ Config.sliceLines then s else (nub (s.dirty.map (fun e => sliceOf e.1))).foldl State.trimSlice s

/-! ### The end of an outstanding access -/

/-- The lanes a load's results go to, with their words. -/
def LoadOp.results (op : LoadOp) (size : Nat) (signed : Bool) : List (Nat × List Reg) :=
  op.access.map (fun a => (a.lane, loadWords size signed (accessBytes op.lines a) (accessPoison op.lines a)))

/-- The entry a RET loaded for a lane, with its tag (R263). -/
def LoadOp.entry (op : LoadOp) (lane : Nat) : DWord × Bool :=
  match op.access.find? (fun a => a.lane == lane) with
  | some a => (BitVec.ofNat 64 (leNat (accessBytes op.lines a)), accessPoison op.lines a)
  | none => (0, false)

/-- The cells of a close go to the store queue (R203). -/
def cellsSent (op : LoadOp) (cells : List (Nat × Nat × Nat × Nat)) : List Sent :=
  cells.map (fun c =>
    let ws := resultOf op.values c.1
    let bs := ws.flatMap (fun r => leBytes 4 r.bits.toNat)
    { lane := c.1, at_ := [(c.2.1, bs.length)], va := c.2.2.1, prot := bit c.2.2.2 6, repl := bit c.2.2.2 7,
      act := .cell c.2.1 bs (anyPoison ws) })

/-- The bytes of the result cells of some closes (R203). -/
def closeBytes (ws : List Sent) : Nat :=
  if ws.any (fun w => match w.act with
    | .close _ _ double => double
    | _ => false) then 8 else 4

/-- The closes of a run have returned: their cells go to the store queue, then the next run; after the last one the flags are
ORed (R191, R203). -/
def State.closeEnd (s : State) (slot n : Nat) (op : LoadOp) (cells : List (Nat × Nat × Nat × Nat)) (later : List Sent) : State :=
  let done (c : Nat × Nat × Nat × Nat) : Bool := op.values.any (fun v => v.1 == c.1)
  let t := s.sendAs slot none (cellsSent op (cells.filter done))
  match later with
  | [] => t.orFlags op.flags
  | _ =>
    let run := closeRun (cellSpans cells (closeBytes later)) [] later
    let op' : LoadOp := { op with kind := .close (cells.filter (fun c => !done c)) run.2, values := [], waiting := run.1.map (fun w => w.lane) }
    (t.modGroup slot (fun g => { g with loads := g.loads ++ [(n, op')] })).sendAs slot (some n) run.1

/-- The port a result is pushed on has room, once the access is over that has taken some entries (R41). -/
def State.hasRoom (s : State) (slot : Nat) (popped : List (Nat × List (List Reg))) (d : Dst) (words : Nat) : Bool :=
  let g := s.group slot
  match d with
  | .q n => (blockedPort g (s.team g.team) (fun p => s.owed g p - poppedCount popped p) [] (some (n.val, words))).isNone
  | _ => true

/-- sr.xval of a refused remote request (R189 step 7, R205). -/
def refusalXval (reason peer : Nat) : Word :=
  BitVec.ofNat 32 (if reason = 0x100 then 0x30E else reason * 2 ^ 24 + peer % 1024)

/-- The refusal of a remote load or atomic of a lane as a trap (R205): lane, reason, peer, window offset; a uniform
operation's names the lowest lane of its class (R190, R306). -/
def refusalTrap (pc : DWord) (lanes : List Nat) (r : Nat × Nat × Nat × Nat) : Trap :=
  { cause := if r.2.1 = 0x100 then 0x13 else 0x0F, xval := refusalXval r.2.1 r.2.2.1, pc := pc,
    lane := if r.1 = uniformLane then lanes.headD 0 else r.1, xaddr := BitVec.ofNat 64 r.2.2.2 }

/-- The refusal of the lowest lane (R190). -/
def LoadOp.refusal (op : LoadOp) : Option (Nat × Nat × Nat × Nat) := bestBy (fun a b => decide (b.1 < a.1)) op.refusals

/-- What the end of an access does (R184, R190, R194, R199, R203, R263, R311). A refused remote access traps and gives back
what it popped (R41). -/
def State.loadEnd (s : State) (slot n : Nat) (op : LoadOp) : State :=
  let s := (s.asClass slot op.lanes).dropLoad slot n
  match op.kind with
  | .load d size signed => s.writeDst slot d (loadCount size) (op.results size signed)
  | .atom d size zero =>
    s.writeDst slot d (size / 4) (op.values.map (fun v => (v.1, if zero then (range 0 (size / 4)).map (fun _ => Reg.zero) else v.2)))
  | .close cells later => s.closeEnd slot n op cells later
  | .remote d size => match op.refusal with
    | some r => (s.putBack slot op.popped).takeTrap (refusalTrap s.ix.pc op.lanes r)
    | none => (s.writeDst slot d (size / 4) op.values).advance
  | .ret => s.finishRet op.entry
  | .xret to_ => s.finishXret to_

/-- The destination of an access has room for its result. -/
def State.loadRoom (s : State) (slot : Nat) (op : LoadOp) : Bool :=
  match op.kind with
  | .load d size _ => s.hasRoom slot op.popped d (loadCount size)
  | .atom d size _ => s.hasRoom slot op.popped d (size / 4)
  | .remote d size => s.hasRoom slot op.popped d (size / 4)
  | _ => true

/-- An access may end: every lane's result is there, and its destination has room. -/
def State.loadReady (s : State) (slot : Nat) (op : LoadOp) : Bool := op.missing.isEmpty && op.waiting.isEmpty && s.loadRoom slot op

/-- LOAD_RETURN (R184, R190): every lane's result of the group's earliest access that may end is written at once. -/
def execLoadReturn (g : Nat) (s : State) : Ev :=
  s.runs (match (s.group g).loads.find? (fun e => s.loadReady g e.2) with
    | none => s
    | some (n, op) => { s.loadEnd g n op with ix := s.ix })

/-- MONITOR_RETEST (R213): the open monitors of a group are tested on the words as they stand. -/
def execMonitorRetest (g : Nat) (s : State) : Ev :=
  s.runs (match mget? s.groups g with
    | none => s
    | some x => s.notify (fun p => x.lanes.any (fun l => match l.sleep with
      | .waitc w => w.place == p
      | _ => false)))

/-! ### The host -/

/-- Die 0 holds a host line, under lease or dirty. -/
def State.holdsHost (s : State) (line : Nat) : Bool :=
  let (a, b) := s.leaseOf line
  (mget? s.dirty line).isSome || decide (s.dieTime 0 ≤ max a b + Config.skewGuard)

/-- HOST_SNOOP (R180): the host asks for a host line to write it. -/
def execHostSnoop (line : Nat) (s : State) : Ev :=
  s.runs (if isHost (128 * line) then { s.endIdle with snoops := s.snoops ++ [(line, s.dieTime 0)] } else s)

/-- HOST_SNOOP_REPLY (R180): after the latest lease end plus 8, die 0 gives the line up. -/
def execHostSnoopReply (n : Nat) (s : State) : Ev :=
  s.runs (match s.snoops[n]? with
    | none => s
    | some (line, _) =>
      let (a, b) := s.leaseOf line
      if s.dieTime 0 ≤ max a b + Config.skewGuard then s
      else { s with snoops := removeIx s.snoops n, dirty := mdel s.dirty line, leases := mdel s.leases line,
                    outbox := s.outbox ++ [.snoopReply line (s.line line)] })

/-- A host write performed at the home (R161, R291): poisoned data sets tags, no data clears one (R312, R315). -/
def State.hostWrite (s : State) (a : HostAccess) : State := s.putHomeAs false [(a.pa, a.data, a.poison)]

/-- HOST_MEM_ACCESS (R180, R202, R291, R315, R335, R363): a host access to device memory at its home slices, or the host's own
store to a line of its memory that the device does not hold. -/
def execHostMemAccess (a : HostAccess) (s : State) : Ev :=
  let s := s.endIdle
  let a : HostAccess := { a with pa := s.forwarded a.pa }
  let lines := linesOf [(a.pa, max a.size a.data.length)]
  s.runs (if !s.ready || !s.assigned a.pa || lines.any s.rebuildHolds then s
    else if a.data.isEmpty then
      let t := (s.healAll lines).readTier lines
      { t with outbox := t.outbox ++ [.hostData a.pa (t.homeBytes a.pa a.size) (t.homePoisonIn a.pa a.size)] }
    else if isHost a.pa && lines.any s.holdsHost then s
    else s.hostWrite a)

/-! ### Uncorrectable errors -/

/-- A word of a queued entry gets its tag (R312). -/
def Chan.spoil (c : Chan) (entry word : Nat) : Chan := { c with tags := updIx c.tags entry (fun e => updIx e word (fun _ => true)) }

/-- An uncorrectable error counts on its channel (R325). -/
def State.countError (s : State) (pa : Nat) : State :=
  match channelOf pa with
  | none => s
  | some n =>
    let c := s.channel n
    { s with channels := mset s.channels n { c with ue := if c.ue = BitVec.allOnes 16 then c.ue else c.ue + 1 } }

/-- A sector's error: its tag, and the monitors that watch it (R213, R312). -/
def State.spoilSector (s : State) (sector : Nat) : State := (s.setPoison sector true).notifyPhys (32 * sector) 32

/-- An error in a 64-byte atom of a tier (R312): both its sectors, of the content in DRAM alone while the slice holds a newer
one (R345). -/
def State.spoilAtom (s : State) (pa : Nat) : State :=
  let k := pa / 64 * 2
  match mget? s.dirty (k / 4) with
  | some old => { s with dirty := mset s.dirty (k / 4) { old with poison := old.poison.mapIdx (fun i p => p || i / 2 == k % 4 / 2) } }
  | none => (s.spoilSector k).spoilSector (k + 1)

/-- UNCORRECTABLE_ERROR (R312, R323): the word or sector is tagged; a clean copy is dropped; an engine command ends with
HWERR. -/
def execUncorrectableError (e : ErrorSite) (s : State) : Ev :=
  s.runs (match e with
    | .atom pa =>
      if s.assigned pa then (s.countError pa).spoilAtom pa else s
    | .l2 sector => if (mget? s.dirty (sector / 4)).isSome then s.spoilSector sector else s
    | .copy c line => s.dropCopyAt c line
    | .constCopy core line => s.modCore core (fun c => { c with ccache := mdel c.ccache line })
    | .codeCopy core line => s.modCore core (fun c => { c with icache := mdel c.icache line })
    | .localSector core sector =>
      if 32 * sector + 32 ≤ Config.localBytes then (s.setLocPoison core sector true).notifyLocal core (32 * sector) 32 else s
    | .accumulator core tile row col =>
      let k := 16384 * tile + 128 * row + col
      s.modCore core (fun c => c.accSet k ((c.accGet k).1, true))
    | .vreg g lane n =>
      if n < (s.group g).nregs then s.modGroup g (fun x => x.modLanes [lane] (fun _ l => l.vset n { l.vget n with poison := true })) else s
    | .sreg g n => if n < 128 then s.modGroup g (fun x => x.sset n { x.sget n with poison := true }) else s
    | .queue team port entry word =>
      s.modTeam team (fun t => { t with chans := mupd t.chans port (fun c => c.spoil entry word) })
    | .q14 g entry => s.modGroup g (fun x => { x with q14 := x.q14.spoil entry 0 })
    | .engine n => match mget? s.cmds n with
      | some c => if c.phase = .finishing then s else if c.isTask then s.taskFail n c 0x0B 0 else s.engineFail n 0x0B 0
      | none => s)

end Sys2Proof.Machine
end

