-- ==== Sys2Proof/Machine/Remote.lean ====
section
/-! DEFINITION. Remote access (R181, R204 to R207, R295, R326, R327): RLD, RST and RATOM at the issuer, the answers they
get, planes, and requests of other modules at this one. -/

namespace Sys2Proof.Machine

/-! ### The issuer -/

/-- The handle question of a remote access (R192, R204). -/
def remoteAsk (h : Nat) (a : Src) (l : Bool) (size perms : Nat) : Ask :=
  { h := h, a := a, disp := l, size := size, image := false, align := size, spaces := [3], perms := perms, anyOf := false,
    need := .mapped, aop := none, pairA := true }

/-- The target's peer index a lane names: the high word of its pair (R204). -/
def Passed.peer (p : Passed) (lane : Nat) : Nat :=
  ((p.words.find? (fun e => e.1 == lane)).map (fun e => (e.2.1.getD 1 Reg.zero).bits.toNat)).getD 0

/-- What the issuer itself refuses of an RLD or RATOM, precisely (R190, R205, R295). -/
def State.issuerCheck (s : State) (_e : HEntry) (lane : Nat) (ws : List Reg) (p : Spot) : LaneFate :=
  let peer := (ws.getD 1 Reg.zero).bits.toNat
  let reason := s.issuerReason (s.groupDom s.cur) peer
  if reason = 0 then .ok p
  else .trap { cause := 0x0F, xval := refusalXval reason peer, pc := s.ix.pc, lane := lane, xaddr := BitVec.ofNat 64 p.va }

/-- The bytes a remote operation may touch at its window. -/
def opSize : PeerOp → Nat
  | .read n => n
  | .write n _ => n
  | .atomic .addX _ => 272
  | .atomic _ _ => 4

/-- Two requests of one lane to one target that may touch the same bytes: a later one is held (R181). -/
def requestsMeet (x y : ReqKind) : Bool :=
  match x, y with
  | .access g ls w o op _, .access g' ls' w' o' op' _ =>
    g == g' && ls.any (fun l => ls'.any (fun l' => l == l' || l == uniformLane || l' == uniformLane)) &&
      (w != w' || overlap (o, opSize op) (o', opSize op'))
  | _, _ => false

/-- A new access request goes out, or is held behind an earlier one. -/
def State.postAccess (s : State) (target : Nat) (k : ReqKind) : State :=
  s.post target k (s.remote.any (fun r => r.target == target && requestsMeet r.kind k))

/-- Issue waits: too many requests to a target of the class would be unacknowledged (R207). -/
def State.peerFull (s : State) (p : Passed) : Bool :=
  (nub (p.spots.map (fun q => p.peer q.lane))).any (fun t =>
    decide (32768 < s.unackedTo t + (p.spots.filter (fun q => p.peer q.lane == t)).length))

/-- The reads of a class: one request for each place that its lanes name (R184; an answer has the bytes of one read, R327,
log 70). -/
def Passed.sharers (p : Passed) : List (List Spot) :=
  (nub (p.spots.map (fun q => (p.peer q.lane, q.va)))).map (fun k => p.spots.filter (fun q => (p.peer q.lane, q.va) == k))

/-- Requests of a class that an outstanding access waits for, in the order of their lanes. -/
def State.postAll (s : State) (p : Passed) (parts : List (List Spot)) (op : Spot → PeerOp) (n : Nat) : State :=
  parts.foldl (fun acc qs => match qs with
    | [] => acc
    | q :: _ => acc.postAccess (p.peer q.lane)
        (.access s.ix.slot (qs.map (fun q => q.lane)) p.entry.esize q.va (op q) (some n))) s

/-- The class of an access that has not moved past its word stays in its chain, if the word ties the next (R34). -/
def State.stayAt (s : State) : State := s.modCur (fun g => g.modLanes s.ix.lanes (fun _ x => { x with chain := s.ix.chain, sleep := .awake }))

/-- RLD (R204, R205): the class stays at its word until every lane is answered. -/
def State.rldAs (s : State) (d : Dst) (a : Src) (l : Bool) (h : Fin 128) (size : Nat) : Ev :=
  s.runs (s.access { ask := remoteAsk h.val a l size 1, data := none, dst := d, words := size / 4 } false s.issuerCheck
    (fun p t => if t.peerFull p then s
      else ((t.startReturn (.remote d size) (s.poppedBy t s.ix.slot) p).postAll p p.sharers (fun _ => .read size) t.seq).stayAt))

/-- RLD.W (R204). -/
def execRldW (d : Dst) (a : Src) (l : Bool) (h : Fin 128) (s : State) : Ev := s.rldAs d a l h 4

/-- RLD.D (R204). -/
def execRldD (d : Dst) (a : Src) (l : Bool) (h : Fin 128) (s : State) : Ev := s.rldAs d a l h 8

/-- A deferred PEER or ATOMIC trap of a refused RST (R206). -/
def refusalDeferred (reason peer off : Nat) : DeferredTrap :=
  { cause := if reason = 0x100 then 0x13 else 0x0F, xval := refusalXval reason peer, xaddr := BitVec.ofNat 64 off }

/-- An RST's effect (R204, R206): requests go out and the class moves on; one the issuer refuses leaves a deferred trap. -/
def State.rstGo (old : State) (size : Nat) (p : Passed) (s : State) : State :=
  if s.peerFull p then old
  else
    let dom := s.groupDom s.cur
    let bad (q : Spot) : Bool := s.issuerReason dom (p.peer q.lane) != 0
    let t := p.spots.foldl (fun acc q =>
      let data := wordsVal (p.data q.lane)
      if bad q then acc.modCur (fun g => { g with deferred := g.deferred ++ [refusalDeferred (s.issuerReason dom (p.peer q.lane)) (p.peer q.lane) q.va] })
      else acc.postAccess (p.peer q.lane) (.access s.ix.slot [q.lane] p.entry.esize q.va (.write size data) none)) s
    t.advance

/-- RST (R204, R206). -/
def State.rstAs (s : State) (d a : Src) (l : Bool) (h : Fin 128) (size : Nat) : Ev :=
  s.runs (s.access { ask := remoteAsk h.val a l size 2, data := some (d, storePos size), dst := .nul, words := 0 } true noMore
    (s.rstGo size))

/-- RST.W (R204). -/
def execRstW (d a : Src) (l : Bool) (h : Fin 128) (s : State) : Ev := s.rstAs d a l h 4

/-- RST.D (R204). -/
def execRstD (d a : Src) (l : Bool) (h : Fin 128) (s : State) : Ev := s.rstAs d a l h 8

/-- RATOM (R204, R205): CAS and ADD.X read a pair. -/
def execRatom (d : Dst) (a : Src) (p : Aop) (h : Fin 16) (s : State) : Ev :=
  let pos : Pos := if p = .cas ∨ p = .addX then .pair else .word
  s.runs (s.access { ask := remoteAsk h.val a false 4 4, data := some (dstSrc d, pos), dst := d, words := 1 } true s.issuerCheck
    (fun x t => if t.peerFull x then s
      else ((t.startReturn (.remote d 4) (s.poppedBy t s.ix.slot) x).postAll x (x.spots.map (fun q => [q])) (fun q => .atomic p (wordsVal (x.data q.lane)))
        t.seq).stayAt))

/-! ### Answers -/

/-- Lanes of an outstanding access got their remote answer: a value, or a refusal (R190, R205). -/
def Group.answered (g : Group) (n : Nat) (lanes : List Nat) (ws : List Reg) (refused : Option (Nat × Nat × Nat)) : Group :=
  { g with loads := mupd g.loads n (fun op => { op with
      waiting := op.waiting.filter (fun l => !lanes.contains l)
      values := op.values ++ (match refused with | none => lanes.map (fun l => (l, ws)) | some _ => [])
      refusals := op.refusals ++ (match refused with | none => [] | some (r, peer, off) => lanes.map (fun l => (l, r, peer, off))) }) }

/-- The words an answer gives (R204): an exact-image update answers 0. -/
def answerWords (op : PeerOp) (value : DWord) (p : Bool) : List Reg :=
  match op with
  | .read 8 => pairWords value p
  | .atomic .addX _ => [Reg.zero]
  | _ => [{ bits := value.setWidth 32, poison := p }]

/-- A lane stalled at a fence that waits for a request hears of the time its acknowledgement brings (R174). -/
def Lane.hears (x : Lane) (seq t : Nat) : Lane :=
  match x.sleep with
  | .fence f => if seq ≤ f.seq then { x with sleep := .fence { f with heard := { f.heard with pod := max f.heard.pod t } } } else x
  | _ => x

/-- The pod horizon after the acknowledgement of a remote request with a number, and what the module has heard, the fences that
waited for it among it (R171, R174). -/
def State.raisePod (s : State) (slot seq remaining : Nat) : State :=
  let t := s.dieTime (dieOfSlot slot) + remaining + Config.skewGuard
  let s := s.modGroup slot (fun g => { g with horPod := max g.horPod t })
  { s with
    heard := { s.heard with pod := max s.heard.pod t }
    groups := s.groups.map (fun e => (e.1, { e.2 with lanes := e.2.lanes.map (fun x => x.hears seq t) })) }

/-- The classes of a group asleep at a fence: their lanes and the fence (R208). -/
def Group.fences (g : Group) : List (List Nat × FenceWait) :=
  (nub (g.lanes.filterMap (fun x => match x.sleep with
    | .fence f => if x.exited then none else some (x.pc, x.depth, f)
    | _ => none))).map (fun k =>
      ((range 0 g.lanes.length).filter (fun l => (g.lane l).sleep == .fence k.2.2 && (g.lane l).pc == k.1 && (g.lane l).depth == k.2.1), k.2.2))

/-- The fence releases at pod scope or wider (R206). -/
def FenceWait.podWide (f : FenceWait) : Bool :=
  f.kind != .acq && (match f.scope with | .pod => true | .system => true | .survivable => true | _ => false)

/-- A remote write or flush of a group ended without acknowledgement (R206, R326): precise at a release that waits for
it, else deferred. -/
def State.refuseWrite (s : State) (slot : Nat) (by_ : List Nat) (reason peer off : Nat) : State :=
  let g := s.group slot
  let waits := g.fences.filter (fun e => e.2.podWide)
  match (waits.find? (fun e => e.1.any by_.contains)).or waits.head? with
  | some (lanes, _) =>
    s.trapAsleep slot lanes { cause := if reason = 0x100 then 0x13 else 0x0F, xval := refusalXval reason peer,
                              pc := (g.lane (lanes.headD 0)).pc, lane := lanes.headD 0, xaddr := BitVec.ofNat 64 off }
  | none =>
    if g.trapped then s
    else s.modGroup slot (fun g => { g with deferred := g.deferred ++ [refusalDeferred reason peer off] })

/-- A request ends with a refusal (R205, R206, R326). Deltas and markers wait until a plane reaches their target again
(R348). -/
def State.refuse (s : State) (r : OutReq) (reason : Nat) : State :=
  match r.kind with
  | .access slot lanes _ off _ (some n) =>
    (s.dropReq r.target r.id).modGroup slot (fun g => g.answered n lanes [] (some (reason, r.target, off)))
  | .access slot lanes _ off _ none => (s.dropReq r.target r.id).refuseWrite slot lanes reason r.target off
  | .flush slot lane ps => (s.dropReq r.target r.id).refuseWrite slot [lane] reason r.target ((ps.head?.map (fun p => p.2)).getD 0)
  | _ => { s with remote := s.remote.map (fun x => if x.target = r.target ∧ x.id = r.id then { x with sent := false } else x) }

/-- A request that ends when no plane reaches its target; deltas and markers wait (R326, R348). -/
def ReqKind.ends : ReqKind → Bool
  | .access _ _ _ _ _ _ => true
  | .flush _ _ _ => true
  | _ => false

/-- Requests that nothing earlier holds any more go out (R181); with no working plane left they fail with reason 0x05
(R326). -/
def State.releaseFrom (s : State) : List OutReq → List OutReq → State
  | _, [] => s
  | before, r :: t =>
    let free := !r.sent && decide (r.sends < 4) && !(before.any (fun x => x.target == r.target && requestsMeet x.kind r.kind))
    match s.planeFrom (s.reqDom r.kind) 0 with
    | some p => (if free then s.transmit r p else s).releaseFrom (before ++ [r]) t
    | none => if free && r.kind.ends then (s.refuse r 5).releaseFrom before t else s.releaseFrom (before ++ [r]) t

/-- Every request that may go out goes out. -/
def State.releaseHeld (s : State) : State := s.releaseFrom [] s.remote

/-- A group's remote write to a protected page, which a survivable release must flush at its target (R347). -/
def State.notePeered (s : State) (slot : Nat) (lanes : List Nat) (prot : Bool) (target window off : Nat) : State :=
  if prot then s.modGroup slot (fun g => { g with peered := nub (g.peered ++ lanes.map (fun l =>
    { lane := l, target := target, window := window, offset := off })) })
  else s

/-- An acknowledgement or an answer of a performed request (R171, R181, R346, R347). -/
def State.acknowledge (s : State) (r : OutReq) (a : PeerReply) : State :=
  let s := s.dropReq r.target r.id
  match r.kind with
  | .access slot lanes window off op answered =>
    let s := match op with
      | .read _ => s
      | _ => (s.raisePod slot r.seq a.remaining).notePeered slot lanes a.prot r.target window off
    answered.elim s (fun n => s.modGroup slot (fun g => g.answered n lanes (answerWords op a.value a.poison) none))
  | .delta dom pos x =>
    s.modDom dom (fun d => { d with rope := { d.rope with acked := mset d.rope.acked pos (max (sget 0 d.rope.acked pos) x.seq) } })
  | _ => s

/-- A request that is an RST. -/
def OutReq.isRst (r : OutReq) : Bool :=
  match r.kind with
  | .access _ _ _ _ _ answered => answered.isNone
  | _ => false

/-- PEER_ANSWER (R171, R181, R205): every answer but the refusal of an RST. -/
def execPeerAnswer (a : PeerReply) (s : State) : Ev :=
  s.runs (match s.findReq a.target a.id with
    | none => s
    | some r =>
      if a.reason = 0 then (s.acknowledge r a).releaseHeld
      else if r.isRst then s
      else (s.refuse r a.reason).releaseHeld)

/-- RST_REFUSAL (R206). -/
def execRstRefusal (a : PeerReply) (s : State) : Ev :=
  s.runs (match s.findReq a.target a.id with
    | none => s
    | some r => if a.reason != 0 && r.isRst then (s.refuse r a.reason).releaseHeld else s)

/-! ### Planes -/

/-- A request on a failed plane goes out again on the next working one, upward and wrapping; after four sends, or with no
plane left, it fails with reason 0x05 (R326). -/
def State.resend (s : State) (r : OutReq) : State :=
  match s.planeFrom (s.reqDom r.kind) (r.plane + 1) with
  | some p => if r.sends < 4 then s.transmit r p else s.refuse r 5
  | none => s.refuse r 5

/-- A plane fails for this issuer (R326). -/
def State.failPlane (s : State) (plane : Nat) : State :=
  let s : State := { s with planeDown := if s.planeDown.contains plane then s.planeDown else s.planeDown ++ [plane] }
  ((s.remote.filter (fun r => r.sent && r.plane == plane)).foldl State.resend s).releaseHeld

/-- The ports of a plane as a mask (R359). -/
def State.planePorts (s : State) (plane : Nat) : BitVec 16 :=
  (range 0 16).foldl (fun m n => if n % s.planeCount = plane then m ||| BitVec.twoPow 16 n else m) 0

/-- PLANE_FAIL (R326, R357): the plane's ports report link down. -/
def execPlaneFail (plane : Nat) (s : State) : Ev :=
  s.runs (if plane < s.planeCount then
      (({ s with uaUp := s.uaUp &&& ~~~ s.planePorts plane } : State).interrupt 0 3).failPlane plane
    else s)

/-- One UALink port loses its link or retrains (R326, R357, R359): what was sent on a plane that no longer works for its domain
goes out again; a plane is in use again once a port of it retrains. -/
def State.portLink (s : State) (port : Nat) (up : Bool) : State :=
  if 16 ≤ port ∨ s.uaUp.getLsbD port = up then s
  else if up then
    let t : State := { s with uaUp := s.uaUp ||| BitVec.twoPow 16 port
                              planeDown := s.planeDown.filter (fun p => p != port % s.planeCount)
                              remote := s.remote.map (fun r => if r.sent then r else { r with sends := 0 }) }
    (t.interrupt 0 3).releaseHeld
  else
    let t := ({ s with uaUp := s.uaUp &&& ~~~ BitVec.twoPow 16 port } : State).interrupt 0 3
    ((t.remote.filter (fun r => r.sent && r.plane == port % t.planeCount && !t.planeOk (t.reqDom r.kind) r.plane)).foldl
      State.resend t).releaseHeld

/-- PLANE_TIMEOUT (R326): a request has waited 16,384 ticks for its acknowledgement. -/
def execPlaneTimeout (n : Nat) (s : State) : Ev :=
  s.runs (match s.remote[n]? with
    | none => s
    | some r => if r.sent && decide (r.sentAt + 16384 ≤ s.time) then s.failPlane r.plane else s)

/-- PLANE_RETRAIN (R326, R357): the plane is in use again, and what no plane could carry goes out. -/
def execPlaneRetrain (plane : Nat) (s : State) : Ev :=
  s.runs (if plane < s.planeCount then
      let t : State := { s with planeDown := s.planeDown.filter (fun p => p != plane), uaUp := s.uaUp ||| s.planePorts plane,
                                remote := s.remote.map (fun r => if r.sent then r else { r with sends := 0 }) }
      (t.interrupt 0 3).releaseHeld
    else s)

end Sys2Proof.Machine
end

