-- ==== Sys2Proof/Machine/Fence.lean ====
section
/-! DEFINITION. FENCE (R172 to R175, R182, R206, R208, R209, R348) and its completion. -/

namespace Sys2Proof.Machine

/-- The scope's place in the nesting of R172. -/
def scopeRank : Scope → Nat
  | .group => 0 | .team => 1 | .die => 2 | .device => 3 | .pod => 4 | .system => 5 | .survivable => 6

/-- A holder of the member's rope is out of reach: a delta to it finds no plane (R326, R348). -/
def State.holderLost (s : State) (dom : Nat) : Bool :=
  s.remote.any (fun r => match r.kind with
    | .delta d p _ => d == dom && !r.sent && !(s.dom dom).rope.lost.getLsbD p
    | _ => false)

/-- A protected page's rope can take the deltas of a line now (R209, R343, R348). -/
def State.survives (s : State) (w : Written) : Bool :=
  match s.protectedAt w.line with
  | none => false
  | some (d, _) =>
    let st := (s.dom d).rope.state
    (st == 2 || st == 3 || st == 5) && !s.holderLost d

/-- The first line of the lanes that a survivable release cannot cover (R209). -/
def State.unsurvivable (s : State) (slot : Nat) (lanes : List Nat) : Option Written :=
  ((s.group slot).written.filter (fun w => (lanes.contains w.lane || w.lane == uniformLane) && w.prot)).find? (fun w => !s.survives w)

/-- SURVIVE at a fence (R209). -/
def surviveTrap (pc : DWord) (lane : Nat) (w : Written) : Trap :=
  { cause := 0x12, xval := 0, pc := pc, lane := lane, xaddr := addrWord w.va }

/-- FENCE (R208): an ACQ fence waits only for loads, which have returned; every other kind sleeps until its release
completes. SURVIVE is raised precisely (R209). Lanes that come to a fence at which others of their key stand begin a
fence of their own and go on when it completes (R224; DESIGN CHOICE, log 79). -/
def execFence (eng : Bool) (k : FenceKind) (sc : Scope) (s : State) : Ev :=
  s.runs (if k = .acq then s.advance
    else match (if sc = .survivable then s.unsurvivable s.ix.slot s.ix.lanes else none) with
      | some w => s.takeTrap (surviveTrap s.ix.pc s.lowest w)
      | none =>
        let f : FenceWait := { eng := eng, kind := k, scope := sc, seq := s.seq, since := none, heard := s.heard }
        { s.modCur (fun g => g.modLanes s.ix.lanes (fun _ x => { x with sleep := .fence f, chain := s.ix.chain })) with seq := s.seq + 1 })

/-- A remote access of the group is not acknowledged (R172). -/
def State.remoteOpen (s : State) (slot : Nat) : Bool :=
  s.remote.any (fun r => match r.kind with
    | .access g _ _ _ _ _ => g == slot
    | _ => false)

/-- A remote access of a group's domain that was issued before a fence is not acknowledged (R172, R174): of every group of the
domain (DEDUCED, log 81). -/
def State.remoteBefore (s : State) (slot seq : Nat) : Bool :=
  s.remote.any (fun r => match r.kind with
    | .access g _ _ _ _ _ => s.groupDom (s.group g) == s.groupDom (s.group slot) && decide (r.seq ≤ seq)
    | _ => false)

/-- A flush of the class's lanes is not answered (R347). -/
def State.flushOpen (s : State) (slot : Nat) (lanes : List Nat) : Bool :=
  s.remote.any (fun r => match r.kind with
    | .flush g l _ => g == slot && (lanes.contains l || l == uniformLane)
    | _ => false)

/-- A delta of the domain is not acknowledged by a holder that is not lost (R182, R348). -/
def State.deltaOpen (s : State) (dom : Nat) : Bool :=
  s.remote.any (fun r => match r.kind with
    | .delta d p _ => d == dom && !(s.dom dom).rope.lost.getLsbD p
    | _ => false)

/-- The latest write-visible time heard of on a die (R170, R174). -/
def Heard.same (h : Heard) (die : Nat) : Nat := if die = 0 then h.same0 else h.same1

/-- The conditions of R172 up to pod scope hold for a group's accesses before a fence, and for what may happen before
them: what any group of the module had heard when the fence began (R174; log 66). -/
def State.releaseMet (s : State) (slot : Nat) (f : FenceWait) : Bool :=
  let g := s.group slot
  let die := dieOfSlot slot
  let now := s.dieTime die
  let rank := scopeRank f.scope
  s.writesDone slot f.seq && (decide (rank < 2) || decide (max g.horDie (f.heard.same die) < now)) &&
    (decide (rank < 3) || decide (max g.horDev f.heard.all < now)) &&
    (decide (rank < 4) || (!s.remoteBefore slot f.seq && decide (max g.horPod f.heard.pod < now)))

/-- The lines a survivable release must see in DRAM (R182). -/
def State.lanesLines (s : State) (slot : Nat) (lanes : List Nat) : List Nat :=
  nub (((s.group slot).written.filter (fun w => lanes.contains w.lane || w.lane == uniformLane)).map (fun w => w.line))

/-- Forced write-backs of a survivable release, and the flushes it sends (R182, R347). -/
def State.forceBack (s : State) (slot : Nat) (lanes : List Nat) : State :=
  let s := (s.lanesLines slot lanes).foldl (fun acc n =>
    let at_ := lineOf (acc.locate (128 * n))
    if acc.backHeld at_ then acc else if isHost (128 * at_) then acc.hostBack [at_] else acc.writeBack at_) s
  let mine := (s.group slot).peered.filter (fun p => lanes.contains p.lane || p.lane == uniformLane)
  let s := s.modGroup slot (fun g => { g with peered := g.peered.filter (fun p => !(lanes.contains p.lane || p.lane == uniformLane)) })
  (nub (mine.map (fun p => p.target))).foldl (fun acc t =>
    acc.post t (.flush slot (lanes.headD 0) ((mine.filter (fun p => p.target == t)).map (fun p => (p.window, p.offset)))) false) s

/-- A survivable release's further conditions (R182): the lines are in DRAM, their deltas and the flushes answered. -/
def State.survivableMet (s : State) (slot : Nat) (lanes : List Nat) : Bool :=
  (s.lanesLines slot lanes).all (fun n =>
    (mget? s.dirty (lineOf (s.locate (128 * n)))).isNone && (match s.protectedAt n with
      | some (d, _) => !s.deltaOpen d
      | none => true)) &&
    !s.flushOpen slot lanes

/-- The class's fence has completed: its lanes go on (R208), an SC fence leaves its completion time (R175), read in the device
time of the group's own die (DESIGN CHOICE, log 71). -/
def State.fenceDone (s : State) (slot : Nat) (lanes : List Nat) (f : FenceWait) : State :=
  let now := s.dieTime (dieOfSlot slot)
  let sc := f.kind == .sc && decide (2 ≤ scopeRank f.scope)
  s.modGroup slot (fun g =>
    let g := g.modLanes lanes (fun _ x => { x with sleep := .awake, pc := nextPc x.pc, scAfter := if sc then max x.scAfter now else x.scAfter })
    if f.scope = .survivable then { g with written := g.written.filter (fun w => !(lanes.contains w.lane || w.lane == uniformLane)) } else g)

/-- Every dirty host line goes to the host's point of coherence (R172, R174, R180). -/
def State.allHostBack (s : State) : State := s.hostBack (s.dirty.map (fun e => e.1))

/-- The SC wait of R175: 16 ticks from the moment the release is complete. -/
def State.scWait (s : State) (slot : Nat) (lanes : List Nat) (f : FenceWait) : State :=
  if f.kind = .sc ∧ 2 ≤ scopeRank f.scope then
    match f.since with
    | none => s.modGroup slot (fun g => g.modLanes lanes (fun _ x => { x with sleep := .fence { f with since := some s.time } }))
    | some t => if t + 16 ≤ s.time then s.fenceDone slot lanes f else s
  else s.fenceDone slot lanes f

/-- One look at a sleeping fence (R172, R175, R180, R182, R209). -/
def State.fenceStep (s : State) (slot : Nat) (lanes : List Nat) (f : FenceWait) : State :=
  if !s.releaseMet slot f then s
  else if scopeRank f.scope < 5 then s.scWait slot lanes f
  else
    let s := s.allHostBack
    if f.scope = .system then s.scWait slot lanes f
    else match s.unsurvivable slot lanes with
      | some w =>
        s.trapAsleep slot lanes (surviveTrap ((s.group slot).lane (lanes.headD 0)).pc (lanes.headD 0) w)
      | none =>
        let t := (s.forceBack slot lanes).releaseHeld
        if lanes.all (fun l => ((t.group slot).lane l).sleep == .fence f) && t.survivableMet slot lanes then t.scWait slot lanes f else t

/-- FENCE_COMPLETE (R172): the class that sleeps at a fence with lane l. -/
def execFenceComplete (g l : Nat) (s : State) : Ev :=
  s.runs (match (s.group g).fences.find? (fun e => e.1.contains l) with
    | none => s
    | some (lanes, f) => s.fenceStep g lanes f)

end Sys2Proof.Machine
end

