-- ==== Sys2Proof/Machine/Float.lean ====
section
/-! DEFINITION. The floating-point instructions (R101 to R110): FP32, FP64, packed FP16 and BF16, and the conversions.
The arithmetic itself, its rounding and its flags are in Fp.lean. -/

namespace Sys2Proof.Machine

/-- An FP32 F3 instruction (R102). -/
def State.flt2 (s : State) (d : Dst) (a b : Src) (f : Nat → Nat → Nat × Flags) : Out :=
  s.runs (s.alu (use2 d 1 a .word b .word) (plainly 1 (Machine.flt2 f)))

/-- An FP32 comparison (R105). -/
def State.fltCmp (s : State) (d : Dst) (a b : Src) (c : Cmp) : Out :=
  s.runs (s.alu (use2 d 1 a .word b .word) (plainly 1 (fltTest (fpCmp Fmt.f32 c))))

/-- An FP32 function of one operand (R107). -/
def State.flt1 (s : State) (d : Dst) (a : Src) (f : Nat → Nat × Flags) : Out :=
  s.runs (s.alu (use1 d 1 a .word) (plainly 1 (Machine.flt1 f)))

/-- An FP64 F3 instruction (R102). -/
def State.dbl2 (s : State) (d : Dst) (a b : Src) (f : Nat → Nat → Nat × Flags) : Out :=
  s.runs (s.alu (use2 d 2 a .dbl b .dbl) (plainly 2 (Machine.flt2 f)))

/-- An FP64 comparison into a word (R102, R105). -/
def State.dblCmp (s : State) (d : Dst) (a b : Src) (c : Cmp) : Out :=
  s.runs (s.alu (use2 d 1 a .dbl b .dbl) (plainly 1 (fltTest (fpCmp Fmt.f64 c))))

/-- An FP64 function of one operand (R107). -/
def State.dbl1 (s : State) (d : Dst) (a : Src) (f : Nat → Nat × Flags) : Out :=
  s.runs (s.alu (use1 d 2 a .dbl) (plainly 2 (Machine.flt1 f)))

/-- A packed instruction (R106); the literal is rounded to the element type (R44). -/
def State.packed2 (s : State) (d : Dst) (a b : Src) (p : Pos) (f : Nat → Nat → Nat × Flags) : Out :=
  s.runs (s.alu (use2 d 1 a p b p) (plainly 1 (pack2 f)))

/-- A packed fused multiply-add (R106): D is read. -/
def State.packed3 (s : State) (d : Dst) (a b : Src) (p : Pos) (f : Nat → Nat → Nat → Nat × Flags) : Out :=
  s.runs (s.alu (use3 d 1 a p b p p) (plainly 1 (pack3 f)))

/-- A class mask as a result (R109). -/
def classRes (f : Fmt) : List DWord → DWord × Flags
  | a :: _ =>
    let r := fpClass f a.toNat
    (r.1.setWidth 64, r.2)
  | _ => (0, 0#5)

/-- How a conversion reads a source type (R44, R110). -/
def cvtPos : Ty → Pos
  | .s64 => .pair
  | .u64 => .pair
  | .f64 => .dbl
  | .f16 => .half
  | .bf16 => .bhalf
  | _ => .word

/-- The words of a conversion's destination (R110). -/
def cvtWords (t : Ty) : Nat := if t.isPair then 2 else 1

/-- CVT and CVTZ (R110): the low bits of the source read as its type, converted under a rounding mode. -/
def State.cvtAs (s : State) (mode : Mode) (d : Dst) (a : Src) (x y : Ty) : Out :=
  s.runs (s.alu (use1 d (cvtWords x) a (cvtPos y)) (plainly (cvtWords x) (Machine.flt1 (fun v => convert mode x y v))))

/-- FADD (R102). -/
def execFadd (d : Dst) (a b : Src) (s : State) : Out :=
  s.flt2 d a b (fpAdd Fmt.f32)

/-- FSUB (R102). -/
def execFsub (d : Dst) (a b : Src) (s : State) : Out :=
  s.flt2 d a b (fpSub Fmt.f32)

/-- FMUL (R102). -/
def execFmul (d : Dst) (a b : Src) (s : State) : Out :=
  s.flt2 d a b (fpMul Fmt.f32)

/-- FFMA (R103): D is read. -/
def execFfma (d : Dst) (a b : Src) (s : State) : Out :=
  s.runs (s.alu (use3 d 1 a .word b .word .word) (plainly 1 (flt3 (fpFma Fmt.f32))))

/-- FMIN (R104). -/
def execFmin (d : Dst) (a b : Src) (s : State) : Out :=
  s.flt2 d a b (fpMinMax Fmt.f32 false)

/-- FMAX (R104). -/
def execFmax (d : Dst) (a b : Src) (s : State) : Out :=
  s.flt2 d a b (fpMinMax Fmt.f32 true)

/-- FSLT (R105). -/
def execFslt (d : Dst) (a b : Src) (s : State) : Out :=
  s.fltCmp d a b .lt

/-- FSLE (R105). -/
def execFsle (d : Dst) (a b : Src) (s : State) : Out :=
  s.fltCmp d a b .le

/-- FSEQ (R105). -/
def execFseq (d : Dst) (a b : Src) (s : State) : Out :=
  s.fltCmp d a b .eq

/-- FSUN (R105). -/
def execFsun (d : Dst) (a b : Src) (s : State) : Out :=
  s.fltCmp d a b .un

/-- FNEG (R107). -/
def execFneg (d : Dst) (a : Src) (s : State) : Out :=
  s.flt1 d a (fpNeg Fmt.f32)

/-- FABS (R107). -/
def execFabs (d : Dst) (a : Src) (s : State) : Out :=
  s.flt1 d a (fpAbs Fmt.f32)

/-- FSQRT (R108). -/
def execFsqrt (d : Dst) (a : Src) (s : State) : Out :=
  s.flt1 d a (fpSqrt Fmt.f32)

/-- FRCP (R108). -/
def execFrcp (d : Dst) (a : Src) (s : State) : Out :=
  s.flt1 d a (fpRcp Fmt.f32)

/-- FRSQ (R108). -/
def execFrsq (d : Dst) (a : Src) (s : State) : Out :=
  s.flt1 d a (fpRsqrt Fmt.f32)

/-- FEXP2 (R108). -/
def execFexp2 (d : Dst) (a : Src) (s : State) : Out :=
  s.flt1 d a fpExp2

/-- FLOG2 (R108). -/
def execFlog2 (d : Dst) (a : Src) (s : State) : Out :=
  s.flt1 d a fpLog2

/-- FSIN (R108). -/
def execFsin (d : Dst) (a : Src) (s : State) : Out :=
  s.flt1 d a (fpSinCos false)

/-- FCOS (R108). -/
def execFcos (d : Dst) (a : Src) (s : State) : Out :=
  s.flt1 d a (fpSinCos true)

/-- FRNDN (R109). -/
def execFrndn (d : Dst) (a : Src) (s : State) : Out :=
  s.flt1 d a (fpRound Fmt.f32 .ne)

/-- FRNDZ (R109). -/
def execFrndz (d : Dst) (a : Src) (s : State) : Out :=
  s.flt1 d a (fpRound Fmt.f32 .z)

/-- FRNDP (R109). -/
def execFrndp (d : Dst) (a : Src) (s : State) : Out :=
  s.flt1 d a (fpRound Fmt.f32 .up)

/-- FRNDM (R109). -/
def execFrndm (d : Dst) (a : Src) (s : State) : Out :=
  s.flt1 d a (fpRound Fmt.f32 .down)

/-- FCLASS (R109): D is a word. -/
def execFclass (d : Dst) (a : Src) (s : State) : Out :=
  s.runs (s.alu (use1 d 1 a .word) (plainly 1 (classRes Fmt.f32)))

/-- DADD (R102). -/
def execDadd (d : Dst) (a b : Src) (s : State) : Out :=
  s.dbl2 d a b (fpAdd Fmt.f64)

/-- DSUB (R102). -/
def execDsub (d : Dst) (a b : Src) (s : State) : Out :=
  s.dbl2 d a b (fpSub Fmt.f64)

/-- DMUL (R102). -/
def execDmul (d : Dst) (a b : Src) (s : State) : Out :=
  s.dbl2 d a b (fpMul Fmt.f64)

/-- DFMA (R103): D is read. -/
def execDfma (d : Dst) (a b : Src) (s : State) : Out :=
  s.runs (s.alu (use3 d 2 a .dbl b .dbl .dbl) (plainly 2 (flt3 (fpFma Fmt.f64))))

/-- DMIN (R104). -/
def execDmin (d : Dst) (a b : Src) (s : State) : Out :=
  s.dbl2 d a b (fpMinMax Fmt.f64 false)

/-- DMAX (R104). -/
def execDmax (d : Dst) (a b : Src) (s : State) : Out :=
  s.dbl2 d a b (fpMinMax Fmt.f64 true)

/-- DSLT (R105). -/
def execDslt (d : Dst) (a b : Src) (s : State) : Out :=
  s.dblCmp d a b .lt

/-- DSLE (R105). -/
def execDsle (d : Dst) (a b : Src) (s : State) : Out :=
  s.dblCmp d a b .le

/-- DSEQ (R105). -/
def execDseq (d : Dst) (a b : Src) (s : State) : Out :=
  s.dblCmp d a b .eq

/-- DNEG (R107). -/
def execDneg (d : Dst) (a : Src) (s : State) : Out :=
  s.dbl1 d a (fpNeg Fmt.f64)

/-- DABS (R107). -/
def execDabs (d : Dst) (a : Src) (s : State) : Out :=
  s.dbl1 d a (fpAbs Fmt.f64)

/-- DSQRT (R108). -/
def execDsqrt (d : Dst) (a : Src) (s : State) : Out :=
  s.dbl1 d a (fpSqrt Fmt.f64)

/-- DRCP (R108). -/
def execDrcp (d : Dst) (a : Src) (s : State) : Out :=
  s.dbl1 d a (fpRcp Fmt.f64)

/-- DRSQ (R108). -/
def execDrsq (d : Dst) (a : Src) (s : State) : Out :=
  s.dbl1 d a (fpRsqrt Fmt.f64)

/-- DRNDN (R109). -/
def execDrndn (d : Dst) (a : Src) (s : State) : Out :=
  s.dbl1 d a (fpRound Fmt.f64 .ne)

/-- DRNDZ (R109). -/
def execDrndz (d : Dst) (a : Src) (s : State) : Out :=
  s.dbl1 d a (fpRound Fmt.f64 .z)

/-- DRNDP (R109). -/
def execDrndp (d : Dst) (a : Src) (s : State) : Out :=
  s.dbl1 d a (fpRound Fmt.f64 .up)

/-- DRNDM (R109). -/
def execDrndm (d : Dst) (a : Src) (s : State) : Out :=
  s.dbl1 d a (fpRound Fmt.f64 .down)

/-- DCLASS (R109): D is a word. -/
def execDclass (d : Dst) (a : Src) (s : State) : Out :=
  s.runs (s.alu (use1 d 1 a .dbl) (plainly 1 (classRes Fmt.f64)))

/-- HADD2 (R106). -/
def execHadd2 (d : Dst) (a b : Src) (s : State) : Out :=
  s.packed2 d a b .half (fpAdd Fmt.f16)

/-- HMUL2 (R106). -/
def execHmul2 (d : Dst) (a b : Src) (s : State) : Out :=
  s.packed2 d a b .half (fpMul Fmt.f16)

/-- HFMA2 (R106). -/
def execHfma2 (d : Dst) (a b : Src) (s : State) : Out :=
  s.packed3 d a b .half (fpFma Fmt.f16)

/-- BADD2 (R106). -/
def execBadd2 (d : Dst) (a b : Src) (s : State) : Out :=
  s.packed2 d a b .bhalf (fpAdd Fmt.bf16)

/-- BMUL2 (R106). -/
def execBmul2 (d : Dst) (a b : Src) (s : State) : Out :=
  s.packed2 d a b .bhalf (fpMul Fmt.bf16)

/-- BFMA2 (R106). -/
def execBfma2 (d : Dst) (a b : Src) (s : State) : Out :=
  s.packed3 d a b .bhalf (fpFma Fmt.bf16)

/-- CVT (R110). -/
def execCvt (d : Dst) (a : Src) (x y : Ty) (s : State) : Out :=
  s.cvtAs .ne d a x y

/-- CVTZ (R110). -/
def execCvtz (d : Dst) (a : Src) (x y : Ty) (s : State) : Out :=
  s.cvtAs .z d a x y

end Sys2Proof.Machine
end

