-- ==== Sys2Proof/WellFormed.lean ====
section
/-! DEFINITION. Well-formed instructions: those that some context makes valid (R53, R54). -/

namespace Sys2Proof

/-- An instruction is well formed when no ILLEGAL test of R53 refuses it. -/
def Instr.wellFormed (i : Instr) : Bool := (rejectOf i).isNone

end Sys2Proof
end

