-- ==== Sys2Proof/Decode.lean ====
section
/-! DEFINITION. The decoder of instruction words (R36, R46 to R53) and, after it, the encoder. A word splits into the
chain bit, the major opcode and three 8-bit fields; a word that is not an instruction is rejected by name, and that is
the trap ILLEGAL. -/

namespace Sys2Proof

/-- The parts of a word: C in bit 31, the opcode in 30:24, then D, A and B (R36). -/
structure Fields where
  c  : Bool
  op : BitVec 7
  d  : BitVec 8
  a  : BitVec 8
  b  : BitVec 8
  deriving DecidableEq, Repr

/-- Split a word into its parts (R36). -/
def splitWord (w : Word) : Fields :=
  { c := w.getLsbD 31, op := w.extractLsb' 24 7, d := w.extractLsb' 16 8, a := w.extractLsb' 8 8, b := w.extractLsb' 0 8 }

/-- Join the parts of a word (R36). -/
def joinWord (f : Fields) : Word :=
  BitVec.ofBool f.c ++ (f.op ++ (f.d ++ (f.a ++ f.b)))

/-- The source named by an operand specifier (R38). -/
def srcOf (x : BitVec 8) : Src :=
  if h : x.toNat < 112 then .v ⟨x.toNat, h⟩
  else if h : x.toNat - 112 < 15 then .q ⟨x.toNat - 112, h⟩
  else if x.toNat = 127 then .lit
  else .s (Fin.ofNat 128 (x.toNat - 128))

/-- The destination named by an operand specifier (R38). -/
def dstOf (x : BitVec 8) : Dst :=
  if h : x.toNat < 112 then .v ⟨x.toNat, h⟩
  else if h : x.toNat - 112 < 15 then .q ⟨x.toNat - 112, h⟩
  else if x.toNat = 127 then .nul
  else .s (Fin.ofNat 128 (x.toNat - 128))

/-- The specifier of a source (R38). -/
def srcCode : Src → BitVec 8
  | .v n => BitVec.ofNat 8 n.val
  | .q n => BitVec.ofNat 8 (112 + n.val)
  | .lit => 0x7F#8
  | .s n => BitVec.ofNat 8 (128 + n.val)

/-- The specifier of a destination (R38). -/
def dstCode : Dst → BitVec 8
  | .v n => BitVec.ofNat 8 n.val
  | .q n => BitVec.ofNat 8 (112 + n.val)
  | .nul => 0x7F#8
  | .s n => BitVec.ofNat 8 (128 + n.val)

/-- The type with a code of R48. -/
def tyOf (x : BitVec 4) : Ty :=
  match x.toNat with
  | 0 => .s32 | 1 => .u32 | 2 => .s64 | 3 => .u64 | 4 => .f32 | 5 => .f64 | 6 => .f16 | 7 => .bf16
  | 8 => .e4m3 | 9 => .e5m2 | 10 => .e3m2 | 11 => .e2m1 | 12 => .s8 | 13 => .u8 | 14 => .s16 | _ => .u16

/-- The code of a type (R48). -/
def tyCode : Ty → BitVec 4
  | .s32 => 0 | .u32 => 1 | .s64 => 2 | .u64 => 3 | .f32 => 4 | .f64 => 5 | .f16 => 6 | .bf16 => 7
  | .e4m3 => 8 | .e5m2 => 9 | .e3m2 => 10 | .e2m1 => 11 | .s8 => 12 | .u8 => 13 | .s16 => 14 | .u16 => 15

/-- The atomic operation with a code of R49; code 15 is none. -/
def aopOf (x : BitVec 4) : Option Aop :=
  match x.toNat with
  | 0 => some .addI | 1 => some .addF | 2 => some .minS | 3 => some .maxS | 4 => some .minU | 5 => some .maxU
  | 6 => some .minF | 7 => some .maxF | 8 => some .and | 9 => some .or | 10 => some .xor | 11 => some .xchg
  | 12 => some .cas | 13 => some .incWrap | 14 => some .addX | _ => none

/-- The code of an atomic operation (R49). -/
def aopCode : Aop → BitVec 4
  | .addI => 0 | .addF => 1 | .minS => 2 | .maxS => 3 | .minU => 4 | .maxU => 5 | .minF => 6 | .maxF => 7
  | .and => 8 | .or => 9 | .xor => 10 | .xchg => 11 | .cas => 12 | .incWrap => 13 | .addX => 14

/-- The special register with a number of R271. -/
def sregOf (x : BitVec 8) : Option SReg :=
  match x.toNat with
  | 0x00 => some .lane | 0x01 => some .group | 0x02 => some .teamX | 0x03 => some .teamY | 0x04 => some .teamZ
  | 0x05 => some .core | 0x06 => some .die | 0x07 => some .device | 0x08 => some .width | 0x09 => some .ngroups
  | 0x0A => some .gridX | 0x0B => some .gridY | 0x0C => some .gridZ | 0x10 => some .depth | 0x11 => some .lsp
  | 0x18 => some .time | 0x19 => some .cycle | 0x20 => some .horizonDie | 0x21 => some .horizonDev
  | 0x22 => some .horizonPod | 0x28 => some .prio | 0x29 => some .fflags | 0x30 => some .xcause | 0x31 => some .xval
  | 0x32 => some .xpc | 0x33 => some .xlane | 0x34 => some .xaddr | _ => none

/-- The number of a special register (R271). -/
def sregCode : SReg → BitVec 8
  | .lane => 0x00 | .group => 0x01 | .teamX => 0x02 | .teamY => 0x03 | .teamZ => 0x04 | .core => 0x05 | .die => 0x06
  | .device => 0x07 | .width => 0x08 | .ngroups => 0x09 | .gridX => 0x0A | .gridY => 0x0B | .gridZ => 0x0C
  | .depth => 0x10 | .lsp => 0x11 | .time => 0x18 | .cycle => 0x19 | .horizonDie => 0x20 | .horizonDev => 0x21
  | .horizonPod => 0x22 | .prio => 0x28 | .fflags => 0x29 | .xcause => 0x30 | .xval => 0x31 | .xpc => 0x32
  | .xlane => 0x33 | .xaddr => 0x34

/-- The fence kind of bits 4:3 (R50). -/
def fenceKindOf (x : BitVec 2) : FenceKind :=
  match x.toNat with
  | 0 => .acq | 1 => .rel | 2 => .acqrel | _ => .sc

/-- The bits of a fence kind (R50). -/
def fenceKindCode : FenceKind → BitVec 2
  | .acq => 0 | .rel => 1 | .acqrel => 2 | .sc => 3

/-- The scope of bits 2:0 (R50); 7 is none. -/
def scopeOf (x : BitVec 3) : Option Scope :=
  match x.toNat with
  | 0 => some .group | 1 => some .team | 2 => some .die | 3 => some .device | 4 => some .pod | 5 => some .system
  | 6 => some .survivable | _ => none

/-- The bits of a scope (R50). -/
def scopeCode : Scope → BitVec 3
  | .group => 0 | .team => 1 | .die => 2 | .device => 3 | .pod => 4 | .system => 5 | .survivable => 6

/-- Bits 6:0 of B: the handle register of FM (R36). -/
def handleOf (b : BitVec 8) : Fin 128 := Fin.ofNat 128 (b.extractLsb' 0 7).toNat

/-- Bit 7 of B: the displacement flag of FM (R36). -/
def dispOf (b : BitVec 8) : Bool := b.getLsbD 7

/-- The B byte of FM (R36). -/
def fmByte (l : Bool) (h : Fin 128) : BitVec 8 := BitVec.ofBool l ++ BitVec.ofNat 7 h.val

/-- Bits 3:0 of B: the handle register of FA (R36). -/
def handle4Of (b : BitVec 8) : Fin 16 := Fin.ofNat 16 (b.extractLsb' 0 4).toNat

/-- The B byte of FA (R36). -/
def faByte (p : Aop) (h : Fin 16) : BitVec 8 := aopCode p ++ BitVec.ofNat 4 h.val

/-- The parameter block of an FX word, when A names s0, s8 .. s120 (R37). -/
def paramOf (a : BitVec 8) : Option (Fin 16) :=
  if a.getLsbD 7 && a.extractLsb' 0 3 == 0#3 then some (Fin.ofNat 16 (a.extractLsb' 3 4).toNat) else none

/-- The A byte of an FX word (R37). -/
def paramByte (a : Fin 16) : BitVec 8 := 1#1 ++ (BitVec.ofNat 4 a.val ++ 0#3)

/-- The counter of bits 2:0 of an FX D byte (R37). -/
def counterOf (d : BitVec 8) : Fin 8 := Fin.ofNat 8 (d.extractLsb' 0 3).toNat

/-- The D byte of an FX word: flags 4 to 0 above the counter (R37). -/
def fxByte (f4 f3 f2 f1 f0 : Bool) (k : Fin 8) : BitVec 8 :=
  BitVec.ofBool f4 ++ (BitVec.ofBool f3 ++ (BitVec.ofBool f2 ++ (BitVec.ofBool f1 ++ (BitVec.ofBool f0 ++ BitVec.ofNat 3 k.val))))

/-- An instruction when a condition on the fixed fields holds (R53). -/
def guarded (ok : Bool) (r : Reject) (i : Instr) : Except Reject Instr := if ok then .ok i else .error r

/-- An FX word: the flags not in use and F are zero, A names a parameter block (R37, R53). -/
def fxWord (ok : Bool) (a : BitVec 8) (mk : Fin 16 → Instr) : Except Reject Instr :=
  match paramOf a with
  | some n => guarded ok .fxField (mk n)
  | none => .error .fxField

/-- A flag-free FX word with the flags REC and NOTRAP only (R138, R214). -/
def fxEngine (f : Fields) (mk : Bool → Bool → Fin 8 → Fin 16 → Instr) : Except Reject Instr :=
  fxWord (f.d.extractLsb' 3 3 == 0#3) f.a (fun n => mk (f.d.getLsbD 7) (f.d.getLsbD 6) (counterOf f.d) n)

/-- An FX word with the flags NULLIDX, REC and NOTRAP (R214). -/
def fxIndex (f : Fields) (mk : Bool → Bool → Bool → Fin 8 → Fin 16 → Instr) : Except Reject Instr :=
  fxWord (f.b == 0#8 && !f.d.getLsbD 3 && !f.d.getLsbD 5) f.a
    (fun n => mk (f.d.getLsbD 7) (f.d.getLsbD 6) (f.d.getLsbD 4) (counterOf f.d) n)

/-- An FA word with an assigned operation (R49). -/
def faWord (f : Fields) (mk : Aop → Fin 16 → Instr) : Except Reject Instr :=
  match aopOf (f.b.extractLsb' 4 4) with
  | some p => .ok (mk p (handle4Of f.b))
  | none => .error .badAop

/-- The functions of opcode 0x1F (R47). -/
def intuOf (f : Fields) : Except Reject Instr :=
  match f.b.toNat with
  | 0 => .ok (.mov (dstOf f.d) (srcOf f.a))
  | 1 => .ok (.not (dstOf f.d) (srcOf f.a))
  | 2 => .ok (.neg (dstOf f.d) (srcOf f.a))
  | 3 => .ok (.abs (dstOf f.d) (srcOf f.a))
  | 4 => .ok (.clz (dstOf f.d) (srcOf f.a))
  | 5 => .ok (.ctz (dstOf f.d) (srcOf f.a))
  | 6 => .ok (.popc (dstOf f.d) (srcOf f.a))
  | 7 => .ok (.brev (dstOf f.d) (srcOf f.a))
  | 8 => .ok (.bswap (dstOf f.d) (srcOf f.a))
  | 9 => .ok (.sextb (dstOf f.d) (srcOf f.a))
  | 10 => .ok (.sexth (dstOf f.d) (srcOf f.a))
  | 11 => .ok (.zextb (dstOf f.d) (srcOf f.a))
  | 12 => .ok (.zexth (dstOf f.d) (srcOf f.a))
  | 13 => .ok (.tcnt (dstOf f.d) (srcOf f.a))
  | 14 => .ok (.mov64 (dstOf f.d) (srcOf f.a))
  | 15 => .ok (.neg64 (dstOf f.d) (srcOf f.a))
  | _ => .error .unassignedFunction

/-- The functions of opcode 0x2A (R47). -/
def funOf (f : Fields) : Except Reject Instr :=
  match f.b.toNat with
  | 0 => .ok (.fneg (dstOf f.d) (srcOf f.a))
  | 1 => .ok (.fabs (dstOf f.d) (srcOf f.a))
  | 2 => .ok (.fsqrt (dstOf f.d) (srcOf f.a))
  | 3 => .ok (.frcp (dstOf f.d) (srcOf f.a))
  | 4 => .ok (.frsq (dstOf f.d) (srcOf f.a))
  | 5 => .ok (.fexp2 (dstOf f.d) (srcOf f.a))
  | 6 => .ok (.flog2 (dstOf f.d) (srcOf f.a))
  | 7 => .ok (.fsin (dstOf f.d) (srcOf f.a))
  | 8 => .ok (.fcos (dstOf f.d) (srcOf f.a))
  | 9 => .ok (.frndn (dstOf f.d) (srcOf f.a))
  | 10 => .ok (.frndz (dstOf f.d) (srcOf f.a))
  | 11 => .ok (.frndp (dstOf f.d) (srcOf f.a))
  | 12 => .ok (.frndm (dstOf f.d) (srcOf f.a))
  | 13 => .ok (.fclass (dstOf f.d) (srcOf f.a))
  | _ => .error .unassignedFunction

/-- The functions of opcode 0x34 (R47). -/
def dunOf (f : Fields) : Except Reject Instr :=
  match f.b.toNat with
  | 0 => .ok (.dneg (dstOf f.d) (srcOf f.a))
  | 1 => .ok (.dabs (dstOf f.d) (srcOf f.a))
  | 2 => .ok (.dsqrt (dstOf f.d) (srcOf f.a))
  | 3 => .ok (.drcp (dstOf f.d) (srcOf f.a))
  | 4 => .ok (.drsq (dstOf f.d) (srcOf f.a))
  | 5 => .ok (.drndn (dstOf f.d) (srcOf f.a))
  | 6 => .ok (.drndz (dstOf f.d) (srcOf f.a))
  | 7 => .ok (.drndp (dstOf f.d) (srcOf f.a))
  | 8 => .ok (.drndm (dstOf f.d) (srcOf f.a))
  | 9 => .ok (.dclass (dstOf f.d) (srcOf f.a))
  | _ => .error .unassignedFunction

/-- The functions of opcode 0x44 (R47). -/
def lunOf (f : Fields) : Except Reject Instr :=
  match f.b.toNat with
  | 0 => .ok (.lscani (dstOf f.d) (srcOf f.a))
  | 1 => .ok (.lscanf (dstOf f.d) (srcOf f.a))
  | 2 => .ok (.lscand (dstOf f.d) (srcOf f.a))
  | 3 => .ok (.lredi (dstOf f.d) (srcOf f.a))
  | 4 => .ok (.lredf (dstOf f.d) (srcOf f.a))
  | 5 => .ok (.lredd (dstOf f.d) (srcOf f.a))
  | 6 => .ok (.lmini (dstOf f.d) (srcOf f.a))
  | 7 => .ok (.lmaxi (dstOf f.d) (srcOf f.a))
  | 8 => .ok (.lany (dstOf f.d) (srcOf f.a))
  | 9 => .ok (.lall (dstOf f.d) (srcOf f.a))
  | 10 => .ok (.lcount (dstOf f.d) (srcOf f.a))
  | 11 => .ok (.lrank (dstOf f.d) (srcOf f.a))
  | _ => .error .unassignedFunction

/-- The functions of SYS, opcode 0x7F (R47, R288, R289, R310, R316). -/
def sysOf (f : Fields) : Except Reject Instr :=
  match f.b.toNat with
  | 0 => guarded (f.d == 0#8) .fixedField (.trap (srcOf f.a))
  | 1 => guarded (f.d == 0#8 && f.a == 0#8) .fixedField .bkpt
  | 2 => guarded (f.d == 0#8 && f.a == 0#8) .fixedField .xret
  | 3 => fxWord true f.a (fun n => .hnarrow (dstOf f.d) n)
  | 4 => match paramOf f.d with
    | some n => .ok (.hquery n (srcOf f.a))
    | none => .error .handleDest
  | 5 => .ok (.ptest (dstOf f.d) (srcOf f.a))
  | 6 => .ok (.pclr (dstOf f.d) (srcOf f.a))
  | _ => .error .unassignedFunction

/-- The operations of CACHE, opcode 0x64 (R52). -/
def cacheOf (f : Fields) : Except Reject Instr :=
  match f.d.toNat with
  | 0 => .ok (.cacheWb (srcOf f.a) (dispOf f.b) (handleOf f.b))
  | 1 => .ok (.cacheWbinv (srcOf f.a) (dispOf f.b) (handleOf f.b))
  | 2 => .ok (.cacheInv (srcOf f.a) (dispOf f.b) (handleOf f.b))
  | 3 => guarded (f.a == 0#8 && f.b == 0#8) .cacheOp .cacheCinv
  | 4 => .ok (.cacheIinv (srcOf f.a) (dispOf f.b) (handleOf f.b))
  | 5 => guarded (f.a == 0#8 && f.b == 0#8) .cacheOp .cacheFetchb
  | _ => .error .cacheOp

/-- FENCE, opcode 0x63 (R50). -/
def fenceOf (f : Fields) : Except Reject Instr :=
  match scopeOf (f.b.extractLsb' 0 3) with
  | some s => guarded (f.d == 0#8 && f.a == 0#8 && f.b.extractLsb' 6 2 == 0#2) .fixedField
      (.fence (f.b.getLsbD 5) (fenceKindOf (f.b.extractLsb' 3 2)) s)
  | none => .error .fenceScope

/-- BAR, opcode 0x7D (R51). -/
def barOf (f : Fields) : Except Reject Instr :=
  let n : Fin 16 := Fin.ofNat 16 (f.b.extractLsb' 0 4).toNat
  match (f.b.extractLsb' 4 4).toNat with
  | 0 => guarded (f.d == 0#8 && f.a == 0#8) .fixedField (.bar n)
  | 1 => guarded (f.d == 0#8 && f.a == 0#8) .fixedField (.barArr n)
  | 2 => guarded (f.d == 0#8 && f.a == 0#8) .fixedField (.barWait n)
  | _ => .error .barKind

/-- The instruction of a word's parts, before the tests on operands (R46, R47, R53). -/
def fieldsInstr (f : Fields) : Except Reject Instr :=
  match f.op.toNat with
  | 0x00 => guarded (f.d == 0#8 && f.a == 0#8 && f.b == 0#8) .fixedField .nop
  | 0x01 => .ok (.add (dstOf f.d) (srcOf f.a) (srcOf f.b))
  | 0x02 => .ok (.sub (dstOf f.d) (srcOf f.a) (srcOf f.b))
  | 0x03 => .ok (.mul (dstOf f.d) (srcOf f.a) (srcOf f.b))
  | 0x04 => .ok (.mulh (dstOf f.d) (srcOf f.a) (srcOf f.b))
  | 0x05 => .ok (.mulhu (dstOf f.d) (srcOf f.a) (srcOf f.b))
  | 0x06 => .ok (.mad (dstOf f.d) (srcOf f.a) (srcOf f.b))
  | 0x07 => .ok (.and (dstOf f.d) (srcOf f.a) (srcOf f.b))
  | 0x08 => .ok (.or (dstOf f.d) (srcOf f.a) (srcOf f.b))
  | 0x09 => .ok (.xor (dstOf f.d) (srcOf f.a) (srcOf f.b))
  | 0x0A => .ok (.shl (dstOf f.d) (srcOf f.a) (srcOf f.b))
  | 0x0B => .ok (.shr (dstOf f.d) (srcOf f.a) (srcOf f.b))
  | 0x0C => .ok (.sar (dstOf f.d) (srcOf f.a) (srcOf f.b))
  | 0x0D => .ok (.min (dstOf f.d) (srcOf f.a) (srcOf f.b))
  | 0x0E => .ok (.max (dstOf f.d) (srcOf f.a) (srcOf f.b))
  | 0x0F => .ok (.minu (dstOf f.d) (srcOf f.a) (srcOf f.b))
  | 0x10 => .ok (.maxu (dstOf f.d) (srcOf f.a) (srcOf f.b))
  | 0x11 => .ok (.slt (dstOf f.d) (srcOf f.a) (srcOf f.b))
  | 0x12 => .ok (.sltu (dstOf f.d) (srcOf f.a) (srcOf f.b))
  | 0x13 => .ok (.seq (dstOf f.d) (srcOf f.a) (srcOf f.b))
  | 0x14 => .ok (.sel (dstOf f.d) (srcOf f.a) (srcOf f.b))
  | 0x15 => .ok (.add64 (dstOf f.d) (srcOf f.a) (srcOf f.b))
  | 0x16 => .ok (.sub64 (dstOf f.d) (srcOf f.a) (srcOf f.b))
  | 0x17 => .ok (.mul64 (dstOf f.d) (srcOf f.a) (srcOf f.b))
  | 0x18 => .ok (.shl64 (dstOf f.d) (srcOf f.a) (srcOf f.b))
  | 0x19 => .ok (.shr64 (dstOf f.d) (srcOf f.a) (srcOf f.b))
  | 0x1A => .ok (.sar64 (dstOf f.d) (srcOf f.a) (srcOf f.b))
  | 0x1B => .ok (.slt64 (dstOf f.d) (srcOf f.a) (srcOf f.b))
  | 0x1C => .ok (.sltu64 (dstOf f.d) (srcOf f.a) (srcOf f.b))
  | 0x1D => .ok (.madwu (dstOf f.d) (srcOf f.a) (srcOf f.b))
  | 0x1E => .ok (.addwu (dstOf f.d) (srcOf f.a) (srcOf f.b))
  | 0x1F => intuOf f
  | 0x20 => .ok (.fadd (dstOf f.d) (srcOf f.a) (srcOf f.b))
  | 0x21 => .ok (.fsub (dstOf f.d) (srcOf f.a) (srcOf f.b))
  | 0x22 => .ok (.fmul (dstOf f.d) (srcOf f.a) (srcOf f.b))
  | 0x23 => .ok (.ffma (dstOf f.d) (srcOf f.a) (srcOf f.b))
  | 0x24 => .ok (.fmin (dstOf f.d) (srcOf f.a) (srcOf f.b))
  | 0x25 => .ok (.fmax (dstOf f.d) (srcOf f.a) (srcOf f.b))
  | 0x26 => .ok (.fslt (dstOf f.d) (srcOf f.a) (srcOf f.b))
  | 0x27 => .ok (.fsle (dstOf f.d) (srcOf f.a) (srcOf f.b))
  | 0x28 => .ok (.fseq (dstOf f.d) (srcOf f.a) (srcOf f.b))
  | 0x29 => .ok (.fsun (dstOf f.d) (srcOf f.a) (srcOf f.b))
  | 0x2A => funOf f
  | 0x2B => .ok (.dadd (dstOf f.d) (srcOf f.a) (srcOf f.b))
  | 0x2C => .ok (.dsub (dstOf f.d) (srcOf f.a) (srcOf f.b))
  | 0x2D => .ok (.dmul (dstOf f.d) (srcOf f.a) (srcOf f.b))
  | 0x2E => .ok (.dfma (dstOf f.d) (srcOf f.a) (srcOf f.b))
  | 0x2F => .ok (.dmin (dstOf f.d) (srcOf f.a) (srcOf f.b))
  | 0x30 => .ok (.dmax (dstOf f.d) (srcOf f.a) (srcOf f.b))
  | 0x31 => .ok (.dslt (dstOf f.d) (srcOf f.a) (srcOf f.b))
  | 0x32 => .ok (.dsle (dstOf f.d) (srcOf f.a) (srcOf f.b))
  | 0x33 => .ok (.dseq (dstOf f.d) (srcOf f.a) (srcOf f.b))
  | 0x34 => dunOf f
  | 0x35 => .ok (.hadd2 (dstOf f.d) (srcOf f.a) (srcOf f.b))
  | 0x36 => .ok (.hmul2 (dstOf f.d) (srcOf f.a) (srcOf f.b))
  | 0x37 => .ok (.hfma2 (dstOf f.d) (srcOf f.a) (srcOf f.b))
  | 0x38 => .ok (.badd2 (dstOf f.d) (srcOf f.a) (srcOf f.b))
  | 0x39 => .ok (.bmul2 (dstOf f.d) (srcOf f.a) (srcOf f.b))
  | 0x3A => .ok (.bfma2 (dstOf f.d) (srcOf f.a) (srcOf f.b))
  | 0x3B => .ok (.cvt (dstOf f.d) (srcOf f.a) (tyOf (f.b.extractLsb' 4 4)) (tyOf (f.b.extractLsb' 0 4)))
  | 0x3C => .ok (.cvtz (dstOf f.d) (srcOf f.a) (tyOf (f.b.extractLsb' 4 4)) (tyOf (f.b.extractLsb' 0 4)))
  | 0x3D => .ok (.shfl (dstOf f.d) (srcOf f.a) (srcOf f.b))
  | 0x3E => .ok (.shflx (dstOf f.d) (srcOf f.a) (srcOf f.b))
  | 0x3F => .ok (.shflu (dstOf f.d) (srcOf f.a) (srcOf f.b))
  | 0x40 => .ok (.shfld (dstOf f.d) (srcOf f.a) (srcOf f.b))
  | 0x41 => .ok (.lsegi (dstOf f.d) (srcOf f.a) (srcOf f.b))
  | 0x42 => .ok (.lsegf (dstOf f.d) (srcOf f.a) (srcOf f.b))
  | 0x43 => .ok (.lsegd (dstOf f.d) (srcOf f.a) (srcOf f.b))
  | 0x44 => lunOf f
  | 0x45 => .ok (.lballot (dstOf f.d) (srcOf f.a) (srcOf f.b))
  | 0x46 => .ok (.rdlane (dstOf f.d) (srcOf f.a) (srcOf f.b))
  | 0x47 => .ok (.movi (dstOf f.d) (f.a ++ f.b))
  | 0x48 => .ok (.movih (dstOf f.d) (f.a ++ f.b))
  | 0x49 => match sregOf f.b with
    | some r => guarded (f.a == 0#8) .fixedField (.srd (dstOf f.d) r)
    | none => .error .unassignedSr
  | 0x4A => match sregOf f.b with
    | some r => guarded (f.d == 0#8) .fixedField (.swr (srcOf f.a) r)
    | none => .error .unassignedSr
  | 0x4B => .ok (.ldB (dstOf f.d) (srcOf f.a) (dispOf f.b) (handleOf f.b))
  | 0x4C => .ok (.ldBu (dstOf f.d) (srcOf f.a) (dispOf f.b) (handleOf f.b))
  | 0x4D => .ok (.ldH (dstOf f.d) (srcOf f.a) (dispOf f.b) (handleOf f.b))
  | 0x4E => .ok (.ldHu (dstOf f.d) (srcOf f.a) (dispOf f.b) (handleOf f.b))
  | 0x4F => .ok (.ldW (dstOf f.d) (srcOf f.a) (dispOf f.b) (handleOf f.b))
  | 0x50 => .ok (.ldD (dstOf f.d) (srcOf f.a) (dispOf f.b) (handleOf f.b))
  | 0x51 => .ok (.ldQ (dstOf f.d) (srcOf f.a) (dispOf f.b) (handleOf f.b))
  | 0x52 => .ok (.stB (srcOf f.d) (srcOf f.a) (dispOf f.b) (handleOf f.b))
  | 0x53 => .ok (.stH (srcOf f.d) (srcOf f.a) (dispOf f.b) (handleOf f.b))
  | 0x54 => .ok (.stW (srcOf f.d) (srcOf f.a) (dispOf f.b) (handleOf f.b))
  | 0x55 => .ok (.stD (srcOf f.d) (srcOf f.a) (dispOf f.b) (handleOf f.b))
  | 0x56 => .ok (.stQ (srcOf f.d) (srcOf f.a) (dispOf f.b) (handleOf f.b))
  | 0x57 => .ok (.ldcW (dstOf f.d) (srcOf f.a) (dispOf f.b) (handleOf f.b))
  | 0x58 => .ok (.ldcD (dstOf f.d) (srcOf f.a) (dispOf f.b) (handleOf f.b))
  | 0x59 => faWord f (.atomW (dstOf f.d) (srcOf f.a))
  | 0x5A => faWord f (.atomD (dstOf f.d) (srcOf f.a))
  | 0x5B => faWord f (.redW (dstOf f.d) (srcOf f.a))
  | 0x5C => faWord f (.redD (dstOf f.d) (srcOf f.a))
  | 0x5D => match f.d.toNat with
    | 4 => .ok (.rcloseF32 (srcOf f.a) (dispOf f.b) (handleOf f.b))
    | 5 => .ok (.rcloseF64 (srcOf f.a) (dispOf f.b) (handleOf f.b))
    | _ => .error .closeType
  | 0x5E => .ok (.rldW (dstOf f.d) (srcOf f.a) (dispOf f.b) (handleOf f.b))
  | 0x5F => .ok (.rldD (dstOf f.d) (srcOf f.a) (dispOf f.b) (handleOf f.b))
  | 0x60 => .ok (.rstW (srcOf f.d) (srcOf f.a) (dispOf f.b) (handleOf f.b))
  | 0x61 => .ok (.rstD (srcOf f.d) (srcOf f.a) (dispOf f.b) (handleOf f.b))
  | 0x62 => faWord f (.ratom (dstOf f.d) (srcOf f.a))
  | 0x63 => fenceOf f
  | 0x64 => cacheOf f
  | 0x65 => .ok (.waitcEq (srcOf f.d) (srcOf f.a) (dispOf f.b) (handleOf f.b))
  | 0x66 => .ok (.waitcNe (srcOf f.d) (srcOf f.a) (dispOf f.b) (handleOf f.b))
  | 0x67 => .ok (.waitcGe (srcOf f.d) (srcOf f.a) (dispOf f.b) (handleOf f.b))
  | 0x68 => if f.b == 0#8 then fxEngine f .xcopy else .error .fxField
  | 0x69 => fxIndex f .xgather
  | 0x6A => fxIndex f .xscatter
  | 0x6B => match f.b.toNat with
    | 0 => fxEngine f .xencTerm
    | 1 => fxEngine f .xencBlock
    | _ => .error .unassignedFunction
  | 0x6C => match f.b.toNat with
    | 0 => fxEngine f .xdecTerm
    | 1 => fxEngine f .xdecBlock
    | _ => .error .unassignedFunction
  | 0x6D => match f.b.toNat with
    | 0 => fxEngine f .mtask
    | 1 => fxEngine f .mtaskStream
    | _ => .error .unassignedFunction
  | 0x6E => match f.b.toNat with
    | 0 => fxWord (f.d.getLsbD 7) f.a (fun n => .mbound (handleOf f.d) n false)
    | 1 => fxWord (f.d.getLsbD 7) f.a (fun n => .mbound (handleOf f.d) n true)
    | _ => .error .unassignedFunction
  | 0x6F => if f.b.extractLsb' 2 6 == 0#6 then
      fxWord (f.d.getLsbD 7) f.a (fun n => .xstat (handleOf f.d) n (Fin.ofNat 4 (f.b.extractLsb' 0 2).toNat))
    else .error .unassignedFunction
  | 0x70 => guarded (f.d == 0#8) .fixedField (.b (f.a ++ f.b))
  | 0x71 => .ok (.bz (srcOf f.d) (f.a ++ f.b))
  | 0x72 => .ok (.bnz (srcOf f.d) (f.a ++ f.b))
  | 0x73 => .ok (.bltz (srcOf f.d) (f.a ++ f.b))
  | 0x74 => .ok (.bgez (srcOf f.d) (f.a ++ f.b))
  | 0x75 => guarded (f.d == 0#8) .fixedField (.bS (f.a ++ f.b))
  | 0x76 => .ok (.bzS (srcOf f.d) (f.a ++ f.b))
  | 0x77 => .ok (.bnzS (srcOf f.d) (f.a ++ f.b))
  | 0x78 => .ok (.call (f.d ++ (f.a ++ f.b)))
  | 0x79 => match f.b.toNat with
    | 0 => guarded (f.d == 0#8) .fixedField (.callr (srcOf f.a))
    | 1 => guarded (f.d == 0#8) .fixedField (.jr (srcOf f.a))
    | _ => .error .unassignedFunction
  | 0x7A => guarded (f.d == 0#8 && f.a == 0#8 && f.b == 0#8) .fixedField .ret
  | 0x7B => guarded (f.d == 0#8 && f.a == 0#8 && f.b == 0#8) .fixedField .exit
  | 0x7C => .ok (.yield (Fin.ofNat 32 (f.d.extractLsb' 3 5).toNat) (counterOf f.d) (f.a ++ f.b))
  | 0x7D => barOf f
  | 0x7E => fxWord (f.b == 0#8 && !f.d.getLsbD 7 && !f.d.getLsbD 5 && !f.d.getLsbD 4) f.a
      (fun n => .spawn (f.d.getLsbD 6) (f.d.getLsbD 3) (counterOf f.d) n)
  | 0x7F => sysOf f
  | _ => .error .unassignedFunction

/-- Decode the parts of a word: the instruction, or the name under which it is ILLEGAL (R53). -/
def decodeFields (f : Fields) : Except Reject Instr :=
  match fieldsInstr f with
  | .error r => .error r
  | .ok i => match rejectOf i with
    | none => .ok i
    | some r => .error r

/-- Decode a word: its chain bit (R33) and its instruction, or the name under which it is ILLEGAL. -/
def decode (w : Word) : Except Reject (Bool × Instr) :=
  match decodeFields (splitWord w) with
  | .ok i => .ok (w.getLsbD 31, i)
  | .error r => .error r

/-- The decoder as the host asks it: a word's bits in nbits = 32 bits, numbered as the opcode table numbers them. -/
def decodeTableWord (nbits w : Nat) : Option Instr :=
  if nbits = 32 then
    match decode (BitVec.ofNat 32 w) with
    | .ok (_, i) => some i
    | .error _ => none
  else none

/-- The parts of a word from its opcode and fields, chain bit 0. -/
def mkFields (op : BitVec 7) (d a b : BitVec 8) : Fields := { c := false, op := op, d := d, a := a, b := b }

/-- The high byte of an immediate. -/
def hiByte (i : BitVec 16) : BitVec 8 := i.extractLsb' 8 8

/-- The low byte of an immediate. -/
def loByte (i : BitVec 16) : BitVec 8 := i.extractLsb' 0 8

/-- The parts of an instruction's word with C = 0; `none` for the steps of the other agents, which are no words. -/
def instrFields : Instr → Option Fields
  | .nop => some (mkFields 0x00 0 0 0)
  | .add d a b => some (mkFields 0x01 (dstCode d) (srcCode a) (srcCode b))
  | .sub d a b => some (mkFields 0x02 (dstCode d) (srcCode a) (srcCode b))
  | .mul d a b => some (mkFields 0x03 (dstCode d) (srcCode a) (srcCode b))
  | .mulh d a b => some (mkFields 0x04 (dstCode d) (srcCode a) (srcCode b))
  | .mulhu d a b => some (mkFields 0x05 (dstCode d) (srcCode a) (srcCode b))
  | .mad d a b => some (mkFields 0x06 (dstCode d) (srcCode a) (srcCode b))
  | .and d a b => some (mkFields 0x07 (dstCode d) (srcCode a) (srcCode b))
  | .or d a b => some (mkFields 0x08 (dstCode d) (srcCode a) (srcCode b))
  | .xor d a b => some (mkFields 0x09 (dstCode d) (srcCode a) (srcCode b))
  | .shl d a b => some (mkFields 0x0A (dstCode d) (srcCode a) (srcCode b))
  | .shr d a b => some (mkFields 0x0B (dstCode d) (srcCode a) (srcCode b))
  | .sar d a b => some (mkFields 0x0C (dstCode d) (srcCode a) (srcCode b))
  | .min d a b => some (mkFields 0x0D (dstCode d) (srcCode a) (srcCode b))
  | .max d a b => some (mkFields 0x0E (dstCode d) (srcCode a) (srcCode b))
  | .minu d a b => some (mkFields 0x0F (dstCode d) (srcCode a) (srcCode b))
  | .maxu d a b => some (mkFields 0x10 (dstCode d) (srcCode a) (srcCode b))
  | .slt d a b => some (mkFields 0x11 (dstCode d) (srcCode a) (srcCode b))
  | .sltu d a b => some (mkFields 0x12 (dstCode d) (srcCode a) (srcCode b))
  | .seq d a b => some (mkFields 0x13 (dstCode d) (srcCode a) (srcCode b))
  | .sel d a b => some (mkFields 0x14 (dstCode d) (srcCode a) (srcCode b))
  | .add64 d a b => some (mkFields 0x15 (dstCode d) (srcCode a) (srcCode b))
  | .sub64 d a b => some (mkFields 0x16 (dstCode d) (srcCode a) (srcCode b))
  | .mul64 d a b => some (mkFields 0x17 (dstCode d) (srcCode a) (srcCode b))
  | .shl64 d a b => some (mkFields 0x18 (dstCode d) (srcCode a) (srcCode b))
  | .shr64 d a b => some (mkFields 0x19 (dstCode d) (srcCode a) (srcCode b))
  | .sar64 d a b => some (mkFields 0x1A (dstCode d) (srcCode a) (srcCode b))
  | .slt64 d a b => some (mkFields 0x1B (dstCode d) (srcCode a) (srcCode b))
  | .sltu64 d a b => some (mkFields 0x1C (dstCode d) (srcCode a) (srcCode b))
  | .madwu d a b => some (mkFields 0x1D (dstCode d) (srcCode a) (srcCode b))
  | .addwu d a b => some (mkFields 0x1E (dstCode d) (srcCode a) (srcCode b))
  | .mov d a => some (mkFields 0x1F (dstCode d) (srcCode a) 0x00)
  | .not d a => some (mkFields 0x1F (dstCode d) (srcCode a) 0x01)
  | .neg d a => some (mkFields 0x1F (dstCode d) (srcCode a) 0x02)
  | .abs d a => some (mkFields 0x1F (dstCode d) (srcCode a) 0x03)
  | .clz d a => some (mkFields 0x1F (dstCode d) (srcCode a) 0x04)
  | .ctz d a => some (mkFields 0x1F (dstCode d) (srcCode a) 0x05)
  | .popc d a => some (mkFields 0x1F (dstCode d) (srcCode a) 0x06)
  | .brev d a => some (mkFields 0x1F (dstCode d) (srcCode a) 0x07)
  | .bswap d a => some (mkFields 0x1F (dstCode d) (srcCode a) 0x08)
  | .sextb d a => some (mkFields 0x1F (dstCode d) (srcCode a) 0x09)
  | .sexth d a => some (mkFields 0x1F (dstCode d) (srcCode a) 0x0A)
  | .zextb d a => some (mkFields 0x1F (dstCode d) (srcCode a) 0x0B)
  | .zexth d a => some (mkFields 0x1F (dstCode d) (srcCode a) 0x0C)
  | .tcnt d a => some (mkFields 0x1F (dstCode d) (srcCode a) 0x0D)
  | .mov64 d a => some (mkFields 0x1F (dstCode d) (srcCode a) 0x0E)
  | .neg64 d a => some (mkFields 0x1F (dstCode d) (srcCode a) 0x0F)
  | .fadd d a b => some (mkFields 0x20 (dstCode d) (srcCode a) (srcCode b))
  | .fsub d a b => some (mkFields 0x21 (dstCode d) (srcCode a) (srcCode b))
  | .fmul d a b => some (mkFields 0x22 (dstCode d) (srcCode a) (srcCode b))
  | .ffma d a b => some (mkFields 0x23 (dstCode d) (srcCode a) (srcCode b))
  | .fmin d a b => some (mkFields 0x24 (dstCode d) (srcCode a) (srcCode b))
  | .fmax d a b => some (mkFields 0x25 (dstCode d) (srcCode a) (srcCode b))
  | .fslt d a b => some (mkFields 0x26 (dstCode d) (srcCode a) (srcCode b))
  | .fsle d a b => some (mkFields 0x27 (dstCode d) (srcCode a) (srcCode b))
  | .fseq d a b => some (mkFields 0x28 (dstCode d) (srcCode a) (srcCode b))
  | .fsun d a b => some (mkFields 0x29 (dstCode d) (srcCode a) (srcCode b))
  | .fneg d a => some (mkFields 0x2A (dstCode d) (srcCode a) 0x00)
  | .fabs d a => some (mkFields 0x2A (dstCode d) (srcCode a) 0x01)
  | .fsqrt d a => some (mkFields 0x2A (dstCode d) (srcCode a) 0x02)
  | .frcp d a => some (mkFields 0x2A (dstCode d) (srcCode a) 0x03)
  | .frsq d a => some (mkFields 0x2A (dstCode d) (srcCode a) 0x04)
  | .fexp2 d a => some (mkFields 0x2A (dstCode d) (srcCode a) 0x05)
  | .flog2 d a => some (mkFields 0x2A (dstCode d) (srcCode a) 0x06)
  | .fsin d a => some (mkFields 0x2A (dstCode d) (srcCode a) 0x07)
  | .fcos d a => some (mkFields 0x2A (dstCode d) (srcCode a) 0x08)
  | .frndn d a => some (mkFields 0x2A (dstCode d) (srcCode a) 0x09)
  | .frndz d a => some (mkFields 0x2A (dstCode d) (srcCode a) 0x0A)
  | .frndp d a => some (mkFields 0x2A (dstCode d) (srcCode a) 0x0B)
  | .frndm d a => some (mkFields 0x2A (dstCode d) (srcCode a) 0x0C)
  | .fclass d a => some (mkFields 0x2A (dstCode d) (srcCode a) 0x0D)
  | .dadd d a b => some (mkFields 0x2B (dstCode d) (srcCode a) (srcCode b))
  | .dsub d a b => some (mkFields 0x2C (dstCode d) (srcCode a) (srcCode b))
  | .dmul d a b => some (mkFields 0x2D (dstCode d) (srcCode a) (srcCode b))
  | .dfma d a b => some (mkFields 0x2E (dstCode d) (srcCode a) (srcCode b))
  | .dmin d a b => some (mkFields 0x2F (dstCode d) (srcCode a) (srcCode b))
  | .dmax d a b => some (mkFields 0x30 (dstCode d) (srcCode a) (srcCode b))
  | .dslt d a b => some (mkFields 0x31 (dstCode d) (srcCode a) (srcCode b))
  | .dsle d a b => some (mkFields 0x32 (dstCode d) (srcCode a) (srcCode b))
  | .dseq d a b => some (mkFields 0x33 (dstCode d) (srcCode a) (srcCode b))
  | .dneg d a => some (mkFields 0x34 (dstCode d) (srcCode a) 0x00)
  | .dabs d a => some (mkFields 0x34 (dstCode d) (srcCode a) 0x01)
  | .dsqrt d a => some (mkFields 0x34 (dstCode d) (srcCode a) 0x02)
  | .drcp d a => some (mkFields 0x34 (dstCode d) (srcCode a) 0x03)
  | .drsq d a => some (mkFields 0x34 (dstCode d) (srcCode a) 0x04)
  | .drndn d a => some (mkFields 0x34 (dstCode d) (srcCode a) 0x05)
  | .drndz d a => some (mkFields 0x34 (dstCode d) (srcCode a) 0x06)
  | .drndp d a => some (mkFields 0x34 (dstCode d) (srcCode a) 0x07)
  | .drndm d a => some (mkFields 0x34 (dstCode d) (srcCode a) 0x08)
  | .dclass d a => some (mkFields 0x34 (dstCode d) (srcCode a) 0x09)
  | .hadd2 d a b => some (mkFields 0x35 (dstCode d) (srcCode a) (srcCode b))
  | .hmul2 d a b => some (mkFields 0x36 (dstCode d) (srcCode a) (srcCode b))
  | .hfma2 d a b => some (mkFields 0x37 (dstCode d) (srcCode a) (srcCode b))
  | .badd2 d a b => some (mkFields 0x38 (dstCode d) (srcCode a) (srcCode b))
  | .bmul2 d a b => some (mkFields 0x39 (dstCode d) (srcCode a) (srcCode b))
  | .bfma2 d a b => some (mkFields 0x3A (dstCode d) (srcCode a) (srcCode b))
  | .cvt d a x y => some (mkFields 0x3B (dstCode d) (srcCode a) (tyCode x ++ tyCode y))
  | .cvtz d a x y => some (mkFields 0x3C (dstCode d) (srcCode a) (tyCode x ++ tyCode y))
  | .shfl d a b => some (mkFields 0x3D (dstCode d) (srcCode a) (srcCode b))
  | .shflx d a b => some (mkFields 0x3E (dstCode d) (srcCode a) (srcCode b))
  | .shflu d a b => some (mkFields 0x3F (dstCode d) (srcCode a) (srcCode b))
  | .shfld d a b => some (mkFields 0x40 (dstCode d) (srcCode a) (srcCode b))
  | .lsegi d a b => some (mkFields 0x41 (dstCode d) (srcCode a) (srcCode b))
  | .lsegf d a b => some (mkFields 0x42 (dstCode d) (srcCode a) (srcCode b))
  | .lsegd d a b => some (mkFields 0x43 (dstCode d) (srcCode a) (srcCode b))
  | .lscani d a => some (mkFields 0x44 (dstCode d) (srcCode a) 0x00)
  | .lscanf d a => some (mkFields 0x44 (dstCode d) (srcCode a) 0x01)
  | .lscand d a => some (mkFields 0x44 (dstCode d) (srcCode a) 0x02)
  | .lredi d a => some (mkFields 0x44 (dstCode d) (srcCode a) 0x03)
  | .lredf d a => some (mkFields 0x44 (dstCode d) (srcCode a) 0x04)
  | .lredd d a => some (mkFields 0x44 (dstCode d) (srcCode a) 0x05)
  | .lmini d a => some (mkFields 0x44 (dstCode d) (srcCode a) 0x06)
  | .lmaxi d a => some (mkFields 0x44 (dstCode d) (srcCode a) 0x07)
  | .lany d a => some (mkFields 0x44 (dstCode d) (srcCode a) 0x08)
  | .lall d a => some (mkFields 0x44 (dstCode d) (srcCode a) 0x09)
  | .lcount d a => some (mkFields 0x44 (dstCode d) (srcCode a) 0x0A)
  | .lrank d a => some (mkFields 0x44 (dstCode d) (srcCode a) 0x0B)
  | .lballot d a b => some (mkFields 0x45 (dstCode d) (srcCode a) (srcCode b))
  | .rdlane d a b => some (mkFields 0x46 (dstCode d) (srcCode a) (srcCode b))
  | .movi d i => some (mkFields 0x47 (dstCode d) (hiByte i) (loByte i))
  | .movih d i => some (mkFields 0x48 (dstCode d) (hiByte i) (loByte i))
  | .srd d r => some (mkFields 0x49 (dstCode d) 0 (sregCode r))
  | .swr a r => some (mkFields 0x4A 0 (srcCode a) (sregCode r))
  | .ldB d a l h => some (mkFields 0x4B (dstCode d) (srcCode a) (fmByte l h))
  | .ldBu d a l h => some (mkFields 0x4C (dstCode d) (srcCode a) (fmByte l h))
  | .ldH d a l h => some (mkFields 0x4D (dstCode d) (srcCode a) (fmByte l h))
  | .ldHu d a l h => some (mkFields 0x4E (dstCode d) (srcCode a) (fmByte l h))
  | .ldW d a l h => some (mkFields 0x4F (dstCode d) (srcCode a) (fmByte l h))
  | .ldD d a l h => some (mkFields 0x50 (dstCode d) (srcCode a) (fmByte l h))
  | .ldQ d a l h => some (mkFields 0x51 (dstCode d) (srcCode a) (fmByte l h))
  | .stB d a l h => some (mkFields 0x52 (srcCode d) (srcCode a) (fmByte l h))
  | .stH d a l h => some (mkFields 0x53 (srcCode d) (srcCode a) (fmByte l h))
  | .stW d a l h => some (mkFields 0x54 (srcCode d) (srcCode a) (fmByte l h))
  | .stD d a l h => some (mkFields 0x55 (srcCode d) (srcCode a) (fmByte l h))
  | .stQ d a l h => some (mkFields 0x56 (srcCode d) (srcCode a) (fmByte l h))
  | .ldcW d a l h => some (mkFields 0x57 (dstCode d) (srcCode a) (fmByte l h))
  | .ldcD d a l h => some (mkFields 0x58 (dstCode d) (srcCode a) (fmByte l h))
  | .atomW d a p h => some (mkFields 0x59 (dstCode d) (srcCode a) (faByte p h))
  | .atomD d a p h => some (mkFields 0x5A (dstCode d) (srcCode a) (faByte p h))
  | .redW d a p h => some (mkFields 0x5B (dstCode d) (srcCode a) (faByte p h))
  | .redD d a p h => some (mkFields 0x5C (dstCode d) (srcCode a) (faByte p h))
  | .rcloseF32 a l h => some (mkFields 0x5D 4 (srcCode a) (fmByte l h))
  | .rcloseF64 a l h => some (mkFields 0x5D 5 (srcCode a) (fmByte l h))
  | .rldW d a l h => some (mkFields 0x5E (dstCode d) (srcCode a) (fmByte l h))
  | .rldD d a l h => some (mkFields 0x5F (dstCode d) (srcCode a) (fmByte l h))
  | .rstW d a l h => some (mkFields 0x60 (srcCode d) (srcCode a) (fmByte l h))
  | .rstD d a l h => some (mkFields 0x61 (srcCode d) (srcCode a) (fmByte l h))
  | .ratom d a p h => some (mkFields 0x62 (dstCode d) (srcCode a) (faByte p h))
  | .fence e k s => some (mkFields 0x63 0 0 (0#2 ++ (BitVec.ofBool e ++ (fenceKindCode k ++ scopeCode s))))
  | .cacheWb a l h => some (mkFields 0x64 0 (srcCode a) (fmByte l h))
  | .cacheWbinv a l h => some (mkFields 0x64 1 (srcCode a) (fmByte l h))
  | .cacheInv a l h => some (mkFields 0x64 2 (srcCode a) (fmByte l h))
  | .cacheCinv => some (mkFields 0x64 3 0 0)
  | .cacheIinv a l h => some (mkFields 0x64 4 (srcCode a) (fmByte l h))
  | .cacheFetchb => some (mkFields 0x64 5 0 0)
  | .waitcEq d a l h => some (mkFields 0x65 (srcCode d) (srcCode a) (fmByte l h))
  | .waitcNe d a l h => some (mkFields 0x66 (srcCode d) (srcCode a) (fmByte l h))
  | .waitcGe d a l h => some (mkFields 0x67 (srcCode d) (srcCode a) (fmByte l h))
  | .xcopy t r k a => some (mkFields 0x68 (fxByte t r false false false k) (paramByte a) 0)
  | .xgather t r n k a => some (mkFields 0x69 (fxByte t r false n false k) (paramByte a) 0)
  | .xscatter t r n k a => some (mkFields 0x6A (fxByte t r false n false k) (paramByte a) 0)
  | .xencTerm t r k a => some (mkFields 0x6B (fxByte t r false false false k) (paramByte a) 0)
  | .xencBlock t r k a => some (mkFields 0x6B (fxByte t r false false false k) (paramByte a) 1)
  | .xdecTerm t r k a => some (mkFields 0x6C (fxByte t r false false false k) (paramByte a) 0)
  | .xdecBlock t r k a => some (mkFields 0x6C (fxByte t r false false false k) (paramByte a) 1)
  | .mtask t r k a => some (mkFields 0x6D (fxByte t r false false false k) (paramByte a) 0)
  | .mtaskStream t r k a => some (mkFields 0x6D (fxByte t r false false false k) (paramByte a) 1)
  | .mbound d a m => some (mkFields 0x6E (fmByte true d) (paramByte a) (0#7 ++ BitVec.ofBool m))
  | .xstat d a f => some (mkFields 0x6F (fmByte true d) (paramByte a) (0#6 ++ BitVec.ofNat 2 f.val))
  | .b o => some (mkFields 0x70 0 (hiByte o) (loByte o))
  | .bz a o => some (mkFields 0x71 (srcCode a) (hiByte o) (loByte o))
  | .bnz a o => some (mkFields 0x72 (srcCode a) (hiByte o) (loByte o))
  | .bltz a o => some (mkFields 0x73 (srcCode a) (hiByte o) (loByte o))
  | .bgez a o => some (mkFields 0x74 (srcCode a) (hiByte o) (loByte o))
  | .bS o => some (mkFields 0x75 0 (hiByte o) (loByte o))
  | .bzS a o => some (mkFields 0x76 (srcCode a) (hiByte o) (loByte o))
  | .bnzS a o => some (mkFields 0x77 (srcCode a) (hiByte o) (loByte o))
  | .call o => some (mkFields 0x78 (o.extractLsb' 16 8) (o.extractLsb' 8 8) (o.extractLsb' 0 8))
  | .callr a => some (mkFields 0x79 0 (srcCode a) 0)
  | .jr a => some (mkFields 0x79 0 (srcCode a) 1)
  | .ret => some (mkFields 0x7A 0 0 0)
  | .exit => some (mkFields 0x7B 0 0 0)
  | .yield t k i => some (mkFields 0x7C (BitVec.ofNat 5 t.val ++ BitVec.ofNat 3 k.val) (hiByte i) (loByte i))
  | .bar n => some (mkFields 0x7D 0 0 (0#4 ++ BitVec.ofNat 4 n.val))
  | .barArr n => some (mkFields 0x7D 0 0 (1#4 ++ BitVec.ofNat 4 n.val))
  | .barWait n => some (mkFields 0x7D 0 0 (2#4 ++ BitVec.ofNat 4 n.val))
  | .spawn r s k a => some (mkFields 0x7E (fxByte false r false false s k) (paramByte a) 0)
  | .trap a => some (mkFields 0x7F 0 (srcCode a) 0)
  | .bkpt => some (mkFields 0x7F 0 0 1)
  | .xret => some (mkFields 0x7F 0 0 2)
  | .hnarrow d a => some (mkFields 0x7F (dstCode d) (paramByte a) 3)
  | .hquery d a => some (mkFields 0x7F (paramByte d) (srcCode a) 4)
  | .ptest d a => some (mkFields 0x7F (dstCode d) (srcCode a) 5)
  | .pclr d a => some (mkFields 0x7F (dstCode d) (srcCode a) 6)
  | _ => none

/-- The word of an instruction with C = 0; the steps of the other agents have none. -/
def encode (i : Instr) : Option Word := (instrFields i).map joinWord

end Sys2Proof
end

