-- ==== Sys2Proof/Machine/Fetch.lean ====
section
/-! DEFINITION. Fetching the next word of a class: the checks of R31 and R322, the instruction cache and the words a
lane already holds (R211), poison (R314), and the latch of the word that issues (R33). -/

namespace Sys2Proof.Machine

/-- The address of the packet that holds an address (R29). -/
def packetOf (pc : DWord) : Nat := pc.toNat / 16 * 16

/-- A range lies in the launch's CODE handle (R31). -/
def inCode (e : HEntry) (va n : Nat) : Bool := decide (e.base ≤ va) && decide (va + n ≤ e.base + e.length) && decide (va + n ≤ vaLimit)

/-- The four words of a packet in a line's bytes. -/
def packetWords (x : Line) (at_ : Nat) : List Word :=
  (range 0 4).map (fun i => BitVec.ofNat 32 (leNat (slice x.bytes (at_ + 4 * i) 4)))

/-- The packet at a physical address, as the core's instruction cache holds its line, else as its home does (R211). -/
def State.packetAt (s : State) (core : Nat) (va : Nat) (pa : Nat) : Packet :=
  let x := s.iLine core (lineOf pa)
  { va := addrWord va, words := packetWords x (pa % 128), poison := x.poison.getD (pa % 128 / 32) false }

/-- What fetch finds (R31, R54, R306): a packet and its line, none when the class holds the packet already; a trap; a wait
on a fault; or a line that its home holds back (R353). -/
inductive Fetched where
  | ok (p : Packet) (line : Option Nat)
  | trap (cause : Nat)
  | wait (va level cause : Nat)
  | held
  deriving DecidableEq, Repr

/-- The packet of an address that every lane of a class still holds (R211). -/
def Group.packetHeld (g : Group) (lanes : List Nat) (va : DWord) : Option Packet :=
  ((g.lane (lanes.headD 0)).fetched.find? (fun p => p.va == va)).filter (fun p => lanes.all (fun l => (g.lane l).fetched.contains p))

/-- Fetch for a class of a group; `held` when it executes words its lanes already hold. -/
def State.fetch (s : State) (slot : Nat) (lanes : List Nat) (held : Bool) : Fetched :=
  let g := s.group slot
  let l := s.launch (s.team g.team).lid
  let lane := g.lane (lanes.headD 0)
  let pc := lane.pc.toNat
  let via := viaCore (coreOfSlot slot)
  if !inCode l.code pc 4 then .trap 0x03
  else if !bit l.code.perm 3 then .trap 0x04
  else match (if held then g.packetHeld lanes (addrWord (packetOf lane.pc)) else none) with
    | some p => if p.poison then .trap 0x0A else .ok p none
    | none => match s.reach (s.classAgent slot (lanes.headD 0)) via l.dom l.space (.kind .fetch) false [(pc, 4)] with
      | .fault va lv c => .wait va lv c
      | .failed _ c => .trap c
      | .held => .held
      | .ok =>
        let pa := s.paOf via l.dom l.space (packetOf lane.pc) (.kind .fetch) false
        if s.fillHeld (coreOfSlot slot) true [lineOf pa] then .held
        else
          let p := s.packetAt (coreOfSlot slot) (packetOf lane.pc) pa
          if p.poison then .trap 0x0A else .ok p (some (lineOf pa))

/-- A lane holds a packet, in place of what it held of its address (R211). -/
def Lane.holdPacket (x : Lane) (p : Packet) : Lane := { x with fetched := x.fetched.filter (fun q => q.va != p.va) ++ [p] }

/-- A lane fetches ahead (R28, R211): the packet of an address it may come to, if that translates and its home answers;
nothing of a failure is seen (R297). -/
def State.prefetch (s : State) (slot lane : Nat) (pc : DWord) : State :=
  let g := s.group slot
  let l := s.launch (s.team g.team).lid
  let via := viaCore (coreOfSlot slot)
  let va := packetOf pc
  if !inCode l.code va 16 || !bit l.code.perm 3 then s
  else match s.specAt via l.dom l.space va .fetch with
    | some (pa, _) =>
      if s.fillHeld (coreOfSlot slot) true [lineOf pa] then s
      else (s.keepLines (coreOfSlot slot) true [lineOf pa]).modGroup slot (fun g =>
        g.modLanes [lane] (fun _ x => x.holdPacket (s.packetAt (coreOfSlot slot) va pa)))
    | none => s

/-- The word at an address of a packet. -/
def Packet.wordAt (p : Packet) (pc : DWord) : Word := p.words.getD (pc.toNat % 16 / 4) 0

/-- The packet's literal (R29). -/
def Packet.literal (p : Packet) : Word := p.words.getD 3 0

/-- An instruction of pipe B, which ends its chain (R33, R46). -/
def pipeB : Instr → Bool
  | .b _ => true | .bz _ _ => true | .bnz _ _ => true | .bltz _ _ => true | .bgez _ _ => true | .bS _ => true
  | .bzS _ _ => true | .bnzS _ _ => true | .call _ => true | .callr _ => true | .jr _ => true | .ret => true
  | .exit => true | .yield _ _ _ => true | .bar _ => true | .barArr _ => true | .barWait _ => true | .trap _ => true
  | .bkpt => true | .xret => true
  | _ => false

/-- A word that reads its packet's literal (R32): it names lit as a source, or is an FM word with L = 1. -/
def readsLiteral (w : Word) (i : Instr) : Bool :=
  let a := w.extractLsb' 8 8 == 0x7F#8
  let b := w.extractLsb' 0 8 == 0x7F#8
  let d := w.extractLsb' 16 8 == 0x7F#8
  let l := w.getLsbD 7
  let op := (w.extractLsb' 24 7).toNat
  if op ≤ 0x1E ∨ (0x20 ≤ op ∧ op ≤ 0x29) ∨ (0x2B ≤ op ∧ op ≤ 0x33) ∨ (0x35 ≤ op ∧ op ≤ 0x3A) ∨ (0x3D ≤ op ∧ op ≤ 0x43) ∨
      op = 0x45 ∨ op = 0x46 then a || b
  else if op = 0x1F ∨ op = 0x2A ∨ op = 0x34 ∨ op = 0x3B ∨ op = 0x3C ∨ op = 0x44 ∨ op = 0x4A then a
  else if (0x4B ≤ op ∧ op ≤ 0x51) ∨ op = 0x57 ∨ op = 0x58 ∨ op = 0x5D ∨ op = 0x5E ∨ op = 0x5F then a || l
  else if (0x52 ≤ op ∧ op ≤ 0x56) ∨ op = 0x60 ∨ op = 0x61 ∨ (0x65 ≤ op ∧ op ≤ 0x67) then a || l || d
  else if (0x59 ≤ op ∧ op ≤ 0x5C) ∨ op = 0x62 then a
  else if op = 0x64 then match i with
    | .cacheCinv => false
    | .cacheFetchb => false
    | _ => a || l
  else if 0x71 ≤ op ∧ op ≤ 0x77 then d
  else match i with
    | .trap _ => a
    | .hquery _ _ => a
    | .ptest _ _ => a
    | .pclr _ _ => a
    | _ => false

/-- The class stays inside a chain after this word (R33). -/
def staysChained (c : Bool) (pc : DWord) (i : Instr) : Bool := c && decide (pc.toNat % 16 < 8) && !pipeB i

/-- The class that issues, latched: the word and its literal, the time it takes (none for the second word of a cycle), its
scheduling stamps, the packet its lanes now hold and the line the instruction cache keeps (R211, R230; log 5, 18). -/
def State.latch (s : State) (slot : Nat) (lanes : List Nat) (p : Packet) (line : Option Nat) (chain ends second : Bool) : State :=
  let core := coreOfSlot slot
  let g := s.group slot
  let pc := (g.lane (lanes.headD 0)).pc
  let w := p.wordAt pc
  let t := if second then s else s.tick 1
  let t := line.elim t (fun n => (t.healAll (t.unkept core true [n])).keepLines core true [n])
  { t.modGroup slot (fun g => { g.modLanes lanes (fun _ x => x.holdPacket p) with
      lastIssue := s.seq + 1, ready := t.cycleOf core, boost := false }) with
    seq := s.seq + 1
    waits := t.waits.filter (fun x => !(x.agent == s.classAgent slot (lanes.headD 0) && x.fate == .retry && x.page == pc.toNat / 65536))
    first := if second then none
      else some { core := core, part := partOfSlot slot, slot := slot, pipe := pipeOf (s.team g.team) w ends, word := w, chained := chain }
    ix := { slot := slot, lanes := lanes, pc := pc, word := w, lit := p.literal, chain := chain } }

/-- The context of a trap found before an instruction is known. -/
def State.faced (s : State) (slot : Nat) (lanes : List Nat) (word : Word) : State :=
  { s.tick 1 with ix := { slot := slot, lanes := lanes, pc := ((s.group slot).lane (lanes.headD 0)).pc, word := word, lit := 0, chain := false } }

/-- What an issue comes to (R306): a deferred trap, an instruction with its latched state, a trap at fetch or decode, a
wait of fetch, or nothing. -/
inductive Issued where
  | deferred (slot : Nat)
  | run (i : Instr) (s : State)
  | done (s : State)
  deriving DecidableEq, Repr

/-- The issue of one group (R306): the push of a trap entry that was stalled (R308); else a pending deferred trap, unless
the class is between the words of a chain; then fetch, decode and the literal's place (R31). `second` for the second word
of a core cycle. -/
def State.issueGroup (s : State) (slot : Nat) (held second : Bool) : Issued :=
  let g := s.group slot
  let lanes := s.issuingClass g
  let lane := g.lane (lanes.headD 0)
  let pc := lane.pc
  let l := s.launch (s.team g.team).lid
  let via := viaCore (coreOfSlot slot)
  match lane.enters with
  | some e => .done ((s.faced slot lanes 0).enterVector e)
  | none =>
    if s.deferredDue slot then .deferred slot
    else match s.fetch slot lanes held with
      | .trap c => .done (((s.faced slot lanes 0).clearWaits (s.classAgent slot (lanes.headD 0))).trapAt c 0 pc)
      | .wait va lv c =>
        .done ((s.tick 1).enterFault (s.classAgent slot (lanes.headD 0)) via l.dom l.space va .fetch false lv c)
      | .held => .done s
      | .ok p line =>
        let w := p.wordAt pc
        match decode w with
        | .error _ => .done ((s.faced slot lanes w).decodeTrap 0x01)
        | .ok (c, i) =>
          if readsLiteral w i && !inCode l.code (packetOf pc + 12) 4 then
            .done ((s.faced slot lanes w).trapAt 0x03 0 (addrWord (packetOf pc + 12)))
          else .run i ((s.latch slot lanes p line (staysChained c pc i) (pipeB i) second).touch via l.dom l.space pc.toNat (.kind .fetch) false)

/-- The word a group would issue next with its instruction, as far as fetch and decode find one now. -/
def State.peek (s : State) (slot : Nat) : Option (Word × Instr) :=
  let g := s.group slot
  let lanes := s.issuingClass g
  match s.fetch slot lanes false with
  | .ok p _ =>
    let w := p.wordAt (g.lane (lanes.headD 0)).pc
    match decode w with
    | .ok (_, i) => some (w, i)
    | .error _ => none
  | _ => none

/-- The next issue of a group is a trap entry: one that was stalled, or a deferred trap (R306, R308). -/
def State.trapsNext (s : State) (slot : Nat) : Bool :=
  let g := s.group slot
  let lane := g.lane ((s.issuingClass g).headD 0)
  lane.enters.isSome || s.deferredDue slot

/-- The group is ready, as far as its own word and what it waits for say (R223, R230). -/
def State.ready? (s : State) (slot : Nat) : Bool :=
  s.mayIssue slot && (s.trapsNext slot || (match s.peek slot with
    | some (w, i) => !s.fxStalled slot i && !(s.group slot).inFlight w
    | none => s.fetch slot (s.issuingClass (s.group slot)) false != .held))

end Sys2Proof.Machine
end

