-- ==== Sys2Proof/Machine/Spawn.lean ====
section
/-! DEFINITION. SPAWN (R238, R241, R267 to R269). -/

namespace Sys2Proof.Machine

/-- The fields of SPAWN's parameter words that raise FIELD (R267, R268). -/
def spawnFields (ps : List Reg) : List (Nat × Bool) :=
  let w := paramNat ps
  [(0, !aligned (w 0) 16), (1, bits (w 1) 25 7 != 0), (2, !aligned (w 2) 4), (3, bits (w 3) 25 7 != 0), (4, w 4 != 0), (5, w 5 != 0),
   (6, w 6 != 0)]

/-- The task a SPAWN makes (R238, R242, R269). A ring task may start on the other die, so its release is cumulative as a
fence's is (R174; log 66). -/
def State.newTask (s : State) (ps : List Reg) (record : Bool) (k : Nat) (ring : Bool) : QTask :=
  let g := s.cur
  let t := s.team g.team
  { lid := t.lid, khdr := paramLong ps 0, arga := paramLong ps 2, x := t.x, y := t.y, z := t.z,
    join := { spawner := s.ix.slot, ctr := k, record := record, ord := g.ord, ring := ring }, seq := s.seq,
    need := if ring then max g.horDev s.heard.all else g.horDev }

/-- SPAWN's end with a status (R268): an accepted task counts on its counter. -/
def State.spawned (s : State) (a : Fin 16) (record : Bool) (k status : Nat) : State :=
  ((s.modCur (fun g => if status ≤ 1 then { g.kUp k with ord := g.ord + 1, q14res := g.q14res + (if record then 4 else 0) } else g)).modCur
    (fun g => g.sset (8 * a.val + 7) (Reg.of (BitVec.ofNat 32 status)))).advance

/-- The 64 bytes of an overflow-ring entry (R241). -/
def ringEntry (q : QTask) (slot : Nat) : List Byte :=
  leBytes 8 q.khdr ++ leBytes 8 q.arga ++ leBytes 2 q.x ++ leBytes 2 q.y ++ leBytes 2 q.z ++
    leBytes 2 (dieOfSlot slot * 32768 + coreOfSlot slot % Config.coresPerDie * 256 + slot % Config.slotsPerCore) ++
    leBytes 1 (q.join.ctr + 8 * b2n q.join.record) ++ List.replicate 39 0

/-- The overflow ring of a launch is full (R241). -/
def Launch.ringFull (l : Launch) : Bool := decide (l.ovfn ≤ l.ringTail - l.ringHead)

/-- The address of ring entry n (R247). -/
def Launch.ringVa (l : Launch) (n : Nat) : Nat := l.area + 64 + 64 * (n % l.ovfn)

/-- The ring entry and the tail, a running count that is not reduced modulo OVFN (DESIGN CHOICE, log 79), are written, as accesses
the T940 makes for the class (R241, R247, R322). -/
def State.spawnRing (s : State) (a : Fin 16) (ps : List Reg) (record : Bool) (k : Nat) : State :=
  let lid := (s.team s.cur.team).lid
  let l := s.launch lid
  let die := dieOfSlot s.ix.slot
  let q := s.newTask ps record k true
  let ag : Agent := s.me
  match s.tWrite ag die l.dom l.space (l.ringVa l.ringTail) (ringEntry q s.ix.slot) with
  | .wait t => t
  | .failed => s.tableLost
  | .ok t =>
    match t.tWrite ag die l.dom l.space (l.area + 8) (leBytes 8 (l.ringTail + 1)) with
    | .wait _ => match s.tWrite ag die l.dom l.space (l.area + 8) (leBytes 8 (l.ringTail + 1)) with
      | .wait u => u
      | _ => s
    | .failed => s.tableLost
    | .ok u =>
      ((u.clearWaits ag).modLaunch lid (fun l => { l with ringTail := l.ringTail + 1, ringInfo := mset l.ringInfo l.ringTail q })).spawned
        a record k 1

/-- SPAWN (R267 to R269): the checks of R140, the waits of R141 and R142, then the task queue, the ring, a stall or
status 2. A poisoned word's POISON has the word in sr.xval as R140 gives it, where R314 gives 0 (DEDUCED, log 78). -/
def execSpawn (record stall : Bool) (k : Fin 8) (a : Fin 16) (s : State) : Host.Outcome State Fault Refusal :=
  let ps := s.params a
  let core := coreOfSlot s.ix.slot
  let l := s.launch (s.team s.cur.team).lid
  s.runs (if s.drained s.cur then s
    else match firstPoison (ps.take 7) with
      | some w => s.trapAt 0x0A (engineXval w 0) 0
      | none => match (spawnFields ps).find? (fun f => f.2) with
        | some f => s.trapAt 0x0C (engineXval f.1 1) 0
        | none =>
          if s.cur.kget k.val == 255 || (record && decide (s.cur.q14Free < 4)) then s
          else if (s.core core).tasks.length < 64 then
            (s.modCore core (fun c => { c with tasks := c.tasks ++ [s.newTask ps record k.val false] })).spawned a record k.val 0
          else if !l.ringFull then s.spawnRing a ps record k.val
          else if stall then s
          else s.spawned a record k.val 2)

end Sys2Proof.Machine
end

