-- ==== Sys2Proof/Machine/Target.lean ====
section
/-! DEFINITION. Requests of other modules at this one (R170, R181, R294 to R296, R327): duplicates, admission, the
window's checks, translation and the single perform. -/

namespace Sys2Proof.Machine

/-- A window entry's fields (R294). -/
structure Window where
  base   : Nat
  length : Nat
  space  : Nat
  perm   : Nat
  exact  : Bool
  esize  : Nat
  deriving DecidableEq, Repr

/-- The window entry of 32 bytes, when it is VALID (R294). -/
def windowOf (bs : List Byte) : Option Window :=
  let f (at_ n : Nat) : Nat := leNat (slice bs at_ n)
  let kind := f 19 1
  let esize := f 20 4
  if bit (f 0 8) 63 && bits (f 0 8) 57 6 == 0 && f 16 2 < 4096 && f 18 1 < 8 && f 24 8 == 0 &&
      ((kind == 0 && esize == 0) || (kind == 1 && (esize == 40 || esize == 272))) then
    some { base := bits (f 0 8) 0 57, length := f 8 8, space := f 16 2, perm := f 18 1, exact := kind == 1, esize := esize }
  else none

/-- The number under which a request waits at this module: its source, identifier and epoch (R327). -/
def peerKey (r : PeerReq) : Nat := 65536 * (65536 * r.srcModule + r.id) + r.epoch

/-- The domain a request names (R294). -/
def peerDom (r : PeerReq) : Nat := r.window / 256

/-- The byte of its domain's admission table that admits a request, and the entry of its window (R294, R295). -/
def State.admitAt (s : State) (r : PeerReq) : Nat :=
  (s.dom (peerDom r)).admtab + 32 * (8 * r.srcModule + r.srcDomain) + r.window % 256 / 8
def State.entryOf (s : State) (r : PeerReq) : Nat := (s.dom (peerDom r)).wintab + 32 * (r.window % 256)

/-- The source is admitted to the window (R295). -/
def State.admits (s : State) (r : PeerReq) : Bool :=
  let at_ := s.admitAt r
  decide ((peerDom r) < 8) && decide (r.srcModule < 1024) && decide (r.srcDomain < 8) && (s.dom (peerDom r)).active &&
    !s.homePoison at_ && bit (s.homeByte at_).toNat (r.window % 8)

/-- The window a request names, when it is VALID (R294, R295). -/
def State.windowAt (s : State) (r : PeerReq) : Option Window :=
  let at_ := s.entryOf r
  if s.homePoison at_ then none else windowOf (s.homeBytes at_ 32)

/-- The lines of the peer tables that a request's checks read. -/
def State.peerTables (s : State) (r : PeerReq) : List Nat := nub [lineOf (s.admitAt r), lineOf (s.entryOf r)]

/-- The bytes a request touches at its window (R201, R295). -/
def peerSize (op : PeerOp) (w : Window) : Nat :=
  match op with
  | .atomic .addX _ => w.esize
  | o => opSize o

/-- The permissions a request needs (R295). -/
def peerPerm : PeerOp → Nat
  | .read _ => 1
  | .write _ _ => 2
  | .atomic _ _ => 7

/-- The kind of access at the leaf (R283). -/
def peerKind : PeerOp → AccessKind
  | .read _ => .read
  | .write _ _ => .write
  | .atomic _ _ => .atomic

/-- The reason for which the window itself refuses a request, 0 for none (R295 steps 2 to 4). The contribution of a
remote ADD.X is an FP64 value (R204), which an FP32 image refuses (R201). -/
def windowReason (w : Window) (r : PeerReq) : Nat :=
  let n := peerSize r.op w
  if w.length < r.offset + n || vaLimit < w.base + r.offset + n then 2
  else if w.perm &&& peerPerm r.op != peerPerm r.op then 3
  else match r.op with
    | .atomic .addX _ => if w.exact && w.esize == 272 then 0 else 0x100
    | _ => 0

/-- The records of a source module under an epoch (R327). -/
def State.recordsOf (s : State) (m epoch : Nat) : List PeerRecord :=
  match mget? s.sources m with
  | some p => if p.epoch = epoch then p.records else []
  | none => []

/-- The arrival of an identifier: an epoch other than the one held clears the source's records, and the record half the
identifiers behind goes (R327). -/
def State.arrived (s : State) (r : PeerReq) : State :=
  let rs := (s.recordsOf r.srcModule r.epoch).filter (fun x => (x.id + 32768) % 65536 != r.id)
  { s with sources := mset s.sources r.srcModule { epoch := r.epoch, records := rs } }

/-- An answer leaves for the source module. -/
def State.reply (s : State) (r : PeerReq) (a : PeerRecord) : State :=
  let s := ({ s with peerWait := mdel s.peerWait (peerKey r), peerLocks := mdel s.peerLocks (peerKey r) } : State).clearWaits (.peer (peerKey r))
  { s with outbox := s.outbox ++ [.answer r.srcModule r.id a.status a.value a.poison a.remaining a.prot] }

/-- A refusal: the request is not performed and nothing is kept of it (R205, R327). -/
def State.refusePeer (s : State) (r : PeerReq) (reason : Nat) : State :=
  s.reply r { id := r.id, status := reason, value := 0, poison := false, remaining := 0, prot := false }

/-- A performed request's answer, kept for duplicates unless its source has begun a new epoch meanwhile (R327). -/
def State.replyKept (s : State) (r : PeerReq) (a : PeerRecord) : State :=
  let s := s.reply r a
  { s with sources := mupd s.sources r.srcModule (fun p => if p.epoch = r.epoch then { p with records := p.records ++ [a] } else p) }

/-- The pieces of physical memory of a request that translates. -/
def State.peerPieces (s : State) (r : PeerReq) (w : Window) : List (Nat × Nat) :=
  (piecesOf (w.base + r.offset) (peerSize r.op w)).map (fun p => (s.paOf 0 (peerDom r) w.space p.1 (.kind (peerKind r.op)) false, p.2))

/-- What a request leaves in memory: the bytes of its pieces after it, given those before. -/
def peerBytes (op : PeerOp) (esize : Nat) (old : List Byte) : List Byte :=
  match op with
  | .read _ => old
  | .write n d => leBytes n d.toNat
  | .atomic .addX d => leBytes esize (imageAdd esize (leNat old) (Fmt.f64.decode d.toNat))
  | .atomic a d =>
    leBytes 4 (newValue a 4 (leNat old) (d.toNat % 2 ^ 32) (d.toNat / 2 ^ 32))

/-- The value a request returns (R204). -/
def peerValue (op : PeerOp) (old : List Byte) : DWord :=
  match op with
  | .read _ => BitVec.ofNat 64 (leNat old)
  | .write _ _ => 0
  | .atomic .addX _ => 0
  | .atomic _ _ => BitVec.ofNat 64 (leNat old)

/-- What a request writes takes its place (R161, R201): bytes, then tags, those of sectors a clean write covers whole cleared
(R315) and those of poisoned data set (R312), then the monitors are tested (R213). -/
def State.layPeer (s : State) (r : PeerReq) (at_ : List (Nat × Nat)) (bs : List Byte) : State :=
  let covers := match r.op with
    | .write _ _ => wholeSectors at_
    | _ => []
  let t := s.layPieces at_ bs
  let t := (sectorsOf at_).foldl (fun acc k => acc.settlePoison k (covers.contains k)) t
  (if r.poison then at_.foldl (fun acc q => acc.poisonRange q.1 q.2) t else t).notifyPieces at_

/-- The answer of a performed write or atomic (R170, R204, R327): the value before it with its tag, the ticks that remain until
every party sees it, whether its page is protected. -/
def State.answerWrite (s : State) (r : PeerReq) (at_ : List (Nat × Nat)) (old : List Byte) (p prot : Bool) : State :=
  let left := (linesOf at_).foldl (fun n l => max n ((s.wvt l 0).2 - s.dieTime (homeDie (128 * l)))) 0
  s.replyKept r { id := r.id, status := 0, value := peerValue r.op old, poison := p, remaining := left, prot := prot }

/-- An atomic that the host's link peer performs itself (R202, R355). -/
def atHost : PeerOp → Bool
  | .atomic aop _ => hostPerforms aop && Config.hostAtomics
  | _ => false

/-- A peer's atomic on host memory, with the bytes read there (R202): the host performs it, or the bridge has made its locked
read and makes its write later. -/
def State.hostAtomic (s : State) (r : PeerReq) (at_ : List (Nat × Nat)) (esize : Nat) (old : List Byte) (p prot : Bool) : State :=
  match atHost r.op, r.op with
  | true, .atomic aop d =>
    let t := (cutTo at_ (peerBytes r.op esize old)).foldl (fun acc q => (acc.putHost q.1 q.2).notifyPhys q.1 q.2.length) s
    let low (x : Nat) : DWord := BitVec.ofNat 64 (x % 2 ^ 32)
    ({ t with outbox := t.outbox ++ [.atomicOp aop ((at_.headD (0, 0)).1) 4 (low d.toNat) (low (d.toNat / 2 ^ 32))] } : State).answerWrite r at_ old p prot
  | _, _ =>
    { s with
      peerWait := mset s.peerWait (peerKey r) r
      peerLocks := mset s.peerLocks (peerKey r) { at_ := at_, esize := esize, bytes := old, poison := p, prot := prot } }

/-- The write of a peer's split atomic (R202): it goes to the host's point of coherence. -/
def State.endLock (s : State) (r : PeerReq) (k : PeerLock) : State :=
  let t : State := { s with peerLocks := mdel s.peerLocks (peerKey r) }
  ((t.layPeer r k.at_ (peerBytes r.op k.esize k.bytes)).hostBack (linesOf k.at_)).answerWrite r k.at_ k.bytes k.poison k.prot

/-- A request performed at its home slices (R161, R170, R181, R198, R201, R202, R315). -/
def State.performPeer (s : State) (r : PeerReq) (w : Window) : State :=
  let at_ := s.peerPieces r w
  let lines := linesOf at_
  let prot := bit (s.leafOf 0 (peerDom r) w.space (w.base + r.offset) (.kind (peerKind r.op)) false) 6
  let s := lines.foldl (fun acc n => acc.wake (acc.locate (128 * n))) (s.healAll lines)
  let s := s.readTier (match r.op with
    | .write _ _ => []
    | _ => lines)
  let old := s.pieceBytes at_
  let p := at_.any (fun q => s.homePoisonIn q.1 q.2)
  match r.op with
  | .read _ => s.replyKept r { id := r.id, status := 0, value := peerValue r.op old, poison := p, remaining := 0, prot := false }
  | .write _ _ => (s.layPeer r at_ (peerBytes r.op w.esize old)).answerWrite r at_ old p prot
  | .atomic _ _ =>
    if at_.any (fun q => isHost q.1) then s.hostAtomic r at_ w.esize old p prot
    else (s.layPeer r at_ (peerBytes r.op w.esize old)).answerWrite r at_ old p prot

/-- A request waits here (R202, R317, R353). -/
def State.keepWaiting (s : State) (r : PeerReq) : State := { s with peerWait := mset s.peerWait (peerKey r) r }

/-- An atomic whose memory cannot be locked (R202). -/
def State.unlocked (s : State) (op : PeerOp) (at_ : List (Nat × Nat)) : Bool :=
  match op with
  | .atomic _ _ => at_.any (fun q => s.unlockable q.1)
  | _ => false

/-- A request checked and performed, refused, or left waiting (R202, R295, R353). -/
def State.servePeer (s : State) (r : PeerReq) : State :=
  let s := s.healAll (s.peerTables r)
  if (s.peerTables r).any s.lineHeld then s.keepWaiting r
  else if !s.admits r then s.refusePeer r 1
  else match s.windowAt r with
    | none => s.refusePeer r 1
    | some w =>
      let reason := windowReason w r
      if reason != 0 then s.refusePeer r reason
      else
        let k := peerKind r.op
        let ps := piecesOf (w.base + r.offset) (peerSize r.op w)
        match s.reach (.peer (peerKey r)) 0 (peerDom r) w.space (.kind k) false ps with
        | .failed _ _ => s.refusePeer r 4
        | .held => s.keepWaiting r
        | .fault va l c => (s.keepWaiting r).enterFault (.peer (peerKey r)) 0 (peerDom r) w.space va k false l c
        | .ok =>
          if s.unlocked r.op (s.peerPieces r w) then s.refusePeer r 0x100
          else if (linesOf (s.peerPieces r w)).any s.lineHeld then s.keepWaiting r
          else (ps.foldl (fun acc q => acc.touch 0 (peerDom r) w.space q.1 (.kind k) false) s).performPeer r w

/-- A request that waits here is tried again, unless it still waits on a fault (R317, R322); a split atomic makes its write
(R202). -/
def State.peerAgain (s : State) (r : PeerReq) : State :=
  match mget? s.peerLocks (peerKey r) with
  | some k => s.endLock r k
  | none => if s.agentWaits (.peer (peerKey r)) then s else s.servePeer r

/-- PEER_REQUEST (R170, R181, R295, R327): a duplicate gets the recorded answer, one whose original is still waiting
waits with it. -/
def execPeerRequest (r : PeerReq) (s : State) : Ev :=
  let s0 := s.endIdle.arrived r
  s.runs (match (s0.recordsOf r.srcModule r.epoch).find? (fun x => x.id == r.id) with
    | some a => { s0 with outbox := s0.outbox ++ [.answer r.srcModule r.id a.status a.value a.poison a.remaining a.prot] }
    | none => if (mget? s0.peerWait (peerKey r)).isSome then s0.peerAgain r else s0.servePeer r)

end Sys2Proof.Machine
end

