-- ==== Sys2Proof/Machine/Place.lean ====
section
/-! DEFINITION. Placing teams and tasks (R15, R25, R60, R61, R239, R240, R248), and joining a task to its spawner
(R242). -/

namespace Sys2Proof.Machine

/-! ### The kernel header -/

/-- A binding word's KIND and offset (R60). -/
def chanOf (w : Nat) : Nat × Nat := (bits w 30 2, bits w 0 21)

/-- The bytes of a binding's ring (R60). -/
def ringSpan (width : Nat) (c : Nat × Nat) : Option (Nat × Nat) :=
  if c.1 = 0 then none else some (c.2, if c.1 = 1 then 64 * width else 64)

/-- No two ranges of a list share a byte. -/
def disjointSpans : List (Nat × Nat) → Bool
  | [] => true
  | a :: t => t.all (fun b => !overlap a b) && disjointSpans t

/-- The fields of a kernel header, when it meets R61 but for its entry address. -/
def parseHeader (bs : List Byte) : Option KHeader :=
  let f (at_ n : Nat) : Nat := leNat (slice bs at_ n)
  let words := (range 0 14).map (fun i => f (32 + 4 * i) 4)
  let h : KHeader :=
    { width := 32 * 2 ^ f 6 1, nregs := 8 * f 7 1, ngrp := f 8 1, tiles := f 9 1, narg := f 10 1, locB := f 12 4, stackB := f 16 4,
      entry := (BitVec.ofNat 32 (f 20 4)).toInt, crq := f 24 4, chans := words.map chanOf }
  let rings := h.chans.filterMap (ringSpan h.width) ++ (range 0 h.ngrp).map (fun g => (h.crq + 64 * g, 64))
  if f 0 4 == 0x564B4844 && f 4 2 == 1 && decide (f 6 1 ≤ 3) && decide (1 ≤ f 7 1) && decide (f 7 1 ≤ 14) &&
      decide (1 ≤ h.ngrp) && decide (h.ngrp ≤ 16) && decide (h.tiles ≤ 4) && decide (h.narg ≤ 64) && f 11 1 == 0 &&
      aligned h.locB 64 && decide (h.locB ≤ Config.localBytes) && aligned h.stackB 8 && aligned h.crq 64 && f 28 4 == 0 &&
      words.all (fun w => bits w 30 2 != 3 && bits w 21 9 == 0 && aligned (bits w 0 21) 64) && f 88 40 == 0 &&
      rings.all (fun r => decide (r.1 + r.2 ≤ h.locB)) && disjointSpans rings then some h
  else none

/-- The entry address of a header (R60). -/
def KHeader.entryVa (h : KHeader) (va : Nat) : DWord := addrOf ((sidx va : Int) + h.entry)

/-- The header of 128 bytes at an address passes R61 under a CODE entry. -/
def headerAt (bs : List Byte) (va : Nat) (code : HEntry) : Option KHeader :=
  (parseHeader bs).filter (fun h => inCode code (h.entryVa va).toNat 4)

/-! ### Room on a core -/

/-- The teams resident on a core. -/
def State.coreTeams (s : State) (core : Nat) : List Team := (s.teams.filter (fun e => e.2.core == core)).map (fun e => e.2)

/-- The groups resident on a core: slot and group. -/
def State.coreGroups (s : State) (core : Nat) : List (Nat × Group) := s.groups.filter (fun e => coreOfSlot e.1 == core)

/-- The first multiple of 256 at or above a number. -/
def up256 (x : Nat) : Nat := (x + 255) / 256 * 256

/-- The lowest beginning at which an allocation fits (R15). -/
def State.localBase (s : State) (core len : Nat) : Option Nat :=
  let used := (s.coreTeams core).map (fun t => (t.base, t.len))
  let starts := 0 :: used.map (fun u => up256 (u.1 + u.2))
  let ok := starts.filter (fun b => decide (b + len ≤ Config.localBytes) && used.all (fun u => len == 0 || u.2 == 0 || !overlap (b, len) u))
  bestBy (fun a b => decide (b < a)) ok

/-- Accumulator tiles for a team, lowest numbers first (R15). -/
def State.freeTiles (s : State) (core n : Nat) : Option (List Nat) :=
  let free := (range 0 4).filter (fun t => (s.coreTeams core).all (fun x => !x.tiles.contains t))
  if n ≤ free.length then some (free.take n) else none

/-- A slot for one group of `need` register bytes on a core: the first partition with room, its lowest free slot (R15;
log 17). `taken` are slots chosen for the same team, of the same size. -/
def State.slotFor (s : State) (core need : Nat) (taken : List Nat) : Option Nat :=
  (range 0 6).findSome? (fun p =>
    let here := (s.coreGroups core).filter (fun e => partOfSlot e.1 == p)
    let mine := taken.filter (fun x => partOfSlot x == p)
    let bytes := here.foldl (fun n e => n + 4 * e.2.width * e.2.nregs) (mine.length * need)
    if Config.slotsPerPartition ≤ here.length + mine.length ∨ Config.vregBytes < bytes + need then none
    else (range (Config.slotsPerCore * core + Config.slotsPerPartition * p) Config.slotsPerPartition).find? (fun x =>
      !(here.any (fun e => e.1 == x)) && !mine.contains x))

/-- Slots for every group of a team. -/
def State.slotsFor (s : State) (core need : Nat) : Nat → List Nat → Option (List Nat)
  | 0, taken => some taken
  | n + 1, taken => match s.slotFor core need taken with
    | none => none
    | some x => s.slotsFor core need n (taken ++ [x])

/-- Where a team would stand on a core. -/
structure Fit where
  core  : Nat
  base  : Nat
  tiles : List Nat
  slots : List Nat
  deriving DecidableEq, Repr

/-- A team fits a core (R15). -/
def State.fits (s : State) (core : Nat) (h : KHeader) : Option Fit :=
  match s.localBase core h.locB, s.freeTiles core h.tiles, s.slotsFor core (4 * h.width * h.nregs) h.ngrp [] with
  | some b, some t, some g => some { core := core, base := b, tiles := t, slots := g }
  | _, _, _ => none

/-- Free local memory of a core. -/
def State.freeLocal (s : State) (core : Nat) : Nat :=
  Config.localBytes - (s.coreTeams core).foldl (fun n t => n + t.len) 0

/-- A core stands before another for placement (R248). -/
def State.coreBefore (s : State) (a b : Nat) : Bool :=
  let na := (s.coreGroups a).length
  let nb := (s.coreGroups b).length
  decide (na < nb) || (na == nb && (decide (s.freeLocal b < s.freeLocal a) || (s.freeLocal a == s.freeLocal b && decide (a < b))))

/-- A core takes work from a distributor: it is the domain's, not gated nor to be, and no task waits in its queue (R239,
R276, R360). -/
def State.takesWork (s : State) (dom core : Nat) : Bool :=
  let c := s.core core
  (s.dom dom).cores.getLsbD core && !c.gateWant && !c.gated && c.tasks.isEmpty

/-- The best eligible core of a die for a team (R248). -/
def State.bestCore (s : State) (dom die : Nat) (h : KHeader) : Option Fit :=
  let fs := (range (Config.coresPerDie * die) Config.coresPerDie).filterMap (fun c =>
    if s.takesWork dom c then s.fits c h else none)
  bestBy (fun a b => s.coreBefore b.core a.core) fs

/-! ### Link stacks of saved teams -/

/-- The bytes of a range that a T940 access may read, each with the tag of its sector. -/
def State.tTagged (s : State) (die dom space va n : Nat) : List (Byte × Bool) :=
  (piecesOf va n).flatMap (fun p =>
    let pa := s.paOf die dom space p.1 (.kind .read) true
    (range pa p.2).map (fun a => (s.homeByte a, s.homePoison a)))

/-- Reading the link stacks of the lanes of a slot: their bytes with their tags, a wait, or a failure. -/
inductive Stacks where
  | ok (s : State) (bs : List (List (Byte × Bool)))
  | wait (s : State)
  | failed
  deriving DecidableEq, Repr

/-- The regions of lanes of a slot as memory holds them (R247, R254). -/
def State.readStacks (s : State) (agent : Agent) (die : Nat) (l : Launch) (slot : Nat) : List Nat → Stacks
  | [] => .ok s []
  | lane :: t =>
    let va := l.stack.base + regionOf slot lane l.hdr.stackB
    match s.tRead agent die l.dom l.space va l.hdr.stackB with
    | .wait u => .wait u
    | .failed => .failed
    | .ok u _ _ => match u.readStacks agent die l slot t with
      | .ok v bs => .ok v (s.tTagged die l.dom l.space va l.hdr.stackB :: bs)
      | x => x

/-- A saved group of a launch that left a slot keeps these link stacks. -/
def State.keepStack (s : State) (lid slot : Nat) (bs : List (List (Byte × Bool))) : State :=
  { s with saved := s.saved.map (fun t => if t.lid = lid then { t with groups := t.groups.map (fun g =>
      if g.slot = slot ∧ g.stack.isNone then { g with stack := some bs } else g) } else t) }

/-- A slot whose region still holds link stacks of a saved team of the launch. -/
def State.leftBehind (s : State) (lid slot : Nat) : Bool :=
  s.saved.any (fun t => t.lid == lid && t.groups.any (fun g => g.slot == slot && g.stack.isNone))

/-- Before groups take slots, the link stacks that saved teams of the launch left in their regions are read (R15, R254):
the restored lanes get what they held. -/
def State.stash (s : State) (agent : Agent) (die lid : Nat) : List Nat → TWrite
  | [] => .ok s
  | slot :: t =>
    let l := s.launch lid
    if !s.leftBehind lid slot || l.hdr.stackB == 0 then s.stash agent die lid t
    else match s.readStacks agent die l slot (range 0 l.hdr.width) with
      | .wait u => .wait u
      | .failed => .failed
      | .ok u bs => (u.keepStack lid slot bs).stash agent die lid t

/-! ### Starting -/

/-- The words of an argument block with their tags (R25, R82, R245). -/
def State.argWords (s : State) (die dom space va n : Nat) : List Reg :=
  (range 0 n).map (fun i =>
    { bits := BitVec.ofNat 32 (leNat (s.tBytes die dom space (va + 4 * i) 4)), poison := s.tPoison die dom space (va + 4 * i) 4 })

/-- What reading an argument block comes to. -/
inductive Args where
  | ok (s : State) (ws : List Reg)
  | wait (s : State)
  | failed
  deriving DecidableEq, Repr

/-- The argument block of a team or task (R25, R322). -/
def State.readArgs (s : State) (agent : Agent) (die : Nat) (l : Launch) (va n : Nat) : Args :=
  if n = 0 then .ok s []
  else match s.tRead agent die l.dom l.space va (4 * n) with
    | .ok t _ _ => .ok t (s.argWords die l.dom l.space va n)
    | .wait t => .wait t
    | .failed => .failed

/-- A group's completion queue at its start: its ring is the group's part of the CRQ area (R20, R60). -/
def q14Of (h : KHeader) (index : Nat) : Chan := { Chan.blank with ofs := h.crq + 64 * index }

/-- A group at its start (R25). -/
def Group.start (team index : Nat) (h : KHeader) (entry : DWord) (args : List Reg) (resident ready : Nat) : Group :=
  { Group.blank.sput 0 args with
    team := team, index := index, width := h.width, nregs := h.nregs, lanes := List.replicate h.width (Lane.start entry),
    q14 := q14Of h index, resident := resident, ready := ready }

/-- A team's channels at its start: bound and empty (R25, R60). -/
def startChans (h : KHeader) : List (Nat × Chan) :=
  (h.chans.zipIdx.filter (fun c => c.1.1 != 0)).map (fun c =>
    (c.2, { vector := c.1.1 == 1, words := if c.1.1 = 1 then h.width else 1, ofs := c.1.2, head := 0, tags := [] }))

/-- A team as it is placed. -/
def Team.placed (lid x y z t : Nat) (h : KHeader) (hdrVa : Nat) (task : Option TaskJoin) (f : Fit) : Team :=
  { lid := lid, x := x, y := y, z := z, t := t, core := f.core, base := f.base, len := h.locB, tiles := f.tiles, hdr := h,
    hdrVa := hdrVa, task := task, gens := [], chans := startChans h, slots := f.slots, done := [], failed := false }

/-- A team and its groups become resident (R15, R25). -/
def State.install (s : State) (t : Team) (groups : List Group) : State :=
  let n := s.seq
  { s with
    seq := n + 1
    teams := mset s.teams n t
    groups := (t.slots.zip groups).foldl (fun m e => mset m e.1 { e.2 with team := n }) s.groups }

/-- A team or task starts (R25). -/
def State.startTeam (s : State) (t : Team) (args : List Reg) : State :=
  s.install t ((range 0 t.hdr.ngrp).map (fun i =>
    Group.start 0 i t.hdr (t.hdr.entryVa t.hdrVa) args (s.seq + i) (s.cycleOf t.core)))

/-! ### Tasks -/

/-- The record of a task's end (R242). -/
def TaskJoin.words (j : TaskJoin) (core status : Nat) : List Word :=
  [recordWord 0x7E status 0#5 j.ctr j.ord, BitVec.ofNat 32 (dieOfCore core * 256 + core % Config.coresPerDie),
    BitVec.ofNat 32 (b2n j.ring), 0]

/-- A task joins its spawner: the record and the counter, in one step (R242). -/
def State.joinTask (s : State) (j : TaskJoin) (core status : Nat) : State :=
  (if j.record then (s.pushRecord j.spawner (j.words core status)) else s).modGroup j.spawner (fun g =>
    (if j.record then { g with q14res := g.q14res - 4 } else g).kDown j.ctr)

/-- The release before a task's start has completed (R239, R269). -/
def State.taskReleased (s : State) (q : QTask) : Bool :=
  s.writesDone q.join.spawner q.seq && decide (q.need < s.dieTime (dieOfSlot q.join.spawner))

/-- What an attempt to start a task comes to: no room, a wait on a fault, or over, with the task started or refused. -/
inductive TaskTry where
  | no
  | wait (s : State)
  | over (s : State)
  deriving DecidableEq, Repr

/-- Start a task read by an agent of a die, on a place that `room` finds for its header (R240, R242, R268). `core` is
named in the record of a refused task. -/
def State.tryTask (s : State) (agent : Agent) (die core : Nat) (q : QTask) (room : KHeader → Option Fit) : TaskTry :=
  let l := s.launch q.lid
  let refuse : TaskTry := .over ((s.clearWaits agent).joinTask q.join core 0x0A)
  match s.tRead agent die l.dom l.space q.khdr 128 with
  | .wait t => .wait t
  | .failed => refuse
  | .ok s bs p =>
    match (if p then none else headerAt bs q.khdr l.code) with
    | none => refuse
    | some h =>
      if h.ngrp != 1 || decide (l.hdr.stackB < h.stackB) then refuse
      else match s.readArgs agent die l q.arga h.narg with
        | .wait t => .wait t
        | .failed => refuse
        | .ok s args => match room h with
          | none => .no
          | some f => match s.stash agent die q.lid f.slots with
            | .wait t => .wait t
            | .failed => .over (s.killLaunch q.lid (q.x + l.gx * (q.y + l.gy * q.z)))
            | .ok s => .over ((s.clearWaits agent).startTeam
                (Team.placed q.lid q.x q.y q.z (q.x + l.gx * (q.y + l.gy * q.z)) h q.khdr (some q.join) f) args)

/-- TASK_START (R239, R268, R269): the head task of a core's queue. -/
def execTaskStart (core : Nat) (s : State) : Ev :=
  s.runs (match (s.core core).tasks with
    | [] => s
    | q :: rest =>
      if !s.taskReleased q || (s.core core).gated || s.agentWaits (.taskStart core) then s
      else match s.tryTask (.taskStart core) (dieOfCore core) core q (s.fits core) with
        | .no => s
        | .wait t => t
        | .over t => t.modCore core (fun c => { c with tasks := c.tasks.drop (c.tasks.length - rest.length) }))

/-! ### The end of groups, teams and launches -/

/-- A group may end (R243, R246): its lanes have exited, its counters read 0, nothing it sent is outstanding, and its
writes are visible to every party that its launch's end releases them to. -/
def State.mayEnd (s : State) (slot : Nat) (g : Group) : Bool :=
  let now := s.dieTime (dieOfSlot slot)
  g.lanes.all (fun x => x.exited) && g.kZero && g.loads.isEmpty && s.writesDone slot s.seq && !s.remoteOpen slot &&
    decide (g.horDie < now) && decide (g.horDev < now) && decide (g.horPod < now)

/-- The group's dirty host lines go to the host (R180, R246). -/
def State.hostBackAll (s : State) (slot : Nat) : State := s.hostBack (nub ((s.group slot).written.map (fun w => w.line)))

/-- A team whose groups have all ended is over (R243); a task joins its spawner (R242). -/
def State.endTeam (s : State) (tid : Nat) : State :=
  let t := s.team tid
  if t.done.length < t.hdr.ngrp then s
  else
    let s : State := { s with teams := mdel s.teams tid }
    match t.task with
    | none => s
    | some j => s.joinTask j t.core (if t.failed then 9 else 0)

/-- A core marked for gating gates once nothing resident or queued is left on it (R360). -/
def State.gateCheck (s : State) (core : Nat) : State :=
  let c := s.core core
  if c.gateWant && !c.gated && c.tasks.isEmpty && (s.coreGroups core).isEmpty then s.modCore core (fun c => { c with gated := true }) else s

/-- GROUP_END (R146, R180, R235, R243, R309, R360): a group that ends with a deferred failure pending fails its team. -/
def execGroupEnd (g : Nat) (s : State) : Ev :=
  s.runs (match mget? s.groups g with
    | none => s
    | some x =>
      if !s.mayEnd g x then s
      else
        let t := s.team x.team
        let bad := !x.deferred.isEmpty && !x.trapped
        let s := s.hostBackAll g
        let s := if bad then (s.modTeam x.team (fun t => { t with failed := true })).modLaunch t.lid (fun l => l.note 6 t.t) else s
        let s : State := { s with groups := mdel s.groups g }
        let s := (s.clearGroup g).modTeam x.team (fun t => { t with done := t.done ++ [x.index] })
        ((s.barriersCheck x.team).endTeam x.team).gateCheck (coreOfSlot g))

end Sys2Proof.Machine
end

