-- ==== Sys2Proof/Machine/Launch.lean ====
section
/-! DEFINITION. Host work queues and launches (R244 to R249, R286, R292, R293, R307), and the scheduler's own events
(R146, R227, R230). -/

namespace Sys2Proof.Machine

/-! ### Taking a launch record -/

/-- The trap vector of an address space (R307). -/
def State.trapVector (s : State) (dom space : Nat) : Option DWord :=
  let b := (s.dom dom).vecBase.toNat
  let at_ := b + 8 * space
  let e := leNat (s.homeBytes at_ 8)
  if b = 0 ∨ !aligned b 4096 ∨ !s.domHoldsRange dom b 32768 ∨ s.homePoison at_ ∨ e = 0 ∨ bits e 57 7 ≠ 0 ∨
      !pcLegal (addrWord e) then none
  else some (addrWord e)

/-- A record's fields are in range (R245, check 1). -/
def recordOk (bs : List Byte) : Bool :=
  let f (at_ n : Nat) : Nat := leNat (slice bs at_ n)
  aligned (f 0 8) 16 && aligned (f 8 8) 32 && decide (1 ≤ f 16 2) && decide (f 16 2 ≤ 4096) && decide (f 22 1 < 4) &&
    f 23 1 == 0 && decide (1 ≤ f 24 2) && decide (1 ≤ f 26 2) && decide (1 ≤ f 28 2) &&
    decide (f 24 2 * f 26 2 * f 28 2 < 2 ^ 32) && aligned (f 40 8) 256 && aligned (f 48 8) 8 && f 56 8 == 0

/-- The launch a record describes (R244). -/
def launchOf (dom space die order : Nat) (bs : List Byte) : Launch :=
  let f (at_ n : Nat) : Nat := leNat (slice bs at_ n)
  { Launch.blank with
    dom := dom, space := space, die := die, record := bs, khdr := f 0 8, htab := f 8 8, hcnt := f 16 2, codeH := f 18 2,
    stackH := f 20 2, pri := f 22 1 % 4, gx := f 24 2, gy := f 26 2, gz := f 28 2, ovfn := f 30 2, arga := f 32 8, area := f 40 8,
    doneVa := f 48 8, order := order }

/-- A launch that starts no team, to end with a status (R245). -/
def Launch.refused (l : Launch) (status : Nat) : Launch := { l with gx := 0, gy := 0, gz := 0, next := 0, fail := some (status, 0) }

/-- A T940 step of an agent: done, or waiting on a fault. -/
inductive Taking where
  | done (s : State)
  | wait (s : State)
  deriving DecidableEq, Repr

/-- A new launch is known. -/
def State.addLaunch (s : State) (l : Launch) : State := { s with launches := mset s.launches s.seq l, seq := s.seq + 1 }

/-- A launch that ends KILLED while its record is taken, before any team of it starts: its TEAM is a free value (R246, R322;
log 51). -/
def State.killedAtOnce (s : State) (l : Launch) : State :=
  ({ s with free := s.free + 1 } : State).addLaunch { l.refused 7 with fail := some (7, Config.free s.free), killed := true }

/-- Clear VALID in the derived entries of a table, those in which it is set (R285, R286). -/
def State.clearDerived (s : State) (die dom space htab hcnt : Nat) : State :=
  (range hcnt (4096 - hcnt)).foldl (fun acc i =>
    let va := htab + 32 * i + 7
    let b := acc.byte (acc.paOf die dom space va (.kind .write) true)
    if b.msb then acc.tPut die dom space [(va, 1)] [b &&& 0x7F] else acc) s

/-- The ring head and tail of a launch as its work area holds them (R247): running counts (DESIGN CHOICE, log 79). -/
def areaHeader (head tail : Nat) : List Byte := leBytes 8 head ++ leBytes 8 tail ++ List.replicate 48 0

/-- The last step of taking a record: the work area's header is written, derived entries are cleared, constant caches
emptied, the vector read (R167, R247, R286, R307). -/
def State.acceptLaunch (s : State) (agent : Agent) (l : Launch) : Taking :=
  let lo := l.htab + 32 * l.hcnt
  match s.reach agent l.die l.dom l.space (.kind .write) true (piecesOf lo (32 * (4096 - l.hcnt))) with
  | .held => .wait s
  | .fault va lv c => .wait (s.enterFault agent l.die l.dom l.space va .write true lv c)
  | .failed _ _ => .done (s.killedAtOnce l)
  | .ok =>
  if s.tHolds l.die l.dom l.space lo (32 * (4096 - l.hcnt)) .write || s.rangeHeld ((s.dom l.dom).vecBase.toNat + 8 * l.space) 8 then .wait s
  else match s.tWrite agent l.die l.dom l.space l.area (areaHeader 0 0) with
  | .wait t => .wait t
  | .failed => .done (s.killedAtOnce l)
  | .ok s =>
    let s := s.clearDerived l.die l.dom l.space l.htab l.hcnt
    let s : State := { s with cores := s.cores.map (fun e =>
      if (s.dom l.dom).cores.getLsbD e.1 then (e.1, { e.2 with ccache := [] }) else e) }
    .done (s.addLaunch { l with vector := s.trapVector l.dom l.space })

/-- The STACK handle's least length (R247). -/
def stackNeeds (h : KHeader) : Nat := 5308416 * h.stackB

/-- Checks 3 to 5 of R245. -/
def State.takeHeader (s : State) (agent : Agent) (l : Launch) : Taking :=
  match s.tRead agent l.die l.dom l.space l.khdr 128 with
  | .wait t => .wait t
  | .failed => .done (s.addLaunch (l.refused 1))
  | .ok s bs p =>
    match (if p then none else headerAt bs l.khdr l.code) with
    | none => .done (s.addLaunch (l.refused 1))
    | some h =>
      if h.narg != 0 && !aligned l.arga 4 then .done (s.addLaunch (l.refused 2))
      else if l.stack.length < stackNeeds h then .done (s.addLaunch (l.refused 3))
      else s.acceptLaunch agent { l with hdr := h }

/-- The CODE and STACK entries serve a launch (R245, check 2). -/
def Launch.handlesOk (l : Launch) : Bool :=
  !l.code.poison && l.code.valid && l.code.space == 6 && !l.stack.poison && l.stack.valid && l.stack.space == 7

/-- A record is taken (R245): its checks in order. A poisoned record is refused as RECORD (log 24). -/
def State.takeRecord (s : State) (agent : Agent) (dom space die : Nat) (bs : List Byte) (poison : Bool) : Taking :=
  let l := launchOf dom space die s.seq bs
  if poison || !recordOk bs then .done (s.addLaunch (l.refused 2))
  else if decide (l.hcnt ≤ l.codeH) || decide (l.hcnt ≤ l.stackH) then .done (s.addLaunch (l.refused 3))
  else match s.tRead agent die dom space (l.entryVa l.codeH) 32 with
    | .wait t => .wait t
    | .failed => .done (s.addLaunch (l.refused 3))
    | .ok s cb cp => match s.tRead agent die dom space (l.entryVa l.stackH) 32 with
      | .wait t => .wait t
      | .failed => .done (s.addLaunch (l.refused 3))
      | .ok s sb sp =>
        let l := { l with code := { bytes := cb, poison := cp }, stack := { bytes := sb, poison := sp } }
        if l.handlesOk then s.takeHeader agent l else .done (s.addLaunch (l.refused 3))

/-! ### Queues -/

/-- The die whose front-end watches a queue (R24). -/
def queueDie (q : Nat) : Nat := if q < 4096 then 0 else 1

/-- The physical address of a queue's table entry, when the queue is the domain's (R292). -/
def Domain.queueEntry (d : Domain) (q : Nat) : Option Nat :=
  if d.qfirst0 ≤ q ∧ q < d.qfirst0 + d.qcnt0 ∧ q < 4096 then some (d.qtab + 32 * (q - d.qfirst0))
  else if d.qfirst1 ≤ q ∧ q < d.qfirst1 + d.qcnt1 ∧ 4096 ≤ q then some (d.qtab + 32 * (d.qcnt0 + q - d.qfirst1))
  else none

/-- The queue of 32 entry bytes, when they are well formed (R292). -/
def queueOf (dom entry : Nat) (bs : List Byte) : Option HostQueue :=
  let f (at_ n : Nat) : Nat := leNat (slice bs at_ n)
  if aligned (f 0 8) 64 && aligned (f 8 8) 4 && aligned (f 16 8) 4 && decide (f 24 2 < 4096) && decide (1 ≤ f 26 1) &&
      decide (f 26 1 ≤ 16) && decide (f 27 1 < 2) then
    some { dom := dom, entry := entry, ring := f 0 8, tailA := f 8 8, headA := f 16 8, space := f 24 2, log2n := f 26 1, h := 0,
           taken := 0, goal := 0, running := f 27 1 == 1 }
  else none

/-- A command word's OP of two bits (R285, R290, R292, R338). -/
def opOf (v : Word) : Nat := (v.extractLsb' 30 2).toNat

/-- A front-end loads the entry that a QFE_QCMD names and starts the queue (R292): a queue outside the domain or a malformed
entry sets ERR, and BUSY stays while the entry's home holds its line back (R353; log 76). -/
def State.loadQueue (s : State) (dom : Nat) (v : Word) : State :=
  let d := s.dom dom
  let q := (v.extractLsb' 0 13).toNat
  let done (b : Bool) (t : State) : State := t.modDom dom (fun d => { d with qcErr := b, qcWait := none })
  match d.queueEntry q with
  | none => done true s
  | some at_ =>
    if s.rangeHeld at_ 32 then s.modDom dom (fun d => { d with qcWait := some v })
    else match (if s.homePoisonIn at_ 32 then none else queueOf dom at_ (s.homeBytes at_ 32)) with
      | none => done true s
      | some x => done false (({ s with queues := mset s.queues q x } : State).clearWaits (.queue q))

/-- A load that waits for its entry's line goes on (R292, R353). -/
def State.loadAgain (s : State) (dom : Nat) : State := (s.dom dom).qcWait.elim s (s.loadQueue dom)

/-- QFE_LOAD_START (R292); ignored while a command is in progress (log 76). -/
def execQfeLoadStart (dom : Nat) (v : Word) (s : State) : Ev :=
  let d := s.dom dom
  s.runs (if !d.active || opOf v != 1 || d.qcWait.isSome then s else s.loadQueue dom v)

/-- QFE_STOP (R292): the queue takes no further record; the head of one it has taken is still stored (R293). -/
def execQfeStop (dom : Nat) (v : Word) (s : State) : Ev :=
  let d := s.dom dom
  let q := (v.extractLsb' 0 13).toNat
  s.runs (if !d.active || opOf v != 2 || d.qcWait.isSome then s
    else match d.queueEntry q with
      | none => s.modDom dom (fun d => { d with qcErr := true })
      | some _ =>
        let t := s.modDom dom (fun d => { d with qcErr := false })
        ({ t with queues := mupd t.queues q (fun x => { x with running := false }) } : State).clearWaits (.queue q))

/-- A queue stops with a QSTAT bit set (R292, R293, R357), once the home of its entry takes the write (R353). -/
def State.stopQueue (s : State) (q stat : Nat) : State :=
  match mget? s.queues q with
  | none => s
  | some x =>
    let at_ := x.entry + 28
    if s.rangeHeld at_ 4 then s
    else
      let s := s.ownWrite (.bits at_ 4 (2 ^ 32 - 4) stat)
      (({ s with queues := mupd s.queues q (fun x => { x with running := false, taken := 0 }) } : State).clearWaits (.queue q)).interruptAfter
        (x.dom + 1) 4 (s.visibleAll [(at_, 4)])

/-- One step of a front-end (R293): it looks at the tail, takes the record at its head, or stores its head. `none` when
it has nothing to do. -/
def State.queueStep (s : State) (q : Nat) (x : HostQueue) : Option Taking :=
  let die := queueDie q
  let ag : Agent := .queue q
  let set (t : State) (f : HostQueue → HostQueue) : State := { (t.clearWaits ag) with queues := mupd t.queues q f }
  if x.goal = 0 then
    match s.tRead ag die x.dom x.space x.tailA 4 with
    | .wait t => some (.wait t)
    | .failed => some (.done (s.stopQueue q 2))
    | .ok t bs p =>
      let n := (leNat bs + 2 ^ 32 - x.h) % 2 ^ 32
      if p then some (.done (t.stopQueue q 2))
      else if n = 0 then none
      else if 2 ^ x.log2n < n then some (.done (t.stopQueue q 1))
      else some (.done (set t (fun x => { x with goal := n })))
  else if x.taken = 0 then
    match s.tRead ag die x.dom x.space (x.ring + 64 * (x.h % 2 ^ x.log2n)) 64 with
    | .wait t => some (.wait t)
    | .failed => some (.done (s.stopQueue q 2))
    | .ok s bs p => match s.takeRecord ag x.dom x.space die bs p with
      | .wait t => some (.wait t)
      | .done t => some (.done (set t (fun x => { x with taken := 1 })))
  else
    let h := (x.h + 1) % 2 ^ 32
    match s.tStore ag die x.dom x.space x.headA (leBytes 4 h) with
    | .wait t => some (.wait t)
    | .failed => some (.done (s.stopQueue q 2))
    | .ok t => some (.done (set t (fun x => { x with taken := 0, goal := x.goal - 1, h := h })))

/-- QUEUE_TAIL_LATCH (R293): the front-end of a running queue goes one step on. -/
def execQueueTailLatch (q : Nat) (s : State) : Ev :=
  s.runs (match mget? s.queues q with
    | none => s
    | some x =>
      if (!x.running && x.taken == 0) || s.agentWaits (.queue q) then s
      else match s.queueStep q x with
        | none => s.clearWaits (.queue q)
        | some (.done t) => t.endIdle
        | some (.wait t) => t)

/-! ### Distributors -/

/-- Insert by an order. -/
def insertBy {α : Type} (lt : α → α → Bool) (x : α) : List α → List α
  | [] => [x]
  | y :: t => if lt x y then x :: y :: t else y :: insertBy lt x t

/-- The launches of a home die in the order in which they are served (R248). -/
def State.servedOrder (s : State) (die : Nat) : List Nat :=
  let lt (a b : Nat × Launch) : Bool := decide (b.2.pri < a.2.pri) || (a.2.pri == b.2.pri && decide (a.2.order < b.2.order))
  (((s.launches.filter (fun e => e.2.die == die)).foldl (fun acc e => insertBy lt e acc) []).map (fun e => e.1))

/-- Teams of the launch may be started now (R250, R254): its space is not stopped, and no saved team of it comes first. -/
def State.teamsOpen (s : State) (lid : Nat) : Bool :=
  let l := s.launch lid
  decide (l.next < l.gx * l.gy * l.gz) && !l.killed && !(s.dom l.dom).stopped.contains l.space && !(s.saved.any (fun t => t.lid == lid))

/-- Where the head team goes (R248, R249): the home die's best core, or the other die's when that is strictly less
loaded or the home die has none; and whether it is handed off. -/
def State.choose (s : State) (dom die : Nat) (h : KHeader) : Option (Bool × Fit) :=
  match s.bestCore dom die h, s.bestCore dom (1 - die) h with
  | some a, some b => if (s.coreGroups b.core).length < (s.coreGroups a.core).length then some (true, b) else some (false, a)
  | some a, none => some (false, a)
  | none, some b => some (true, b)
  | none, none => none

/-- The launch has been served (R248). -/
def State.servedNow (s : State) (lid : Nat) : State :=
  { s.modLaunch lid (fun l => { l with order := s.seq }) with seq := s.seq + 1 }

/-- Start the head team of a launch, at home or by hand-off (R245, R248, R249, R322). -/
def State.placeTeam (s : State) (lid : Nat) (hand : Bool) : Option State :=
  let l := s.launch lid
  if !s.teamsOpen lid || s.agentWaits (.teamStart lid) then none
  else match s.choose l.dom l.die l.hdr with
    | none => none
    | some (h, f) =>
      if h != hand then none
      else match s.readArgs (.teamStart lid) (dieOfCore f.core) l l.arga l.hdr.narg with
        | .wait t => some t
        | .failed => some (s.killLaunch lid l.next)
        | .ok s args =>
          let t := l.next
          let team := Team.placed lid (t % l.gx) (t / l.gx % l.gy) (t / (l.gx * l.gy)) t l.hdr l.khdr none f
          some ((((s.clearWaits (.teamStart lid)).startTeam team args).modLaunch lid (fun l => { l with next := t + 1 })).servedNow lid)

/-- The task of a ring entry's 64 bytes (R241); what an entry does not hold, the place of its SPAWN in the spawner's order
and the release before its start, stays with the launch (log 10). -/
def QTask.ofEntry (q : QTask) (bs : List Byte) : QTask :=
  let f (at_ n : Nat) : Nat := leNat (slice bs at_ n)
  let spn := f 22 2
  { q with
    khdr := f 0 8, arga := f 8 8, x := f 16 2, y := f 18 2, z := f 20 2
    join := { q.join with
      spawner := (bits spn 15 1 * Config.coresPerDie + bits spn 8 7) * Config.slotsPerCore + bits spn 0 8
      ctr := bits (f 24 1) 0 3, record := bit (f 24 1) 3 } }

/-- Start a task that a launch's overflow ring holds at its head (R241, R248, R269, R322): the task, then the new head, a running
count that is not reduced modulo OVFN (R247; DESIGN CHOICE, log 79). No core runs a task that is refused here: its record names
core 0 of the home die (R242; DESIGN CHOICE, log 79). -/
def State.startRing (s : State) (ag : Agent) (lid : Nat) (q : QTask) : Option State :=
  let l := s.launch lid
  match s.tryTask ag l.die (Config.coresPerDie * l.die) q (s.bestCore l.dom l.die) with
  | .no => none
  | .wait t => some t
  | .over t => match t.tWrite ag l.die l.dom l.space l.area (leBytes 8 (l.ringHead + 1)) with
    | .wait _ => match s.tWrite ag l.die l.dom l.space l.area (leBytes 8 (l.ringHead + 1)) with
      | .wait u => some u
      | _ => none
    | .failed => some (s.killLaunch lid (q.x + l.gx * (q.y + l.gy * q.z)))
    | .ok u => some (((u.clearWaits ag).modLaunch lid (fun l =>
        { l with ringHead := l.ringHead + 1, ringInfo := mdel l.ringInfo l.ringHead })).servedNow lid)

/-- Start the head task of a launch's overflow ring, read from its entry (R241, R248, R269, R322); a poisoned entry kills the
launch (R304; DESIGN CHOICE, log 77). -/
def State.placeRing (s : State) (lid : Nat) : Option State :=
  let l := s.launch lid
  match mget? l.ringInfo l.ringHead with
  | none => none
  | some q =>
    let ag : Agent := .ringTask lid
    if !s.taskReleased q || s.agentWaits ag then none
    else match s.tRead ag l.die l.dom l.space (l.ringVa l.ringHead) 64 with
      | .wait t => if t = s then none else some t
      | .failed => some (s.killLaunch lid (q.x + l.gx * (q.y + l.gy * q.z)))
      | .ok t bs p =>
        if p then some (t.killLaunch lid (q.x + l.gx * (q.y + l.gy * q.z))) else t.startRing ag lid (q.ofEntry bs)

/-- The launch is over but for its completion word (R243). -/
def State.launchOver (s : State) (lid : Nat) : Bool :=
  let l := s.launch lid
  decide (l.gx * l.gy * l.gz ≤ l.next) && l.ringInfo.isEmpty && s.teams.all (fun e => e.2.lid != lid) &&
    s.cores.all (fun e => e.2.tasks.all (fun q => q.lid != lid)) && s.saved.all (fun t => t.lid != lid)

/-- The completion word of a launch (R246). -/
def Launch.doneWord (l : Launch) : Nat :=
  match l.fail with
  | none => 0
  | some (st, t) => st + (if 5 ≤ st then t % 2 ^ 32 * 2 ^ 32 else 0)

/-- A launch that is over writes its completion word and is gone (R246, R322). -/
def State.finishLaunch (s : State) (lid : Nat) : Option State :=
  let l := s.launch lid
  let ag : Agent := .launchEnd lid
  let gone (t : State) : State := { (t.clearWaits ag) with launches := mdel t.launches lid }
  if !s.launchOver lid || s.agentWaits ag then none
  else match s.tStore ag l.die l.dom l.space l.doneVa (leBytes 8 l.doneWord) with
    | .wait t => some t
    | .failed => some (gone s)
    | .ok t => some (gone t)

/-- One act of a distributor: a launch that is over, a ring task, or a team (R243, R246, R248). -/
def State.placeOne (s : State) (lid : Nat) : Option State :=
  (s.finishLaunch lid).or ((s.placeRing lid).or (if (s.launch lid).ringInfo.isEmpty then s.placeTeam lid false else none))

/-- The next saved team of a launch whose space resumes (R254). -/
def State.savedNext (s : State) (lid : Nat) : Option SavedTeam :=
  s.saved.find? (fun t => t.lid == lid && (match (s.dom t.dom).drain with
    | some d => d.resume && d.space == t.space
    | none => false))

/-- The next saved team of a launch with its place, when it fits somewhere and waits on no fault (R248, R249, R254). -/
def State.restorable (s : State) (lid : Nat) : Option (SavedTeam × Fit) :=
  let l := s.launch lid
  match s.savedNext lid with
  | none => none
  | some k => if s.agentWaits (.teamStart lid) then none else (s.choose l.dom l.die l.hdr).map (fun c => (k, c.2))

/-- A team of a launch may be started, at home or by hand-off: no ring task comes first (R248). -/
def State.placeNext (s : State) (hand : Bool) (lid : Nat) : Option State :=
  if hand then (if (s.launch lid).ringInfo.isEmpty then s.placeTeam lid true else none) else s.placeOne lid

/-- The first launch in the order of R248 with work that can be placed: a saved team of an earlier launch comes first
(R254). -/
def State.placeFrom (s : State) (hand : Bool) : List Nat → Option State
  | [] => none
  | lid :: t => match s.placeNext hand lid with
    | some x => some x
    | none => if (s.restorable lid).isSome then none else s.placeFrom hand t

/-- TEAM_PLACE (R241, R243, R246, R248). -/
def execTeamPlace (die : Nat) (s : State) : Ev := s.runs ((s.placeFrom false (s.servedOrder die)).getD s)

/-- TEAM_HANDOFF (R249): `die` is the home die. -/
def execTeamHandoff (die : Nat) (s : State) : Ev := s.runs ((s.placeFrom true (s.servedOrder die)).getD s)

/-! ### The scheduler's events -/

/-- With no candidate lane in a group, every parked lane becomes one (R227, R228). -/
def State.unparked (s : State) (x : Group) : Group :=
  if x.held || x.lanes.any (s.counts x) then x
  else { x with lanes := x.lanes.map (fun l => if l.parked && !l.exited then { l with parked := false, run := 0 } else l) }

/-- UNPARK (R227, R228). -/
def execUnpark (g : Nat) (s : State) : Ev := s.runs (s.modGroup g s.unparked)

/-- PRIORITY_AGE_BOOST (R230). -/
def execPriorityAgeBoost (g : Nat) (s : State) : Ev :=
  s.runs (if s.ready? g && decide ((s.group g).ready + 1024 ≤ s.cycleOf (coreOfSlot g)) then
      s.modGroup g (fun x => { x with boost := true })
    else s)

/-- TAKE_DEFERRED_TRAP (R146, R206, R306): the oldest pending one, at the boundary before a chain or an unchained
instruction. -/
def execTakeDeferredTrap (g : Nat) (s : State) : Ev :=
  let x := s.group g
  let lanes := s.issuingClass x
  s.runs (match x.deferred with
    | [] => s
    | d :: _ =>
      let first := x.lane (lanes.headD 0)
      if !s.mayIssue g || !s.deferredDue g then s
      else
        let t := (s.modGroup g (fun y => { y with deferred := y.deferred.drop 1 })).asClass g lanes
        { t.takeTrap { cause := d.cause, xval := d.xval, pc := first.pc, lane := lanes.headD 0, xaddr := d.xaddr } with ix := s.ix })

end Sys2Proof.Machine
end

