-- ==== Sys2Proof/Machine/Preempt.lean ====
section
/-! DEFINITION. Pre-emption and resumption of an address space (R250 to R254). -/

namespace Sys2Proof.Machine

/-! ### The save region's layout -/

/-- The next multiple of 256 of a list of bytes, padded with zeros. -/
def pad256 (bs : List Byte) : List Byte := bs ++ List.replicate (up256 bs.length - bs.length) 0

/-- Bits as bytes, bit n of the list at bit n mod 8 of byte n div 8. -/
def bitBytes (bs : List Bool) : List Byte :=
  (range 0 ((bs.length + 7) / 8)).map (fun i => BitVec.ofNat 8 ((range 0 8).foldl (fun n k => n + b2n (bs.getD (8 * i + k) false) * 2 ^ k) 0))

/-- The offset of the vector registers in a group area (R253). -/
def vofs (w : Nat) : Nat := 0x300 + 48 * w

/-- The length of a group area (R253). -/
def groupAreaLen (w n : Nat) : Nat := up256 (vofs w + 4 * n * w + n * w / 8)

/-- SLEEP, COND, LATCH, the barrier or port, WVA and WD of a lane entry (R253). -/
def sleepFields : Sleep → Nat × Nat × Nat × Nat × Nat × Nat
  | .waitc w => (1, (match w.cond with | .eq => 0 | .ne => 1 | .ge => 2), b2n w.latched, 0, w.va.toNat, w.d.toNat)
  | .barWait n => (2, 0, 0, n, 0, 0)
  | .barAgain n => (3, 0, 0, n, 0, 0)
  | .queue p _ _ _ => (4, 0, 0, p, 0, 0)
  | _ => (0, 0, 0, 0, 0, 0)

/-- A lane entry (R253). -/
def Lane.entry (x : Lane) : List Byte :=
  let (sleep, cond, latch, num, wva, wd) := sleepFields x.sleep
  leBytes 8 x.pc.toNat ++ leBytes 8 x.lsp.toNat ++ leBytes 8 wva ++ leBytes 4 wd ++ leBytes 2 x.depth.toNat ++
    leBytes 2 (b2n x.exited + 2 * b2n x.parked + 4 * sleep + 32 * cond + 128 * latch + 256 * num) ++ leBytes 4 x.run ++
    leBytes 2 x.arrived.toNat ++ List.replicate 10 0

/-- The WCODE of a width (R60). -/
def wcode (w : Nat) : Nat := if w = 32 then 0 else if w = 64 then 1 else if w = 128 then 2 else 3

/-- A group area (R253). -/
def Group.area (g : Group) : List Byte :=
  let w := g.width
  let n := g.nregs
  let v := (range 0 n).flatMap (fun i => (range 0 w).map (fun l => (g.lane l).vget i))
  let s := (range 0 128).map g.sget
  pad256 (leBytes 8 (1 + 2 ^ 8 * wcode w + 2 ^ 10 * (n / 8) + 2 ^ 16 * (groupAreaLen w n / 256)) ++
    leBytes 8 (g.prio.toNat + 2 ^ 4 * g.fflags.toNat + 2 ^ 9 * (g.ord % 256)) ++ leBytes 8 g.horDie ++ leBytes 8 g.horDev ++
    leBytes 8 g.horPod ++ leBytes 8 g.xpc.toNat ++ leBytes 8 g.xaddr.toNat ++ leBytes 4 g.xval.toNat ++ leBytes 4 g.xcause.toNat ++
    leBytes 8 g.xlane.toNat ++ leBytes 8 (g.failed.toNat + 2 ^ 32 * g.nfailed) ++ List.replicate 48 0 ++
    s.flatMap (fun r => leBytes 4 r.bits.toNat) ++ bitBytes (s.map (fun r => r.poison)) ++ List.replicate 112 0 ++
    (range 0 w).flatMap (fun l => (g.lane l).entry) ++ v.flatMap (fun r => leBytes 4 r.bits.toNat) ++
    bitBytes (v.map (fun r => r.poison)))

/-- The saved image of one accumulator tile (R252). -/
def Core.tileImage (c : Core) (tile : Nat) : List Byte :=
  let cells := (range 0 (128 * 128)).map (fun i => c.accGet (16384 * tile + i))
  cells.flatMap (fun v => leBytes 8 v.1.toNat) ++ (range 0 128).flatMap (fun r => leBytes 4 (c.tagGet (128 * tile + r))) ++
    bitBytes (cells.map (fun v => v.2))

/-- A group that has ended, as its area shows it: every lane has exited. -/
def endedGroup (h : KHeader) (index : Nat) : Group :=
  { Group.blank with index := index, width := h.width, nregs := h.nregs, lanes := List.replicate h.width Lane.blank }

/-- The groups of a team in sr.group order, with their slots. -/
def State.teamOrder (s : State) (tid : Nat) : List (Nat × Group) :=
  let t := s.team tid
  (t.slots.zipIdx).map (fun e => match mget? s.groups e.1 with
    | some g => if g.team = tid ∧ !t.done.contains e.2 then (e.1, g) else (e.1, endedGroup t.hdr e.2)
    | none => (e.1, endedGroup t.hdr e.2))

/-- Groups of a team that have arrived at a barrier (R235, R252). -/
def State.arrivals (s : State) (tid n : Nat) : Nat := ((s.teamOrder tid).filter (fun e => e.2.arrivedAt n)).length

/-- A team's area (R252): the part before the group areas, without its length field, then the whole. -/
def State.teamArea (s : State) (tid launch : Nat) : List Byte :=
  let t := s.team tid
  let c := s.core t.core
  let body := leBytes 8 launch ++ leBytes 8 (t.x + 2 ^ 16 * t.y + 2 ^ 32 * t.z) ++ leBytes 8 0 ++
    (range 0 16).flatMap (fun n => leBytes 8 (sget 0 t.gens n + 2 ^ 32 * s.arrivals tid n)) ++ List.replicate 96 0 ++
    pad256 (s.locBytes t.core t.base t.len) ++ t.tiles.flatMap c.tileImage ++ (s.teamOrder tid).flatMap (fun e => e.2.area)
  let len := up256 (body.length + 8)
  leBytes 8 (1 + 2 ^ 8 * t.hdr.ngrp + 2 ^ 16 * t.tiles.length + 2 ^ 32 * len) ++ body ++ List.replicate (len - 8 - body.length) 0

/-! ### Draining -/

/-- The team's groups belong to a space of a domain. -/
def State.inSpace (s : State) (dom space : Nat) (t : Team) : Bool :=
  (s.launch t.lid).dom == dom && (s.launch t.lid).space == space

/-- PREEMPT (R250, R251): DST_PRE with OP = 1 starts a drain. -/
def execPreempt (dom : Nat) (v : Word) (s : State) : Ev :=
  let d := s.dom dom
  let space := (v.extractLsb' 0 12).toNat
  s.runs (if !d.active || opOf v != 1 || d.preState == 1 then s
    else s.modDom dom (fun d => { d with preState := 1, preTeams := 0, drain := some { space := space, since := s.time, resume := false },
                                         stopped := nub (d.stopped ++ [space]) }))

/-- A group is at an instruction boundary at which a drain may hold it (R250). -/
def State.mayHold (s : State) (slot : Nat) (g : Group) : Bool :=
  let l := s.launch (s.team g.team).lid
  (match (s.dom l.dom).drain with
    | some d => d.space == l.space && !d.resume
    | none => false) &&
    (s.team g.team).task.isNone && g.kZero && g.deferred.isEmpty && g.loads.isEmpty && s.writesDone slot s.seq && !s.remoteOpen slot &&
    !s.waits.any (fun w => w.agent.ofGroup slot) && g.lanes.all (fun x => x.enters.isNone) && g.lanes.all (fun x => !x.chain || x.exited) && g.fences.isEmpty

/-- GROUP_HELD (R250). -/
def execGroupHeld (g : Nat) (s : State) : Ev :=
  s.runs (match mget? s.groups g with
    | none => s
    | some x => if s.mayHold g x then s.modGroup g (fun x => { x with held := true }) else s)

/-- Every group that stands where a drain may hold it is held: it issues nothing past its first such boundary (R250). -/
def State.holding (s : State) : State :=
  { s with groups := s.groups.map (fun e => if s.mayHold e.1 e.2 then (e.1, { e.2 with held := true }) else e) }

/-- The held groups of a space resume. -/
def State.unhold (s : State) (dom space : Nat) : State :=
  { s with groups := s.groups.map (fun e => if s.inSpace dom space (s.team e.2.team) then (e.1, { e.2 with held := false }) else e) }

/-- A drain ends without a save: STATE 3 (R250, R251). -/
def State.notDrained (s : State) (dom space : Nat) : State :=
  (s.unhold dom space).modDom dom (fun d => { d with preState := 3, drain := none, stopped := d.stopped.filter (fun x => x != space) })

/-- DRAIN_LIMIT_EXPIRY (R250). -/
def execDrainLimitExpiry (dom : Nat) (s : State) : Ev :=
  let d := s.dom dom
  s.runs (match d.drain with
    | none => s
    | some x =>
      if x.resume || d.drainLimit == 0 || decide (s.time < x.since + d.drainLimit.toNat) then s else s.notDrained dom x.space)

/-- Every group of the space's teams is held and no task of the space is left (R250). -/
def State.allHeld (s : State) (dom space : Nat) : Bool :=
  s.teams.all (fun e => !s.inSpace dom space e.2 || (e.2.task.isNone &&
    s.groups.all (fun g => g.2.team != e.1 || g.2.held))) &&
    s.cores.all (fun e => e.2.tasks.all (fun q => !((s.launch q.lid).dom == dom && (s.launch q.lid).space == space))) &&
    s.launches.all (fun e => !(e.2.dom == dom && e.2.space == space) || e.2.ringInfo.isEmpty)

/-- What a save keeps of a team beside its area (log 10). -/
def State.savedTeam (s : State) (dom space tid area : Nat) : SavedTeam :=
  let t := s.team tid
  { dom := dom, space := space, lid := t.lid, area := area, chans := t.chans,
    groups := (s.teamOrder tid).map (fun e =>
      { slot := e.1, stack := none, q14 := e.2.q14, sleeps := e.2.lanes.map (fun x => x.sleep), written := e.2.written, peered := e.2.peered }) }

/-- The tags of a team's local image (R252). -/
def State.tagImage (s : State) (t : Team) (at_ : Nat) : State :=
  (range 0 (t.len / 32)).foldl (fun acc k =>
    if sget false (s.core t.core).locPoison (t.base / 32 + k) then acc.setPoison (at_ / 32 + k) true else acc) s

/-- The areas of teams from an address on: writes them and lists what is kept. -/
def State.saveTeams (s : State) (dom space : Nat) (launches : List Nat) : List Nat → Nat → State × List SavedTeam
  | [], _ => (s, [])
  | tid :: rest, at_ =>
    let t := s.team tid
    let bs := s.teamArea tid ((findIx (fun l => l == t.lid) launches).getD 0)
    let r := ((s.writeClean at_ bs).tagImage t (at_ + 0x100)).saveTeams dom space launches rest (at_ + bs.length)
    (r.1, s.savedTeam dom space tid at_ :: r.2)

/-- A launch entry of the save region (R252). -/
def Launch.saveEntry (l : Launch) : List Byte := l.record ++ leBytes 8 l.next ++ List.replicate 56 0

/-- PREEMPT_SAVE (R250 to R253): the save region is written and the space's core resources are freed; a region that does
not hold the state gives STATE 3. -/
def execPreemptSave (dom : Nat) (s : State) : Ev :=
  let d := s.dom dom
  s.runs (match d.drain with
    | none => s
    | some x =>
      if x.resume || !s.allHeld dom x.space then s
      else
        let ls := (s.launches.filter (fun e => e.2.dom == dom && e.2.space == x.space)).map (fun e => e.1)
        let ts := (s.teams.filter (fun e => s.inSpace dom x.space e.2)).map (fun e => e.1)
        let base := d.saveBase.toNat
        let first := base + 64 + 128 * ls.length
        let len := ts.foldl (fun n t => n + (s.teamArea t 0).length) (64 + 128 * ls.length)
        if d.saveLen.toNat < len || !aligned base 256 || !s.domHoldsRange dom base len then s.notDrained dom x.space
        else if s.rangeHeld base len then s
        else
          let s := s.writeClean base (leBytes 2 ls.length ++ leBytes 2 ts.length ++ leBytes 4 0 ++ leBytes 8 len ++ List.replicate 48 0 ++
            ls.flatMap (fun l => (s.launch l).saveEntry))
          let r := s.saveTeams dom x.space ls ts first
          let s := r.1.modDom dom (fun d => { d with preState := 2, preTeams := ts.length, drain := none })
          { s with
            saved := s.saved ++ r.2
            groups := s.groups.filter (fun e => !ts.contains e.2.team)
            waits := s.waits.filter (fun w => !s.groups.any (fun e => ts.contains e.2.team && w.agent.ofGroup e.1))
            teams := s.teams.filter (fun e => !ts.contains e.1) })

/-! ### Resuming -/

/-- RESUME (R250, R254): DST_PRE with OP = 2 cancels a drain in progress, or starts placing the saved teams; with none saved
of the space it names, STATE is 0 at once (R251; DEDUCED, log 79). -/
def execResume (dom : Nat) (v : Word) (s : State) : Ev :=
  let d := s.dom dom
  let space := (v.extractLsb' 0 12).toNat
  s.runs (if !d.active || opOf v != 2 then s
    else match d.drain with
      | some x => if x.resume then s else s.notDrained dom x.space
      | none =>
        let some_ := s.saved.any (fun t => t.dom == dom && t.space == space)
        s.modDom dom (fun d => { d with
          preState := if some_ then 1 else 0
          drain := if some_ then some { space := space, since := s.time, resume := true } else none
          stopped := d.stopped.filter (fun x => x != space) }))

/-- A number of bytes of the save region. -/
def State.saveNat (s : State) (at_ n : Nat) : Nat := leNat (s.homeBytes at_ n)

/-- A register word of the save region with its tag bit, poisoned too where a sector of the region that holds them is (R304). -/
def State.saveReg (s : State) (at_ tags i : Nat) : Reg :=
  { bits := BitVec.ofNat 32 (s.saveNat (at_ + 4 * i) 4), poison := bit (s.saveNat (tags + i / 8) 1) (i % 8) || s.homePoison (at_ + 4 * i) || s.homePoison (tags + i / 8) }

/-- A saved lane's sleep at its new place (R253, R254). -/
def restoreSleep (core base : Nat) (state wd : Nat) (old : Sleep) : Sleep :=
  match bits state 2 3, old with
  | 1, .waitc w => .waitc { w with
      place := (match w.place with | .phys pa => .phys pa | .loc _ _ => .loc core (base + w.va.toNat))
      d := BitVec.ofNat 32 wd, cond := (if bits state 5 2 = 0 then .eq else if bits state 5 2 = 1 then .ne else .ge)
      latched := bit state 7 || w.latched }
  | 2, _ => .barWait (bits state 8 4)
  | 3, _ => .barAgain (bits state 8 4)
  | 4, .queue p k a b => .queue p k a b
  | _, _ => .awake

/-- A lane from its entry (R253); its loads do not use copies older than the resumption (R162, R254). -/
def State.restoreLane (s : State) (ga w n core base l : Nat) (old : Sleep) (now : Nat) : Lane :=
  let e := ga + 0x300 + 48 * l
  let state := s.saveNat (e + 30) 2
  { Lane.blank with
    pc := BitVec.ofNat 64 (s.saveNat e 8), lsp := BitVec.ofNat 64 (s.saveNat (e + 8) 8), depth := BitVec.ofNat 16 (s.saveNat (e + 28) 2),
    exited := bit state 0, parked := bit state 1, run := bits (s.saveNat (e + 32) 4) 0 17,
    sleep := restoreSleep core base state (s.saveNat (e + 24) 4) old, arrived := BitVec.ofNat 16 (s.saveNat (e + 36) 2), scAfter := now,
    v := (range 0 n).foldl (fun m i => sset Reg.zero m i (s.saveReg (ga + vofs w) (ga + vofs w + 4 * n * w) (w * i + l))) [] }

/-- A group from its area (R253). -/
def State.restoreGroup (s : State) (ga index : Nat) (h : KHeader) (core base : Nat) (k : SavedGroup) : Group :=
  let f (at_ n : Nat) : Nat := s.saveNat (ga + at_) n
  let now := max (s.dieTime 0) (s.dieTime 1) + 1
  { Group.blank with
    index := index, width := h.width, nregs := h.nregs,
    lanes := (range 0 h.width).map (fun l => s.restoreLane ga h.width h.nregs core base l (k.sleeps.getD l .awake) now),
    s := (range 0 128).foldl (fun m i => sset Reg.zero m i (s.saveReg (ga + 0x80) (ga + 0x280) i)) [],
    prio := BitVec.ofNat 4 (f 8 8), fflags := BitVec.ofNat 5 (f 8 8 / 2 ^ 4), ord := bits (f 8 8) 9 8,
    horDie := f 0x10 8, horDev := f 0x18 8, horPod := f 0x20 8, xpc := BitVec.ofNat 64 (f 0x28 8), xaddr := BitVec.ofNat 64 (f 0x30 8),
    xval := BitVec.ofNat 32 (f 0x38 4), xcause := BitVec.ofNat 32 (f 0x3C 4), xlane := BitVec.ofNat 32 (f 0x40 4),
    failed := BitVec.ofNat 32 (f 0x48 4), nfailed := f 0x4C 1, q14 := k.q14, written := k.written, peered := k.peered,
    resident := s.seq + index, ready := s.cycleOf core }

/-- One tile's accumulator values and tags from its image (R252); a value is poisoned where a sector of the region that tells
of it is (R304). -/
def State.restoreTile (s : State) (at_ tile : Nat) (c : Core) : Core :=
  let c := (range 0 16384).foldl (fun acc i =>
    acc.accSet (16384 * tile + i) (BitVec.ofNat 64 (s.saveNat (at_ + 8 * i) 8),
      bit (s.saveNat (at_ + 131584 + i / 8) 1) (i % 8) || s.homePoison (at_ + 8 * i) || s.homePoison (at_ + 131584 + i / 8) ||
        s.homePoison (at_ + 131072 + 4 * (i / 128)))) c
  (range 0 128).foldl (fun acc r => acc.tagSet (128 * tile + r) (s.saveNat (at_ + 131072 + 4 * r) 4)) c

/-- Tiles from their images. -/
def State.restoreTiles (s : State) : Nat → List Nat → Core → Core
  | _, [], c => c
  | at_, t :: rest, c => s.restoreTiles (at_ + 133632) rest (s.restoreTile at_ t c)

/-- The local image with its tags (R252). -/
def State.restoreLocal (s : State) (core base len at_ : Nat) : State :=
  (range 0 (len / 32)).foldl (fun acc k => acc.setLocPoison core (base / 32 + k) (s.homePoison (at_ + 32 * k)))
    (s.writeLoc core base (s.homeBytes at_ len))

/-- The tags of a range that the T940 has written stand as they were where its bytes came from (R313). -/
def State.putTags (s : State) (die dom space va : Nat) (tags : List Bool) : State :=
  (tags.zipIdx.filter (fun e => e.1)).foldl (fun acc e => acc.poisonRange (s.paOf die dom space (va + e.2) (.kind .write) true) 1) s

/-- The link stacks of the lanes of a slot are written, with their tags (R254, R313). -/
def State.writeStacks (s : State) (agent : Agent) (die : Nat) (l : Launch) (slot : Nat) : List (List (Byte × Bool)) → Nat → TWrite
  | [], _ => .ok s
  | bs :: t, lane =>
    let va := l.stack.base + regionOf slot lane l.hdr.stackB
    match s.tWrite agent die l.dom l.space va (bs.map (fun e => e.1)) with
    | .ok u => (u.putTags die l.dom l.space va (bs.map (fun e => e.2))).writeStacks agent die l slot t (lane + 1)
    | x => x

/-- The link stacks of a team's groups are written in the regions of their new slots. -/
def State.writeAllStacks (s : State) (agent : Agent) (die : Nat) (l : Launch) : List (SavedGroup × Nat) → TWrite
  | [] => .ok s
  | (g, slot) :: t => match s.writeStacks agent die l slot (g.stack.getD []) 0 with
    | .ok u => u.writeAllStacks agent die l t
    | x => x

/-- Two names of one saved team: they share the launch and the area. -/
def SavedTeam.same (a b : SavedTeam) : Bool := a.lid == b.lid && a.area == b.area

/-- The lanes' link stacks are copied to the regions of their new slots (R254): all are read before any is written, those of
other saved teams too whose regions the new slots take. -/
def State.moveStacks (s : State) (agent : Agent) (die : Nat) (k : SavedTeam) (f : Fit) : TWrite :=
  match s.stash agent die k.lid (((k.groups.map (fun g => g.slot)).filter (fun x => !f.slots.contains x)) ++ f.slots) with
  | .ok u => u.writeAllStacks agent die (s.launch k.lid) (((u.saved.find? k.same).getD k).groups.zip f.slots)
  | x => x

/-- The team a saved area holds: x, y, z (R252). -/
def State.savedXyz (s : State) (k : SavedTeam) : Nat × Nat × Nat :=
  let w := s.saveNat (k.area + 0x10) 8
  (bits w 0 16, bits w 16 16, bits w 32 16)

/-- The linear index of a team of a launch (R244). -/
def Launch.linear (l : Launch) (p : Nat × Nat × Nat) : Nat := p.1 + l.gx * (p.2.1 + l.gy * p.2.2)

/-- Where a saved team's tiles and groups stand in its area, and where the area ends (R252). -/
def SavedTeam.tilesAt (k : SavedTeam) (h : KHeader) : Nat := k.area + 0x100 + up256 h.locB
def SavedTeam.groupsAt (k : SavedTeam) (h : KHeader) (tiles : Nat) : Nat := k.tilesAt h + 133632 * tiles
def SavedTeam.groupAt (k : SavedTeam) (h : KHeader) (tiles n : Nat) : Nat := k.groupsAt h tiles + groupAreaLen h.width h.nregs * n
def SavedTeam.endsAt (k : SavedTeam) (h : KHeader) (tiles : Nat) : Nat := k.groupAt h tiles k.groups.length

/-- A word of a saved team that can carry no tag lies in a poisoned sector (R304): its header, or a group's registers without
tags and its lane entries. -/
def State.savedBad (s : State) (k : SavedTeam) (h : KHeader) (tiles : Nat) : Bool :=
  s.homePoisonIn k.area 0x100 || (range 0 k.groups.length).any (fun n =>
    s.homePoisonIn (k.groupAt h tiles n) 0x80 || s.homePoisonIn (k.groupAt h tiles n + 0x300) (48 * h.width))

/-- A saved team restored on a place (R252 to R254). -/
def State.restoreTeam (s : State) (k : SavedTeam) (f : Fit) : State :=
  let l := s.launch k.lid
  let at_ := k.area
  let xyz := s.savedXyz k
  let tiles := k.tilesAt l.hdr
  let t : Team := { Team.placed k.lid xyz.1 xyz.2.1 xyz.2.2 (l.linear xyz) l.hdr l.khdr none f with
    chans := k.chans, gens := (range 0 16).foldl (fun m n => sset 0 m n (s.saveNat (at_ + 0x20 + 8 * n) 4)) [] }
  let gs := k.groups.zipIdx.map (fun g =>
    s.restoreGroup (k.groupAt l.hdr f.tiles.length g.2) g.2 l.hdr f.core f.base g.1)
  let u := (s.restoreLocal f.core f.base l.hdr.locB (at_ + 0x100)).modCore f.core (s.restoreTiles tiles f.tiles)
  u.install t gs

/-- The saved team that a die's distributor places next, in the order of R248: ring tasks of its launch come first, and
work of an earlier launch (R254). -/
def State.restoreFrom (s : State) : List Nat → Option (SavedTeam × Fit)
  | [] => none
  | lid :: t =>
    if (s.placeRing lid).isSome then none
    else match s.restorable lid with
      | some k => some k
      | none => if (s.placeTeam lid false).isSome || (s.placeTeam lid true).isSome then none else s.restoreFrom t

/-- Resumptions that have no saved team left are over: STATE returns to 0 (R254). -/
def State.resumed (s : State) : State :=
  { s with doms := s.doms.map (fun e => match e.2.drain with
    | some d =>
      if d.resume && !(s.saved.any (fun t => t.dom == e.1 && t.space == d.space)) then (e.1, { e.2 with preState := 0, drain := none }) else e
    | none => e) }

/-- A restored team leaves the list (R254). -/
def State.restored (s : State) (k : SavedTeam) : State := ({ s with saved := s.saved.filter (fun t => !k.same t) } : State).resumed

/-- The monitors of the groups in some slots are looked at (R254). -/
def State.lookAgain (s : State) (slots : List Nat) : State :=
  s.notify (fun p => slots.any (fun g => (s.group g).lanes.any (fun x => match x.sleep with
    | .waitc w => w.place == p
    | _ => false)))

/-- TEAM_RESTORE (R254): the next saved team goes to the best core of R248 or R249; its lanes' link stacks are copied, and
its monitors looked at. It waits while homes hold lines of its area back (R353), and an area that is poisoned where no tag can
say so kills its launch (R304; DESIGN CHOICE, log 77). -/
def execTeamRestore (die : Nat) (s : State) : Ev :=
  s.runs (match s.restoreFrom (s.servedOrder die) with
    | none => s.resumed
    | some (k, f) =>
      let l := s.launch k.lid
      let ag : Agent := .teamStart k.lid
      let n := f.tiles.length
      if s.rangeHeld k.area (k.endsAt l.hdr n - k.area) then s
      else if s.savedBad k l.hdr n then (s.killLaunch k.lid (l.linear (s.savedXyz k))).resumed
      else match s.moveStacks ag (dieOfCore f.core) k f with
      | .wait t => t
      | .failed => (s.killLaunch k.lid (l.linear (s.savedXyz k))).resumed
      | .ok t => ((((t.clearWaits ag).restoreTeam k f).restored k).servedNow k.lid).lookAgain f.slots)

end Sys2Proof.Machine
end

