-- ==== Sys2Proof/Machine/Sync.lean ====
section
/-! DEFINITION. What system software commands of translation and isolation tables (R285, R290, R291, R296), and of the
fault buffer (R319, R322), with the re-walk of a rope member's frame map (R379). -/

namespace Sys2Proof.Machine

/-! ### The frame map -/

/-- The 64 KiB steps of a protected range (R379). -/
def RopeDesc.steps (d : RopeDesc) : Nat := d.plen / 65536

/-- The frame that stands at a step of a member's protected range: its leaf is valid and has PROT set (R379). -/
def State.frameAt (s : State) (dom : Nat) (d : RopeDesc) (step : Nat) : Option Nat :=
  let va := d.pvbase + 65536 * step
  if vaLimit ≤ va then none
  else match s.walk dom d.pspace va with
    | .leaf _ level e => if bit e 6 then some ((entryAddr e + va % levelSize level) / 65536) else none
    | _ => none

/-- A line enters or leaves the protected image: a delta against zero, or to zero, when the member sends for its stripe
(R379). -/
def State.imageDelta (s : State) (dom stripe line : Nat) (enters : Bool) : State :=
  if !(s.dom dom).rope.sends stripe then s
  else if enters then s.sendDeltas dom stripe (s.dramLine line)
  else
    let (o, t) := s.oldLine line (s.dramLine line)
    t.sendDeltas dom stripe (lineXor Line.zero o)

/-- The lines of a frame at a step of the map, with their stripes. -/
def frameLines (step f : Nat) : List (Nat × Nat) := (range 0 512).map (fun k => (512 * step + k, 512 * f + k))

/-- A frame leaves a step of the map: acts 1 and 2 of R379. -/
def State.unframe (s : State) (dom step f : Nat) : State :=
  let s := (frameLines step f).foldl (fun acc e => acc.writeBack (lineOf (acc.locate (128 * e.2)))) s
  let s := (frameLines step f).foldl (fun acc e => acc.imageDelta dom e.1 e.2 false) s
  s.modDom dom (fun d => { d with rope := { d.rope with frames := mdel d.rope.frames step } })

/-- A frame enters a step of the map: act 3 of R379. -/
def State.reframe (s : State) (dom step f : Nat) : State :=
  (frameLines step f).foldl (fun acc e => acc.imageDelta dom e.1 e.2 true)
    (s.modDom dom (fun d => { d with rope := { d.rope with frames := mset d.rope.frames step f } }))

/-- The member's log takes the deltas of one step of the map (R346). -/
def Rope.roomFor (r : Rope) (n : Nat) : Bool :=
  match r.desc with
  | some d => r.mute || decide (sget 0 r.seqs d.self + n - r.mark d ≤ 4096)
  | none => true

/-- What a re-walk does next: a frame leaves a step of the map, or enters one. -/
inductive Rewalk where
  | leave (step frame : Nat)
  | enter (step frame : Nat)
  deriving DecidableEq, Repr

/-- The first change of the map that a re-walk of a range makes (R379): every frame that leaves a step does so before one
enters a step, so that no frame stands at two. -/
def State.changedStep (s : State) (dom space lo len : Nat) : Option Rewalk :=
  let r := (s.dom dom).rope
  match r.desc with
  | none => none
  | some d =>
    if r.state = 0 ∨ !dataPos d.self ∨ d.pspace ≠ space then none
    else
      let ks := (range 0 d.steps).filter (fun k => overlap (d.pvbase + 65536 * k, 65536) (lo, len) && mget? r.frames k != s.frameAt dom d k)
      (ks.findSome? (fun k => (mget? r.frames k).map (Rewalk.leave k))).or
        (ks.findSome? (fun k => (s.frameAt dom d k).map (Rewalk.enter k)))

/-- The step of the map a change is of. -/
def Rewalk.step : Rewalk → Nat
  | .leave k _ => k
  | .enter k _ => k

/-- One act of a re-walk: the next change, once the log has room and no repair holds a stripe of the step (R346, R349).
`none` when the map is up to date. -/
def State.rewalk (s : State) (dom space lo len : Nat) : Option State :=
  (s.changedStep dom space lo len).map (fun k =>
    let r := (s.dom dom).rope
    if !r.roomFor 1536 || r.frozen.any (fun n => n / 512 == k.step) then s
    else match k with
      | .leave step f => s.unframe dom step f
      | .enter step f => s.reframe dom step f)

/-! ### Invalidation -/

/-- Translations of a range of a space are dropped from every structure, and the non-leaf entries on their paths (R285). -/
def State.dropLeaves (s : State) (dom space lo len : Nat) : State :=
  { s with
    tlb := s.tlb.filter (fun e => !(e.dom == dom && e.space == space && overlap (e.va, e.size) (lo, len)))
    walks := s.walks.filter (fun e => !(e.dom == dom && e.space == space && overlap (e.va, levelSpan e.level) (lo, len))) }

/-- No access of a space numbered below `seq` is still to be performed (R285): no write of them is on its way, and no
load of them misses a line. Engine commands and peer requests translate as they are performed. -/
def State.spaceQuiet (s : State) (dom space seq : Nat) : Bool :=
  s.groups.all (fun e => !(s.groupDom e.2 == dom && s.groupSpace e.2 == space) ||
    (e.2.storeQ.all (fun w => decide (seq ≤ w.id)) && e.2.loads.all (fun x => x.2.missing.isEmpty || decide (seq ≤ x.1)))) &&
    s.flight.all (fun w => !(w.dom == dom && w.space == space) || decide (seq ≤ w.id))

/-- Start an invalidation of a range, unless one is in progress (R285). -/
def State.invalidate (s : State) (dom space lo len : Nat) : State :=
  (s.dropLeaves dom space lo len).modDom dom (fun d => { d with invErr := false, invBusy := some (space, lo, len, s.seq) })

/-- The SPACE field of a command word. -/
def spaceOf (v : Word) : Nat := (v.extractLsb' 0 12).toNat

/-- A command of the invalidation registers is heard: the domain is on, and none is in progress (R285, R356). -/
def Domain.hearsInv (d : Domain) : Bool := d.active && d.invBusy.isNone

/-- XLT_INV with OP 1 (R285). -/
def execXltInvSpace (dom : Nat) (v : Word) (s : State) : Ev :=
  s.runs (if !(s.dom dom).hearsInv || opOf v != 1 then s else s.invalidate dom (spaceOf v) 0 vaLimit)

/-- XLT_INV with OP 2 (R285): a misaligned field does nothing but set ERR. -/
def execXltInvRange (dom : Nat) (v : Word) (s : State) : Ev :=
  let d := s.dom dom
  s.runs (if !d.hearsInv || opOf v != 2 then s
    else if !aligned d.invAddr.toNat 65536 || !aligned d.invLen.toNat 65536 then s.modDom dom (fun d => { d with invErr := true })
    else s.invalidate dom (spaceOf v) d.invAddr.toNat d.invLen.toNat)

/-- The launches of a space whose handle tables share bytes with a range (R285, R286). -/
def State.tablesOver (s : State) (dom space lo len : Nat) : List Nat :=
  (s.launches.filter (fun e => e.2.dom == dom && e.2.space == space && overlap (e.2.htab, 131072) (lo, len))).map (fun e => e.1)

/-- A launch ended by system software (R246); which team its completion word names is a free value. -/
def State.killWhole (s : State) (lid : Nat) : State :=
  ({ s with free := s.free + 1 } : State).killLaunch lid (Config.free s.free)

/-- Clear a launch's derived entries, as a T940 access that may wait on a fault (R285, R317, R322). -/
def State.clearFor (s : State) (lid : Nat) : State :=
  let l := s.launch lid
  let ag : Agent := .handles lid
  match s.reach ag l.die l.dom l.space (.kind .write) true (piecesOf (l.htab + 32 * l.hcnt) (32 * (4096 - l.hcnt))) with
  | .held => s
  | .fault va lv c => s.enterFault ag l.die l.dom l.space va .write true lv c
  | .failed _ _ => (s.clearWaits ag).killWhole lid
  | .ok => (s.clearDerived l.die l.dom l.space l.htab l.hcnt).clearWaits ag

/-- The entries of some launches leave every handle cache (R285, R287). -/
def State.dropTables (s : State) (lids : List Nat) : State :=
  { s with cores := s.cores.map (fun e => (e.1, { e.2 with hcache := e.2.hcache.filter (fun h => !lids.contains (h.1 / 4096)) })) }

/-- VALID is cleared in the derived entries of some launches that run, and no cache keeps an entry of them (R285). -/
def State.clearTables (s : State) (lids : List Nat) : State :=
  ((lids.filter (fun l => !(s.launch l).killed)).foldl State.clearFor s).dropTables lids

/-- A clearing of a launch's derived entries waits: on a fault, or for a line that its home holds back (R322, R353). -/
def State.clearWaiting (s : State) (lid : Nat) : Bool :=
  let l := s.launch lid
  let ps := piecesOf (l.htab + 32 * l.hcnt) (32 * (4096 - l.hcnt))
  s.waits.any (fun w => w.agent == .handles lid) ||
    (!l.killed && (s.reach (.handles lid) l.die l.dom l.space (.kind .write) true ps == .held ||
      s.tHolds l.die l.dom l.space (l.htab + 32 * l.hcnt) (32 * (4096 - l.hcnt)) .write))

/-- XLT_INV with OP 3 (R285): cached entries go, and VALID in every derived entry of the launches concerned. -/
def execXltInvHandles (dom : Nat) (v : Word) (s : State) : Ev :=
  let d := s.dom dom
  let lids := s.tablesOver dom (spaceOf v) d.invAddr.toNat d.invLen.toNat
  s.runs (if !d.hearsInv || opOf v != 3 then s
    else if !aligned d.invAddr.toNat 32 || !aligned d.invLen.toNat 32 then s.modDom dom (fun d => { d with invErr := true })
    else
      let t := s.modDom dom (fun d => { d with invErr := false, invBusy := some (4096 + spaceOf v, d.invAddr.toNat, d.invLen.toNat, s.seq) })
      t.clearTables lids)

/-- Nothing that looked up a handle of the launches is still at work (R285). -/
def State.handlesQuiet (s : State) (lids : List Nat) : Bool :=
  s.cmds.all (fun e => !lids.contains e.2.lid) && s.remote.all (fun r => match r.kind with
    | .access slot _ _ _ _ _ => !lids.contains (s.team (s.group slot).team).lid
    | _ => true)

/-- One look at an invalidation in progress (R285): the state it leaves, and whether it is complete. Derived entries are cleared
once nothing that looked one up is at work, and what accesses have cached meanwhile goes with them. -/
def State.invStep (s : State) (dom space lo len seq : Nat) : State × Bool :=
  if 4096 ≤ space then
    let lids := s.tablesOver dom (space - 4096) lo len
    if s.waits.any (fun w => w.fate == .pending && lids.any (fun l => w.agent == .handles l)) || !s.handlesQuiet lids then (s, false)
    else
      let t := s.clearTables lids
      (t, !lids.any t.clearWaiting)
  else if !s.spaceQuiet dom space seq then (s, false)
  else match s.rewalk dom space lo len with
    | some t => (t, false)
    | none => (s, true)

/-- XLT_INV_DONE (R285): BUSY clears once the accesses of the dropped entries are over and the frame map is up to date; no
structure holds a translation of the range then. -/
def execXltInvDone (dom : Nat) (s : State) : Ev :=
  s.runs (match (s.dom dom).invBusy with
    | none => s
    | some (space, lo, len, seq) =>
      let r := s.invStep dom space lo len seq
      if r.2 then (if 4096 ≤ space then r.1 else r.1.dropLeaves dom space lo len).modDom dom (fun d => { d with invBusy := none }) else r.1)

/-! ### Host-managed ranges -/

/-- The leaves of the pages of a range, each once, when every page has a valid one (R290). -/
def State.leavesOf (s : State) (dom space : Nat) : List Nat → Option (List (Nat × Nat))
  | [] => some []
  | va :: t => match s.walk dom space va, s.leavesOf dom space t with
    | .leaf at_ _ e, some ls => some (if ls.contains (at_, e) then ls else (at_, e) :: ls)
    | _, _ => none

/-- The leaves a hand-over command names; none when it is in error (R290). -/
def State.ownLeaves (s : State) (dom space : Nat) : Option (List (Nat × Nat)) :=
  let d := s.dom dom
  let a := d.ownAddr.toNat
  let n := d.ownLen.toNat
  if !aligned a 65536 || !aligned n 65536 || decide (vaLimit < a + n) then none
  else s.leavesOf dom space ((range 0 (n / 65536)).map (fun k => a + 65536 * k))

/-- A leaf with OWN set or clear (R282). -/
def withOwn (e : Nat) (own : Bool) : Nat := if bit e 5 then (if own then e else e - 32) else (if own then e + 32 else e)

/-- Store OWN in leaves at their home slices (R291); one whose line its home holds back gets it as soon as it may (R353). -/
def State.storeOwn (s : State) (ls : List (Nat × Nat)) (own : Bool) : State :=
  ls.foldl (fun acc l =>
    let late : OwnWrite := .bits l.1 8 (if own then 0 else 32) (if own then 32 else 0)
    if acc.ownWaits late then acc.ownWrite late else acc.putHome [(l.1, leBytes 8 (withOwn l.2 own))]) s

/-- A hand-over command is heard (R290, R356). -/
def Domain.hearsOwn (d : Domain) : Bool := d.active && d.ownBusy.isNone

/-- TO_HOST (R290, R291): OWN is set in every leaf of the range, and the range is invalidated. -/
def execToHost (dom : Nat) (v : Word) (s : State) : Ev :=
  let d := s.dom dom
  s.runs (if !d.hearsOwn || opOf v != 2 then s
    else match s.ownLeaves dom (spaceOf v) with
      | none => s.modDom dom (fun d => { d with ownErr := true })
      | some ls =>
        let h : HandOver :=
          { space := spaceOf v, lo := d.ownAddr.toNat, len := d.ownLen.toNat, moment := s.time, seq := s.seq, until_ := none }
        ((s.storeOwn ls true).dropLeaves dom h.space h.lo h.len).modDom dom (fun d => { d with ownErr := false, ownBusy := some h }))

/-- Every write and remote access of a domain that was issued before a number is acknowledged (R172, R180). -/
def State.domainDone (s : State) (dom seq : Nat) : Bool :=
  s.groups.all (fun e => s.groupDom e.2 != dom || s.writesDone e.1 seq) &&
    s.remote.all (fun r => match r.kind with
      | .access g _ _ _ _ _ => s.groupDom (s.group g) != dom || decide (seq ≤ r.seq)
      | _ => true)

/-- The device time past which everything performed so far is visible: what the groups have heard, and the writes of engine
commands (R170, R172). -/
def State.visibleAt (s : State) : Nat := s.cmds.foldl (fun n e => max n e.2.wvt) (max s.heard.all s.heard.pod)

/-- TO_HOST_DONE (R291): the old accesses are performed, 4,104 ticks have passed since the last leaf update, and the
device's release is complete at system scope (R180). -/
def execToHostDone (dom : Nat) (s : State) : Ev :=
  s.runs (match (s.dom dom).ownBusy with
    | none => s
    | some h =>
      let r := s.invStep dom h.space h.lo h.len h.seq
      if !r.2 || !s.domainDone dom h.seq then r.1
      else match h.until_ with
        | none => r.1.modDom dom (fun d => { d with ownBusy := some { h with until_ := some s.visibleAt } })
        | some t =>
          if h.moment + 4104 < s.time ∧ t < min (s.dieTime 0) (s.dieTime 1) then r.1.allHostBack.modDom dom (fun d => { d with ownBusy := none })
          else r.1)

/-- TO_DEVICE (R290, R291): OWN is cleared in every leaf of the range; BUSY clears with the last. -/
def execToDevice (dom : Nat) (v : Word) (s : State) : Ev :=
  s.runs (if !(s.dom dom).hearsOwn || opOf v != 1 then s
    else match s.ownLeaves dom (spaceOf v) with
      | none => s.modDom dom (fun d => { d with ownErr := true })
      | some ls => (s.storeOwn ls false).modDom dom (fun d => { d with ownErr := false }))

/-! ### Peer tables -/

/-- PEER_SYNC (R296). -/
def execPeerSync (dom : Nat) (v : Word) (s : State) : Ev :=
  s.runs (if (s.dom dom).active && v.getLsbD 0 then s.modDom dom (fun d => { d with peerSync := true }) else s)

/-- PEER_SYNC_DONE (R296): no request checked under earlier table contents is waiting. -/
def execPeerSyncDone (dom : Nat) (s : State) : Ev :=
  s.runs (if s.peerWait.any (fun e => e.2.window / 256 == dom) then s
    else if (s.dom dom).peerSync then s.modDom dom (fun d => { d with peerSync := false }) else s)

/-! ### The fault buffer -/

/-- FB_BASE_WRITE (R319). -/
def execFbBaseWrite (dom : Nat) (v : DWord) (s : State) : Ev :=
  s.runs (if (s.dom dom).active then s.modDom dom (fun d => { d with fbBase := v, fbTail := d.fbHead }) else s)

/-- FB_DEPTH_WRITE (R319). -/
def execFbDepthWrite (dom : Nat) (v : Word) (s : State) : Ev :=
  s.runs (if (s.dom dom).active then s.modDom dom (fun d => { d with fbDepth := v.setWidth 17, fbTail := d.fbHead }) else s)

/-- FB_STAT_WRITE (R319). -/
def execFbStatWrite (dom : Nat) (v : Word) (s : State) : Ev :=
  s.runs (if !(s.dom dom).active then s
    else if v.getLsbD 0 then s.modDom dom (fun d => { d with dropped := false, dropCnt := 0 })
    else s.modDom dom (fun d => { d with dropCnt := v.extractLsb' 16 16 }))

/-- The OP field of FB_REPLAY (R319). -/
def replayOp (v : Word) : Nat := (v.extractLsb' 29 3).toNat

/-- A replay or end command (R322): the keys it covers leave the pending table, and the accesses that wait on them retry
or fail. `all` when it also reaches accesses with no entry in the buffer (R318, R321). -/
def State.replay (s : State) (dom : Nat) (all : Bool) (fate : WaitFate) (space page : Nat → Bool) : State :=
  let hits (k : FaultKey) : Bool := k.dom == dom && space k.space && page k.page && (all || k.written)
  let covers (w : FaultWait) : Bool := w.dom == dom && w.fate == .pending && space w.space && page w.page &&
    (all || s.pending.any (fun k => hits k && k.is w.die w.dom w.space w.page))
  { s.modDom dom (fun d => { d with fbBusy := true }) with
    pending := s.pending.filter (fun k => !hits k)
    waits := s.waits.map (fun w => if covers w then { w with fate := fate } else w) }

/-- A replay command is heard (R319, R356). -/
def Domain.hearsReplay (d : Domain) (v : Word) (op : Nat) : Bool := d.active && !d.fbBusy && replayOp v == op

/-- The page FB_RADDR names (R319). -/
def Domain.replayPage (d : Domain) : Nat := bits d.fbRaddr.toNat 16 41

/-- FB_REPLAY with OP 1 (R322). -/
def execReplayAll (dom : Nat) (v : Word) (s : State) : Ev :=
  s.runs (if (s.dom dom).hearsReplay v 1 then s.replay dom true .retry (fun _ => true) (fun _ => true) else s)

/-- FB_REPLAY with OP 2 (R322). -/
def execReplayPage (dom : Nat) (v : Word) (s : State) : Ev :=
  s.runs (if (s.dom dom).hearsReplay v 2 then
    s.replay dom false .retry (fun x => x == spaceOf v) (fun p => p == (s.dom dom).replayPage) else s)

/-- FB_REPLAY with OP 3 (R322). -/
def execEndPage (dom : Nat) (v : Word) (s : State) : Ev :=
  s.runs (if (s.dom dom).hearsReplay v 3 then
    s.replay dom false .ended (fun x => x == spaceOf v) (fun p => p == (s.dom dom).replayPage) else s)

/-- FB_REPLAY with OP 4 (R322). -/
def execEndSpace (dom : Nat) (v : Word) (s : State) : Ev :=
  s.runs (if (s.dom dom).hearsReplay v 4 then s.replay dom true .ended (fun x => x == spaceOf v) (fun _ => true) else s)

/-- REPLAY_DONE (R322): every covered access has retried or failed. -/
def execReplayDone (dom : Nat) (s : State) : Ev :=
  s.runs (if (s.dom dom).fbBusy && s.waits.all (fun w => w.dom != dom || w.fate == .pending) then
      s.modDom dom (fun d => { d with fbBusy := false })
    else s)

end Sys2Proof.Machine
end

