-- ==== Sys2Proof/Machine/Migrate.lean ====
section
/-! DEFINITION. Pages in motion between tiers (R328 to R340, R377) and the cairn epochs (R341). A chunk copy and a commit
are one step each (log 19). -/

namespace Sys2Proof.Machine

/-- The chunks of a moving page (R328). -/
def Move.count (x : Move) : Nat := x.size / 4096

/-- A source address of the page. -/
def Move.holds (x : Move) (pa : Nat) : Bool := decide (x.src ≤ pa) && decide (pa < x.src + x.size)

/-! ### Commands -/

/-- A set is busy: a move, or its leaf walk (R338). -/
def MigSet.busy (m : MigSet) : Bool := m.walk.isSome || m.state == 1 || m.state == 2 || m.state == 3

/-- MOVE (R338): the leaf walk starts; STATE reads IDLE while it runs. -/
def execMove (dom die : Nat) (v : Word) (s : State) : Ev :=
  s.runs (if !(s.dom dom).active || opOf v != 1 || decide (2 ≤ die) || ((s.dom dom).mig die).busy then s
    else s.modMig dom die (fun m => { m with walk := some (spaceOf v), state := 0, code := 0, abort := false }))

/-- A MOVE is refused (R338). -/
def State.refuseMove (s : State) (dom die code : Nat) : State :=
  (s.clearWaits (.moveWalk dom die)).modMig dom die (fun m => { m with walk := none, state := 0, code := code })

/-- Some page in motion shares bytes with a range (R338). -/
def State.inMotion (s : State) (pa n : Nat) : Bool :=
  let hits (m : MigSet) : Bool := match m.move with
    | some x => overlap (x.src, x.size) (pa, n)
    | none => false
  s.doms.any (fun e => hits e.2.mig0 || hits e.2.mig1)

/-- The first code that refuses a move of a page, 0 when it is accepted (R338). -/
def State.moveCode (s : State) (dom die va dst leaf size : Nat) : Nat :=
  let src := entryAddr leaf
  if bit leaf 52 || isHost src || !aligned va size then 1
  else if homeDie src != die then 5
  else if s.inMotion src size then 3
  else if !aligned dst size || isHost dst || !s.domHoldsRange dom dst size || overlap (dst, size) (src, size) then 2
  else if bit leaf 7 && homeDie dst != die then 4 else 0

/-- MOVE_WALK_END (R338): the walk ends on a leaf and the command is accepted or refused, or it waits on its fault. -/
def execMoveWalkEnd (dom die : Nat) (s : State) : Ev :=
  let m := (s.dom dom).mig die
  let ag : Agent := .moveWalk dom die
  let va := m.va.toNat
  s.runs (match m.walk with
    | none => s
    | some space =>
      if s.agentWaits ag then s
      else if vaLimit ≤ va then s.refuseMove dom die 1
      else if (s.endedCause ag die space va).isSome then s.refuseMove dom die 6
      else if s.walkWaits dom space va (fun _ => none) then s
      else match s.walk dom space va with
        | .held => s
        | .bad level => s.enterFault ag die dom space va .read true level 8
        | .leaf at_ level e =>
          let size := levelSize level
          let code := s.moveCode dom die va m.dst.toNat e size
          if code ≠ 0 then s.refuseMove dom die code
          else
            let x : Move := { space := space, va := va, src := entryAddr e, dst := m.dst.toNat, size := size, leafPa := at_,
                              written := [], lost := [], lossKind := 0, committed := none,
                              off := (s.channels.filter (fun c => c.2.state == 2)).map (fun c => c.1) }
            (s.clearWaits ag).modMig dom die (fun m => { m with walk := none, state := 1, code := 0, cursor := 0, copied := 0, move := some x }))

/-- ABORT (R331, R377): a copying move turns back; a chunk in flight is finished first. Whether one is in flight at the
write is a free value; once an ABORT waits for one, another is ignored. -/
def execAbort (dom die : Nat) (v : Word) (s : State) : Ev :=
  let m := (s.dom dom).mig die
  s.runs (if !(s.dom dom).active || opOf v != 2 || m.state != 1 || m.abort then s
    else if Config.free s.free % 2 = 1 then ({ s with free := s.free + 1 } : State).modMig dom die (fun m => { m with abort := true })
    else ({ s with free := s.free + 1 } : State).modMig dom die (fun m => { m with state := 3 }))

/-! ### Loss -/

/-- A place of a move is lost on a sign of its own (R337): a channel of it has turned OFFLINE since the move began, its expander's
port has been down for 1,000,000 ticks, or the device behind the port is gone (R358). -/
def State.brokenAt (s : State) (x : Move) (pa n : Nat) : Bool :=
  match cxlOf pa with
  | some p =>
    let c := s.cxl p
    c.downAt.any (fun t => decide (t + 1000000 ≤ s.time)) ||
      (!c.gone.isEmpty && (range (lineOf pa) (n / 128)).any (fun k => c.goneAt (128 * k - cxlBase p)))
  | none =>
    let bad := (s.channels.filter (fun e => e.2.state == 2 && !x.off.contains e.1)).map (fun e => some e.1)
    !bad.isEmpty && (range (lineOf pa) (n / 128)).any (fun k => bad.contains (channelOf (128 * k)))

/-- A place can be lost (R337): a stack or a package may stop answering at any time. -/
def State.mayLose (s : State) (x : Move) (pa n : Nat) : Bool := (cxlOf pa).isNone || s.brokenAt x pa n

/-- The lane of an outstanding access of a group that still needs the page, with its virtual address (R337). -/
def State.lostLane (s : State) (x : Move) (slot n : Nat) (op : LoadOp) : Option (Nat × Nat) :=
  ((op.access.find? (fun a => (sectorsOf [(a.pa, a.size)]).any (fun k => x.holds (32 * k) && op.missing.contains k))).map (fun a =>
      (a.lane, x.va + (a.pa - x.src)))).or
    (((s.pendingWrites slot).find? (fun w => w.ret == some n && w.spans.any (fun p => x.holds p.1))).map (fun w =>
      ((w.ops.head?.map (fun o => o.lane)).getD 0, w.va)))

/-- The accesses of a group that wait on a page as it is lost end in MIGLOSS (R337). -/
def State.loseAccess (s : State) (x : Move) (slot : Nat) : State :=
  (s.group slot).loads.foldl (fun acc e => match acc.lostLane x slot e.1 e.2 with
    | none => acc
    | some (lane, va) => acc.loseLoad slot e.1 lane va) s

/-- A leaf with LOST set (R282). -/
def withLost (e : Nat) : Nat := if bit e 52 then e else e + 2 ^ 52

/-- The sectors of a range get their tags at their own place. -/
def State.poisonRaw (s : State) (pa n : Nat) : State := (range (pa / 32) (n / 32)).foldl (fun acc k => acc.setPoison k true) s

/-- What the finding of lost chunks does before anything else (R337): LOST in the leaf, translations dropped, the lost
chunks poisoned at the place that is left, waiting accesses ended. -/
def State.markLost (s : State) (dom : Nat) (x : Move) : State :=
  if x.lost.isEmpty then s
  else
    let late : OwnWrite := .bits x.leafPa 8 0 (2 ^ 52)
    let s := if s.ownWaits late then s.ownWrite late else s.putHome [(x.leafPa, leBytes 8 (withLost (s.natAt x.leafPa 8)))]
    let s := s.dropLeaves dom x.space x.va x.size
    let left := if x.lossKind = 7 then x.src else x.dst
    let s := x.lost.foldl (fun acc j => acc.poisonRaw (left + 4096 * j) 4096) s
    let s := s.notifyPhys x.src x.size
    (s.groups.map (fun e => e.1)).foldl (fun acc g => acc.loseAccess x g) s

/-- The move once a location is found lost (R331, R333). -/
def Move.after (x : Move) (cursor : Nat) (source : Bool) : Move :=
  let inFront := range cursor (x.count - cursor)
  let behind := x.written.filter (fun j => decide (j < cursor))
  if source then { x with lossKind := 8, lost := nub ((if x.lossKind = 7 then x.lost ++ range 0 cursor else []) ++ inFront) }
  else { x with lossKind := 7, lost := behind }

/-- A location of a move is found lost (R331, R333, R337): a move that commits shows its c again (R338). -/
def State.loseLocation (s : State) (dom die : Nat) (x : Move) (source : Bool) : State :=
  let y := x.after ((s.dom dom).mig die).cursor source
  (s.modMig dom die (fun m => { m with
    state := if source then 2 else 3, cursor := if source then m.copied else m.cursor, abort := false, move := some y })).markLost dom y

/-- LOCATION_LOST (R331, R333, R337). -/
def execLocationLost (dom die : Nat) (source : Bool) (s : State) : Ev :=
  let m := (s.dom dom).mig die
  s.runs (match m.move with
    | none => s
    | some x =>
      if !(m.state == 1 || m.state == 3) || !s.mayLose x (if source then x.src else x.dst) x.size || (!source && x.lossKind == 7) then s
      else s.loseLocation dom die x source)

/-- The location of a move that is lost, before another chunk is copied or switched (R337): whether it is the source. -/
def State.brokenEnd (s : State) (x : Move) : Option Bool :=
  if x.lossKind != 7 && s.brokenAt x x.dst x.size then some false else if s.brokenAt x x.src x.size then some true else none

/-! ### Turns -/

/-- A set with a chunk to copy or to switch (R339). -/
def MigSet.moving (m : MigSet) : Bool := m.move.isSome && (m.state == 1 || m.state == 3)

/-- The domain whose move a die's traverse engine serves next: in turn, in ascending order (R339). -/
def State.inTurn (s : State) (die : Nat) : Option Nat :=
  ((range 0 8).map (fun i => (sget 0 s.moveTurn die + i) % 8)).find? (fun d => ((s.dom d).mig die).moving)

/-- The engine turns to the next domain (R339). -/
def State.turnOn (s : State) (die dom : Nat) : State := { s with moveTurn := sset 0 s.moveTurn die ((dom + 1) % 8) }

/-! ### Copies -/

/-- The home lines of a chunk. -/
def Move.chunkLines (x : Move) (j : Nat) : List Nat := range (lineOf x.src + 32 * j) 32

/-- Where the dirty lines of home lines lie. -/
def State.dirtyOf (s : State) (lines : List Nat) : List Nat :=
  (lines.map (fun n => lineOf (s.locate (128 * n)))).filter (fun n => (mget? s.dirty n).isSome)

/-- Dirty lines are written back where they may be (R335, R346). -/
def State.backAll (s : State) (lines : List Nat) : State :=
  (s.dirtyOf lines).foldl (fun acc n => if acc.backHeld n then acc else acc.writeBack n) s

/-- A line is read at one place of DRAM and written at another: both devices wake (R360). -/
def State.wakeBoth (s : State) (from_ to_ : Nat) : State := (s.wake (128 * from_)).wake (128 * to_)

/-- A chunk copied to the other location, with its tags, through the home (R313, R330, R349). -/
def State.copyChunk (s : State) (x : Move) (j to_ : Nat) : State :=
  (x.chunkLines j).foldl (fun acc n =>
    let r := acc.homeLine n
    let at_ := lineOf to_ + (n - lineOf x.src)
    { (r.2.putLine at_ r.1).wakeBoth n at_ with dirty := mdel r.2.dirty at_ }) s

/-- A chunk copied back to the source (R334): dirty lines stay dirty, with what DRAM held of them at the destination. -/
def State.bringBack (s : State) (x : Move) (j : Nat) : State :=
  (x.chunkLines j).foldl (fun acc n =>
    let r := acc.homeLine n
    let from_ := lineOf (acc.locate (128 * n))
    let t := (r.2.putLine n r.1).wakeBoth from_ n
    match mget? t.dirty from_ with
    | some old => { t with dirty := mset (mdel t.dirty from_) n old }
    | none => { t with dirty := mdel t.dirty n }) s

/-- CHUNK_COPY (R330, R331, R337, R339, R377): chunk c, its dirty lines written back first (log 19). -/
def execChunkCopy (dom die : Nat) (s : State) : Ev :=
  let m := (s.dom dom).mig die
  s.runs (match m.move with
    | none => s
    | some x =>
      if m.state ≠ 1 ∨ x.count ≤ m.cursor ∨ s.inTurn die ≠ some dom then s
      else match s.brokenEnd x with
        | some source => s.loseLocation dom die x source
        | none =>
          let t := (s.backAll (x.chunkLines m.cursor)).turnOn die dom
          if !(t.dirtyOf (x.chunkLines m.cursor)).isEmpty then t
          else
            let c := m.cursor + 1
            (t.copyChunk x m.cursor x.dst).modMig dom die (fun m =>
              { m with cursor := c, copied := c, state := if m.abort then 3 else if c = x.count then 2 else 1, abort := false }))

/-! ### Ends -/

/-- The chunk map (R340). -/
def Move.map (x : Move) (state : Nat) : List Byte :=
  let marks := if state = 6 then x.lost else if state = 5 then x.written else []
  let bs := bitBytes ((range 0 x.count).map (fun j => marks.contains j))
  bs ++ List.replicate ((bs.length + 63) / 64 * 64 - bs.length) 0

/-- The end of a move (R340): the map, MIG_STAT, and the interrupt once the map and the leaf are visible to every party. -/
def State.endMove (s : State) (dom die : Nat) (x : Move) (state code : Nat) : State :=
  let at_ := ((s.dom dom).mig die).map.toNat
  let bs := x.map state
  let skip := at_ == 0 || !aligned at_ 64 || !s.domHoldsRange dom at_ bs.length
  let s := if skip then s else if s.ownWaits (.bytes at_ bs) then s.ownPut at_ bs else s.putHome [(at_, bs)]
  (s.modMig dom die (fun m => { m with state := state, code := code, move := none, abort := false })).interruptAfter
    (dom + 1) (1 + die) (s.visibleAll ((x.leafPa, 8) :: (if skip then [] else [(at_, bs.length)])))

/-- The end of a move that has returned (R331, R340). -/
def State.endReturn (s : State) (dom die : Nat) (x : Move) : State :=
  if x.lost.isEmpty then s.endMove dom die x 5 x.lossKind else s.endMove dom die x 6 x.lossKind

/-- A chunk written at a lost destination is switched to the source as lost (R334, R337). -/
def State.loseChunk (s : State) (dom die : Nat) (x : Move) (j : Nat) : State :=
  let y : Move := { x with lost := x.lost ++ [j] }
  let s : State := { s with dirty := s.dirty.filter (fun e => !(decide (x.dst + 4096 * j ≤ 128 * e.1) && decide (128 * e.1 < x.dst + 4096 * (j + 1)))) }
  (s.modMig dom die (fun m => { m with move := some y })).markLost dom y

/-- Chunk j stands at the source again: the cursor falls, and at 0 the move ends (R331). -/
def State.switched (s : State) (dom die j : Nat) : State :=
  let t := s.modMig dom die (fun m => { m with cursor := j })
  match ((t.dom dom).mig die).move with
  | some x => if j = 0 then t.endReturn dom die x else t
  | none => t

/-- CHUNK_RETURN (R331, R334, R337, R339): chunk r − 1 is switched, copied back first when it was written at the destination,
or lost with a lost destination; at r = 0 the move ends. -/
def execChunkReturn (dom die : Nat) (s : State) : Ev :=
  let m := (s.dom dom).mig die
  s.runs (match m.move with
    | none => s
    | some x =>
      if m.state ≠ 3 ∨ s.inTurn die ≠ some dom then s
      else if m.cursor = 0 then s.endReturn dom die x
      else match s.brokenEnd x with
        | some source => s.loseLocation dom die x source
        | none =>
          let j := m.cursor - 1
          let t := s.turnOn die dom
          if !x.written.contains j ∨ x.lost.contains j then t.switched dom die j
          else if x.lossKind = 7 then (t.loseChunk dom die x j).switched dom die j
          else (t.bringBack x j).switched dom die j)

/-! ### The commit -/

/-- A source address after the commit (R335). -/
def Move.moved (x : Move) (pa : Nat) : Nat := if x.holds pa then x.dst + (pa - x.src) else pa

/-- A source line after the commit. -/
def Move.overLine (x : Move) (n : Nat) : Nat := lineOf (x.moved (128 * n))

/-- A source sector after the commit. -/
def Move.overSector (x : Move) (k : Nat) : Nat := x.moved (32 * k) / 32

/-- Ranges after the commit. -/
def Move.overSpans (x : Move) (l : List (Nat × Nat)) : List (Nat × Nat) := l.map (fun p => (x.moved p.1, p.2))

/-- A lane's part of a write, forwarded to the new home (R335). -/
def Move.overAct (x : Move) : WriteAct → WriteAct
  | .store pa bs => .store (x.moved pa) bs
  | .atomic a pa n d w => .atomic a (x.moved pa) n d w
  | .addX at_ e d b => .addX (x.overSpans at_) e d b
  | .close at_ e b => .close (x.overSpans at_) e b
  | .cell pa bs p => .cell (x.moved pa) bs p

/-- The stage of a write, forwarded. -/
def Move.overStage (x : Move) : WriteStage → WriteStage
  | .replicating old => .replicating (old.map (fun e => (x.overLine e.1, e.2)))
  | z => z

/-- A write forwarded to the new home. -/
def Move.overWrite (x : Move) (w : HomeWrite) : HomeWrite :=
  { w with spans := x.overSpans w.spans, stage := x.overStage w.stage, ops := w.ops.map (fun o => { o with act := x.overAct o.act }) }

/-- A lane's write that is still to be sent, forwarded. -/
def Move.overSent (x : Move) (w : Sent) : Sent := { w with at_ := x.overSpans w.at_, act := x.overAct w.act }

/-- An outstanding access forwarded to the new home. -/
def Move.overLoad (x : Move) (op : LoadOp) : LoadOp :=
  { op with
    access := op.access.map (fun a => { a with pa := x.moved a.pa })
    missing := op.missing.map x.overSector
    repl := op.repl.map x.overLine
    lines := op.lines.map (fun e => (x.overSector e.1, e.2))
    kind := match op.kind with
      | .close cells later => .close (cells.map (fun c => (c.1, x.moved c.2.1, c.2.2))) (later.map x.overSent)
      | k => k }

/-- A monitor follows its word. -/
def Move.overSleep (x : Move) : Sleep → Sleep
  | .waitc w => .waitc { w with place := match w.place with
      | .phys pa => .phys (x.moved pa)
      | p => p }
  | z => z

/-- A covered line follows its page. -/
def Move.overWritten (x : Move) (w : Written) : Written := { w with line := x.overLine w.line }

/-- A group after the commit. -/
def Move.overGroup (x : Move) (g : Group) : Group :=
  { g with
    storeQ := g.storeQ.map x.overWrite
    loads := g.loads.map (fun e => (e.1, x.overLoad e.2))
    written := g.written.map x.overWritten
    lanes := g.lanes.map (fun l => { l with sleep := x.overSleep l.sleep, waited := l.waited.map (fun e => (x.moved e.1, e.2)) }) }

/-- What is on its way reaches the new home (R335 step 4). -/
def State.forward (s : State) (x : Move) : State :=
  { s with
    groups := s.groups.map (fun e => (e.1, x.overGroup e.2))
    saved := s.saved.map (fun t => { t with groups := t.groups.map (fun g =>
      { g with sleeps := g.sleeps.map x.overSleep, written := g.written.map x.overWritten }) })
    flight := s.flight.map x.overWrite
    acks := s.acks.map (fun a => { a with lines := a.lines.map x.overLine })
    fills := s.fills.map (fun f => { f with line := x.overLine f.line, secs := f.secs.map x.overSector }) }

/-- The lease-end records pass to the new home (R335 step 2). -/
def State.passLeases (s : State) (x : Move) : State :=
  let lines := if s.evicted.isEmpty then (s.leases.map (fun e => e.1)).filter (fun n => x.holds (128 * n))
    else range (lineOf x.src) (x.size / 128)
  lines.foldl (fun acc n =>
    let a := acc.leaseOf n
    let b := acc.leaseOf (x.overLine n)
    let r := (max a.1 b.1, max a.2 b.2)
    if r = (0, 0) then acc else { acc with leases := mset acc.leases (x.overLine n) r }) s

/-- The frame maps of the module's rope members follow the page (R379). -/
def State.moveFrames (s : State) (x : Move) : State :=
  { s with doms := s.doms.map (fun e => (e.1, { e.2 with rope := { e.2.rope with
      frames := e.2.rope.frames.map (fun f => (f.1, x.moved (65536 * f.2) / 65536)) } })) }

/-- A leaf with another page address (R282). -/
def withAddr (e pa : Nat) : Nat := e - entryAddr e + pa

/-- The dirty lines of a page's source that nothing can write back any more are gone. -/
def State.dropSourceDirty (s : State) (x : Move) : State :=
  { s with dirty := s.dirty.filter (fun e => !x.holds (128 * e.1)) }

/-- A line of the destination. -/
def Move.lands (x : Move) (n : Nat) : Bool := decide (x.dst ≤ 128 * n) && decide (128 * n < x.dst + x.size)

/-- No copy of a line of the destination from an earlier use of its frame stays in a cache (R162, R183). -/
def State.dropLanded (s : State) (x : Move) : State :=
  { s with
    cores := s.cores.map (fun e => (e.1, { e.2 with
      l1 := e.2.l1.filter (fun c => !x.lands c.1), ccache := e.2.ccache.filter (fun c => !x.lands c.1),
      icache := e.2.icache.filter (fun c => !x.lands c.1) }))
    rdc := s.rdc.filter (fun c => !x.lands c.1)
    fills := s.fills.map (fun f => if x.lands f.line then { f with keep := false, far := false } else f) }

/-- Steps 2 to 5 of R335, as far as they are done at once. -/
def State.commit (s : State) (dom die : Nat) (x : Move) : State :=
  let s := ((s.dropSourceDirty x).passLeases x).dropLanded x
  let late : OwnWrite := .bits x.leafPa 8 (entryAddr (s.natAt x.leafPa 8)) x.dst
  let s := if s.ownWaits late then s.ownWrite late else s.putHome [(x.leafPa, leBytes 8 (withAddr (s.natAt x.leafPa 8) x.dst))]
  let s := (((s.dropLeaves dom x.space x.va x.size).moveFrames x).modMig dom die (fun m =>
    { m with move := some { x with committed := some s.seq } })).forward x
  if homeDie x.src = homeDie x.dst then s else { s with rdc := s.rdc.filter (fun e => !x.holds (128 * e.1)) }

/-- MIGRATION_COMMIT (R335, R337, R340): the dirty lines first, then the leaf and the new home; the move ends once no access
that used the old leaf is left (R285). -/
def execMigrationCommit (dom die : Nat) (s : State) : Ev :=
  let m := (s.dom dom).mig die
  s.runs (match m.move with
    | none => s
    | some x =>
      if m.state ≠ 2 then s
      else if x.committed.isSome then
        if s.spaceQuiet dom x.space (x.committed.getD 0) then s.endMove dom die x (if x.lost.isEmpty then 4 else 6) (if x.lost.isEmpty then 0 else 8) else s
      else
        let lines := (s.dirty.map (fun e => lineOf (s.homeOf (128 * e.1)))).filter (fun n => x.holds (128 * n))
        let t := s.backAll lines
        if (t.dirtyOf lines).isEmpty then t.commit dom die x else t)

/-! ### Cairn counters -/

/-- CAIRN_EPOCH (R341): at the end of an epoch every counter of the domain is halved, rounding down. -/
def execCairnEpoch (dom : Nat) (s : State) : Ev :=
  let d := s.dom dom
  s.runs (if !d.active || !d.crnOn || decide (s.time < d.crnNext) then s
    else
      let t := (range 0 d.crnCount.toNat).foldl (fun acc i =>
        let at_ := d.crnBase.toNat + 2 * i
        let n := acc.natAt at_ 2
        if n = 0 ∨ !acc.domHolds dom at_ then acc else acc.ownPut at_ (leBytes 2 (n / 2))) s
      t.modDom dom (fun d => { d with crnNext := d.crnNext + 2 ^ (d.crnEpoch.toNat + 10) }))

end Sys2Proof.Machine
end

