-- ==== Sys2Proof/Machine/Windows.lean ====
section
/-! DEFINITION. The host link's windows (R356, R357, R359, R364): writes of registers without behaviour of their own,
INT_STAT, LNK_CFG and PWR_STAT, and what a read of each register gives. Window 0 is the management window, window 1 + d
the window of domain d; sizes are in bytes. -/

namespace Sys2Proof.Machine

/-! ### Writes -/

/-- Store a value in a plain register of a domain window (R251, R285, R290, R303, R307, R319, R338, R341, R350). -/
def Domain.setReg (d : Domain) (off size : Nat) (v : DWord) : Domain :=
  let w : Word := v.setWidth 32
  match size, off with
  | 8, 0x0110 => { d with saveBase := v }
  | 8, 0x0118 => { d with saveLen := v }
  | 4, 0x0120 => { d with drainLimit := w }
  | 8, 0x0208 => { d with invAddr := v }
  | 8, 0x0210 => { d with invLen := v }
  | 8, 0x0308 => { d with ownAddr := v }
  | 8, 0x0310 => { d with ownLen := v }
  | 4, 0x0710 => { d with fbHead := w }
  | 8, 0x0730 => { d with fbRaddr := v }
  | 8, 0x0740 => { d with vecBase := v }
  | 8, 0x0908 => { d with mig0 := { d.mig0 with va := v } }
  | 8, 0x0910 => { d with mig0 := { d.mig0 with dst := v } }
  | 8, 0x0918 => { d with mig0 := { d.mig0 with map := v } }
  | 8, 0x0948 => { d with mig1 := { d.mig1 with va := v } }
  | 8, 0x0950 => { d with mig1 := { d.mig1 with dst := v } }
  | 8, 0x0958 => { d with mig1 := { d.mig1 with map := v } }
  | 8, 0x0A00 => { d with crnBase := v }
  | 8, 0x0A08 => { d with crnFirst := v }
  | 4, 0x0A10 => { d with crnCount := w }
  | 8, 0x0B08 => { d with rope := { d.rope with arg := v } }
  | 8, 0x0B10 => { d with rope := { d.rope with descPa := v } }
  | _, _ => d

/-- CRN_CTL: the epoch counts from the write (R341). -/
def Domain.setCairn (d : Domain) (now : Nat) (v : Word) : Domain :=
  let e : BitVec 5 := v.extractLsb' 1 5
  { d with crnEpoch := e, crnOn := v.getLsbD 0, crnNext := now + 2 ^ (e.toNat + 10) }

/-- A mailbox; one that is not listed is as at reset (R303). -/
def State.mail (s : State) (win : Nat) : Mailbox := (mget? s.mailbox win).getD { buf := 0, code := 0, done := false }

/-- A write of a domain window (R356). The distributor registers of the die-1 block and every other byte ignore it. -/
def State.writeDomain (s : State) (win off size : Nat) (v : DWord) : State :=
  let dom := win - 1
  if !(s.dom dom).active || !s.ready then s
  else if size = 8 ∧ off = 0x0608 then { s with mailbox := mset s.mailbox win { s.mail win with buf := v } }
  else if size = 4 ∧ off = 0x0A18 then s.modDom dom (fun d => d.setCairn s.time (v.setWidth 32))
  else s.modDom dom (fun d => d.setReg off size v)

/-- Words 0 to 2 of a core map with one replaced. -/
def setMap (m : BitVec 192) (i : Nat) (v : DWord) : BitVec 192 :=
  (m &&& ~~~((BitVec.allOnes 64).setWidth 192 <<< (64 * i))) ||| (v.setWidth 192 <<< (64 * i))

/-- MEM_CHSTAT: the two counters take the value written (R325). -/
def Channel.write (c : Channel) (v : Word) : Channel := { c with ue := v.extractLsb' 16 16, ce := v.extractLsb' 4 12 }

/-- A write of the management window (R325, R364). -/
def State.writeManagement (s : State) (off size : Nat) (v : DWord) : State :=
  let w : Word := v.setWidth 32
  match size, off with
  | 8, 0x0110 => { s with pwrCores := setMap s.pwrCores 0 v }
  | 8, 0x0118 => { s with pwrCores := setMap s.pwrCores 1 v }
  | 8, 0x0120 => { s with pwrCores := setMap s.pwrCores 2 v }
  | 4, 0x0128 => { s with pwrLpd := w.extractLsb' 8 16, pwrHbm := w.extractLsb' 0 8 }
  | 4, 0x0138 => { s with warn := w.extractLsb' 0 8, hot := s.hot && decide (w.extractLsb' 0 8 ≤ s.temp) }
  | 8, 0x0608 => { s with mailbox := mset s.mailbox 0 { s.mail 0 with buf := v } }
  | 4, _ =>
    let n := (off - 0x1000) / 4
    if 0x1000 ≤ off ∧ off < 0x1500 then { s with channels := mset s.channels n ((s.channel n).write w) } else s
  | _, _ => s

/-- REGISTER_WRITE (R356): a register access of the register's own width and alignment stores its value; any other has no
effect. -/
def execRegisterWrite (win off size : Nat) (v : DWord) (s : State) : Ev :=
  s.runs (if size = 0 ∨ off % size ≠ 0 ∨ 9 ≤ win then s
    else if win = 0 then s.writeManagement off size v else s.writeDomain win off size v)

/-- INT_STAT_WRITE (R357): writing 1 to a bit clears it. -/
def execIntStatWrite (win : Nat) (v : Word) (s : State) : Ev :=
  s.runs (if win = 0 then { s with mgmtInt := s.mgmtInt &&& ~~~(v.setWidth 8) }
    else if (s.dom (win - 1)).active then
      { s with domInt := sset 0 s.domInt (win - 1) (sget 0 s.domInt (win - 1) &&& ~~~(v.setWidth 8)) }
    else s)

/-- LNK_CFG_WRITE (R359, R364): the first write that names a place inside the pod is accepted and locks the register. -/
def execLnkCfgWrite (v : Word) (s : State) : Ev :=
  let device : BitVec 10 := v.extractLsb' 16 10
  let podM1 : BitVec 10 := v.extractLsb' 2 10
  s.runs (if s.lnkLock || decide (podM1 < device) then s
    else { s with lnkLock := true, device := device, podM1 := podM1, planes := v.extractLsb' 0 2 })

/-- PWR_STAT_WRITE (R364). -/
def execPwrStatWrite (v : Word) (s : State) : Ev :=
  s.runs { s with tripped := s.tripped && !v.getLsbD 6, droop := s.droop && !v.getLsbD 5 }

/-! ### Reads -/

/-- Bits of a register. -/
def regBit (b : Bool) (at_ : Nat) : Nat := b2n b * 2 ^ at_

/-- A set's MIG_STAT (R338). -/
def MigSet.stat (m : MigSet) : Nat :=
  m.state * 2 ^ 28 + m.code * 2 ^ 16 + regBit (m.walk.isSome || m.state == 1 || m.state == 2 || m.state == 3) 0

/-- The registers of a traverse-engine set (R338). -/
def MigSet.read (m : MigSet) (off size : Nat) : Nat :=
  match size, off with
  | 8, 0x08 => m.va.toNat
  | 8, 0x10 => m.dst.toNat
  | 8, 0x18 => m.map.toNat
  | 4, 0x20 => m.stat
  | 4, 0x28 => m.cursor
  | _, _ => 0

/-- A command of the rope is in progress (R350). -/
def Rope.isBusy (r : Rope) : Bool := r.busy != .none

/-- ROPE_SEQ of a position (R350). -/
def Rope.seqAt (r : Rope) (pos : Nat) : Nat :=
  match r.desc with
  | none => 0
  | some d => if dataPos pos && (d.self == pos || !dataPos d.self) then sget 0 r.seqs pos else 0

/-- The rope registers (R350). -/
def Rope.read (r : Rope) (off size : Nat) : Nat :=
  match size, off with
  | 8, 0x08 => r.arg.toNat
  | 8, 0x10 => r.descPa.toNat
  | 4, 0x18 => r.state * 2 ^ 28 + r.code * 2 ^ 16 + regBit r.isBusy 0
  | 8, 0x20 => r.cur
  | 4, 0x28 => r.lost.toNat
  | 8, _ => if 0x40 ≤ off ∧ off < 0x40 + 8 * 19 then r.seqAt ((off - 0x40) / 8) else 0
  | _, _ => 0

/-- A mailbox's registers (R303). -/
def Mailbox.read (m : Mailbox) (off size : Nat) : Nat :=
  match size, off with
  | 8, 0x0608 => m.buf.toNat
  | 4, 0x0610 => m.code.toNat * 2 ^ 16 + regBit m.done 1
  | _, _ => 0

/-- The distributor registers (R251): the two blocks read the same. -/
def Domain.readDst (d : Domain) (off size : Nat) : Nat :=
  match size, off with
  | 4, 0x08 => d.preState * 2 ^ 30 + d.preTeams
  | 8, 0x10 => d.saveBase.toNat
  | 8, 0x18 => d.saveLen.toNat
  | 4, 0x20 => d.drainLimit.toNat
  | _, _ => 0

/-- The registers of a domain's die-0 block (R285, R290, R292, R296, R307, R319, R338, R341, R350). -/
def Domain.read (d : Domain) (off size : Nat) : Nat :=
  match size, off with
  | 8, 0x0208 => d.invAddr.toNat
  | 8, 0x0210 => d.invLen.toNat
  | 4, 0x0218 => regBit d.invErr 1 + regBit d.invBusy.isSome 0
  | 8, 0x0308 => d.ownAddr.toNat
  | 8, 0x0310 => d.ownLen.toNat
  | 4, 0x0318 => regBit d.ownErr 1 + regBit d.ownBusy.isSome 0
  | 4, 0x0408 => regBit d.qcErr 1 + regBit d.qcWait.isSome 0
  | 4, 0x0500 => regBit d.peerSync 0
  | 8, 0x0700 => d.fbBase.toNat
  | 4, 0x0708 => d.fbDepth.toNat
  | 4, 0x0710 => d.fbHead.toNat
  | 4, 0x0718 => d.fbTail.toNat
  | 4, 0x0720 => d.dropCnt.toNat * 2 ^ 16 + regBit d.fbBusy 1 + regBit d.dropped 0
  | 8, 0x0730 => d.fbRaddr.toNat
  | 8, 0x0740 => d.vecBase.toNat
  | 8, 0x0A00 => d.crnBase.toNat
  | 8, 0x0A08 => d.crnFirst.toNat
  | 4, 0x0A10 => d.crnCount.toNat
  | 4, 0x0A18 => d.crnEpoch.toNat * 2 + regBit d.crnOn 0
  | _, _ =>
    if 0x0100 ≤ off ∧ off < 0x0124 then d.readDst (off - 0x0100) size
    else if 0x0900 ≤ off ∧ off < 0x0940 then d.mig0.read (off - 0x0900) size
    else if 0x0940 ≤ off ∧ off < 0x0980 then d.mig1.read (off - 0x0940) size
    else if 0x0B00 ≤ off ∧ off < 0x0C00 then d.rope.read (off - 0x0B00) size
    else if 0x1100 ≤ off ∧ off < 0x1124 then d.readDst (off - 0x1100) size
    else 0

/-- The management registers (R325, R364). -/
def State.readManagement (s : State) (off size : Nat) : Nat :=
  match size, off with
  | 4, 0x0000 => 0x09400100
  | 8, 0x0008 => s.serial.toNat % 2 ^ 64
  | 8, 0x0010 => s.serial.toNat / 2 ^ 64
  | 4, 0x0018 => s.epoch.toNat * 2 ^ 16 + regBit s.bootFail 1 + regBit s.ready 0
  | 4, 0x0108 => regBit s.pwrBusy 31 + regBit s.tripped 6 + regBit s.droop 5 + regBit s.refused 4 + regBit s.idle 3 + s.point.toNat
  | 8, 0x0110 => s.pwrCores.toNat % 2 ^ 64
  | 8, 0x0118 => bits s.pwrCores.toNat 64 64
  | 8, 0x0120 => bits s.pwrCores.toNat 128 64
  | 4, 0x0128 => s.pwrLpd.toNat * 2 ^ 8 + s.pwrHbm.toNat
  | 4, 0x0130 => s.watts.toNat
  | 4, 0x0138 => s.warn.toNat
  | 4, 0x0140 => s.temp.toNat
  | 4, 0x0200 => regBit s.lnkLock 31 + s.device.toNat * 2 ^ 16 + s.podM1.toNat * 2 ^ 2 + s.planes.toNat
  | 4, 0x0208 => regBit s.cxl1.up 17 + regBit s.cxl0.up 16 + s.uaUp.toNat
  | 4, 0x0C00 => s.mgmtInt.toNat
  | 4, _ =>
    let n := (off - 0x1000) / 4
    let c := s.channel n
    if 0x1000 ≤ off ∧ off < 0x1500 then c.ue.toNat * 2 ^ 16 + c.ce.toNat * 2 ^ 4 + c.state else (s.mail 0).read off size
  | _, _ => (s.mail 0).read off size

/-- What a read of a register gives (R356): 0 for one of another width or alignment, of a byte with no register, and in
the window of a domain that is off or before READY. A halted module answers nothing. -/
def State.regRead (s : State) (win off size : Nat) : Nat :=
  if size = 0 ∨ off % size ≠ 0 ∨ 9 ≤ win ∨ s.stopped then 0
  else if win = 0 then s.readManagement off size
  else
    let d := s.dom (win - 1)
    if !d.active || !s.ready then 0
    else if off = 0x0C00 ∧ size = 4 then (sget 0 s.domInt (win - 1)).toNat
    else if 0x0600 ≤ off ∧ off < 0x0618 then (s.mail win).read off size
    else d.read off size

end Sys2Proof.Machine
end

