-- ==== Sys2Proof/Machine/Rope.lean ====
section
/-! DEFINITION. Rope members (R342 to R354, R375, R379): the descriptor, decoding, seeding, deltas at a holder, rebuild,
repair and the commands. What other members hold comes in through the events. -/

namespace Sys2Proof.Machine

/-! ### The descriptor -/

/-- A MEMBER entry is well formed (R342). -/
def memberOk (used : Bool) (e : Nat) : Bool := bits e 13 18 == 0 && bit e 31 == used

/-- The descriptor of 256 bytes, when it is well formed (R342). Parity lies in whole lines. -/
def ropeDescOf (bs : List Byte) : Option RopeDesc :=
  let f (at_ n : Nat) : Nat := leNat (slice bs at_ n)
  let k := f 0 1
  let m := f 1 1
  let self := f 2 1
  let used := usedPositions k m
  if decide (1 ≤ k) && decide (k ≤ 16) && decide (1 ≤ m) && decide (m ≤ 3) && used.contains self && f 3 1 == 0 &&
      aligned (f 8 8) 65536 && aligned (f 16 8) 65536 && f 16 8 != 0 && decide (f 24 2 < 4096) && f 26 6 == 0 &&
      (if dataPos self then f 32 8 == 0 && f 40 8 == 0 else aligned (f 32 8) 128) && f 48 16 == 0 && f 140 116 == 0 &&
      (range 0 19).all (fun p => memberOk (used.contains p) (f (64 + 4 * p) 4)) then
    some { bytes := bs, k := k, m := m, self := self, ropeId := f 4 4, pvbase := f 8 8, plen := f 16 8, pspace := f 24 2,
           parbase := f 32 8, logbase := f 40 8, members := (range 0 19).foldl (fun l p => sset 0 l p (f (64 + 4 * p) 4)) [] }
  else none

/-- The stripes of a rope (R343). -/
def RopeDesc.stripes (d : RopeDesc) : Nat := d.plen / 128

/-- A long range of device memory a domain holds, granule by granule. -/
def State.domHoldsAll (s : State) (dom lo len : Nat) : Bool :=
  s.domHoldsRange dom lo len && (range 0 (len / 0x1000000000)).all (fun i => s.domHolds dom (lo + i * 0x1000000000))

/-- The descriptor at ROPE_DESC, when it and what it names lie in the domain's memory (R342, R351). -/
def State.ropeDescAt (s : State) (dom : Nat) : Option RopeDesc :=
  let at_ := (s.dom dom).rope.descPa.toNat
  if !aligned at_ 256 || !s.domHoldsRange dom at_ 256 || s.homePoisonIn at_ 256 then none
  else match ropeDescOf (s.homeBytes at_ 256) with
    | none => none
    | some d => if dataPos d.self || (s.domHoldsAll dom d.parbase d.plen && s.domHoldsAll dom d.logbase 0x1000000) then some d else none

/-! ### Ends of commands -/

/-- Change a domain's rope. -/
def State.modRope (s : State) (dom : Nat) (f : Rope → Rope) : State := s.modDom dom (fun d => { d with rope := f d.rope })

/-- A rope command is over (R350, R357). -/
def State.ropeDone (s : State) (dom code : Nat) : State :=
  (s.modRope dom (fun r => { r with code := code, busy := .none })).interrupt (dom + 1) 3

/-- The device time past which every party sees the writes performed so far, whichever lines they are (R170, R172). -/
def State.allVisible (s : State) : Nat :=
  (s.leases ++ s.evicted).foldl (fun n e => max n (max e.2.1 e.2.2)) (max (s.dieTime 0) (s.dieTime 1)) + Config.skewGuard

/-- A rope command that wrote lines is over: its completion is released at system scope before the interrupt (R350, R357). -/
def State.ropeWrote (s : State) (dom code : Nat) : State :=
  (s.modRope dom (fun r => { r with code := code, busy := .none })).interruptAfter (dom + 1) 3 s.allVisible

/-- The OP and POS fields of ROPE_CMD (R350). -/
def ropeOp (v : Word) : Nat := (v.extractLsb' 28 4).toNat
def ropePos (v : Word) : Nat := (v.extractLsb' 0 5).toNat

/-- A rope command is heard (R350, R356). -/
def Domain.hearsRope (d : Domain) (v : Word) (op : Nat) : Bool := d.active && !d.rope.isBusy && ropeOp v == op

/-- A position is rebuilt, as a member learns it (R375). -/
def Rope.restored (r : Rope) (pos : Nat) : Rope :=
  let lost := r.lost &&& ~~~(BitVec.twoPow 19 pos)
  { r with lost := lost, starts := mdel r.starts pos, state := if r.state = 3 ∧ lost = 0 then 2 else r.state }

/-- A member learns that a position has been rebuilt (R375). -/
def State.learnRebuilt (s : State) (dom pos : Nat) : State :=
  let r := (s.dom dom).rope
  if r.state = 0 ∨ !r.lost.getLsbD pos then s else (s.modRope dom (fun r => r.restored pos)).interrupt (dom + 1) 3

/-- The other domains of the module that are members of a rope. -/
def State.sameRope (s : State) (dom : Nat) (d : RopeDesc) : List Nat :=
  (s.doms.filter (fun e => e.1 != dom && e.2.rope.state != 0 && (match e.2.rope.desc with
    | some x => x.ropeId == d.ropeId
    | none => false))).map (fun e => e.1)

/-- Every unlost member clears a rebuilt position (R375), and so does every other replacement, whose ROPE_LOST holds the positions
that are lost now: those of this module at once, the others by a message. -/
def State.tellRestored (s : State) (dom : Nat) (r : Rope) (d : RopeDesc) : State :=
  let told := (usedPositions d.k d.m).filter (fun p => p != d.self)
  let s := (s.sameRope dom d).foldl (fun acc o =>
    match (acc.dom o).rope.desc with
    | some x => if (r.others d).contains x.self || (acc.dom o).rope.state == 5 then acc.learnRebuilt o d.self else acc
    | none => acc) s
  { s with outbox := s.outbox ++ (told.filter (fun p => (s.localMember d p).isNone)).map (fun p =>
      Msg.restored (d.module p) d.ropeId p d.self) }

/-- The cursor has passed the last stripe (R351, R375): a rebuilt position is lost no more, at itself last. -/
def State.ropeFinished (s : State) (dom : Nat) (d : RopeDesc) (rebuilt : Bool) : State :=
  let s := if rebuilt then (s.tellRestored dom (s.dom dom).rope d).modRope dom (fun r => { r with lost := r.lost &&& ~~~(BitVec.twoPow 19 d.self) })
    else s
  (s.modRope dom (fun r => { r with state := if r.lost = 0 then 2 else 3 })).ropeWrote dom 0

/-! ### Joining and seeding -/

/-- The frame map as JOIN builds it (R379). -/
def State.framesOf (s : State) (dom : Nat) (d : RopeDesc) : List (Nat × Nat) :=
  if !dataPos d.self then []
  else (range 0 d.steps).filterMap (fun k => (s.frameAt dom d k).map (fun f => (k, f)))

/-- Bytes of device memory set to zero, without poison, in DRAM (R278, R351). -/
def State.zeroMem (s : State) (hit : Nat → Bool) : State :=
  { s with
    mem := s.mem.filter (fun c => !hit c.1)
    memPoison := s.memPoison.filter (fun e => !hit (32 * e.1))
    dirty := s.dirty.filter (fun e => !hit (128 * e.1)) }

/-- The positions a running member counts as lost, its own among them while it is rebuilt (R351, R375). -/
def Rope.allLost (r : Rope) : BitVec 19 :=
  match r.desc with
  | some d => if r.state = 5 then r.lost ||| BitVec.twoPow 19 d.self else r.lost
  | none => r.lost

/-- Whether SELF is a lost position of a running rope, and which other positions are lost there: known from the members in
this module, else a free value, since other modules say so (R351, R375). -/
def State.lostThere (s : State) (dom : Nat) (d : RopeDesc) : Option (BitVec 19) :=
  let others (m : BitVec 19) : BitVec 19 := m &&& ~~~(BitVec.twoPow 19 d.self)
  match s.sameRope dom d with
  | [] =>
    let n := Config.free s.free
    if n % 2 = 0 then none
    else some (others ((usedPositions d.k d.m).foldl (fun b p => if bit n (p + 1) then b ||| BitVec.twoPow 19 p else b) 0))
  | os =>
    if os.any (fun o => (s.dom o).rope.lost.getLsbD d.self) then
      some (others (os.foldl (fun b o => b ||| (s.dom o).rope.allLost) 0))
    else none

/-- The rope of a member that joins (R345, R351, R353, R354). -/
def Rope.joined (r : Rope) (d : RopeDesc) (frames : List (Nat × Nat)) (lost : Option (BitVec 19)) : Rope :=
  let cut := r.arg.toNat % 2 ^ 48
  let first := if lost.isSome ∧ dataPos d.self then cut else 0
  { Rope.reset with
    arg := r.arg, descPa := r.descPa, desc := some d, frames := frames
    state := if lost.isSome then 5 else 1
    busy := if lost.isSome then .rebuilding else .seeding
    lost := lost.getD 0
    seqs := if dataPos d.self then [(d.self, first)] else if lost.isSome then [] else (range 0 d.k).map (fun p => (p, 0))
    acked := d.holders.foldl (fun m p => sset 0 m p first) [] }

/-- Free bytes, numbered from k (log 56). -/
def freeBytes (k n : Nat) : List Byte := (range 0 n).map (fun i => BitVec.ofNat 8 (Config.free (k + i)))

/-- A holder that joins by seeding: PARBASE reads zero, and the log's bytes, whose content is not architectural, are free
values (R351; log 56). -/
def State.initHolder (s : State) (d : RopeDesc) : State :=
  let log (pa : Nat) : Bool := decide (d.logbase ≤ pa) && decide (pa < d.logbase + 0x1000000)
  let t := s.zeroMem (fun pa => (decide (d.parbase ≤ pa) && decide (pa < d.parbase + d.plen)) || log pa)
  { t with mem := putBytes t.mem d.logbase (freeBytes (2 ^ 130 * (s.free + 1)) 0x1000000) }

/-- A rebuilding member, or one that repairs a page, reads the inputs of its next stripe (R353). -/
def State.askNext (s : State) (dom : Nat) : State :=
  let r := (s.dom dom).rope
  match r.desc with
  | some d => s.askStripe d r.cur (r.others d)
  | none => s

/-- JOIN (R351, R353, R379). -/
def execJoin (dom : Nat) (v : Word) (s : State) : Ev :=
  let r := (s.dom dom).rope
  s.runs (if !(s.dom dom).hearsRope v 1 then s
    else if r.state ≠ 0 then s.ropeDone dom 2
    else match s.ropeDescAt dom with
      | none => s.ropeDone dom 1
      | some d =>
        let lost := s.lostThere dom d
        let frames := s.framesOf dom d
        let t : State := { s with free := s.free + 1 }
        let t := if dataPos d.self || lost.isSome then t else t.initHolder d
        let t := t.modRope dom (fun r => r.joined d frames lost)
        if lost.isSome then t.askNext dom else t)

/-- SEED_STRIPE (R351, R379): a data member sends its next protected line as a delta against zero; a holder has nothing
to send. -/
def execSeedStripe (dom : Nat) (s : State) : Ev :=
  let r := (s.dom dom).rope
  s.runs (match r.desc with
    | none => s
    | some d =>
      if r.busy ≠ .seeding then s
      else if !dataPos d.self then (s.modRope dom (fun r => { r with cur := d.stripes })).ropeFinished dom d false
      else
        match r.lineOf r.cur with
        | some n =>
          if !r.roomFor 1 then s
          else
            let t := (s.sendDeltas dom r.cur (s.dramLine n)).modRope dom (fun r => { r with cur := r.cur + 1 })
            if r.cur + 1 = d.stripes then t.ropeFinished dom d false else t
        | none =>
          let t := s.modRope dom (fun r => { r with cur := r.cur + 1 })
          if d.stripes ≤ r.cur + 1 then t.ropeFinished dom d false else t)

/-! ### A holder -/

/-- A coded line added to a parity line; tags are only set (R346). -/
def State.xorParity (s : State) (pa : Nat) (x : Line) : State :=
  let s := s.writeHome pa (List.zipWith (· ^^^ ·) (s.bytesAt pa 128) x.bytes)
  (range 0 4).foldl (fun acc i => if x.poison.getD i false then acc.poisonRange (pa + 32 * i) 32 else acc) s

/-- The acknowledgement of a delta. -/
def State.ackDelta (s : State) (d : RopeDesc) (x : Delta) : State :=
  { s with outbox := s.outbox ++ [.deltaAck (d.module x.source) x.source x.seq] }

/-- A holder applies a delta in order (R346, R353): added to its parity line, unless a rebuild has not reached the stripe
yet; logged; acknowledged. -/
def State.applyDelta (s : State) (dom : Nat) (d : RopeDesc) (x : Delta) : State :=
  let r := (s.dom dom).rope
  let s := if r.state = 5 ∧ r.cur ≤ x.stripe then s else s.xorParity (d.parbase + 128 * x.stripe) x.line
  let mark := max (sget 0 r.retired x.source) x.retire
  (s.modRope dom (fun r => { r with
    seqs := mset r.seqs x.source x.seq
    retired := sset 0 r.retired x.source mark
    logs := sset [] r.logs x.source ((sget [] r.logs x.source ++ [x]).filter (fun e => decide (mark < e.seq))) })).ackDelta d x

/-- Deltas that waited for their predecessor are applied in turn (R346). -/
def State.drainDeltas (s : State) (dom : Nat) (d : RopeDesc) (source : Nat) : Nat → State
  | 0 => s
  | n + 1 =>
    let r := (s.dom dom).rope
    match mget? r.seqs source with
    | none => s
    | some q => match r.early.find? (fun x => x.source == source && x.seq == q + 1) with
      | none => s
      | some x => ((s.modRope dom (fun r => { r with early := r.early.filter (fun y => y != x) })).applyDelta dom d x).drainDeltas dom d source n

/-- DELTA_APPLY (R327, R346, R351, R354): a delta is taken only from the module and domain its source position is at, the replacement's
once it is installed; one of a lost position is refused until then, one already applied is acknowledged again, one ahead of
its turn waits. -/
def execDeltaApply (dom : Nat) (x : Delta) (s : State) : Ev :=
  let r := (s.dom dom).rope
  s.runs (match r.desc with
    | none => s
    | some d =>
      if r.state = 0 ∨ dataPos d.self ∨ x.ropeId ≠ d.ropeId ∨ d.k ≤ x.source ∨ d.stripes ≤ x.stripe ∨ x.module ≠ d.module x.source ∨ x.domain ≠ d.domain x.source ∨
          (r.lost.getLsbD x.source ∧ (mget? r.starts x.source).isNone) then s
      else if (match mget? r.seqs x.source with | some q => decide (x.seq ≤ q) | none => false) then s.ackDelta d x
      else
        let t := s.modRope dom (fun r => { r with early := r.early.filter (fun y => !(y.source == x.source && y.seq == x.seq)) ++ [x] })
        t.drainDeltas dom d x.source (r.early.length + 1))

/-- REBUILD_START_MARKER (R354): a rebuilding holder takes a data member's deltas from s0 + 1. -/
def execRebuildStartMarker (dom pos s0 : Nat) (s : State) : Ev :=
  let r := (s.dom dom).rope
  s.runs (match r.desc with
    | none => s
    | some d =>
      if r.state = 0 ∨ dataPos d.self ∨ d.k ≤ pos then s
      else
        let t : State := { s with outbox := s.outbox ++ [.deltaAck (d.module pos) pos s0] }
        if (mget? r.seqs pos).isSome then t
        else (t.modRope dom (fun r => { r with seqs := mset r.seqs pos s0, retired := sset 0 r.retired pos s0 })).drainDeltas dom d pos (r.early.length + 1))

/-! ### Rebuild and repair -/

/-- A delta of a stripe, or to a position that rebuilds, is still on its way (R349, R353). -/
def State.deltasOpen (s : State) (dom stripe from_ : Nat) : Bool :=
  s.remote.any (fun q => match q.kind with
    | .delta o p x => o == dom && (x.stripe == stripe || p == from_)
    | _ => false)

/-- The positions whose lines a decoding may use: used, not lost, not its own (R349, R353). -/
def Rope.sources (r : Rope) (d : RopeDesc) : List Nat :=
  (usedPositions d.k d.m).filter (fun p => p != d.self && !r.lost.getLsbD p)

/-- The inputs a decoding uses: what a member of this module holds itself, and what the others have answered (R349, R353). -/
def State.inputsOf (s : State) (r : Rope) (d : RopeDesc) (xs : List StripeInput) : List StripeInput :=
  (r.sources d).filterMap (fun p => if (s.localMember d p).isSome then some { position := p, line := s.inputOf d p r.cur }
    else xs.find? (fun x => x.position == p))

/-- A data member of this module does not answer yet: deltas of its line, or to the position that rebuilds, are on their way
(R349, R353). -/
def State.inputsWait (s : State) (r : Rope) (d : RopeDesc) : Bool :=
  (r.sources d).any (fun p => dataPos p && (match s.localMember d p with
    | some (o, _, _) => s.deltasOpen o r.cur d.self
    | none => false))

/-- A rebuilt line stands in DRAM, unshared with any older content (R353). -/
def State.placeLine (s : State) (at_ : Nat) (x : Line) : State :=
  ({ s.putLine at_ x with dirty := mdel s.dirty at_ } : State).notifyPhys (s.homeOf (128 * at_)) 128

/-- Where a stripe of a member lies: its frame, or its parity line (R343, R379). -/
def Rope.placeOf (r : Rope) (d : RopeDesc) (stripe : Nat) : Option Nat :=
  if dataPos d.self then r.lineOf stripe else some (d.parbase / 128 + stripe)

/-- A replacement ends with too few positions (R351, R353): BROKEN, its lines from the cursor on poisoned. -/
def State.tooFew (s : State) (dom : Nat) (r : Rope) (d : RopeDesc) : State :=
  let t := (range r.cur (d.stripes - r.cur)).foldl (fun acc n => match r.placeOf d n with
    | some l => acc.poisonRange (128 * l) 128
    | none => acc) s
  (t.modRope dom (fun r => { r with state := 4, mute := true })).ropeWrote dom 6

/-- One stripe of a rebuild (R353). -/
def State.rebuildOne (s : State) (dom : Nat) (r : Rope) (d : RopeDesc) (xs : List StripeInput) : State :=
  if xs.length < d.k then s.tooFew dom r d
  else
    let t : State := { s with free := s.free + 1 }
    let t := match r.placeOf d r.cur with
      | some l => t.placeLine (lineOf (t.locate (128 * l))) (decodeInputs s.free d.k d.self xs)
      | none => t
    let t := t.modRope dom (fun r => { r with cur := r.cur + 1 })
    if d.stripes ≤ r.cur + 1 then t.ropeFinished dom d true else t.askNext dom

/-- The sectors of a line that carry poison take the decoded ones. -/
def mendSectors (x y : Line) : Line := mixLines (fun i => x.poison.getD i false) x y

/-- A line repaired in place (R353): its DRAM content is the decoded one; a newer content in the L2 keeps its clean
sectors. -/
def State.mendLine (s : State) (at_ : Nat) (y : Line) : State :=
  if (mget? s.dirty at_).isSome then
    ({ s.putLine at_ (mendSectors (s.rawLine at_) y) with dirty := mset s.dirty at_ y } : State).notifyPhys (s.homeOf (128 * at_)) 128
  else s.placeLine at_ y

/-- One line of a REPAIR (R353); lines it has written are released before the interrupt of its end (R350). -/
def State.repairOne (s : State) (dom : Nat) (r : Rope) (d : RopeDesc) (va frame : Nat) (xs : List StripeInput) : State :=
  if xs.length < d.k then (if r.cur % 512 = 0 then s.ropeDone dom 6 else s.ropeWrote dom 6)
  else
    let n := 512 * frame + r.cur % 512
    let t : State := { s with free := s.free + 1 }
    let t := t.mendLine (lineOf (t.locate (128 * n))) (decodeInputs s.free d.k d.self xs)
    let t := t.modRope dom (fun r => { r with cur := r.cur + 1 })
    if (va - d.pvbase) / 128 + 512 ≤ r.cur + 1 then t.ropeWrote dom 0 else t.askNext dom

/-- The leaf walk of a REPAIR (R283, R350, R353): the page must stand in the frame map. -/
def State.repairWalk (s : State) (dom : Nat) (r : Rope) (d : RopeDesc) (va : Nat) : State :=
  let ag : Agent := .rope dom
  if !dataPos d.self || !aligned va 65536 || decide (va < d.pvbase) || decide (d.pvbase + d.plen ≤ va) ||
      (s.endedCause ag 0 d.pspace va).isSome then (s.clearWaits ag).ropeDone dom 5
  else if s.walkWaits dom d.pspace va (fun _ => none) then s.modRope dom (fun r => { r with busy := .walking va })
  else match s.walk dom d.pspace va with
    | .held => s
    | .bad level => (s.modRope dom (fun r => { r with busy := .walking va })).enterFault ag 0 dom d.pspace va .read true level 8
    | .leaf _ level e =>
      let frame := (entryAddr e + va % levelSize level) / 65536
      let step := (va - d.pvbase) / 65536
      if mget? r.frames step = some frame then
        ((s.clearWaits ag).modRope dom (fun r => { r with busy := .repairing va frame, code := 0, cur := 512 * step })).askNext dom
      else (s.clearWaits ag).ropeDone dom 5

/-- REBUILD_STRIPE (R353): the next stripe of a rebuild or of a REPAIR. -/
def execRebuildStripe (dom : Nat) (inputs : List StripeInput) (s : State) : Ev :=
  let r := (s.dom dom).rope
  s.runs (match r.desc with
    | none => s
    | some d =>
      let xs := s.inputsOf r d inputs
      match r.busy with
      | .rebuilding => if s.inputsWait r d then s else s.rebuildOne dom r d xs
      | .repairing va frame => if s.inputsWait r d then s else s.repairOne dom r d va frame xs
      | .walking va => if s.agentWaits (.rope dom) then s else s.repairWalk dom r d va
      | _ => s)

/-- What a member's line of a stripe is in DRAM (R349). -/
def State.stripeLine (s : State) (r : Rope) (d : RopeDesc) (stripe : Nat) : Line :=
  match r.placeOf d stripe with
  | some l => if dataPos d.self then s.dramLine l else s.line l
  | none => Line.zero

/-- REPAIR_INPUT_REQUEST (R349, R353): a data member holds write-backs of the line from the first look on, and answers
when its earlier deltas have been applied. -/
def execRepairInputRequest (dom stripe from_ : Nat) (s : State) : Ev :=
  let r := (s.dom dom).rope
  s.runs (match r.desc with
    | none => s
    | some d =>
      if r.state = 0 ∨ r.state = 5 ∨ d.stripes ≤ stripe then s
      else
        let t := if dataPos d.self && !r.frozen.contains stripe then s.modRope dom (fun r => { r with frozen := r.frozen ++ [stripe] }) else s
        if dataPos d.self && t.deltasOpen dom stripe from_ then t
        else { t with outbox := t.outbox ++ [.stripe dom stripe from_ (t.stripeLine r d stripe)] })

/-- A repair that asked for a line has ended (R349). -/
def State.thaw (s : State) (dom stripe : Nat) : State :=
  s.modRope dom (fun r => { r with frozen := r.frozen.filter (fun n => n != stripe) })

/-- A delta of the domain is on its way to a holder that is not lost. -/
def State.holdersOpen (s : State) (dom : Nat) : Bool :=
  s.remote.any (fun q => match q.kind with
    | .delta o p _ => o == dom && !(s.dom dom).rope.lost.getLsbD p
    | _ => false)

/-- A line's member has finished seeding, so that its write-backs are covered (R345, R348). -/
def State.covers (s : State) (line : Nat) : Bool :=
  match s.protectedAt line with
  | some (d, _) => (s.dom d).rope.state == 2 || (s.dom d).rope.state == 3 || (s.dom d).rope.state == 5
  | none => false

/-- SURVIVABLE_FLUSH (R347, R348): the named lines are written back; the answer leaves once the holders have acknowledged
their deltas. A line whose member has not finished seeding is answered only when it has. -/
def execSurvivableFlush (dom : Nat) (lines : List Nat) (s : State) : Ev :=
  let t := lines.foldl (fun acc n =>
    let at_ := lineOf (acc.locate (128 * n))
    if acc.backHeld at_ then acc else acc.writeBack at_) s
  s.runs (if lines.all (fun n => (mget? t.dirty (lineOf (t.locate (128 * n)))).isNone && t.covers n) && !t.holdersOpen dom then
      { t with outbox := t.outbox ++ [.flushAck dom] }
    else t)

/-! ### The other commands -/

/-- What a member sends as such is no longer sent. -/
def State.dropDeltas (s : State) (dom : Nat) : State :=
  { s with remote := s.remote.filter (fun q => match q.kind with
      | .delta o _ _ => o != dom
      | .marker o _ _ => o != dom
      | _ => true) }

/-- The membership ends (R278, R351). -/
def State.leaveRope (s : State) (dom : Nat) : State :=
  (s.dropDeltas dom).modRope dom (fun r => { Rope.reset with arg := r.arg, descPa := r.descPa })

/-- LEAVE (R351). -/
def execLeave (dom : Nat) (v : Word) (s : State) : Ev :=
  s.runs (if !(s.dom dom).hearsRope v 2 then s
    else if (s.dom dom).rope.state = 0 then s.ropeDone dom 0 else (s.leaveRope dom).ropeDone dom 0)

/-- The rope after a position is declared lost (R351). -/
def Rope.lose (r : Rope) (d : RopeDesc) (p : Nat) : Rope :=
  let lost := r.lost ||| BitVec.twoPow 19 p
  let n := ((usedPositions d.k d.m).filter (fun q => lost.getLsbD q)).length
  let broken := decide (d.m < n) || d.holders.all (fun q => lost.getLsbD q)
  { r with
    lost := lost
    starts := mdel r.starts p
    early := r.early.filter (fun x => x.source != p)
    state := if r.state = 2 ∨ r.state = 3 then (if broken then 4 else 3) else r.state }

/-- LOSE (R351): no deltas go to the position any more. -/
def execLose (dom : Nat) (v : Word) (s : State) : Ev :=
  let r := (s.dom dom).rope
  let p := ropePos v
  s.runs (if !(s.dom dom).hearsRope v 3 then s
    else match r.desc with
      | none => s.ropeDone dom 7
      | some d =>
        if !(usedPositions d.k d.m).contains p then s.ropeDone dom 3
        else
          let t : State := { s with remote := s.remote.filter (fun q => match q.kind with
              | .delta o h _ => !(o == dom && h == p)
              | .marker o h _ => !(o == dom && h == p)
              | _ => true) }
          (t.modRope dom (fun r => r.lose d p)).ropeDone dom 0)

/-- Logged deltas above a cut, latest first. -/
def aboveCut (log : List Delta) (cut : Nat) : List Delta := (log.filter (fun x => decide (cut < x.seq))).reverse

/-- SETCUT (R350, R352, R354): the cut is a sequence of 48 bits; a holder removes the logged deltas above the cut by applying them again, in descending order. -/
def execSetcut (dom : Nat) (v : Word) (s : State) : Ev :=
  let r := (s.dom dom).rope
  let p := ropePos v
  let cut := r.arg.toNat % 2 ^ 48
  s.runs (if !(s.dom dom).hearsRope v 4 then s
    else match r.desc with
      | none => s.ropeDone dom 7
      | some d =>
        if !(usedPositions d.k d.m).contains p then s.ropeDone dom 3
        else if dataPos d.self || !dataPos p then s.ropeDone dom 0
        else if cut < sget 0 r.retired p then s.ropeDone dom 4
        else
          let log := sget [] r.logs p
          let t := (aboveCut log cut).foldl (fun acc x =>
            acc.xorParity (d.parbase + 128 * x.stripe) { x.line with poison := [] }) s
          (t.modRope dom (fun r => { r with
            seqs := mset r.seqs p cut
            retired := sset 0 r.retired p cut
            logs := sset [] r.logs p (log.filter (fun x => decide (x.seq ≤ cut)))
            early := r.early.filter (fun x => x.source != p) })).ropeWrote dom 0)

/-- Two descriptors differ in nothing but a MEMBER entry (R354). -/
def sameButMember (x y : List Byte) (p : Nat) : Bool :=
  x.length == y.length && (range 0 256).all (fun i => decide (64 + 4 * p ≤ i ∧ i < 68 + 4 * p) || x.getD i 0 == y.getD i 0)

/-- The replacement of a position is installed (R354). -/
def State.installReplacement (s : State) (dom : Nat) (d : RopeDesc) (p : Nat) : State :=
  let r := (s.dom dom).rope
  let s0 := sget 0 r.seqs (if dataPos p then p else d.self)
  let s := s.modRope dom (fun r => { r with
    desc := some d
    starts := mset r.starts p s0
    acked := if dataPos d.self && !dataPos p then sset 0 r.acked p s0 else r.acked })
  if dataPos d.self && !dataPos p then s.post (d.module p) (.marker dom p s0) false else s

/-- REBUILD (R354). -/
def execRebuild (dom : Nat) (v : Word) (s : State) : Ev :=
  let r := (s.dom dom).rope
  let p := ropePos v
  s.runs (if !(s.dom dom).hearsRope v 5 then s
    else match r.desc with
      | none => s.ropeDone dom 7
      | some old => match s.ropeDescAt dom with
        | none => s.ropeDone dom 1
        | some d =>
          if !sameButMember old.bytes d.bytes p then s.ropeDone dom 1
          else if !r.lost.getLsbD p then s.ropeDone dom 3
          else (s.installReplacement dom d p).ropeDone dom 0)

/-- REPAIR (R350, R353). -/
def execRepair (dom : Nat) (v : Word) (s : State) : Ev :=
  let r := (s.dom dom).rope
  s.runs (if !(s.dom dom).hearsRope v 6 then s
    else match r.desc with
      | none => s.ropeDone dom 7
      | some d => if r.state = 2 ∨ r.state = 3 then s.repairWalk dom r d r.arg.toNat else s.ropeDone dom 6)

end Sys2Proof.Machine
end

