-- ==== Sys2Proof/Machine/Shake.lean ====
section
/-! DEFINITION. SHAKE256, the hash of the Seoft controller (R298 to R302): Keccak-f[1600] with rate 136 and padding 0x1F.
The spec names the function and does not define it; this is the published one (log 16). A state is 25 lanes of 64 bits,
lane x + 5y. -/

namespace Sys2Proof.Machine

/-- Bits of the step ρ, lane by lane. -/
def rhoOffsets : List Nat :=
  [0, 1, 62, 28, 27, 36, 44, 6, 55, 20, 3, 10, 43, 25, 39, 41, 45, 15, 21, 8, 18, 2, 61, 56, 14]

/-- The round constants of the step ι. -/
def iotaConstants : List (BitVec 64) :=
  [0x0000000000000001, 0x0000000000008082, 0x800000000000808A, 0x8000000080008000, 0x000000000000808B, 0x0000000080000001,
    0x8000000080008081, 0x8000000000008009, 0x000000000000008A, 0x0000000000000088, 0x0000000080008009, 0x000000008000000A] ++
  [0x000000008000808B, 0x800000000000008B, 0x8000000000008089, 0x8000000000008003, 0x8000000000008002, 0x8000000000000080,
    0x000000000000800A, 0x800000008000000A, 0x8000000080008081, 0x8000000000008080, 0x0000000080000001, 0x8000000080008008]

/-- A lane of a state. -/
def lane64 (a : List (BitVec 64)) (i : Nat) : BitVec 64 := a.getD i 0

/-- The step θ. -/
def theta (a : List (BitVec 64)) : List (BitVec 64) :=
  let c := (range 0 5).map (fun x => (range 0 5).foldl (fun v y => v ^^^ lane64 a (x + 5 * y)) 0)
  let d := (range 0 5).map (fun x => lane64 c ((x + 4) % 5) ^^^ (lane64 c ((x + 1) % 5)).rotateLeft 1)
  a.zipIdx.map (fun e => e.1 ^^^ lane64 d (e.2 % 5))

/-- The steps ρ and π: lane (x, y) comes from lane (x + 3y, x), rotated. -/
def rhoPi (a : List (BitVec 64)) : List (BitVec 64) :=
  (range 0 25).map (fun i =>
    let x := i % 5
    let y := i / 5
    let j := (x + 3 * y) % 5 + 5 * x
    (lane64 a j).rotateLeft (rhoOffsets.getD j 0))

/-- The step χ. -/
def chi (a : List (BitVec 64)) : List (BitVec 64) :=
  (range 0 25).map (fun i =>
    let x := i % 5
    let y := 5 * (i / 5)
    lane64 a i ^^^ (~~~(lane64 a ((x + 1) % 5 + y)) &&& lane64 a ((x + 2) % 5 + y)))

/-- One round. -/
def keccakRound (a : List (BitVec 64)) (rc : BitVec 64) : List (BitVec 64) :=
  ((chi (rhoPi (theta a))).zipIdx).map (fun e => if e.2 = 0 then e.1 ^^^ rc else e.1)

/-- Keccak-f[1600]. -/
def keccakF (a : List (BitVec 64)) : List (BitVec 64) := iotaConstants.foldl keccakRound a

/-- A block of 136 bytes absorbed. -/
def absorb (a : List (BitVec 64)) (block : List Byte) : List (BitVec 64) :=
  keccakF (a.zipIdx.map (fun e => if e.2 < 17 then e.1 ^^^ BitVec.ofNat 64 (leNat (slice block (8 * e.2) 8)) else e.1))

/-- The message with the padding of SHAKE. -/
def shakePad (bs : List Byte) : List Byte :=
  let n := 136 - bs.length % 136
  if n = 1 then bs ++ [0x9F] else bs ++ [0x1F] ++ List.replicate (n - 2) 0 ++ [0x80]

/-- Blocks absorbed one after another. -/
def absorbAll : Nat → List (BitVec 64) → List Byte → List (BitVec 64)
  | 0, a, _ => a
  | n + 1, a, bs => absorbAll n (absorb a (bs.take 136)) (bs.drop 136)

/-- Output blocks. -/
def squeeze : Nat → List (BitVec 64) → List Byte
  | 0, _ => []
  | n + 1, a => (a.take 17).flatMap (fun x => leBytes 8 x.toNat) ++ squeeze n (keccakF a)

/-- SHAKE256 with `n` bytes of output. -/
def shake256 (bs : List Byte) (n : Nat) : List Byte :=
  let p := shakePad bs
  (squeeze (n / 136 + 1) (absorbAll (p.length / 136) (List.replicate 25 0) p)).take n

end Sys2Proof.Machine
end

