-- ==== Sys2Proof/Machine/Seoft.lean ====
section
/-! DEFINITION. The Seoft controller (R277, R278, R298 to R303): firmware images, measurements, reports, and the domain
commands. SLH-DSA-SHAKE-256s and the Rhanex certificate are opaque (log 16). -/

namespace Sys2Proof.Machine

/-! ### Measurements and firmware -/

/-- 64 zero bytes. -/
def zeros64 : List Byte := List.replicate 64 0

/-- A measurement slot (R298). -/
def State.measOf (s : State) (i : Nat) : List Byte := (mget? s.meas i).getD zeros64

/-- A domain's measurement slot (R298). -/
def State.dmeasOf (s : State) (d : Nat) : List Byte := (mget? s.dmeas d).getD zeros64

/-- An extension (R300). -/
def extend (m bs : List Byte) : List Byte := shake256 (m ++ bs) 64

/-- A firmware image of a kind is accepted (R299). -/
def imageOk (keyDigest : List Byte) (minSvn : List Nat) (kind : Nat) (im : List Byte) : Bool :=
  let f (at_ n : Nat) : Nat := leNat (slice im at_ n)
  let body := slice im 29952 (f 8 4)
  f 0 4 == 0x4E584D49 && f 4 2 == kind && im.length == 29952 + f 8 4 && f 12 4 == 0 && f 29936 16 == 0 &&
    shake256 (slice im 80 64) 64 == keyDigest && Config.slhVerify (slice im 80 64) (im.take 144) (slice im 144 29792) &&
    shake256 body 64 == slice im 16 64 && decide (minSvn.getD (kind - 1) 0 ≤ f 6 2)

/-- What booting comes to: measurements and versions in order, and the kind of the first image that fails (R300). -/
def bootImages (keyDigest : List Byte) (minSvn : List Nat) (images : List (List Byte)) :
    Nat → List (Nat × List Byte) → List Nat → List (Nat × List Byte) × List Nat × Option Nat
  | 0, meas, svn => (meas, svn, none)
  | n + 1, meas, svn =>
    let kind := 4 - n
    let im := images.getD (kind - 1) []
    if imageOk keyDigest minSvn kind im then
      bootImages keyDigest minSvn images n (mset meas (kind - 1) (extend zeros64 (im.take 144))) (svn ++ [leNat (slice im 6 2)])
    else (meas, svn, some kind)

/-- The seeds of the identity key (R301). -/
def State.seeds (s : State) : List Byte :=
  shake256 (s.secret ++ [0x74, 0x72, 0x61, 0x73, 0x65, 0x72, 0x20, 0x69, 0x64, 0x65, 0x6E, 0x74, 0x69, 0x74, 0x79]) 96

/-! ### The mailbox -/

/-- The OP and DOMAIN fields of SFT_CMD (R303). -/
def sftOp (v : Word) : Nat := (v.extractLsb' 24 8).toNat
def sftDomain (v : Word) : Nat := (v.extractLsb' 0 3).toNat

/-- A mailbox command is heard (R303, R356): the Seoft firmware runs, as it does not when boot has stopped (R300, R363). An OP
other than 0x01 to 0x04 is no command: nothing happens, SFT_STAT stays (DESIGN CHOICE, log 80). -/
def State.hearsMail (s : State) (win op : Nat) (v : Word) : Bool :=
  !s.bootFail && (win == 0 || (decide (win ≤ 8) && (s.dom (win - 1)).active)) && sftOp v == op

/-- A mailbox command is done; what it wrote to memory is released at system scope before its message (R303, R357). -/
def State.mailWrote (s : State) (win code : Nat) (spans : List (Nat × Nat)) : State :=
  let s := s.hostBack (linesOf spans)
  ({ s with mailbox := mset s.mailbox win { s.mail win with code := BitVec.ofNat 16 code, done := true } } : State).interruptAfter win
    (if win = 0 then 0 else 5) (s.visibleAll spans)

/-- A mailbox command that writes no memory is done (R303, R357). -/
def State.mailDone (s : State) (win code : Nat) : State := s.mailWrote win code []

/-- A buffer a window may name: a multiple of 64, in existing memory that its domain holds, or host memory (R303). -/
def State.bufferOk (s : State) (win pa n : Nat) : Bool :=
  aligned pa 64 && s.assigned pa && s.assigned (pa + n - 1) &&
    (win == 0 || s.domHoldsRange (win - 1) pa n || (isHost pa && isHost (pa + n - 1)))

/-- The buffer of a window's mailbox. -/
def State.mailBuf (s : State) (win : Nat) : Nat := (s.mail win).buf.toNat

/-- The signed part of a report (R302). -/
def State.reportBody (s : State) (dom : Nat) (nonce : List Byte) : List Byte :=
  leBytes 4 1 ++ leBytes 2 dom ++ leBytes 2 0 ++ leBytes 16 s.serial.toNat ++ nonce ++ leBytes 8 (s.dieTime 0) ++
    (range 0 8).flatMap s.measOf ++ s.dmeasOf dom ++ (range 0 4).flatMap (fun i => leBytes 2 (s.svn.getD i 0)) ++ List.replicate 56 0

/-- A signature by the identity key (R301, R302). -/
def State.signature (s : State) (bs : List Byte) : List Byte := (range 0 29792).map (Config.slhSignByte s.seeds bs)

/-- REPORT (R302, R303). -/
def execReport (win : Nat) (v : Word) (s : State) : Ev :=
  let dom := sftDomain v
  let at_ := s.mailBuf win
  s.runs (if !s.hearsMail win 1 v then s
    else if win ≠ 0 ∧ dom ≠ win - 1 then s.mailDone win 6
    else if !s.bufferOk win at_ 30496 || s.homePoisonIn at_ 32 then s.mailDone win 5
    else
      let bs := s.reportBody dom (s.homeBytes at_ 32)
      (s.putHome [(at_, bs ++ s.signature bs)]).mailWrote win 0 [(at_, 30496)])

/-- GETCERT (R301, R303). -/
def execGetcert (win : Nat) (v : Word) (s : State) : Ev :=
  let at_ := s.mailBuf win
  let cert := Config.certificate (Config.slhPublic s.seeds)
  s.runs (if !s.hearsMail win 2 v then s
    else if !s.bufferOk win at_ cert.length then s.mailDone win 5
    else (s.putHome [(at_, cert)]).mailWrote win 0 [(at_, cert.length)])

/-! ### DOMCFG -/

/-- The domain a configuration block describes (R277). -/
def domainOf (bs : List Byte) : Domain :=
  let f (at_ n : Nat) : Nat := leNat (slice bs at_ n)
  { Domain.off with
    active := true, scrub := bit (f 1 1) 0, qfirst0 := f 4 2, qcnt0 := f 6 2, qfirst1 := f 8 2, qcnt1 := f 10 2,
    lports := BitVec.ofNat 16 (f 12 2), lweight := f 14 1, hbm := BitVec.ofNat 8 (f 15 1), lpd := BitVec.ofNat 16 (f 16 2),
    cxlp := BitVec.ofNat 2 (f 18 1), cores := BitVec.ofNat 144 (f 24 24), astab := f 48 8, qtab := f 56 8, wintab := f 64 8,
    admtab := f 72 8 }

/-- A run of queues of a die is in range; an empty one names none (R277). -/
def queueRunOk (lo first count : Nat) : Bool := count == 0 || (decide (lo ≤ first) && decide (first + count ≤ lo + 4096))

/-- Every field of a block is in its range and reserved bytes are zero (R277). -/
def blockOk (bs : List Byte) (dom : Nat) : Bool :=
  let f (at_ n : Nat) : Nat := leNat (slice bs at_ n)
  f 0 1 == dom && decide (f 1 1 < 2) && f 2 2 == 0 && queueRunOk 0 (f 4 2) (f 6 2) && queueRunOk 4096 (f 8 2) (f 10 2) &&
    decide (1 ≤ f 14 1) && decide (f 18 1 < 4) && f 19 5 == 0 && decide (f 24 24 < 2 ^ 144) && aligned (f 48 8) 4096 &&
    aligned (f 56 8) 4096 && aligned (f 64 8) 4096 && aligned (f 72 8) 4096 && f 80 48 == 0 && f 24 24 != 0

/-- Two runs of queues share one. -/
def runsMeet (a n b m : Nat) : Bool := n != 0 && m != 0 && overlap (a, n) (b, m)

/-- Two domains claim one resource (R276). -/
def Domain.conflicts (x y : Domain) : Bool :=
  x.cores &&& y.cores != 0 || x.hbm &&& y.hbm != 0 || x.lpd &&& y.lpd != 0 || x.cxlp &&& y.cxlp != 0 ||
    runsMeet x.qfirst0 x.qcnt0 y.qfirst0 y.qcnt0 || runsMeet x.qfirst1 x.qcnt1 y.qfirst1 y.qcnt1

/-- The four tables lie wholly in the domain's memory (R277, R279, R292, R294, R295). -/
def State.tablesOk (s : State) (dom : Nat) (d : Domain) : Bool :=
  s.domHoldsRange dom d.astab 131072 && (d.qcnt0 + d.qcnt1 == 0 || s.domHoldsRange dom d.qtab (32 * (d.qcnt0 + d.qcnt1))) &&
    s.domHoldsRange dom d.wintab 8192 && s.domHoldsRange dom d.admtab 262144

/-- A new domain stands. -/
def State.setDomain (s : State) (dom : Nat) (d : Domain) : State := { s with doms := mset s.doms dom d }

/-- DOMCFG (R277, R300, R303). -/
def execDomcfg (win : Nat) (v : Word) (s : State) : Ev :=
  let dom := sftDomain v
  let at_ := s.mailBuf win
  s.runs (if !s.hearsMail win 3 v then s
    else if win ≠ 0 then s.mailDone win 6
    else if !s.bufferOk win at_ 128 || s.homePoisonIn at_ 128 then s.mailDone win 5
    else
      let bs := s.homeBytes at_ 128
      let d := domainOf bs
      if (s.dom dom).active then s.mailDone win 2
      else if !blockOk bs dom then s.mailDone win 1
      else if s.doms.any (fun e => e.2.active && d.conflicts e.2) then s.mailDone win 3
      else if !(s.setDomain dom d).tablesOk dom d then s.mailDone win 4
      else ({ s.setDomain dom d with dmeas := mset s.dmeas dom (extend (s.dmeasOf dom) bs) } : State).mailDone win 0)

/-! ### DOMOFF -/

/-- Everything a group has sent is performed. -/
def State.drainSlot (s : State) (slot : Nat) : State :=
  let ws := s.pendingWrites slot
  ws.foldl State.perform (s.modGroup slot (fun g => { g with storeQ := [] }))

/-- A launch ends at once with STATUS 0x07 (R246, R278). -/
def State.endLaunch (s : State) (lid : Nat) : State :=
  let s := s.killWhole lid
  let l := s.launch lid
  let s := match s.tStore (.launchEnd lid) l.die l.dom l.space l.doneVa (leBytes 8 l.doneWord) with
    | .ok t => t
    | _ => s
  { s with launches := mdel s.launches lid }

/-- The launches of a domain. -/
def State.launchesOf (s : State) (dom : Nat) : List Nat := (s.launches.filter (fun e => e.2.dom == dom)).map (fun e => e.1)

/-- The slots of a domain's groups. -/
def State.slotsOf (s : State) (dom : Nat) : List Nat := (s.groups.filter (fun e => s.groupDom e.2 == dom)).map (fun e => e.1)

/-- The domain's launches, groups and teams are over (R278 step 1). -/
def State.endWork (s : State) (dom : Nat) : State :=
  let slots := s.slotsOf dom
  let teams := nub (slots.map (fun g => (s.group g).team))
  let s : State := { s with queues := s.queues.filter (fun e => e.2.dom != dom), remote := s.remote.filter (fun r => s.reqDom r.kind != dom) }
  let s := slots.foldl State.drainSlot s
  let s := (s.launchesOf dom).foldl State.endLaunch s
  { s with
    groups := s.groups.filter (fun e => !slots.contains e.1)
    teams := s.teams.filter (fun e => !teams.contains e.1)
    acks := s.acks.filter (fun a => !slots.contains a.slot)
    saved := s.saved.filter (fun t => t.dom != dom) }

/-- The domain's work in other blocks is over, and peers are refused (R278 steps 2 and 3). -/
def State.endBlocks (s : State) (dom : Nat) : State :=
  let s := (s.peerWait.filter (fun e => peerDom e.2 == dom)).foldl (fun acc e => acc.refusePeer e.2 1) s
  let s := ((s.modMig dom 0 (fun _ => MigSet.reset)).modMig dom 1 (fun _ => MigSet.reset)).leaveRope dom
  { s with pending := s.pending.filter (fun k => k.dom != dom), waits := s.waits.filter (fun w => w.dom != dom) }

/-- A core's registers, memories and caches read zero (R278 step 4, R360); clocks and gating stay. -/
def Core.wiped (c : Core) : Core := { Core.clear with gateWant := c.gateWant, gated := c.gated, stretch := c.stretch, sagEnds := c.sagEnds, behind := c.behind }

/-- Steps 4 to 8 of R278. -/
def State.freeDomain (s : State) (dom : Nat) : State :=
  let d := s.dom dom
  let holds (pa : Nat) : Bool := s.domHolds dom pa
  let t : State := { s with
    cores := s.cores.map (fun e => (e.1, if d.cores.getLsbD e.1 then e.2.wiped else e.2))
    fills := s.fills.filter (fun f => !d.cores.getLsbD f.core)
    dirty := s.dirty.filter (fun e => !holds (128 * e.1))
    rdc := s.rdc.filter (fun e => !holds (128 * e.1))
    tlb := s.tlb.filter (fun e => e.dom != dom)
    walks := s.walks.filter (fun e => e.dom != dom) }
  let t := if d.scrub then t.zeroMem holds else t
  { t with doms := mdel t.doms dom, dmeas := mdel t.dmeas dom, domInt := mdel t.domInt dom, mailbox := mdel t.mailbox (dom + 1) }

/-- DOMOFF (R278, R300, R303). One that names a domain which is off does nothing (BADCMD). -/
def execDomoff (win : Nat) (v : Word) (s : State) : Ev :=
  let dom := sftDomain v
  s.runs (if !s.hearsMail win 4 v then s
    else if win ≠ 0 then s.mailDone win 6
    else if !(s.dom dom).active then s.mailDone win 1
    else (((s.endWork dom).endBlocks dom).freeDomain dom).mailDone win 0)

end Sys2Proof.Machine
end

