-- ==== Sys2Proof/Machine/Power.lean ====
section
/-! DEFINITION. Power, temperature, channels and ports (R185, R324, R337, R357, R360 to R362), and reset (R363). -/

namespace Sys2Proof.Machine

/-! ### PWR_CMD -/

/-- The OP field of PWR_CMD (R364). -/
def pwrOp (v : Word) : Nat := (v.extractLsb' 28 4).toNat

/-- A power command is heard (R360). -/
def State.hearsPower (s : State) (v : Word) (op : Nat) : Bool := !s.pwrBusy && pwrOp v == op

/-- CLOCK (R360, R364). -/
def execClock (v : Word) (s : State) : Ev :=
  let p : BitVec 3 := v.extractLsb' 0 3
  s.runs (if s.hearsPower v 1 && decide (p.toNat < 5) then { s with wantPoint := p, pwrBusy := true } else s)

/-- CLOCK_POINT_REACHED (R360). -/
def execClockPointReached (s : State) : Ev :=
  s.runs (if s.pwrBusy then { s with point := s.wantPoint, pwrBusy := false } else s)

/-- The cores set in PWR_CORES (R364). -/
def State.mapCores (s : State) : List Nat := (range 0 Config.cores).filter (fun c => s.pwrCores.getLsbD c)

/-- GATE (R360): placement on the named cores stops; one with nothing on it gates at once. -/
def execGate (v : Word) (s : State) : Ev :=
  s.runs (if s.hearsPower v 2 then
      s.mapCores.foldl (fun acc c => (acc.modCore c (fun x => { x with gateWant := true })).gateCheck c) s
    else s)

/-- A named core after UNGATE (R129, R360): its memories and caches read zero; tasks it holds stay queued. -/
def Core.ungated (c : Core) : Core := { c.wiped with tasks := c.tasks, gateWant := false, gated := false }

/-- The registers of a group read zero without poison (R360). -/
def Group.clearRegs (g : Group) : Group := { g with s := [], lanes := g.lanes.map (fun x => { x with v := [] }) }

/-- UNGATE (R129, R360): the named cores return to placement, and what they hold reads zero. -/
def execUngate (v : Word) (s : State) : Ev :=
  s.runs (if s.hearsPower v 3 then
      let t := s.mapCores.foldl (fun acc c => acc.modCore c Core.ungated) s
      { t with groups := t.groups.map (fun e => if s.mapCores.contains (coreOfSlot e.1) then (e.1, e.2.clearRegs) else e) }
    else s)

/-- SELFREF (R360): the named stacks and packages are to enter self-refresh. -/
def execSelfref (v : Word) (s : State) : Ev :=
  s.runs (if s.hearsPower v 4 then { s with selfWant := s.selfWant ||| (s.pwrHbm.setWidth 24 ||| (s.pwrLpd.setWidth 24 <<< 8)) } else s)

/-- No access to a device is on its way. -/
def State.deviceQuiet (s : State) (dev : Nat) : Bool :=
  let hits (n : Nat) : Bool := deviceOf (s.locate (128 * n)) == some dev
  s.flight.all (fun w => !(linesOf w.spans).any hits) &&
    s.groups.all (fun e => e.2.loads.all (fun x => !x.2.missing.any (fun k => hits (k / 4))) && e.2.storeQ.all (fun w => !(linesOf w.spans).any hits))

/-- SELFREF_ENTRY (R360): a marked device enters self-refresh once its traffic has drained. -/
def execSelfrefEntry (dev : Nat) (s : State) : Ev :=
  s.runs (if s.selfWant.getLsbD dev && s.deviceQuiet dev then
      { s with selfWant := s.selfWant &&& ~~~(BitVec.twoPow 24 dev), selfRef := s.selfRef ||| BitVec.twoPow 24 dev }
    else s)

/-- Nothing that IDLE forbids is going on (R360). -/
def State.mayIdle (s : State) : Bool :=
  s.launches.isEmpty && s.doms.all (fun e => !e.2.mig0.busy && !e.2.mig1.busy && !e.2.rope.isBusy && e.2.drain.isNone)

/-- IDLE (R360). -/
def execIdle (v : Word) (s : State) : Ev :=
  s.runs (if s.hearsPower v 5 then { s with idle := s.idle || s.mayIdle, refused := !s.mayIdle } else s)

/-! ### Droop and temperature -/

/-- DROOP_SAG (R361): the core's clock is stretched to (8 − k)/8. -/
def execDroopSag (core k : Nat) (s : State) : Ev :=
  s.runs (if 1 ≤ k ∧ k ≤ 4 ∧ core < Config.cores then
      { s.modCore core (fun c => { c with stretch := k, sagEnds := some s.time }) with droop := true }
    else s)

/-- DROOP_HOLD_EXPIRY (R361): at least 1,000 ticks after the sag. -/
def execDroopHoldExpiry (core : Nat) (s : State) : Ev :=
  s.runs (match (s.core core).sagEnds with
    | some t => if t + 1000 ≤ s.time then s.modCore core (fun c => { c with stretch := 0, sagEnds := none }) else s
    | none => s)

/-! ### Channels and ports -/

/-- A channel changes state (R324, R325, R357). -/
def State.degrade (s : State) (n st : Nat) : State :=
  ({ s with channels := mset s.channels n { s.channel n with state := st } } : State).interrupt 0 1

/-- A correctable error is corrected and counted on its channel (R312, R325). -/
def State.correct (s : State) (n : Nat) : State :=
  let c := s.channel n
  if n < 320 then { s with channels := mset s.channels n { c with ce := if c.ce = BitVec.allOnes 12 then c.ce else c.ce + 1 } } else s

/-- CHANNEL_HALF (R185, R324). -/
def execChannelHalf (n : Nat) (s : State) : Ev :=
  s.runs (if n < 320 ∧ (s.channel n).state = 0 then s.degrade n 1 else s)

/-- CHANNEL_OFFLINE (R213, R324): its sectors read poisoned from now on. -/
def execChannelOffline (n : Nat) (s : State) : Ev :=
  s.runs (if n < 320 ∧ (s.channel n).state < 2 then
      let t := s.degrade n 2
      t.notify (fun p => match p with
        | .phys pa => channelOf (t.locate pa) == some n
        | .loc _ _ => false)
    else s)

/-- REFRESH_POSTPONEMENT_LIMIT (R185): the controller refreshes the bank and resumes the burst; timing only. -/
def execRefreshPostponementLimit (_n : Nat) (s : State) : Ev := s.runs s

/-- A port loses its link, or one of the devices behind it disappears: its addresses alone are lost, and the port stays up while
another device answers (R337, R358). -/
def CxlPort.down (c : CxlPort) (now : Nat) (gone : Option Nat) : CxlPort :=
  let lost := nub (c.gone ++ gone.toList)
  if gone.isSome && (range 0 c.sizes.length).any (fun i => !lost.contains i) then { c with gone := lost }
  else { c with up := false, gone := lost, downAt := c.downAt.or (some now) }

/-- CXL_PORT_DOWN (R213, R280, R337, R357, R358): the addresses of a device that disappears read poisoned from now on. -/
def execCxlPortDown (port : Nat) (gone : Option Nat) (s : State) : Ev :=
  s.runs (if port < 2 then
      let t := (s.modCxl port (fun c => c.down s.time gone)).interrupt 0 3
      t.notify (fun p => match p with
        | .phys pa => gone.isSome && cxlOf (t.locate pa) == some port && t.offline (t.locate pa)
        | .loc _ _ => false)
    else s)

/-- CXL_PORT_UP (R337, R357). -/
def execCxlPortUp (port : Nat) (s : State) : Ev :=
  s.runs (if port < 2 then (s.modCxl port (fun c => { c with up := true, downAt := none })).interrupt 0 3 else s)

/-! ### Reset and loss of power -/

/-- Host memory as the host holds it when the module's caches are lost (R180, R362). -/
def State.hostCells (s : State) : List Host.Cell :=
  let lost := s.dirty.filter (fun e => isHost (128 * e.1))
  (lost.foldl (fun m e => putBytes m (128 * e.1) e.2.bytes) s.mem).filter (fun c => isHost c.1)

/-- What outlasts a reset: fuses, non-volatile records, host memory, the dies' skew, what has been sent (R298, R362, R363),
and the model's own fields. -/
def State.nonVolatile (s : State) : State :=
  { State.reset with
    agenda := s.agenda, free := s.free, seq := s.seq, outbox := s.outbox, skew := s.skew, epoch := s.epoch, serial := s.serial,
    secret := s.secret, keyDigest := s.keyDigest, minSvn := s.minSvn, tripLog := s.tripLog, mem := s.hostCells
    memPoison := s.memPoison.filter (fun e => isHost (32 * e.1)) }

/-- The module after a trip (R362): clocks, memory and links stop, volatile state is lost, the Seoft controller keeps a record. -/
def State.trip (s : State) : State := { s.nonVolatile with stopped := true, tripLog := true, ready := false, doms := [] }

/-- THERMAL_TRIP (R362). -/
def execThermalTrip (s : State) : Ev := s.runs s.trip

/-- THERMAL_WARN (R357, R362): a reading that reaches WARN, where the one before did not, raises the interrupt; one of 110 °C or
more trips. -/
def execThermalWarn (temp : Byte) (s : State) : Ev :=
  let hot := decide (s.warn ≤ temp)
  let t : State := { s with temp := temp, hot := hot }
  s.runs (if 110 ≤ temp then s.trip else if hot && !s.hot then t.interrupt 0 2 else t)

/-- Channels as they train (R324, R363). -/
def trained (l : List Nat) : List (Nat × Channel) :=
  (l.take 320).zipIdx.foldl (fun m e => if e.1 = 0 then m else mset m e.2 { ue := 0, ce := 0, state := min e.1 2 }) []

/-- A CXL port as it trains and enumerates: up to four devices (R358). -/
def trainedPort (sizes : List Nat) (up : Bool) : CxlPort := { sizes := sizes.take 4, up := up, gone := [], downAt := none }

/-- The bring-up sequence (R300, R358, R362, R363). A firmware image that fails stops it with only the management function
left; the failure's CODE, at least 0x0010, is a free value. -/
def State.bringUp (s : State) (x : BootInput) : State :=
  let (meas, svn, bad) := bootImages s.keyDigest s.minSvn x.images 4 [] []
  let t : State := { s.nonVolatile with epoch := s.epoch + 1, tripped := s.tripLog, tripLog := false, meas := meas, svn := svn }
  match bad with
  | some _ =>
    { t with
      free := t.free + 1, ready := false, bootFail := true, doms := []
      mailbox := [(0, { buf := 0, code := BitVec.ofNat 16 (16 + Config.free s.free % 65520), done := true })] }
  | none =>
    { t with
      channels := trained x.channels, cxl0 := trainedPort x.cxl0 (x.cxlUp.getLsbD 0), cxl1 := trainedPort x.cxl1 (x.cxlUp.getLsbD 1)
      uaUp := x.uaUp }

/-- COLD_RESET (R363). -/
def execColdReset (x : BootInput) (s : State) : Ev := .next (s.bringUp x)

/-- HOT_RESET (R363). -/
def execHotReset (x : BootInput) (s : State) : Ev := .next (s.bringUp x)

/-- FLR_DOMAIN (R363): every launch of the domain ends with STATUS 0x07, and its queues stop. -/
def execFlrDomain (dom : Nat) (s : State) : Ev :=
  s.runs (if !(s.dom dom).active then s
    else
      let t := (s.launchesOf dom).foldl State.killWhole s
      let qs := (t.queues.filter (fun e => e.2.dom == dom)).map (fun e => e.1)
      let t : State := { t with queues := t.queues.map (fun e => if e.2.dom = dom then (e.1, { e.2 with running := false }) else e) }
      qs.foldl (fun acc q => acc.clearWaits (.queue q)) t)

/-- FLR_MANAGEMENT (R363): INT_STAT and the messages of function 0 that have not gone out. -/
def execFlrManagement (s : State) : Ev := s.runs { s with mgmtInt := 0, posted := s.posted.filter (fun p => p.1 != 0) }

end Sys2Proof.Machine
end

