-- ==== Sys2Proof/Machine/Special.lean ====
section
/-! DEFINITION. The special registers (R270 to R273), and the poison instructions PTEST and PCLR (R316). -/

namespace Sys2Proof.Machine

/-- A special register whose value differs by lane (R270). -/
def SReg.perLane : SReg → Bool
  | .lane => true
  | .depth => true
  | .lsp => true
  | _ => false

/-- The value SRD reads of a special register, for a lane (R271, R272). -/
def State.sregVal (s : State) (r : SReg) (lane : Nat) : DWord :=
  let g := s.cur
  let t := s.team g.team
  let l := s.launch t.lid
  let n (x : Nat) : DWord := BitVec.ofNat 64 x
  let w (x : Word) : DWord := x.setWidth 64
  match r with
  | .lane => n lane
  | .group => n g.index
  | .teamX => n t.x
  | .teamY => n t.y
  | .teamZ => n t.z
  | .core => n (coreOfSlot s.ix.slot % Config.coresPerDie)
  | .die => n (dieOfSlot s.ix.slot)
  | .device => s.device.setWidth 64
  | .width => n g.width
  | .ngroups => n t.hdr.ngrp
  | .gridX => n l.gx
  | .gridY => n l.gy
  | .gridZ => n l.gz
  | .depth => (g.lane lane).depth.setWidth 64
  | .lsp => (g.lane lane).lsp
  | .time => n (s.dieTime (dieOfSlot s.ix.slot))
  | .cycle => n (s.cycleOf (coreOfSlot s.ix.slot))
  | .horizonDie => n g.horDie
  | .horizonDev => n g.horDev
  | .horizonPod => n g.horPod
  | .prio => w (prioWord g.prio)
  | .fflags => w (fflagsWord g.fflags)
  | .xcause => w g.xcause
  | .xval => w g.xval
  | .xpc => g.xpc
  | .xlane => w g.xlane
  | .xaddr => g.xaddr

/-- A group after an SWR (R271, R273, R80); the read-only registers are ILLEGAL at decode. -/
def Group.swr (g : Group) (r : SReg) (x : DWord) : Group :=
  match r with
  | .prio => { g with prio := prioOf (x.setWidth 32) }
  | .fflags => { g with fflags := fflagsOf (x.setWidth 32) }
  | .xcause => { g with xcause := x.setWidth 32 }
  | .xval => { g with xval := x.setWidth 32 }
  | .xpc => { g with xpc := x }
  | .xlane => { g with xlane := x.setWidth 32 }
  | .xaddr => { g with xaddr := x }
  | _ => g

/-- SRD (R270, R272): no poison; a lane-valued register refuses a uniform D. -/
def execSrd (d : Dst) (r : SReg) (s : State) : Out :=
  let n := if r.isPair then 2 else 1
  let u : Uses := { srcs := [], dst := d, words := n, uniform := [], noUni := SReg.perLane r }
  s.runs (s.withOperands u (fun _ t =>
    let lanes := if dstIsUni (s.team s.cur.team) d then [s.lowest] else s.ix.lanes
    t.retire u (lanes.map (fun l => (l, { words := resWords n (s.sregVal r l) false, flags := 0#5 })))))

/-- SWR (R270): a uniform source, or POISON; the register keeps its value when it traps. A vector source is OPERAND. -/
def execSwr (a : Src) (r : SReg) (s : State) : Out :=
  let u : Uses := { srcs := [(a, if r.isPair then .pair else .word)], dst := .nul, words := 0, uniform := [a], noUni := false }
  if srcIsVec (s.team s.cur.team) a then s.runs (s.decodeTrap 0x02)
  else s.runs (s.withOperands u (fun gots t =>
    let ws := ((t.srcWords gots s.lowest).headD [])
    if anyPoison ws then s.trapAt 0x0A 0 0
    else (t.modCur (fun g => g.swr r (wordsVal ws))).advance))

/-- PTEST (R316): whether the source word is poisoned, in a word without poison. -/
def execPtest (d : Dst) (a : Src) (s : State) : Out :=
  s.runs (s.alu (use1 d 1 a .word) (fun srcs => { words := [Reg.of (bitWord (srcs.any anyPoison))], flags := 0#5 }))

/-- PCLR (R316): the source bits without poison. -/
def execPclr (d : Dst) (a : Src) (s : State) : Out :=
  s.runs (s.alu (use1 d 1 a .word) (fun srcs => { words := [Reg.of ((srcs.map wordsVal).headD 0 |>.setWidth 32)], flags := 0#5 }))

end Sys2Proof.Machine
end

