-- ==== Sys2Proof/Machine/Dispatch.lean ====
section
/-! DEFINITION. One arm per row of the opcode table: each calls its meaning. -/

namespace Sys2Proof.Machine

/-- The meaning of an instruction or of a step of the module. -/
def exec (i : Instr) (s : State) : Host.Outcome State Fault Refusal :=
  match i with
  | .nop => Sys2Proof.Machine.execNop s
  | .add d a b => Sys2Proof.Machine.execAdd d a b s
  | .sub d a b => Sys2Proof.Machine.execSub d a b s
  | .mul d a b => Sys2Proof.Machine.execMul d a b s
  | .mulh d a b => Sys2Proof.Machine.execMulh d a b s
  | .mulhu d a b => Sys2Proof.Machine.execMulhu d a b s
  | .mad d a b => Sys2Proof.Machine.execMad d a b s
  | .and d a b => Sys2Proof.Machine.execAnd d a b s
  | .or d a b => Sys2Proof.Machine.execOr d a b s
  | .xor d a b => Sys2Proof.Machine.execXor d a b s
  | .shl d a b => Sys2Proof.Machine.execShl d a b s
  | .shr d a b => Sys2Proof.Machine.execShr d a b s
  | .sar d a b => Sys2Proof.Machine.execSar d a b s
  | .min d a b => Sys2Proof.Machine.execMin d a b s
  | .max d a b => Sys2Proof.Machine.execMax d a b s
  | .minu d a b => Sys2Proof.Machine.execMinu d a b s
  | .maxu d a b => Sys2Proof.Machine.execMaxu d a b s
  | .slt d a b => Sys2Proof.Machine.execSlt d a b s
  | .sltu d a b => Sys2Proof.Machine.execSltu d a b s
  | .seq d a b => Sys2Proof.Machine.execSeq d a b s
  | .sel d a b => Sys2Proof.Machine.execSel d a b s
  | .add64 d a b => Sys2Proof.Machine.execAdd64 d a b s
  | .sub64 d a b => Sys2Proof.Machine.execSub64 d a b s
  | .mul64 d a b => Sys2Proof.Machine.execMul64 d a b s
  | .shl64 d a b => Sys2Proof.Machine.execShl64 d a b s
  | .shr64 d a b => Sys2Proof.Machine.execShr64 d a b s
  | .sar64 d a b => Sys2Proof.Machine.execSar64 d a b s
  | .slt64 d a b => Sys2Proof.Machine.execSlt64 d a b s
  | .sltu64 d a b => Sys2Proof.Machine.execSltu64 d a b s
  | .madwu d a b => Sys2Proof.Machine.execMadwu d a b s
  | .addwu d a b => Sys2Proof.Machine.execAddwu d a b s
  | .mov d a => Sys2Proof.Machine.execMov d a s
  | .not d a => Sys2Proof.Machine.execNot d a s
  | .neg d a => Sys2Proof.Machine.execNeg d a s
  | .abs d a => Sys2Proof.Machine.execAbs d a s
  | .clz d a => Sys2Proof.Machine.execClz d a s
  | .ctz d a => Sys2Proof.Machine.execCtz d a s
  | .popc d a => Sys2Proof.Machine.execPopc d a s
  | .brev d a => Sys2Proof.Machine.execBrev d a s
  | .bswap d a => Sys2Proof.Machine.execBswap d a s
  | .sextb d a => Sys2Proof.Machine.execSextb d a s
  | .sexth d a => Sys2Proof.Machine.execSexth d a s
  | .zextb d a => Sys2Proof.Machine.execZextb d a s
  | .zexth d a => Sys2Proof.Machine.execZexth d a s
  | .tcnt d a => Sys2Proof.Machine.execTcnt d a s
  | .mov64 d a => Sys2Proof.Machine.execMov64 d a s
  | .neg64 d a => Sys2Proof.Machine.execNeg64 d a s
  | .fadd d a b => Sys2Proof.Machine.execFadd d a b s
  | .fsub d a b => Sys2Proof.Machine.execFsub d a b s
  | .fmul d a b => Sys2Proof.Machine.execFmul d a b s
  | .ffma d a b => Sys2Proof.Machine.execFfma d a b s
  | .fmin d a b => Sys2Proof.Machine.execFmin d a b s
  | .fmax d a b => Sys2Proof.Machine.execFmax d a b s
  | .fslt d a b => Sys2Proof.Machine.execFslt d a b s
  | .fsle d a b => Sys2Proof.Machine.execFsle d a b s
  | .fseq d a b => Sys2Proof.Machine.execFseq d a b s
  | .fsun d a b => Sys2Proof.Machine.execFsun d a b s
  | .fneg d a => Sys2Proof.Machine.execFneg d a s
  | .fabs d a => Sys2Proof.Machine.execFabs d a s
  | .fsqrt d a => Sys2Proof.Machine.execFsqrt d a s
  | .frcp d a => Sys2Proof.Machine.execFrcp d a s
  | .frsq d a => Sys2Proof.Machine.execFrsq d a s
  | .fexp2 d a => Sys2Proof.Machine.execFexp2 d a s
  | .flog2 d a => Sys2Proof.Machine.execFlog2 d a s
  | .fsin d a => Sys2Proof.Machine.execFsin d a s
  | .fcos d a => Sys2Proof.Machine.execFcos d a s
  | .frndn d a => Sys2Proof.Machine.execFrndn d a s
  | .frndz d a => Sys2Proof.Machine.execFrndz d a s
  | .frndp d a => Sys2Proof.Machine.execFrndp d a s
  | .frndm d a => Sys2Proof.Machine.execFrndm d a s
  | .fclass d a => Sys2Proof.Machine.execFclass d a s
  | .dadd d a b => Sys2Proof.Machine.execDadd d a b s
  | .dsub d a b => Sys2Proof.Machine.execDsub d a b s
  | .dmul d a b => Sys2Proof.Machine.execDmul d a b s
  | .dfma d a b => Sys2Proof.Machine.execDfma d a b s
  | .dmin d a b => Sys2Proof.Machine.execDmin d a b s
  | .dmax d a b => Sys2Proof.Machine.execDmax d a b s
  | .dslt d a b => Sys2Proof.Machine.execDslt d a b s
  | .dsle d a b => Sys2Proof.Machine.execDsle d a b s
  | .dseq d a b => Sys2Proof.Machine.execDseq d a b s
  | .dneg d a => Sys2Proof.Machine.execDneg d a s
  | .dabs d a => Sys2Proof.Machine.execDabs d a s
  | .dsqrt d a => Sys2Proof.Machine.execDsqrt d a s
  | .drcp d a => Sys2Proof.Machine.execDrcp d a s
  | .drsq d a => Sys2Proof.Machine.execDrsq d a s
  | .drndn d a => Sys2Proof.Machine.execDrndn d a s
  | .drndz d a => Sys2Proof.Machine.execDrndz d a s
  | .drndp d a => Sys2Proof.Machine.execDrndp d a s
  | .drndm d a => Sys2Proof.Machine.execDrndm d a s
  | .dclass d a => Sys2Proof.Machine.execDclass d a s
  | .hadd2 d a b => Sys2Proof.Machine.execHadd2 d a b s
  | .hmul2 d a b => Sys2Proof.Machine.execHmul2 d a b s
  | .hfma2 d a b => Sys2Proof.Machine.execHfma2 d a b s
  | .badd2 d a b => Sys2Proof.Machine.execBadd2 d a b s
  | .bmul2 d a b => Sys2Proof.Machine.execBmul2 d a b s
  | .bfma2 d a b => Sys2Proof.Machine.execBfma2 d a b s
  | .cvt d a x y => Sys2Proof.Machine.execCvt d a x y s
  | .cvtz d a x y => Sys2Proof.Machine.execCvtz d a x y s
  | .shfl d a b => Sys2Proof.Machine.execShfl d a b s
  | .shflx d a b => Sys2Proof.Machine.execShflx d a b s
  | .shflu d a b => Sys2Proof.Machine.execShflu d a b s
  | .shfld d a b => Sys2Proof.Machine.execShfld d a b s
  | .lsegi d a b => Sys2Proof.Machine.execLsegi d a b s
  | .lsegf d a b => Sys2Proof.Machine.execLsegf d a b s
  | .lsegd d a b => Sys2Proof.Machine.execLsegd d a b s
  | .lscani d a => Sys2Proof.Machine.execLscani d a s
  | .lscanf d a => Sys2Proof.Machine.execLscanf d a s
  | .lscand d a => Sys2Proof.Machine.execLscand d a s
  | .lredi d a => Sys2Proof.Machine.execLredi d a s
  | .lredf d a => Sys2Proof.Machine.execLredf d a s
  | .lredd d a => Sys2Proof.Machine.execLredd d a s
  | .lmini d a => Sys2Proof.Machine.execLmini d a s
  | .lmaxi d a => Sys2Proof.Machine.execLmaxi d a s
  | .lany d a => Sys2Proof.Machine.execLany d a s
  | .lall d a => Sys2Proof.Machine.execLall d a s
  | .lcount d a => Sys2Proof.Machine.execLcount d a s
  | .lrank d a => Sys2Proof.Machine.execLrank d a s
  | .lballot d a b => Sys2Proof.Machine.execLballot d a b s
  | .rdlane d a b => Sys2Proof.Machine.execRdlane d a b s
  | .movi d i1 => Sys2Proof.Machine.execMovi d i1 s
  | .movih d i1 => Sys2Proof.Machine.execMovih d i1 s
  | .srd d r => Sys2Proof.Machine.execSrd d r s
  | .swr a r => Sys2Proof.Machine.execSwr a r s
  | .ldB d a l h => Sys2Proof.Machine.execLdB d a l h s
  | .ldBu d a l h => Sys2Proof.Machine.execLdBu d a l h s
  | .ldH d a l h => Sys2Proof.Machine.execLdH d a l h s
  | .ldHu d a l h => Sys2Proof.Machine.execLdHu d a l h s
  | .ldW d a l h => Sys2Proof.Machine.execLdW d a l h s
  | .ldD d a l h => Sys2Proof.Machine.execLdD d a l h s
  | .ldQ d a l h => Sys2Proof.Machine.execLdQ d a l h s
  | .stB d a l h => Sys2Proof.Machine.execStB d a l h s
  | .stH d a l h => Sys2Proof.Machine.execStH d a l h s
  | .stW d a l h => Sys2Proof.Machine.execStW d a l h s
  | .stD d a l h => Sys2Proof.Machine.execStD d a l h s
  | .stQ d a l h => Sys2Proof.Machine.execStQ d a l h s
  | .ldcW d a l h => Sys2Proof.Machine.execLdcW d a l h s
  | .ldcD d a l h => Sys2Proof.Machine.execLdcD d a l h s
  | .atomW d a p h => Sys2Proof.Machine.execAtomW d a p h s
  | .atomD d a p h => Sys2Proof.Machine.execAtomD d a p h s
  | .redW d a p h => Sys2Proof.Machine.execRedW d a p h s
  | .redD d a p h => Sys2Proof.Machine.execRedD d a p h s
  | .rcloseF32 a l h => Sys2Proof.Machine.execRcloseF32 a l h s
  | .rcloseF64 a l h => Sys2Proof.Machine.execRcloseF64 a l h s
  | .rldW d a l h => Sys2Proof.Machine.execRldW d a l h s
  | .rldD d a l h => Sys2Proof.Machine.execRldD d a l h s
  | .rstW d a l h => Sys2Proof.Machine.execRstW d a l h s
  | .rstD d a l h => Sys2Proof.Machine.execRstD d a l h s
  | .ratom d a p h => Sys2Proof.Machine.execRatom d a p h s
  | .fence eng k s1 => Sys2Proof.Machine.execFence eng k s1 s
  | .cacheWb a l h => Sys2Proof.Machine.execCacheWb a l h s
  | .cacheWbinv a l h => Sys2Proof.Machine.execCacheWbinv a l h s
  | .cacheInv a l h => Sys2Proof.Machine.execCacheInv a l h s
  | .cacheCinv => Sys2Proof.Machine.execCacheCinv s
  | .cacheIinv a l h => Sys2Proof.Machine.execCacheIinv a l h s
  | .cacheFetchb => Sys2Proof.Machine.execCacheFetchb s
  | .waitcEq d a l h => Sys2Proof.Machine.execWaitcEq d a l h s
  | .waitcNe d a l h => Sys2Proof.Machine.execWaitcNe d a l h s
  | .waitcGe d a l h => Sys2Proof.Machine.execWaitcGe d a l h s
  | .xcopy notrap rec k a => Sys2Proof.Machine.execXcopy notrap rec k a s
  | .xgather notrap rec nullidx k a => Sys2Proof.Machine.execXgather notrap rec nullidx k a s
  | .xscatter notrap rec nullidx k a => Sys2Proof.Machine.execXscatter notrap rec nullidx k a s
  | .xencTerm notrap rec k a => Sys2Proof.Machine.execXencTerm notrap rec k a s
  | .xencBlock notrap rec k a => Sys2Proof.Machine.execXencBlock notrap rec k a s
  | .xdecTerm notrap rec k a => Sys2Proof.Machine.execXdecTerm notrap rec k a s
  | .xdecBlock notrap rec k a => Sys2Proof.Machine.execXdecBlock notrap rec k a s
  | .mtask notrap rec k a => Sys2Proof.Machine.execMtask notrap rec k a s
  | .mtaskStream notrap rec k a => Sys2Proof.Machine.execMtaskStream notrap rec k a s
  | .mbound d a m => Sys2Proof.Machine.execMbound d a m s
  | .xstat d a f => Sys2Proof.Machine.execXstat d a f s
  | .b o => Sys2Proof.Machine.execB o s
  | .bz a o => Sys2Proof.Machine.execBz a o s
  | .bnz a o => Sys2Proof.Machine.execBnz a o s
  | .bltz a o => Sys2Proof.Machine.execBltz a o s
  | .bgez a o => Sys2Proof.Machine.execBgez a o s
  | .bS o => Sys2Proof.Machine.execBS o s
  | .bzS a o => Sys2Proof.Machine.execBzS a o s
  | .bnzS a o => Sys2Proof.Machine.execBnzS a o s
  | .call o => Sys2Proof.Machine.execCall o s
  | .callr a => Sys2Proof.Machine.execCallr a s
  | .jr a => Sys2Proof.Machine.execJr a s
  | .ret => Sys2Proof.Machine.execRet s
  | .exit => Sys2Proof.Machine.execExit s
  | .yield t k i1 => Sys2Proof.Machine.execYield t k i1 s
  | .bar n => Sys2Proof.Machine.execBar n s
  | .barArr n => Sys2Proof.Machine.execBarArr n s
  | .barWait n => Sys2Proof.Machine.execBarWait n s
  | .spawn rec stall k a => Sys2Proof.Machine.execSpawn rec stall k a s
  | .trap a => Sys2Proof.Machine.execTrap a s
  | .bkpt => Sys2Proof.Machine.execBkpt s
  | .xret => Sys2Proof.Machine.execXret s
  | .hnarrow d a => Sys2Proof.Machine.execHnarrow d a s
  | .hquery d a => Sys2Proof.Machine.execHquery d a s
  | .ptest d a => Sys2Proof.Machine.execPtest d a s
  | .pclr d a => Sys2Proof.Machine.execPclr d a s
  | .unpark g => Sys2Proof.Machine.execUnpark g s
  | .priorityAgeBoost g => Sys2Proof.Machine.execPriorityAgeBoost g s
  | .takeDeferredTrap g => Sys2Proof.Machine.execTakeDeferredTrap g s
  | .loadReturn g => Sys2Proof.Machine.execLoadReturn g s
  | .fenceComplete g l => Sys2Proof.Machine.execFenceComplete g l s
  | .homeWritePerform n => Sys2Proof.Machine.execHomeWritePerform n s
  | .monitorRetest g => Sys2Proof.Machine.execMonitorRetest g s
  | .writeAck n => Sys2Proof.Machine.execWriteAck n s
  | .homeFill core line lease => Sys2Proof.Machine.execHomeFill core line lease s
  | .repairInputRequest dom stripe from_ => Sys2Proof.Machine.execRepairInputRequest dom stripe from_ s
  | .cacheFillArrival n => Sys2Proof.Machine.execCacheFillArrival n s
  | .leaseExpiry c line => Sys2Proof.Machine.execLeaseExpiry c line s
  | .l2Evict line => Sys2Proof.Machine.execL2Evict line s
  | .l2Writeback line => Sys2Proof.Machine.execL2Writeback line s
  | .hostSnoop line => Sys2Proof.Machine.execHostSnoop line s
  | .hostSnoopReply n => Sys2Proof.Machine.execHostSnoopReply n s
  | .hostMemAccess a => Sys2Proof.Machine.execHostMemAccess a s
  | .peerRequest r => Sys2Proof.Machine.execPeerRequest r s
  | .peerAnswer a => Sys2Proof.Machine.execPeerAnswer a s
  | .rstRefusal a => Sys2Proof.Machine.execRstRefusal a s
  | .planeFail plane => Sys2Proof.Machine.execPlaneFail plane s
  | .planeTimeout n => Sys2Proof.Machine.execPlaneTimeout n s
  | .planeRetrain plane => Sys2Proof.Machine.execPlaneRetrain plane s
  | .deltaApply dom x => Sys2Proof.Machine.execDeltaApply dom x s
  | .survivableFlush dom lines => Sys2Proof.Machine.execSurvivableFlush dom lines s
  | .rebuildStartMarker dom pos s0 => Sys2Proof.Machine.execRebuildStartMarker dom pos s0 s
  | .channelHalf n => Sys2Proof.Machine.execChannelHalf n s
  | .channelOffline n => Sys2Proof.Machine.execChannelOffline n s
  | .queueTailLatch q => Sys2Proof.Machine.execQueueTailLatch q s
  | .teamPlace die => Sys2Proof.Machine.execTeamPlace die s
  | .teamHandoff die => Sys2Proof.Machine.execTeamHandoff die s
  | .taskStart core => Sys2Proof.Machine.execTaskStart core s
  | .groupEnd g => Sys2Proof.Machine.execGroupEnd g s
  | .engineCommandStart n => Sys2Proof.Machine.execEngineCommandStart n s
  | .mtaskStart n => Sys2Proof.Machine.execMtaskStart n s
  | .blockClose n tg => Sys2Proof.Machine.execBlockClose n tg s
  | .epilogue n => Sys2Proof.Machine.execEpilogue n s
  | .engineCommandComplete n => Sys2Proof.Machine.execEngineCommandComplete n s
  | .groupHeld g => Sys2Proof.Machine.execGroupHeld g s
  | .preemptSave dom => Sys2Proof.Machine.execPreemptSave dom s
  | .drainLimitExpiry dom => Sys2Proof.Machine.execDrainLimitExpiry dom s
  | .teamRestore die => Sys2Proof.Machine.execTeamRestore die s
  | .moveWalkEnd dom die => Sys2Proof.Machine.execMoveWalkEnd dom die s
  | .chunkCopy dom die => Sys2Proof.Machine.execChunkCopy dom die s
  | .chunkReturn dom die => Sys2Proof.Machine.execChunkReturn dom die s
  | .migrationCommit dom die => Sys2Proof.Machine.execMigrationCommit dom die s
  | .locationLost dom die source => Sys2Proof.Machine.execLocationLost dom die source s
  | .cairnEpoch dom => Sys2Proof.Machine.execCairnEpoch dom s
  | .seedStripe dom => Sys2Proof.Machine.execSeedStripe dom s
  | .rebuildStripe dom inputs => Sys2Proof.Machine.execRebuildStripe dom inputs s
  | .coldReset x => Sys2Proof.Machine.execColdReset x s
  | .hotReset x => Sys2Proof.Machine.execHotReset x s
  | .flrDomain dom => Sys2Proof.Machine.execFlrDomain dom s
  | .flrManagement => Sys2Proof.Machine.execFlrManagement s
  | .droopSag core k => Sys2Proof.Machine.execDroopSag core k s
  | .droopHoldExpiry core => Sys2Proof.Machine.execDroopHoldExpiry core s
  | .thermalTrip => Sys2Proof.Machine.execThermalTrip s
  | .thermalWarn temp => Sys2Proof.Machine.execThermalWarn temp s
  | .clock v => Sys2Proof.Machine.execClock v s
  | .clockPointReached => Sys2Proof.Machine.execClockPointReached s
  | .gate v => Sys2Proof.Machine.execGate v s
  | .ungate v => Sys2Proof.Machine.execUngate v s
  | .selfref v => Sys2Proof.Machine.execSelfref v s
  | .selfrefEntry dev => Sys2Proof.Machine.execSelfrefEntry dev s
  | .idle v => Sys2Proof.Machine.execIdle v s
  | .pwrStatWrite v => Sys2Proof.Machine.execPwrStatWrite v s
  | .intStatWrite win v => Sys2Proof.Machine.execIntStatWrite win v s
  | .lnkCfgWrite v => Sys2Proof.Machine.execLnkCfgWrite v s
  | .registerWrite win off size v => Sys2Proof.Machine.execRegisterWrite win off size v s
  | .report win v => Sys2Proof.Machine.execReport win v s
  | .getcert win v => Sys2Proof.Machine.execGetcert win v s
  | .domcfg win v => Sys2Proof.Machine.execDomcfg win v s
  | .domoff win v => Sys2Proof.Machine.execDomoff win v s
  | .xltInvSpace dom v => Sys2Proof.Machine.execXltInvSpace dom v s
  | .xltInvRange dom v => Sys2Proof.Machine.execXltInvRange dom v s
  | .xltInvHandles dom v => Sys2Proof.Machine.execXltInvHandles dom v s
  | .xltInvDone dom => Sys2Proof.Machine.execXltInvDone dom s
  | .toHost dom v => Sys2Proof.Machine.execToHost dom v s
  | .toHostDone dom => Sys2Proof.Machine.execToHostDone dom s
  | .toDevice dom v => Sys2Proof.Machine.execToDevice dom v s
  | .qfeLoadStart dom v => Sys2Proof.Machine.execQfeLoadStart dom v s
  | .qfeStop dom v => Sys2Proof.Machine.execQfeStop dom v s
  | .peerSync dom v => Sys2Proof.Machine.execPeerSync dom v s
  | .peerSyncDone dom => Sys2Proof.Machine.execPeerSyncDone dom s
  | .fbBaseWrite dom v => Sys2Proof.Machine.execFbBaseWrite dom v s
  | .fbDepthWrite dom v => Sys2Proof.Machine.execFbDepthWrite dom v s
  | .fbStatWrite dom v => Sys2Proof.Machine.execFbStatWrite dom v s
  | .replayAll dom v => Sys2Proof.Machine.execReplayAll dom v s
  | .replayPage dom v => Sys2Proof.Machine.execReplayPage dom v s
  | .endPage dom v => Sys2Proof.Machine.execEndPage dom v s
  | .endSpace dom v => Sys2Proof.Machine.execEndSpace dom v s
  | .replayDone dom => Sys2Proof.Machine.execReplayDone dom s
  | .preempt dom v => Sys2Proof.Machine.execPreempt dom v s
  | .resume dom v => Sys2Proof.Machine.execResume dom v s
  | .move dom die v => Sys2Proof.Machine.execMove dom die v s
  | .abort dom die v => Sys2Proof.Machine.execAbort dom die v s
  | .join dom v => Sys2Proof.Machine.execJoin dom v s
  | .leave dom v => Sys2Proof.Machine.execLeave dom v s
  | .lose dom v => Sys2Proof.Machine.execLose dom v s
  | .setcut dom v => Sys2Proof.Machine.execSetcut dom v s
  | .rebuild dom v => Sys2Proof.Machine.execRebuild dom v s
  | .repair dom v => Sys2Proof.Machine.execRepair dom v s
  | .storeLeavesCore g n => Sys2Proof.Machine.execStoreLeavesCore g n s
  | .uncorrectableError e => Sys2Proof.Machine.execUncorrectableError e s
  | .cxlPortDown port gone => Sys2Proof.Machine.execCxlPortDown port gone s
  | .cxlPortUp port => Sys2Proof.Machine.execCxlPortUp port s
  | .refreshPostponementLimit n => Sys2Proof.Machine.execRefreshPostponementLimit n s

end Sys2Proof.Machine
end

