-- ==== Sys2Proof/Machine/Policy.lean ====
section
/-! DEFINITION. What happens next (log 3): the turns of the agenda, and, when it is empty, the module's own course: the
first of its internal steps that changes anything, else the issue of a ready group, else one tick. -/

namespace Sys2Proof.Machine

/-! ### Turns -/

/-- The row is an instruction word, issued by groups only; the others are steps of the module. -/
def isWord (i : Instr) : Bool := (instrFields i).isSome

/-- A step of the module. -/
def State.event (s : State) (i : Instr) : Ev := if isWord i then s.runs s else exec i s

/-- A branch, a jump or a YIELD, which never stalls at its issue. -/
def jumps : Instr → Bool
  | .b _ => true | .bz _ _ => true | .bnz _ _ => true | .bltz _ _ => true | .bgez _ _ => true | .bS _ => true
  | .bzS _ _ => true | .bnzS _ _ => true | .jr _ => true | .yield _ _ _ => true
  | _ => false

/-- An instruction has only stalled between two states: its class stands where it stood, it has opened no access, and nothing
of it waits on a new fault (R162, R184, R223, R269). -/
def State.stalledAt (t : State) (i : Instr) (u : State) : Bool :=
  !jumps i && t.ix.lanes.all (fun l =>
    let a := (t.group t.ix.slot).lane l
    let b := (u.group t.ix.slot).lane l
    a.pc == b.pc && a.depth == b.depth && a.exited == b.exited && a.parked == b.parked && a.sleep == b.sleep) &&
    (t.group t.ix.slot).loads == (u.group t.ix.slot).loads && t.waits == u.waits

/-- Words below the memory instructions never stall at their issue (R35). -/
def mayStall (w : Word) : Bool := decide (0x4B ≤ (w.extractLsb' 24 7).toNat)

/-- The group's next word would only stall now (R223, R230). -/
def State.stalls (s : State) (slot : Nat) : Bool :=
  !s.trapsNext slot && (match s.peek slot with
    | some (w, _) => mayStall w && (match s.issueGroup slot false false with
      | .run i t => (match exec i t with
        | .next u => t.stalledAt i u
        | _ => false)
      | _ => false)
    | none => false)

/-- The group is ready: its issuing class can issue now (R230). -/
def State.isReady (s : State) (slot : Nat) : Bool := s.ready? slot && !s.stalls slot

/-- The ready group that a partition of a core issues from; none while the core clocks stand still (R230, R360). -/
def State.issuer (s : State) (core part : Nat) : Option Nat :=
  if s.idle then none else s.chooseGroup core part s.isReady

/-- One issue of a group (R306); a word that stalls leaves nothing but the time it took. `second` for the second word of a
core cycle. -/
def State.issueFrom (s : State) (slot : Nat) (held second : Bool) : Ev :=
  match s.issueGroup slot held second with
  | .deferred g => exec (.takeDeferredTrap g) s
  | .run i t => (match exec i t with
    | .next u => .next (if t.stalledAt i u then (if second then s else s.tick 1) else u)
    | r => r)
  | .done t => s.runs t

/-- One issue of a partition, when it has a ready group (R223, R230). -/
def State.issueOn (s : State) (core part : Nat) (held : Bool) : Ev :=
  if s.stopped then .fault .moduleStopped
  else match s.issuer core part with
    | none => .next s
    | some slot => s.issueFrom slot held false

/-- The group's next word may be the second one of a cycle (R34, R230): its pipe is another, and a chained partner names nothing
that the first word writes, pops or pushes. -/
def State.pairs (s : State) (f : First) (partner : Bool) (slot : Nat) : Bool :=
  !s.trapsNext slot && s.isReady slot && (match s.peek slot with
    | some (w, i) => pipesPair f.pipe (pipeOf (s.team (s.group slot).team) w (pipeB i)) && (!partner || wordsPair f.word w)
    | none => false)

/-- The group of the second word of a cycle (R230): the chained partner of the first, else the next ready group whose word goes
to a different pipe. -/
def State.secondIssuer (s : State) (f : First) : Option Nat :=
  if f.chained && s.pairs f true f.slot then some f.slot
  else s.chooseGroup f.core f.part (fun n => n != f.slot && s.pairs f false n)

/-- The second word of the cycle in which a partition has issued (R14, R230). -/
def State.issueSecond (s : State) (core part : Nat) : Ev :=
  match s.first with
  | none => s.runs s
  | some f =>
    if s.stopped then .fault .moduleStopped
    else if f.core ≠ core ∨ f.part ≠ part ∨ s.idle then s.runs s
    else match s.secondIssuer f with
      | none => s.runs s
      | some slot => s.issueFrom slot false true

/-- A turn (log 2, 3). -/
def State.turn (s : State) (t : Turn) : Ev :=
  match t with
  | .event i => s.event i
  | .elapse n => s.runs (s.tick n)
  | .issue core part held => s.issueOn core part held
  | .dropCopy c line => s.runs (s.dropCopyAt c line)
  | .dropConst core line => s.runs (s.modCore core (fun c => { c with ccache := mdel c.ccache line }))
  | .dropCode core line => s.runs (s.modCore core (fun c => { c with icache := mdel c.icache line }))
  | .dropHandle core key => s.runs (s.modCore core (fun c => { c with hcache := mdel c.hcache key }))
  | .dropLeaf n => s.runs { s with tlb := removeIx s.tlb n }
  | .dropWalk n => s.runs { s with walks := removeIx s.walks n }
  | .specFill slot hx off lease => s.runs (s.specFill slot hx off lease)
  | .prefetch slot lane pc => s.runs (s.prefetch slot lane pc)
  | .second core part => s.issueSecond core part
  | .corrected channel => s.runs (s.correct channel)
  | .thaw dom stripe => s.runs (s.thaw dom stripe)
  | .rebuilt dom pos => s.runs (s.learnRebuilt dom pos)
  | .ownWrite => s.runs (s.ownStepOf [] s.ownWrites)
  | .portLink port up => s.runs (s.portLink port up)

/-! ### The module's own course -/

/-- Steps of the memory system that may be due. -/
def State.memorySteps (s : State) : List (State → Ev) :=
  s.acks.map (fun a => execWriteAck a.id) ++ s.flight.map (fun w => execHomeWritePerform w.id) ++
    (range 0 s.fills.length).map execCacheFillArrival ++
    s.groups.flatMap (fun e => e.2.storeQ.map (fun w => execStoreLeavesCore e.1 w.id)) ++
    s.groups.flatMap (fun e => e.2.loads.flatMap (fun x =>
      (nub (x.2.missing.map (fun k => k / 4))).map (fun n => execHomeFill (coreOfSlot e.1) n Config.minLease)) ++
      (if e.2.loads.isEmpty then [] else [execLoadReturn e.1])) ++
    (range 0 s.snoops.length).map execHostSnoopReply ++
    (if s.ownWrites.isEmpty then [] else [fun t => t.runs (t.ownStepOf [] t.ownWrites)])

/-- Steps of an engine command that may be due. -/
def Cmd.steps (c : Cmd) (n : Nat) : List (State → Ev) :=
  [execEngineCommandStart n, execMtaskStart n] ++ (range 0 c.groups).map (execBlockClose n) ++ [execEpilogue n, execEngineCommandComplete n]

/-- Steps of groups and their commands that may be due. -/
def State.groupSteps (s : State) : List (State → Ev) :=
  s.groups.flatMap (fun e => e.2.fences.map (fun f => execFenceComplete e.1 (f.1.headD 0)) ++
    (if s.mayEnd e.1 e.2 then [execGroupEnd e.1] else []) ++ [execUnpark e.1, execPriorityAgeBoost e.1, execGroupHeld e.1]) ++
    s.cmds.flatMap (fun e => e.2.steps e.1) ++ s.cores.flatMap (fun e => if e.2.tasks.isEmpty then [] else [execTaskStart e.1])

/-- Steps of queues, distributors and peers that may be due. -/
def State.workSteps (s : State) : List (State → Ev) :=
  (if s.launches.isEmpty then [] else [execTeamPlace 0, execTeamHandoff 0, execTeamPlace 1, execTeamHandoff 1]) ++
    s.queues.map (fun e => execQueueTailLatch e.1) ++ s.peerWait.map (fun e s => s.runs (s.peerAgain e.2)) ++
    (range 0 s.remote.length).map execPlaneTimeout

/-- The steps a traverse-engine set may have due. -/
def MigSet.steps (m : MigSet) (dom die : Nat) : List (State → Ev) :=
  if m.busy then [execMoveWalkEnd dom die, execChunkCopy dom die, execChunkReturn dom die, execMigrationCommit dom die] else []

/-- The steps a rope member may have due of itself; repairs that asked for its lines end. -/
def Rope.dueSteps (r : Rope) (dom : Nat) : List (State → Ev) :=
  r.frozen.map (fun n s => s.runs (s.thaw dom n)) ++ (match r.busy with
    | .seeding => [execSeedStripe dom]
    | .walking _ => [execRebuildStripe dom []]
    | _ => [])

/-- Steps of a domain's commands that may be due. -/
def Domain.dueSteps (d : Domain) (dom : Nat) : List (State → Ev) :=
  d.mig0.steps dom 0 ++ d.mig1.steps dom 1 ++ d.rope.dueSteps dom ++
    (if d.invBusy.isSome then [execXltInvDone dom] else []) ++ (if d.ownBusy.isSome then [execToHostDone dom] else []) ++
    (if d.qcWait.isSome then [fun s => s.runs (s.loadAgain dom)] else []) ++
    (if d.peerSync then [execPeerSyncDone dom] else []) ++ (if d.fbBusy then [execReplayDone dom] else []) ++
    (if d.drain.isSome then [execPreemptSave dom, execDrainLimitExpiry dom, execTeamRestore 0, execTeamRestore 1] else []) ++
    (if d.crnOn then [execCairnEpoch dom] else [])

/-- Steps of the module's power that may be due. -/
def State.powerSteps (s : State) : List (State → Ev) :=
  (if s.pwrBusy then [execClockPointReached] else []) ++ (if s.selfWant = 0 then [] else (range 0 24).map execSelfrefEntry) ++
    (s.cores.filter (fun e => e.2.sagEnds.isSome)).map (fun e => execDroopHoldExpiry e.1)

/-- Every internal step that may be due, in a fixed order. -/
def State.dueSteps (s : State) : List (State → Ev) :=
  s.memorySteps ++ s.groupSteps ++ s.workSteps ++ s.doms.flatMap (fun e => e.2.dueSteps e.1) ++ s.powerSteps

/-- The step, when it would change the state. -/
def State.changedBy (s : State) (f : State → Ev) : Option Ev :=
  match f s with
  | .next t => if t = s then none else some (.next t)
  | _ => none

/-- The partition of the ready group that has waited longest since its last issue, so that no group waits for ever. -/
def State.nextIssue (s : State) : Option (Nat × Nat) :=
  (bestBy (fun a b => decide (b.2.lastIssue < a.2.lastIssue)) (s.groups.filter (fun e => s.isReady e.1))).map
    (fun e => (coreOfSlot e.1, partOfSlot e.1))

/-- The module's own course: the second word of a cycle as soon as the first has issued (R230), then what is due, then the next
issue or one tick. -/
def State.ownStep (s : State) : Ev :=
  match s.first.bind (fun f => s.changedBy (fun x => x.issueSecond f.core f.part)) with
  | some r => r
  | none => match s.dueSteps.findSome? s.changedBy with
  | some r => r
  | none => match s.nextIssue with
    | some (core, part) => if s.idle then s.runs (s.tick 1) else s.issueOn core part false
    | none => s.runs (s.tick 1)

/-- What holds before every step: no slice holds more than its lines (R9), a group without a candidate lane has unparked its
lanes (R227), groups that a drain may hold are held (R250), and ready times are kept up (R230). -/
def State.readied (s : State) : State :=
  let s := s.trimSlices
  let t := ({ s with groups := s.groups.map (fun e => (e.1, s.unparked e.2)) } : State).holding
  t.aged t.isReady

end Sys2Proof.Machine
end

