-- ==== Sys2Proof/Machine/Setup.lean ====
section
/-! DEFINITION. A place for one word to run (log 2): a launch with one resident group of 32 lanes in slot 0 at the first
word of a packet, its page tables and the packet in memory, and an agenda whose first turn is that group's issue. -/

namespace Sys2Proof.Machine

/-- Where the packet lies: virtual and physical address. -/
def benchVa : Nat := 0x10000
def benchPa : Nat := 0x40010000

/-- The table entries that map the first GiB of space 0: the address-space entry at ASTAB, tables of levels 0 and 1, and a
1 GiB leaf with R, W and X in the table of level 2. -/
def benchTables (astab : Nat) : List (Nat × Nat) :=
  [(astab, 0x40000001), (0x40000000, 0x40001001), (0x40001000, 0x40002001), (0x40002000, 0x4000001F)]

/-- The CODE handle: the launch's packet, with X. -/
def benchCode : HEntry := { bytes := handleBytes true benchVa 0x1000 6 8 0 false 0, poison := false }

/-- The launch. -/
def benchLaunch : Launch := { Launch.blank with gx := 1, gy := 1, gz := 1, next := 1, code := benchCode }

/-- Its team, on core 0. -/
def benchTeam : Team := { Team.blank with slots := [0] }

/-- Its group, all 32 lanes at the packet, eight vector registers. -/
def benchGroup : Group := Group.start 0 0 { KHeader.blank with nregs := 8 } (addrWord benchVa) [] 0 0

/-- Bytes placed in memory as they stand, without poison. -/
def State.place (s : State) (pa : Nat) (bs : List Byte) : State :=
  { s with mem := putBytes s.mem pa bs, memPoison := s.memPoison.filter (fun e => !(decide (pa / 32 ≤ e.1) && decide (e.1 ≤ (pa + bs.length - 1) / 32))) }

/-- The state with a word as the next to issue. -/
def State.bench (s : State) (w : Nat) : State :=
  let t := ((benchTables (s.dom 0).astab).foldl (fun acc e => acc.place e.1 (leBytes 8 e.2)) s).place benchPa (leBytes 16 (w % 2 ^ 32))
  { (t.modDom 0 (fun d => { d with active := true })).modCore 0 (fun c => { c with icache := [], gated := false }) with
    agenda := [.issue 0 0 false], stopped := false, idle := false, tlb := [], waits := [],
    launches := [(0, benchLaunch)], teams := [(0, benchTeam)], groups := [(0, benchGroup)] }

end Sys2Proof.Machine
end

