-- ==== Sys2Proof/Machine/Step.lean ====
section
/-! DEFINITION. One step of the module (log 2, 3), and the state in which one word runs next. -/

namespace Sys2Proof.Machine

/-- One step: what is next on the agenda, else the module's own course. -/
def step (s : State) : Host.Outcome State Fault Refusal :=
  let r := s.readied
  match r.agenda with
  | [] => r.ownStep
  | t :: rest => ({ r with agenda := rest } : State).turn t

/-- The state with an instruction of `nbits` bits stored where the next step fetches (every word of this machine is 32
bits), as the word of a resident group that issues next (log 2). -/
def State.withFetchWord (s : State) (nbits w : Nat) : State := s.bench (w % 2 ^ nbits)

end Sys2Proof.Machine
end

