-- ==== Sys2Proof/Safety.lean ====
section
/-! DEFINITION. The vocabulary of claims: what a safe run is, when an instruction may take its operands, and the results
the rules of the spec give, written from the rules and not from the meanings. -/

namespace Sys2Proof.Machine

/-! ### Runs -/

/-- A step that stops the module without a thermal trip having stopped it, or that has no meaning: a safe run has none. -/
def unsafeOutcome (s : State) : Host.Outcome State Fault Refusal → Prop
  | .next _ => False
  | .fault _ => s.stopped = false
  | .refused _ => True

/-- The canonical form of physical memory and of its poison tags. -/
def State.memWf (s : State) : Prop := Memory.wf s.mem = true ∧ canonical false s.memPoison = true

/-! ### The issuing class -/

/-- A lane of a group may be chosen to issue (R222): it has not exited, is not parked, and does not sleep or stall (R232), but that a
lane stalled in a trap entry goes on with it (R308), and a lane asleep on a queue port is chosen once the port can serve it, room
kept for entries that may come back (R41), and no lane of the team, for q14 of the group, came to the port before it (R234). -/
def State.mayBeChosen (s : State) (g : Group) (x : Lane) : Prop :=
  x.exited = false ∧ x.parked = false ∧ match x.sleep with
    | .awake => True
    | .entering _ => True
    | .queue port token pops push =>
        (∀ p ∈ pops, popsOf pops p.1 ≤ portHolds g (s.team g.team) p.1) ∧
        (∀ p n, push = some (p, n) → portHolds g (s.team g.team) p - popsOf pops p + n + s.owed g p ≤ 16) ∧
        ∀ h ∈ (if port = 14 then [g] else s.teamGroups g.team), ∀ y ∈ h.lanes, ∀ k a b, y.sleep = .queue port k a b →
          y.exited = true ∨ token ≤ k
    | _ => False

/-- The issuing group and its team are resident, and its class is some of its lanes. -/
def State.Issues (s : State) : Prop :=
  (mget? s.groups s.ix.slot).isSome = true ∧ (mget? s.teams s.cur.team).isSome = true ∧ s.ix.lanes ≠ [] ∧
    ∀ l ∈ s.ix.lanes, l < s.cur.lanes.length

/-- The operands of the issuing instruction are ready: no decode trap and no queue port that cannot serve (R41, R53). -/
def State.Ready (s : State) (u : Uses) : Prop := s.stopped = false ∧ s.heldBy u = none

/-- What an instruction that evaluates each lane alone leaves: its sources taken, the result of `f` on each lane's words
retired (R90). -/
def State.computed (s : State) (u : Uses) (f : List (List Reg) → Res) : State :=
  let r := s.take s.ix.slot u.srcs
  r.2.retire u ((s.evalLanes u).map (fun l => (l, f (r.2.srcWords r.1 l))))

/-- A lane operation is evaluated once: its destination is uniform (R40, R115). -/
def State.once (s : State) (u : Uses) : Bool := dstIsUni (s.team s.cur.team) u.dst

/-- What a lane operation leaves: `f` on whether it is evaluated once, the class, the lane and every lane's words, once or in each lane (R111). -/
def State.crossed (s : State) (u : Uses) (f : Bool → List Nat → Nat → (Nat → List (List Reg)) → Res) : State :=
  let r := s.take s.ix.slot u.srcs
  r.2.retire u ((if s.once u then [s.lowest] else s.ix.lanes).map (fun l => (l, f (s.once u) s.ix.lanes l (r.2.srcWords r.1))))

/-- The instruction completes with the lane results `f` whenever its operands are ready. -/
def Computes (i : Instr) (u : Uses) (f : List (List Reg) → Res) : Prop :=
  ∀ s : State, s.Ready u → exec i s = .next (s.computed u f)

/-- The lane operation completes with the results `f` whenever its operands are ready. -/
def ComputesAcross (i : Instr) (u : Uses) (f : Bool → List Nat → Nat → (Nat → List (List Reg)) → Res) : Prop :=
  ∀ s : State, s.Ready u → exec i s = .next (s.crossed u f)

/-! ### Words of operands, and results -/

/-- The low word of source n (0 = A, 1 = B, 2 = D of R41). -/
def wordAt (x : List (List Reg)) (n : Nat) : Word := ((x.getD n []).headD Reg.zero).bits

/-- Source n as 64 bits, the second word high (R90). -/
def pairAt (x : List (List Reg)) (n : Nat) : DWord := wordsVal (x.getD n [])

/-- A one-word result without flags; poisoned when any source word is (R82). -/
def wordRes (f : List (List Reg) → Word) (x : List (List Reg)) : Res :=
  { words := [{ bits := f x, poison := x.any anyPoison }], flags := 0#5 }

/-- A two-word result without flags, low word first (R82, R90). -/
def pairRes (f : List (List Reg) → DWord) (x : List (List Reg)) : Res :=
  { words := pairWords (f x) (x.any anyPoison), flags := 0#5 }

/-- A one-word result with flags. -/
def wordFlags (f : List (List Reg) → Nat × Flags) (x : List (List Reg)) : Res :=
  { words := [{ bits := BitVec.ofNat 32 (f x).1, poison := x.any anyPoison }], flags := (f x).2 }

/-- A two-word result with flags. -/
def pairFlags (f : List (List Reg) → Nat × Flags) (x : List (List Reg)) : Res :=
  { words := pairWords (BitVec.ofNat 64 (f x).1) (x.any anyPoison), flags := (f x).2 }

/-- Two words into one. -/
def words2 (f : Word → Word → Word) : List (List Reg) → Res := wordRes (fun x => f (wordAt x 0) (wordAt x 1))

/-- One word into one. -/
def words1 (f : Word → Word) : List (List Reg) → Res := wordRes (fun x => f (wordAt x 0))

/-- Two pairs into a pair. -/
def pairs2 (f : DWord → DWord → DWord) : List (List Reg) → Res := pairRes (fun x => f (pairAt x 0) (pairAt x 1))

/-- A pair and a 32-bit count into a pair. -/
def shifts2 (f : DWord → Word → DWord) : List (List Reg) → Res := pairRes (fun x => f (pairAt x 0) (wordAt x 1))

/-- A 1 or 0 word. -/
def truth (p : Prop) [Decidable p] : Word := if p then 1 else 0

/-- The operands A and B of 32-bit words and a 32-bit D (R94). -/
abbrev usesWord2 (d : Dst) (a b : Src) : Uses := use2 d 1 a .word b .word

/-- As `usesWord2`, with D read too (R43, R94). -/
abbrev usesWord3 (d : Dst) (a b : Src) : Uses := use3 d 1 a .word b .word .word

/-- One word into a word (R97). -/
abbrev usesWord1 (d : Dst) (a : Src) : Uses := use1 d 1 a .word

/-- A floating-point function of two FP32 words. -/
def f32Two (f : Nat → Nat → Nat × Flags) : List (List Reg) → Res :=
  wordFlags (fun x => f (wordAt x 0).toNat (wordAt x 1).toNat)

/-- A floating-point function of one FP32 word. -/
def f32One (f : Nat → Nat × Flags) : List (List Reg) → Res := wordFlags (fun x => f (wordAt x 0).toNat)

/-- A floating-point function of two FP64 pairs. -/
def f64Two (f : Nat → Nat → Nat × Flags) : List (List Reg) → Res :=
  pairFlags (fun x => f (pairAt x 0).toNat (pairAt x 1).toNat)

/-- A floating-point function of one FP64 pair. -/
def f64One (f : Nat → Nat × Flags) : List (List Reg) → Res := pairFlags (fun x => f (pairAt x 0).toNat)

/-- Element e of a packed word (R65). -/
def half (w : Word) (e : Nat) : Nat := (w.extractLsb' (16 * e) 16).toNat

/-- Two packed elements as a word, element 0 in the low half, and the flags of both (R106). -/
def packedRes (f : Nat → List (List Reg) → Nat × Flags) (x : List (List Reg)) : Res :=
  { words := [{ bits := BitVec.ofNat 16 (f 1 x).1 ++ BitVec.ofNat 16 (f 0 x).1, poison := x.any anyPoison }],
    flags := (f 0 x).2 ||| (f 1 x).2 }

/-- The A word of a lane. -/
def laneA (ws : Nat → List (List Reg)) (l : Nat) : Reg := ((ws l).getD 0 []).headD Reg.zero

/-- The B word of a lane. -/
def laneB (ws : Nat → List (List Reg)) (l : Nat) : Reg := ((ws l).getD 1 []).headD Reg.zero

/-- A shuffle's result: the A word of lane j when j is in the class, else the lane's own (R112). -/
def shuffled (j : Int → Int → Int) (_once : Bool) (c : List Nat) (l : Nat) (ws : Nat → List (List Reg)) : Res :=
  let b := laneB ws l
  let k := j l b.bits.toNat
  let a := if 0 ≤ k ∧ k.toNat ∈ c then laneA ws k.toNat else laneA ws l
  { words := [{ bits := a.bits, poison := a.poison || b.poison }], flags := 0#5 }

/-- The start of the segment of R113 that holds lane l: the greatest lane of the class up to l that is its lowest lane or
has a flag. -/
def segmentStart (c : List Nat) (l : Nat) (flag : Nat → Bool) : Nat :=
  (c.filter (fun m => decide (m ≤ l) && (flag m || c.all (fun k => decide (m ≤ k))))).foldl max 0

/-- The lanes of the segment of R113 that ends at lane l. -/
def segmentLanes (c : List Nat) (l : Nat) (flag : Nat → Bool) : List Nat :=
  c.filter (fun m => decide (segmentStart c l flag ≤ m) && decide (m ≤ l))

/-- The A words of some lanes as a list of words. -/
def wordsOver (ls : List Nat) (ws : Nat → List (List Reg)) : List Word := ls.map (fun m => (laneA ws m).bits)

/-- Some A word of some lanes is poisoned; a pair's words both count. -/
def tagOver (ls : List Nat) (ws : Nat → List (List Reg)) : Bool := ls.any (fun m => anyPoison ((ws m).getD 0 []))

/-- The sum modulo 2^32 of some lanes' A words (R113, R115). -/
def sumI (ls : List Nat) (ws : Nat → List (List Reg)) (tag : Bool) : Res :=
  { words := [{ bits := BitVec.ofNat 32 ((wordsOver ls ws).map BitVec.toNat).sum, poison := tagOver ls ws || tag }], flags := 0#5 }

/-- ExactSum of some lanes' A words (R114). -/
def sumF (ls : List Nat) (ws : Nat → List (List Reg)) (tag : Bool) : Res :=
  let r := exactSum Fmt.f32 ((wordsOver ls ws).map BitVec.toNat)
  { words := [{ bits := BitVec.ofNat 32 r.1, poison := tagOver ls ws || tag }], flags := r.2 }

/-- ExactSum of some lanes' A pairs (R114). -/
def sumD (ls : List Nat) (ws : Nat → List (List Reg)) (tag : Bool) : Res :=
  let r := exactSum Fmt.f64 (ls.map (fun m => (pairAt (ws m) 0).toNat))
  { words := pairWords (BitVec.ofNat 64 r.1) (tagOver ls ws || tag), flags := r.2 }

/-- A word formed from all A words of the class, poisoned when any of them is (R115). -/
def overAll (f : List Word → Word) (_once : Bool) (c : List Nat) (_l : Nat) (ws : Nat → List (List Reg)) : Res :=
  { words := [{ bits := f (wordsOver c ws), poison := c.any (fun m => (laneA ws m).poison) }], flags := 0#5 }

/-! ### Values of floating-point codes -/

/-- The rational number of a finite value; 0 for the others. -/
def FVal.rat : FVal → ℚ
  | .fin neg m e => (if neg then -1 else 1) * (m : ℚ) * (2 : ℚ) ^ e
  | _ => 0

/-- A value that is not a NaN in the order of the reals with their infinities. -/
def FVal.ext : FVal → WithBot (WithTop ℚ)
  | .inf neg => if neg then ⊥ else ((⊤ : WithTop ℚ) : WithBot (WithTop ℚ))
  | v => ((v.rat : WithTop ℚ) : WithBot (WithTop ℚ))

/-- A value is finite. -/
def FVal.isFin : FVal → Bool
  | .fin _ _ _ => true
  | _ => false

/-- The formats of R63. -/
def ieeeFormats : List Fmt := [Fmt.f64, Fmt.f32, Fmt.f16, Fmt.bf16]

/-- The formats of R63 and R66. -/
def allFormats : List Fmt := ieeeFormats ++ [Fmt.e4m3, Fmt.e5m2, Fmt.e3m2, Fmt.e2m1]

/-- A magnitude of a format's grid with no exponent below `low`, continued past the largest finite value (R77). -/
def Fmt.gridFrom (f : Fmt) (low : Int → Prop) (v : ℚ) : Prop :=
  ∃ (n : Nat) (q : Int), n < 2 ^ (f.mb + 1) ∧ low q ∧ v = n * (2 : ℚ) ^ q

/-- A magnitude of a format's grid, continued past the largest finite value (R77). -/
def Fmt.onGrid (f : Fmt) (v : ℚ) : Prop := f.gridFrom (fun q => f.qmin ≤ q) v

/-- The magnitude v is the one nearest to x of a grid, the one with an even significand on a tie (R77). -/
def Fmt.nearestOn (f : Fmt) (low : Int → Prop) (x : ℝ) (v : ℚ) : Prop :=
  ∃ (n : Nat) (q : Int), n < 2 ^ (f.mb + 1) ∧ low q ∧ (2 ^ f.mb ≤ n ∨ ¬ low (q - 1)) ∧ v = n * (2 : ℚ) ^ q ∧
    (∀ w, f.gridFrom low w → |(v : ℝ) - x| ≤ |(w : ℝ) - x|) ∧
    ((∃ w, f.gridFrom low w ∧ w ≠ v ∧ |(v : ℝ) - x| = |(w : ℝ) - x|) → n % 2 = 0)

/-- The magnitude v is RoundNE of the magnitude x (R77). -/
def Fmt.isRoundNE (f : Fmt) (x : ℝ) (v : ℚ) : Prop := f.nearestOn (fun q => f.qmin ≤ q) x v

/-- The magnitude v is RoundZ of the magnitude x (R77). -/
def Fmt.isRoundZ (f : Fmt) (x : ℝ) (v : ℚ) : Prop := f.onGrid v ∧ (v : ℝ) ≤ x ∧ ∀ w, f.onGrid w → (w : ℝ) ≤ x → w ≤ v

/-- The largest finite value of a format. -/
def Fmt.largest (f : Fmt) : ℚ := (f.decode f.max).rat

/-- The least normal magnitude of a format. -/
def Fmt.leastNormal (f : Fmt) : ℚ := (2 : ℚ) ^ (f.qmin + (f.mb : Int))

/-- A magnitude is tiny after rounding by RoundNE as if the exponent range had no limit (R64, R77). -/
def Fmt.tinyNE (f : Fmt) (x : ℝ) : Prop := ∃ u, f.nearestOn (fun _ => True) x u ∧ u < f.leastNormal

/-- A code and flags name the rounded magnitude v of a magnitude x with a sign (R77 to R80): past the largest finite value the
overflow's code with OF and NX, else v itself, with NX exactly when inexact, UF when tiny too, and no other flag. -/
def Fmt.names (f : Fmt) (neg : Bool) (x : ℝ) (v : ℚ) (tiny : Prop) (fate : Nat) (r : Nat × Flags) : Prop :=
  (f.largest < v → r = (f.signed neg fate, Flags.ofl ||| Flags.nx)) ∧
  (v ≤ f.largest → (f.decode r.1).isFin = true ∧ (f.decode r.1).rat = (if neg then -v else v) ∧
    (f.decode r.1).neg? = neg ∧ r.2 &&& (Flags.nv ||| Flags.dz ||| Flags.ofl) = 0#5 ∧
    (r.2 &&& Flags.nx = Flags.nx ↔ (v : ℝ) ≠ x) ∧ (r.2 &&& Flags.uf = Flags.uf ↔ (v : ℝ) ≠ x ∧ tiny))

/-- A result is RoundNE of a positive magnitude with a sign (R77 to R79): an overflow gives infinity in a format of R63, the
largest finite value in a narrow one. -/
def Fmt.roundedNE (f : Fmt) (neg : Bool) (x : ℝ) (r : Nat × Flags) : Prop :=
  ∃ v, f.isRoundNE x v ∧ f.names neg x v (f.tinyNE x) (if f.tops = .ieee then f.infCode else f.max) r

/-- A result is RoundZ of a positive magnitude with a sign (R77 to R79): an overflow gives the largest finite value. -/
def Fmt.roundedZ (f : Fmt) (neg : Bool) (x : ℝ) (r : Nat × Flags) : Prop :=
  ∃ v, f.isRoundZ x v ∧ f.names neg x v (x < (f.leastNormal : ℝ)) f.max r

/-- A result is an exact rational rounded once by RoundNE; a zero has the given sign (R101). -/
def Fmt.once (f : Fmt) (x : ℚ) (zeroSign : Bool) (r : Nat × Flags) : Prop :=
  ∃ m e, r = roundFin f .ne (if x = 0 then zeroSign else decide (x < 0)) m e ∧ (m : ℚ) * (2 : ℚ) ^ e = |x|

/-- A result is RoundNE, with its flags, of a value within `tol` of the real y (R108, as far as log 15 goes). -/
def Fmt.nearlyRounded (f : Fmt) (y tol : ℝ) (r : Nat × Flags) : Prop :=
  ∃ z : ℝ, |z - y| ≤ tol ∧ z ≠ 0 ∧ ∃ neg : Bool, (neg = true ↔ z < 0) ∧ f.roundedNE neg |z| r

/-- The integer n is x rounded to an integral value in a direction (R77, R109). -/
def isIntegral (mode : Mode) (x : ℚ) (n : Int) : Prop :=
  match mode with
  | .ne => |(n : ℚ) - x| ≤ 1 / 2 ∧ (|(n : ℚ) - x| = 1 / 2 → n % 2 = 0)
  | .z => n = if x < 0 then ⌈x⌉ else ⌊x⌋
  | .up => n = ⌈x⌉
  | .down => n = ⌊x⌋

/-! ### Encoded rows and blocks -/

/-- The value of a list of signed terms (R72). -/
def termSum (l : List (Nat × Bool)) : Int := (l.map (fun d => (if d.2 then -1 else 1) * (2 : Int) ^ d.1)).sum

/-- A list of terms is the NAF of q in descending position (R72, R119): it sums to q and no two terms are adjacent. -/
def isNaf (q : Int) (l : List (Nat × Bool)) : Prop := termSum l = q ∧ l.Pairwise (fun a b => b.1 + 2 ≤ a.1)

/-- The exponent n of a power-of-two scale for values with a greatest magnitude `top` of codes (R118, R153): the least one at which
they fit, not below -126. -/
def isScaleExp (top : Nat) (xs : List FVal) (n : Int) : Prop :=
  -126 ≤ n ∧ (∀ x ∈ xs, |x.rat| ≤ top * (2 : ℚ) ^ n) ∧ (n = -126 ∨ ∃ x ∈ xs, top * (2 : ℚ) ^ (n - 1) < |x.rat|)

/-- The S24 word of the scale 2^n (R69). -/
def powScale (n : Int) : Nat := (n + 127).toNat * 65536

/-- The cases of R118 and R153 for the scale of a row or of a block's column: a NaN or an infinity, all zero, a scale that overflows,
or an exponent n at which `body` holds. `r` holds the scale, the codes and the flags. -/
def scaleCases {α : Type} (top : Nat) (zero : α) (xs : List FVal) (r : Nat × List α × Flags) (body : Int → Prop) : Prop :=
  let zeros := List.replicate xs.length zero
  (xs.any (fun x => !x.isFin) = true → r = (0xFF0000, zeros, Flags.nv)) ∧
  ((∀ x ∈ xs, x.isFin = true) → (∀ x ∈ xs, x.rat = 0) → r = (0, zeros, 0#5)) ∧
  ((∀ x ∈ xs, x.isFin = true) → (∃ x ∈ xs, x.rat ≠ 0) → ∀ n, isScaleExp top xs n →
    (127 < n → r = (0xFF0000, zeros, Flags.ofl ||| Flags.nx)) ∧ (n ≤ 127 → r.1 = powScale n ∧ r.2.1.length = xs.length ∧ body n))

/-- EncodeRow of a row of values with a cap (R118, R120, R143): each element the nearest integer of x / 2^n, cut to its cap; NX when
some element is not exact. -/
def encodesRow (xs : List FVal) (cap : Nat) (r : Encoded) : Prop :=
  scaleCases 32767 0 xs (r.scale, r.q, r.flags) (fun n =>
    (∀ i, i < xs.length → ∃ k : Int, isIntegral .ne ((xs.getD i (.fin false 0 0)).rat / (2 : ℚ) ^ n) k ∧ |k| ≤ 32767 ∧ r.q.getD i 0 = cutToT k cap) ∧
    (r.flags = 0#5 ∨ r.flags = Flags.nx) ∧
    (r.flags = 0#5 ↔ ∀ i, i < xs.length → ((r.q.getD i 0 : Int) : ℚ) * (2 : ℚ) ^ n = (xs.getD i (.fin false 0 0)).rat))

/-- A code of a weight format is the value x rounded to it, with its flags (R153). -/
def weightCode (wf : Nat) (x : ℚ) (neg : Bool) (r : Nat × Flags) : Prop :=
  match wfFmt wf with
  | some f => f.once x neg r
  | none => ∃ k : Int, isIntegral .ne x k ∧ (r.1 : Int) = k % (2 : Int) ^ (if wf = 4 then 8 else 4) ∧ (r.2 = 0#5 ↔ (k : ℚ) = x) ∧ (r.2 = 0#5 ∨ r.2 = Flags.nx)

/-- A block's column quantised to a weight format (R153): its scale, its codes, the OR of their flags. -/
def quantisesBlock (wf : Nat) (xs : List FVal) (r : Nat × List Nat × Flags) : Prop :=
  scaleCases (wfMax wf) 0 xs r (fun n => ∃ fs : List Flags, fs.length = xs.length ∧ r.2.2 = fs.foldl (· ||| ·) 0#5 ∧
    ∀ i, i < xs.length → let x := xs.getD i (.fin false 0 0)
      weightCode wf (x.rat / (2 : ℚ) ^ n) x.neg? (r.2.1.getD i 0, fs.getD i 0#5))

/-- A weight decoded with its block's scale (R71, R154). -/
def decodesWeight (wf code scale : Nat) (v : FVal) : Prop :=
  let x := wfValue wf code
  (x.isNan || x.isInf || scaleIsNan scale → v.isNan = true ∧ v.isSnan = x.isSnan) ∧
  (x.isFin = true → scaleIsNan scale = false → scaleIsZero scale = true → v = .fin false 0 0) ∧
  (x.isFin = true → scaleIsNan scale = false → scaleIsZero scale = false →
    v.isFin = true ∧ v.rat = x.rat * (scaleVal scale).rat ∧ v.neg? = x.neg?)

/-- The contribution of a block to a row's column (R127): the canonical NaN, or the exact sum of the elements times their weights, times
the block's scale, rounded once. -/
def contributes (wf bs rs : Nat) (qs : List Int) (codes : List Nat) (r : Nat × Flags) : Prop :=
  let bad := codes.any (fun k => !(wfValue wf k).isFin) || scaleIsNan bs || scaleIsNan rs
  (bad = true → r = (Fmt.f64.nan, 0#5)) ∧
  (bad = false → Fmt.f64.once ((List.zipWith (fun q k => (q : ℚ) * (wfValue wf k).rat) qs codes).sum * (scaleVal bs).rat) false r)

/-- An accumulator value times its row's tag as an epilogue writes it in a format (R131). -/
def epilogueValue (f : Fmt) (a tag : Nat) (r : Nat × Flags) : Prop :=
  let v := Fmt.f64.decode a
  (v.isFin = true → scaleIsNan tag = false → f.once (v.rat * (scaleVal tag).rat) v.neg? r) ∧
  (v.isNan || scaleIsNan tag → r.1 = f.nan) ∧
  (v.isInf = true → scaleIsZero tag = true → r = (f.nan, Flags.nv))

/-- An accumulator row prepared at a task's start (R129), and nothing else. -/
def preparesRow (c : Core) (acc : Bool) (p : Nat × Nat) (new : Nat) (r : Core × Flags) : Prop :=
  let old := c.tagGet (tagKey p)
  (∀ k, k / 128 ≠ tagKey p → r.1.accGet k = c.accGet k) ∧ (∀ k, k ≠ tagKey p → r.1.tagGet k = c.tagGet k) ∧
  (acc = true → scaleIsZero new = true → r = (c, 0#5)) ∧
  (¬ (acc = true ∧ scaleIsZero new = true) → r.1.tagGet (tagKey p) = new ∧ ∀ col < 128,
    let a := c.accGet (accKey p col)
    let b := r.1.accGet (accKey p col)
    if acc = false then b = (0#64, false)
    else if scaleIsZero old || old == new || scaleIsNan new || scaleIsNan old then b = a
    else b = (BitVec.ofNat 64 (rescaled a.1 old new).1, a.2))

/-- Where a copy-engine command writes (R150, R152 to R154, R216): the rows of a term list one after another behind their directory, the rows
of a matrix at their stride, and how many bytes each takes. -/
def writesAt (c : Cmd) (ps : List EPut) : Prop :=
  let w := c.word
  let lies (p : Option EPut) (off len : Nat) : Prop := ∃ x, p = some x ∧ x.off = off ∧ x.bytes.length = len
  let size := tySize (denseTy (w0Type (w 0)))
  (c.op = .xencTerm → lies ps[0]? (w 3) (8 * w 6) ∧ ps.length = w 6 + 1 ∧ ∀ i < w 6, ∃ x y, ps[0]? = some x ∧ ps[i + 1]? = some y ∧
    (i = 0 → y.off = w 4) ∧ y.bytes.length % 16 = 0 ∧ (∀ z, ps[i + 2]? = some z → z.off = y.off + y.bytes.length) ∧
    (x.bytes.drop (8 * i)).take 8 = leBytes 8 y.off) ∧
  (c.op = .xdecTerm → ps.length = w 5 ∧ ∀ i < w 5, lies ps[i]? (w 2 + w 3 * i) (w 4 * size)) ∧
  (c.op = .xdecBlock → ps.length = w 6 ∧ ∀ i < w 6, lies ps[i]? (w 4 + w 5 * i) (w 7 * size)) ∧
  (c.op = .xencBlock → let wf := w0Low (w 0)
    let stride := bits (w 4) 0 16
    ps.length = w 6 + (w 6 + 31) / 32 ∧ (∀ i < w 6, lies ps[i]? (w 3 + 16 * stride * i) (wfBytes wf (w 7))) ∧
    ∀ b < (w 6 + 31) / 32, lies ps[w 6 + b]? (w 5 + 4 * strideElems wf stride * b) (4 * w 7))

/-- The class bit of a value (R109). -/
def classBit (f : Fmt) (v : FVal) : Word :=
  if v.isNan then (if v.isSnan then 0x100 else 0x200)
  else if v.isInf then (if v.neg? then 0x1 else 0x80)
  else if v.isZero then (if v.neg? then 0x8 else 0x10)
  else if |v.rat| < f.leastNormal then (if v.neg? then 0x4 else 0x20)
  else if v.neg? then 0x2 else 0x40

/-- The code a literal gives a floating-point position of a wider or a half format (R44): its value by RoundNE, a NaN of its own
kind. -/
def litRule (lit : Word) (f : Fmt) (snan code : Nat) : Prop :=
  let v := Fmt.f32.decode lit.toNat
  (v.isNan = true → code = if v.isSnan then snan else f.nan) ∧ (v.isInf = true → code = f.signed v.neg? f.infCode) ∧
  (v.isZero = true → code = f.signed v.neg? 0) ∧
  (v.isFin = true → v.isZero = false → ∃ fl, f.roundedNE v.neg? ((|v.rat| : ℚ) : ℝ) (code, fl))

/-- The code of an integer in a type of some bits. -/
def intCode (n : Int) (bits : Nat) : Nat := (n % 2 ^ bits).toNat

/-- A conversion to a type, as R78 and R79 tabulate it, of a value from an integer type or not. -/
def convertRule (mode : Mode) (dst : Ty) (fromInt : Bool) (v : FVal) (r : Nat × Flags) : Prop :=
  match tyFmt dst with
  | some f =>
    (v.isNan = true → r = if f.tops = .none then (0, Flags.nv) else (f.nan, nvIf v.isSnan)) ∧
    (v.isInf = true → r = match f.tops with
      | .none => (f.signed v.neg? f.max, Flags.nv)
      | .nanOnly => (f.signed v.neg? f.max, Flags.nx)
      | _ => (f.signed v.neg? f.infCode, 0#5)) ∧
    (v.isZero = true → r = (f.signed v.neg? 0, 0#5)) ∧
    (v.isFin = true → v.isZero = false →
      (mode = .ne → f.roundedNE v.neg? ((|v.rat| : ℚ) : ℝ) r) ∧ (mode = .z → f.roundedZ v.neg? ((|v.rat| : ℚ) : ℝ) r))
  | none =>
    let lo := (intRange dst).1
    let hi := (intRange dst).2
    (v.isNan = true → r = (0, Flags.nv)) ∧
    (v.isInf = true → r = (intCode (if v.neg? then lo else hi) (tyBits dst), Flags.nv)) ∧
    (v.isFin = true → ∃ n, isIntegral mode v.rat n ∧
      r = (intCode (max lo (min hi n)) (tyBits dst),
        if fromInt then 0#5 else if n < lo ∨ hi < n then Flags.nv else if (n : ℚ) = v.rat then 0#5 else Flags.nx))

/-! ### Operands and frames -/

/-- The operands of the instructions that write one destination and set flags at most (R94 to R117, R270, R316); none for
the others. -/
def arithmeticUses : Instr → Option Uses
  | .add d a b => some (usesWord2 d a b)
  | .sub d a b => some (usesWord2 d a b)
  | .mul d a b => some (usesWord2 d a b)
  | .mulh d a b => some (usesWord2 d a b)
  | .mulhu d a b => some (usesWord2 d a b)
  | .and d a b => some (usesWord2 d a b)
  | .or d a b => some (usesWord2 d a b)
  | .xor d a b => some (usesWord2 d a b)
  | .shl d a b => some (usesWord2 d a b)
  | .shr d a b => some (usesWord2 d a b)
  | .sar d a b => some (usesWord2 d a b)
  | .min d a b => some (usesWord2 d a b)
  | .max d a b => some (usesWord2 d a b)
  | .minu d a b => some (usesWord2 d a b)
  | .maxu d a b => some (usesWord2 d a b)
  | .slt d a b => some (usesWord2 d a b)
  | .sltu d a b => some (usesWord2 d a b)
  | .seq d a b => some (usesWord2 d a b)
  | .fadd d a b => some (usesWord2 d a b)
  | .fsub d a b => some (usesWord2 d a b)
  | .fmul d a b => some (usesWord2 d a b)
  | .fmin d a b => some (usesWord2 d a b)
  | .fmax d a b => some (usesWord2 d a b)
  | .fslt d a b => some (usesWord2 d a b)
  | .fsle d a b => some (usesWord2 d a b)
  | .fseq d a b => some (usesWord2 d a b)
  | .fsun d a b => some (usesWord2 d a b)
  | .mad d a b => some (usesWord3 d a b)
  | .sel d a b => some (usesWord3 d a b)
  | .ffma d a b => some (usesWord3 d a b)
  | .add64 d a b => some (use2 d 2 a .pair b .pair)
  | .sub64 d a b => some (use2 d 2 a .pair b .pair)
  | .mul64 d a b => some (use2 d 2 a .pair b .pair)
  | .shl64 d a b => some (use2 d 2 a .pair b .word)
  | .shr64 d a b => some (use2 d 2 a .pair b .word)
  | .sar64 d a b => some (use2 d 2 a .pair b .word)
  | .slt64 d a b => some (use2 d 1 a .pair b .pair)
  | .sltu64 d a b => some (use2 d 1 a .pair b .pair)
  | .madwu d a b => some (use3 d 2 a .word b .word .pair)
  | .addwu d a b => some (use3 d 2 a .word b .word .pair)
  | .mov d a => some (usesWord1 d a)
  | .not d a => some (usesWord1 d a)
  | .neg d a => some (usesWord1 d a)
  | .abs d a => some (usesWord1 d a)
  | .clz d a => some (usesWord1 d a)
  | .ctz d a => some (usesWord1 d a)
  | .popc d a => some (usesWord1 d a)
  | .brev d a => some (usesWord1 d a)
  | .bswap d a => some (usesWord1 d a)
  | .sextb d a => some (usesWord1 d a)
  | .sexth d a => some (usesWord1 d a)
  | .zextb d a => some (usesWord1 d a)
  | .zexth d a => some (usesWord1 d a)
  | .tcnt d a => some (usesWord1 d a)
  | .fneg d a => some (usesWord1 d a)
  | .fabs d a => some (usesWord1 d a)
  | .fsqrt d a => some (usesWord1 d a)
  | .frcp d a => some (usesWord1 d a)
  | .frsq d a => some (usesWord1 d a)
  | .fexp2 d a => some (usesWord1 d a)
  | .flog2 d a => some (usesWord1 d a)
  | .fsin d a => some (usesWord1 d a)
  | .fcos d a => some (usesWord1 d a)
  | .frndn d a => some (usesWord1 d a)
  | .frndz d a => some (usesWord1 d a)
  | .frndp d a => some (usesWord1 d a)
  | .frndm d a => some (usesWord1 d a)
  | .fclass d a => some (usesWord1 d a)
  | .ptest d a => some (usesWord1 d a)
  | .pclr d a => some (usesWord1 d a)
  | .mov64 d a => some (use1 d 2 a .pair)
  | .neg64 d a => some (use1 d 2 a .pair)
  | .dadd d a b => some (use2 d 2 a .dbl b .dbl)
  | .dsub d a b => some (use2 d 2 a .dbl b .dbl)
  | .dmul d a b => some (use2 d 2 a .dbl b .dbl)
  | .dmin d a b => some (use2 d 2 a .dbl b .dbl)
  | .dmax d a b => some (use2 d 2 a .dbl b .dbl)
  | .dfma d a b => some (use3 d 2 a .dbl b .dbl .dbl)
  | .dslt d a b => some (use2 d 1 a .dbl b .dbl)
  | .dsle d a b => some (use2 d 1 a .dbl b .dbl)
  | .dseq d a b => some (use2 d 1 a .dbl b .dbl)
  | .dneg d a => some (use1 d 2 a .dbl)
  | .dabs d a => some (use1 d 2 a .dbl)
  | .dsqrt d a => some (use1 d 2 a .dbl)
  | .drcp d a => some (use1 d 2 a .dbl)
  | .drsq d a => some (use1 d 2 a .dbl)
  | .drndn d a => some (use1 d 2 a .dbl)
  | .drndz d a => some (use1 d 2 a .dbl)
  | .drndp d a => some (use1 d 2 a .dbl)
  | .drndm d a => some (use1 d 2 a .dbl)
  | .dclass d a => some (use1 d 1 a .dbl)
  | .hadd2 d a b => some (use2 d 1 a .half b .half)
  | .hmul2 d a b => some (use2 d 1 a .half b .half)
  | .hfma2 d a b => some (use3 d 1 a .half b .half .half)
  | .badd2 d a b => some (use2 d 1 a .bhalf b .bhalf)
  | .bmul2 d a b => some (use2 d 1 a .bhalf b .bhalf)
  | .bfma2 d a b => some (use3 d 1 a .bhalf b .bhalf .bhalf)
  | .cvt d a x y => some (use1 d (cvtWords x) a (cvtPos y))
  | .cvtz d a x y => some (use1 d (cvtWords x) a (cvtPos y))
  | .shfl d a b => some ({ usesWord2 d a b with noUni := true })
  | .shflx d a b => some ({ usesWord2 d a b with noUni := true })
  | .shflu d a b => some ({ usesWord2 d a b with noUni := true })
  | .shfld d a b => some ({ usesWord2 d a b with noUni := true })
  | .lsegi d a b => some ({ usesWord2 d a b with noUni := true })
  | .lsegf d a b => some ({ usesWord2 d a b with noUni := true })
  | .lsegd d a b => some ({ use2 d 2 a .dbl b .word with noUni := true })
  | .lscani d a => some ({ usesWord1 d a with uniform := [] })
  | .lscanf d a => some ({ usesWord1 d a with uniform := [] })
  | .lredi d a => some ({ usesWord1 d a with uniform := [] })
  | .lredf d a => some ({ usesWord1 d a with uniform := [] })
  | .lmini d a => some ({ usesWord1 d a with uniform := [] })
  | .lmaxi d a => some ({ usesWord1 d a with uniform := [] })
  | .lany d a => some ({ usesWord1 d a with uniform := [] })
  | .lall d a => some ({ usesWord1 d a with uniform := [] })
  | .lcount d a => some ({ usesWord1 d a with uniform := [] })
  | .lrank d a => some ({ usesWord1 d a with uniform := [] })
  | .lscand d a => some ({ use1 d 2 a .dbl with uniform := [] })
  | .lredd d a => some ({ use1 d 2 a .dbl with uniform := [] })
  | .lballot d a b => some ({ usesWord2 d a b with uniform := [b] })
  | .rdlane d a b => some ({ usesWord2 d a b with uniform := [b] })
  | .movi d _ => some ({ srcs := [], dst := d, words := 1, uniform := [], noUni := false })
  | .movih d _ => some ({ srcs := [(dstSrc d, .word)], dst := d, words := 1, uniform := [], noUni := false })
  | .srd d r => some ({ srcs := [], dst := d, words := if r.isPair then 2 else 1, uniform := [], noUni := SReg.perLane r })
  | _ => none

/-- The instructions among these that may set floating-point flags (R101 to R110, R114). -/
def setsFlags : Instr → Bool
  | .fadd _ _ _ => true
  | .fsub _ _ _ => true
  | .fmul _ _ _ => true
  | .fmin _ _ _ => true
  | .fmax _ _ _ => true
  | .fslt _ _ _ => true
  | .fsle _ _ _ => true
  | .fseq _ _ _ => true
  | .fsun _ _ _ => true
  | .ffma _ _ _ => true
  | .dadd _ _ _ => true
  | .dsub _ _ _ => true
  | .dmul _ _ _ => true
  | .dmin _ _ _ => true
  | .dmax _ _ _ => true
  | .dfma _ _ _ => true
  | .dslt _ _ _ => true
  | .dsle _ _ _ => true
  | .dseq _ _ _ => true
  | .hadd2 _ _ _ => true
  | .hmul2 _ _ _ => true
  | .hfma2 _ _ _ => true
  | .badd2 _ _ _ => true
  | .bmul2 _ _ _ => true
  | .bfma2 _ _ _ => true
  | .lsegf _ _ _ => true
  | .lsegd _ _ _ => true
  | .fneg _ _ => true
  | .fabs _ _ => true
  | .fsqrt _ _ => true
  | .frcp _ _ => true
  | .frsq _ _ => true
  | .fexp2 _ _ => true
  | .flog2 _ _ => true
  | .fsin _ _ => true
  | .fcos _ _ => true
  | .frndn _ _ => true
  | .frndz _ _ => true
  | .frndp _ _ => true
  | .frndm _ _ => true
  | .fclass _ _ => true
  | .dneg _ _ => true
  | .dabs _ _ => true
  | .dsqrt _ _ => true
  | .drcp _ _ => true
  | .drsq _ _ => true
  | .drndn _ _ => true
  | .drndz _ _ => true
  | .drndp _ _ => true
  | .drndm _ _ => true
  | .dclass _ _ => true
  | .lscanf _ _ => true
  | .lscand _ _ => true
  | .lredf _ _ => true
  | .lredd _ _ => true
  | .cvt _ _ _ _ => true
  | .cvtz _ _ _ _ => true
  | _ => false

/-- The entries of a port of the issuing group, oldest first (R41). -/
def State.portEntries (s : State) (port : Nat) : List (List Reg) :=
  (portOf s.cur (s.team s.cur.team) port).elim [] (fun c => s.entriesOf (s.ix.slot / 144) (s.team s.cur.team).base c c.tags.length)

/-- A port's entries are one word each: a uniform channel, or q14 (R41). -/
def State.portUniform (s : State) (port : Nat) : Bool :=
  port == 14 || ((s.team s.cur.team).chan? port).elim true (fun c => !c.vector)

/-- The entries that a list of sources pops from a port (R41). -/
def popCount (srcs : List (Src × Pos)) (port : Nat) : Nat :=
  (srcs.map (fun x => match x.1 with
    | .q n => if n.val = port then x.2.words else 0
    | _ => 0)).sum

/-- A destination names vector register r, with the words it takes. -/
def namesV (d : Dst) (words r : Nat) : Prop := ∃ n : Fin 112, d = .v n ∧ n.val ≤ r ∧ r < n.val + words

/-- A destination names uniform register r, with the words it takes. -/
def namesS (d : Dst) (words r : Nat) : Prop := ∃ n : Fin 128, d = .s n ∧ n.val ≤ r ∧ r < n.val + words

/-- A port is a source or the destination of an instruction. -/
def Uses.namesPort (u : Uses) (p : Nat) : Prop := (∃ x ∈ u.srcs, ∃ n : Fin 15, x.1 = .q n ∧ n.val = p) ∨ ∃ n : Fin 15, u.dst = .q n ∧ n.val = p

/-- No lane sleeps at a WAITC, resident or saved. -/
def State.Unwatched (s : State) : Prop :=
  (∀ e ∈ s.groups, ∀ x ∈ e.2.lanes, ∀ w, x.sleep ≠ .waitc w) ∧
    ∀ k ∈ s.saved, ∀ g ∈ k.groups, ∀ w, Sleep.waitc w ∉ g.sleeps

/-- No CAIRN count is on, so that no access counts a frame (R341). -/
def State.Uncounted (s : State) : Prop := ∀ e ∈ s.doms, e.2.crnOn = false

/-- No line is under the protection of a rope that repairs it, so that no read mends one (R349). -/
def State.Unrepaired (s : State) : Prop := ∀ n, s.repairs n = false

/-- No byte of physical memory changes as its homes serve it, nor its tag. -/
def sameHome (s t : State) : Prop := (∀ pa, t.byte pa = s.byte pa) ∧ ∀ pa, t.poisonAt pa = s.poisonAt pa

/-- No byte of any memory of the module changes: physical memory as its homes serve it, and local memory of any core. -/
def sameMemory (s t : State) : Prop := sameHome s t ∧ ∀ core off, t.locByte core off = s.locByte core off

/-- A byte of a core's local memory that the entries an instruction pushes take: the places behind the newest entry of its
port's ring of 16 (R21, R41, R60). -/
def State.pushes (s : State) (u : Uses) (core off : Nat) : Prop :=
  ∃ n : Fin 15, u.dst = .q n ∧ core = s.ix.slot / 144 ∧ ∃ c, (s.team s.cur.team).chan? n.val = some c ∧ ∃ i < u.words,
    let at_ := (s.team s.cur.team).base + c.ofs + 4 * c.words * ((c.head + c.tags.length + i) % 16)
    at_ ≤ off ∧ off < at_ + 4 * c.words

/-- What an instruction that pushes needs for its pushes to reach nothing else (a push into a ring is a write that armed
monitors may see): a channel's entries are as wide as its kind says, no monitor watches a byte that the entries take, and every
class asleep at WAITC still has an open monitor, which every step keeps so. -/
def State.Pushable (s : State) (u : Uses) : Prop :=
  let unseen (p : Place) : Prop := ∀ core off, p = .loc core off → ∀ k < 4, ¬ s.pushes u core (off + k)
  ∀ n : Fin 15, u.dst = .q n →
    (∀ c, (s.team s.cur.team).chan? n.val = some c → c.words = if c.vector then s.cur.width else 1) ∧
    (∀ e ∈ s.groups, ∀ x ∈ e.2.lanes, ∀ w, x.sleep = .waitc w →
      unseen w.place ∧ ∃ y ∈ e.2.lanes, x.sameWait y = true ∧ ∃ v, y.sleep = .waitc v ∧ v.latched = false) ∧
    ∀ k ∈ s.saved, ∀ g ∈ k.groups, ∀ w, Sleep.waitc w ∈ g.sleeps → unseen w.place

/-- What stays of every register and every other group when an instruction of some lanes writes one destination. -/
def registerFrame (s t : State) (slot : Nat) (lanes : List Nat) (d : Dst) (words : Nat) : Prop :=
  let g := s.group slot
  let h := t.group slot
  (∀ n, n ≠ slot → t.group n = s.group n) ∧
  (∀ l, l ∉ lanes → h.lane l = g.lane l) ∧
  (∀ l r, ¬ namesV d words r → (h.lane l).vget r = (g.lane l).vget r) ∧
  (∀ r, ¬ namesS d words r → h.sget r = g.sget r) ∧
  h.fflags = g.fflags ∧ h.k = g.k ∧ h.prio = g.prio ∧ h.xcause = g.xcause ∧ h.xval = g.xval ∧ h.xpc = g.xpc ∧
  h.xlane = g.xlane ∧ h.xaddr = g.xaddr ∧
  ∀ l, (h.lane l).depth = (g.lane l).depth ∧ (h.lane l).lsp = (g.lane l).lsp ∧ (h.lane l).exited = (g.lane l).exited

/-- What an instruction with one destination leaves unchanged: everything but the destination registers in the lanes of the
class (or the uniform destination), the ports it names, with the local memory that holds the entries it pushes, the flags, and
the class's place (its pc, its chain mark, its sleep). -/
def arithmeticFrame (s t : State) (u : Uses) : Prop :=
  s.Pushable u →
  ({ t with groups := s.groups, teams := s.teams, cores := s.cores } : State) = s ∧ sameHome s t ∧
  (∀ c, ({ t.core c with loc := (s.core c).loc, locPoison := (s.core c).locPoison } : Core) = s.core c) ∧
  (∀ core off, ¬ s.pushes u core off → t.locByte core off = s.locByte core off) ∧
  (∀ n, n ≠ s.ix.slot → t.group n = s.group n) ∧
  (∀ n, ({ t.team n with chans := (s.team n).chans } : Team) = s.team n) ∧
  (∀ n p, (n ≠ s.cur.team ∨ ¬ u.namesPort p) → (t.team n).chan? p = (s.team n).chan? p) ∧
  (¬ u.namesPort 14 → t.cur.q14 = s.cur.q14) ∧
  ({ t.cur with lanes := s.cur.lanes, s := s.cur.s, fflags := s.cur.fflags, q14 := s.cur.q14 } : Group) = s.cur ∧
  (∀ l, l ∉ s.ix.lanes → t.cur.lane l = s.cur.lane l) ∧
  (∀ l, let x := s.cur.lane l
    ({ t.cur.lane l with pc := x.pc, chain := x.chain, sleep := x.sleep, v := x.v } : Lane) = x) ∧
  (∀ l r, ¬ namesV u.dst u.words r → (t.cur.lane l).vget r = (s.cur.lane l).vget r) ∧
  (∀ r, ¬ namesS u.dst u.words r → t.cur.sget r = s.cur.sget r) ∧
  t.cur.fflags &&& s.cur.fflags = s.cur.fflags

/-! ### Special registers -/

/-- The value of a special register for a lane, register by register as R271 gives them. -/
def State.sregRule (s : State) (lane : Nat) : SReg → Nat
  | .lane => lane
  | .group => s.cur.index
  | .teamX => (s.team s.cur.team).x
  | .teamY => (s.team s.cur.team).y
  | .teamZ => (s.team s.cur.team).z
  | .core => s.ix.slot / 144 % 72
  | .die => s.ix.slot / 144 / 72
  | .device => s.device.toNat
  | .width => s.cur.width
  | .ngroups => (s.team s.cur.team).hdr.ngrp
  | .gridX => (s.launch (s.team s.cur.team).lid).gx
  | .gridY => (s.launch (s.team s.cur.team).lid).gy
  | .gridZ => (s.launch (s.team s.cur.team).lid).gz
  | .depth => (s.cur.lane lane).depth.toNat
  | .lsp => (s.cur.lane lane).lsp.toNat
  | .time => if s.ix.slot / 144 / 72 = 1 then s.time + s.skew else s.time
  | .cycle => (s.cycles - (s.core (s.ix.slot / 144)).behind) / 80
  | .horizonDie => s.cur.horDie
  | .horizonDev => s.cur.horDev
  | .horizonPod => s.cur.horPod
  | .prio => s.cur.prio.toNat
  | .fflags => s.cur.fflags.toNat
  | .xcause => s.cur.xcause.toNat
  | .xval => s.cur.xval.toNat
  | .xpc => s.cur.xpc.toNat
  | .xlane => s.cur.xlane.toNat
  | .xaddr => s.cur.xaddr.toNat

/-- A group after SWR of a value to a writable special register (R271, R273, R80): the low 4 bits to sr.prio, the low 5 to
sr.fflags, the word or the pair to the others. -/
def swrRule (g : Group) (x : Nat) : SReg → Group
  | .prio => { g with prio := BitVec.ofNat 4 x }
  | .fflags => { g with fflags := BitVec.ofNat 5 x }
  | .xcause => { g with xcause := BitVec.ofNat 32 x }
  | .xval => { g with xval := BitVec.ofNat 32 x }
  | .xpc => { g with xpc := BitVec.ofNat 64 x }
  | .xlane => { g with xlane := BitVec.ofNat 32 x }
  | .xaddr => { g with xaddr := BitVec.ofNat 64 x }
  | _ => g

/-- The special registers SWR may name (R271). -/
def writableSregs : List SReg := [.prio, .fflags, .xcause, .xval, .xpc, .xlane, .xaddr]

/-! ### Memory instructions -/

/-- The words a load makes of its bytes (R4, R193, R194): little-endian, one word for 1, 2 or 4 bytes, sign-extended or
zero-extended, else a word for every four bytes; each carries the tag. -/
def loadRule (size : Nat) (signed : Bool) (bs : List Byte) (p : Bool) : List Reg :=
  let x : Int := if signed then (BitVec.ofNat (8 * size) (leNat bs)).toInt else (leNat bs : Int)
  (List.range (if size ≤ 4 then 1 else size / 4)).map (fun k => { bits := BitVec.ofInt 32 (x / 2 ^ (32 * k)), poison := p })

/-- The operands and the handle question of a load (R189, R192, R193). -/
def loadUse (d : Dst) (a : Src) (l : Bool) (h : Fin 128) (size : Nat) (spaces : List Nat) : MemUse :=
  { ask := memAsk h a l size spaces 1 .read, data := none, dst := d, words := if size ≤ 4 then 1 else size / 4 }

/-- The operands and the handle question of a store (R189, R192, R193, R195). -/
def storeUse (d a : Src) (l : Bool) (h : Fin 128) (size : Nat) : MemUse :=
  { ask := memAsk h a l size dataSpaces 2 .write, data := some (d, if size = 8 then .pair else if size = 16 then .quad else .word),
    dst := .nul, words := 0 }

/-- The access of a memory instruction passes every check of R189 for every lane, leaving the state `t` (R190). -/
def State.Passes (s : State) (m : MemUse) (trapsOnData : Bool) (more : HEntry → Nat → List Reg → Spot → LaneFate)
    (p : Passed) (t : State) : Prop :=
  s.stopped = false ∧ s.checked m trapsOnData more = .go p t

/-- A load completes (R165, R166, R194): from local memory and through the constant and instruction caches with its words at
once, lines that a rope protects repaired (R349), unless a line they must fetch is held back at its home (R353); in the other spaces, and under policy 4, unless a pending
write of its own must be performed first, by opening the access that the class waits for. -/
def Loads (i : Instr) (d : Dst) (m : MemUse) (size : Nat) (signed : Bool) : Prop :=
  ∀ (s t : State) (p : Passed), s.Passes m false noMore p t →
  let core := s.ix.slot / 144
  let lines := nub (p.spots.map (fun q => q.start / 128))
  let within (line : Nat → Line) (q : Spot) : List Reg :=
    loadRule size signed (((line (q.start / 128)).bytes.drop (q.start % 128)).take size)
      ((line (q.start / 128)).poison.getD (q.start % 128 / 32) false)
  (p.entry.space = 1 → exec i s = .next (t.deliver d m.words (p.spots.map (fun q =>
    (q.lane, loadRule size signed (t.locBytes core q.start size) (t.locPoisonIn core q.start size)))))) ∧
  (p.entry.space = 2 → p.entry.policy ≠ 4 → t.fillHeld core false lines = false →
    let u := t.healAll (t.unkept core false lines)
    exec i s = .next ((u.keepLines core false lines).deliver d m.words (p.spots.map (fun q => (q.lane, within (u.constLine core) q))))) ∧
  (p.entry.space = 6 → p.entry.policy ≠ 4 → t.fillHeld core true lines = false →
    let u := t.healAll (t.unkept core true lines)
    exec i s = .next ((u.keepLines core true lines).deliver d m.words (p.spots.map (fun q => (q.lane, within (u.iLine core) q))))) ∧
  (p.entry.space ≠ 1 → (p.entry.space ∉ [2, 6] ∨ p.entry.policy = 4) → t.waitsOnOwn p.spots = false →
    exec i s = .next (t.startLoad (.load d size signed) (s.poppedBy t s.ix.slot) p.uniform p.entry.space p.entry.policy p.spots).advance)

/-- The bytes a store of a size takes from its data words (R4, R193, R195). -/
def storeBytes (size : Nat) (ws : List Reg) : List Byte :=
  (List.range size).map (fun k => BitVec.ofNat 8 ((ws.getD (k / 4) Reg.zero).bits.toNat / 2 ^ (8 * (k % 4))))

/-- A store completes (R166, R184, R191, R195): in local memory at once, lane after lane, else by entering the store queue, once
that has room. -/
def Stores (i : Instr) (m : MemUse) (size : Nat) : Prop :=
  ∀ (s t : State) (p : Passed), s.Passes m true noMore p t → (∀ q ∈ p.spots, (p.data q.lane).length * 4 ≥ size) →
  let bytes (q : Spot) : List Byte := storeBytes size (p.data q.lane)
  (p.entry.space = 1 → exec i s = .next (t.putLocal (s.ix.slot / 144) (p.spots.map (fun q => (q.start, bytes q)))).advance) ∧
  (p.entry.space ≠ 1 → t.cur.storeQ.length < 64 → exec i s = .next (t.send none (p.spots.map (fun q =>
    { lane := q.lane, at_ := q.at_, va := q.va, prot := q.leaf.testBit 6, repl := q.leaf.testBit 7, act := .store q.start (bytes q) }))).advance)

/-- The operands of an atomic or a reduction (R192, R197, R201): CAS reads compare and swap, `n` is 4 or 8 bytes. -/
def atomicUse (d : Dst) (a : Src) (aop : Aop) (h : Fin 16) (n : Nat) (returns : Bool) : MemUse :=
  { ask := { atomAsk a aop h n with need := .kind (if returns then .atomic else .write) },
    data := some (dstSrc d, if aop = .cas then (if n = 4 then .pair else .quad) else (if n = 4 then .word else .pair)),
    dst := if returns then d else .nul, words := if returns then n / 4 else 0 }

/-- The operation of an atomic at its home (R198): the new value of an n-byte target m under the operand d, as unsigned
numbers; signed minima and maxima compare two's complement values. -/
def atomicRule (aop : Aop) (n m d swap : Nat) : Nat :=
  let sgn (x : Nat) : Int := if x < 2 ^ (8 * n - 1) then x else (x : Int) - 2 ^ (8 * n)
  match aop with
  | .addI => (m + d) % 2 ^ (8 * n)
  | .minS => if sgn d < sgn m then d else m
  | .maxS => if sgn m < sgn d then d else m
  | .minU => if d < m then d else m
  | .maxU => if m < d then d else m
  | .and => m &&& d
  | .or => m ||| d
  | .xor => m ^^^ d
  | .xchg => d
  | .cas => if m = d then swap else m
  | .incWrap => if m ≥ d then 0 else m + 1
  | .addF => (fpAdd (if n = 4 then Fmt.f32 else Fmt.f64) m d).1
  | .minF => (fpMinMax (if n = 4 then Fmt.f32 else Fmt.f64) false m d).1
  | .maxF => (fpMinMax (if n = 4 then Fmt.f32 else Fmt.f64) true m d).1
  | .addX => m

/-- What one lane's atomic carries to its home (R198, R201). -/
def atomicAct (aop : Aop) (n esize : Nat) (q : Spot) (ws : List Reg) : WriteAct :=
  if aop = .addX then .addX q.at_ esize (wordsVal ws) (n == 8)
  else if aop = .cas then .atomic aop q.start n (wordsVal (ws.take (n / 4))) (wordsVal (ws.drop (n / 4)))
  else .atomic aop q.start n (wordsVal ws) 0

/-- Of closes with cells of n bytes, in lane order, those of `run` go out together, and the first of `later` waits: no image in the
run meets the cell of a lower lane of the run, and the next lane's image does (R191, R203; log 27). -/
def closesTogether (cells : List (Nat × Nat × Nat × Nat)) (n : Nat) (run later : List Sent) : Prop :=
  let cellsOf (ws : List Sent) : List (Nat × Nat) := ws.flatMap (fun w => cellSpans cells n w.lane)
  (∀ pre w post, run = pre ++ w :: post → spansMeet (cellsOf pre) w.at_ = false) ∧
    ∀ w rest, later = w :: rest → spansMeet (cellsOf run) w.at_ = true

/-! ### Control -/

/-- The operands of a branch, CALLR, JR or TRAP: one source, nothing written. -/
def jumpUse (a : Src) (p : Pos) : Uses := { srcs := [(a, p)], dst := .nul, words := 0, uniform := [], noUni := false }

/-- A lane after a branch (R258): at its target or the next word, awake; the taken-branch run is cleared by a backward branch
not taken, and by a spinning backward branch taken, which parks the lane; else a backward branch taken counts, up to
65,536. -/
def branched (x : Lane) (taken back spin : Bool) (t next : DWord) : Lane :=
  { x with
    pc := if taken then t else next, chain := false, sleep := .awake
    run := if !back then x.run else if !taken || spin then 0 else min (x.run + 1) 65536
    parked := if back && taken && spin then true else x.parked }

/-- Every link-stack entry of the class passes R189 through the launch's STACK handle (R259). -/
def State.StackOk (s : State) (k : AccessKind) (off : Lane → Nat) (spots : List Spot) (e : HEntry) : Prop :=
  s.openStack k = .ok (s.launch (s.team s.cur.team).lid).stackH e ∧
    classFate (s.ix.lanes.map (fun l => s.stackSpot k e l (off (s.cur.lane l)))) = .ok spots

/-- The handle instructions that R189 alone checks, with what they ask, and whether poisoned data traps at step 8; RCLOSE, WAITC
and the remote accesses, which check more, stand in `checkedUses`. -/
def handleUses : Instr → Option (MemUse × Bool)
  | .ldB d a l h => some (loadUse d a l h 1 [0, 1, 4, 5, 6, 7], false)
  | .ldBu d a l h => some (loadUse d a l h 1 [0, 1, 4, 5, 6, 7], false)
  | .ldH d a l h => some (loadUse d a l h 2 [0, 1, 4, 5, 6, 7], false)
  | .ldHu d a l h => some (loadUse d a l h 2 [0, 1, 4, 5, 6, 7], false)
  | .ldW d a l h => some (loadUse d a l h 4 [0, 1, 4, 5, 6, 7], false)
  | .ldD d a l h => some (loadUse d a l h 8 [0, 1, 4, 5, 6, 7], false)
  | .ldQ d a l h => some (loadUse d a l h 16 [0, 1, 4, 5, 6, 7], false)
  | .ldcW d a l h => some (loadUse d a l h 4 [2], false)
  | .ldcD d a l h => some (loadUse d a l h 8 [2], false)
  | .stB d a l h => some (storeUse d a l h 1, true)
  | .stH d a l h => some (storeUse d a l h 2, true)
  | .stW d a l h => some (storeUse d a l h 4, true)
  | .stD d a l h => some (storeUse d a l h 8, true)
  | .stQ d a l h => some (storeUse d a l h 16, true)
  | .atomW d a p h => some (atomicUse d a p h 4 true, true)
  | .atomD d a p h => some (atomicUse d a p h 8 true, true)
  | .redW d a p h => some (atomicUse d a p h 4 false, true)
  | .redD d a p h => some (atomicUse d a p h 8 false, true)
  | .cacheWb a l h => some ({ ask := cacheAsk a l h, data := none, dst := .nul, words := 0 }, false)
  | .cacheWbinv a l h => some ({ ask := cacheAsk a l h, data := none, dst := .nul, words := 0 }, false)
  | .cacheInv a l h => some ({ ask := cacheAsk a l h, data := none, dst := .nul, words := 0 }, false)
  | .cacheIinv a l h => some ({ ask := cacheAsk a l h, data := none, dst := .nul, words := 0 }, false)
  | _ => none

/-- The operands of RCLOSE with a cell of n bytes (R187, R203). -/
def closeUse (a : Src) (l : Bool) (h : Fin 128) : MemUse :=
  { ask := { h := h.val, a := a, disp := l, size := 40, image := true, align := 8, spaces := [4], perms := 3, anyOf := false,
             need := .kind .read, aop := none, pairA := true },
    data := none, dst := .nul, words := 0 }

/-- The operands of WAITC (R189, R192, R212). -/
def waitUse (d a : Src) (l : Bool) (h : Fin 128) : MemUse :=
  { ask := memAsk h a l 4 [0, 1] 1 .read, data := some (d, .word), dst := .nul, words := 0 }

/-- The operands of a remote load of n bytes (R192, R204). -/
def rldUse (d : Dst) (a : Src) (l : Bool) (h : Fin 128) (n : Nat) : MemUse :=
  { ask := remoteAsk h.val a l n 1, data := none, dst := d, words := n / 4 }

/-- The operands of a remote store of n bytes (R192, R204). -/
def rstUse (x a : Src) (l : Bool) (h : Fin 128) (n : Nat) : MemUse :=
  { ask := remoteAsk h.val a l n 2, data := some (x, if n = 4 then .word else .pair), dst := .nul, words := 0 }

/-- The operands of a remote atomic (R192, R204): CAS and ADD.X read a pair. -/
def ratomUse (d : Dst) (a : Src) (aop : Aop) (h : Fin 16) : MemUse :=
  { ask := remoteAsk h.val a false 4 4, data := some (dstSrc d, if aop = .cas ∨ aop = .addX then .pair else .word), dst := d, words := 1 }

/-- Every instruction that R189 checks: what it asks, whether poisoned data traps at step 8, and the check of each lane's spot
that its own rule adds (the result cell of RCLOSE, the watched word of WAITC, the issuer's refusals of RLD and RATOM). -/
def State.checkedUses (s : State) (i : Instr) : Option (MemUse × Bool × (HEntry → Nat → List Reg → Spot → LaneFate)) :=
  match i with
  | .rcloseF32 a l h => some (closeUse a l h, false, s.cellCheck (closeUse a l h).ask 4)
  | .rcloseF64 a l h => some (closeUse a l h, false, s.cellCheck (closeUse a l h).ask 8)
  | .waitcEq d a l h => some (waitUse d a l h, false, s.watchCheck)
  | .waitcNe d a l h => some (waitUse d a l h, false, s.watchCheck)
  | .waitcGe d a l h => some (waitUse d a l h, false, s.watchCheck)
  | .rldW d a l h => some (rldUse d a l h 4, false, s.issuerCheck)
  | .rldD d a l h => some (rldUse d a l h 8, false, s.issuerCheck)
  | .rstW x a l h => some (rstUse x a l h 4, true, noMore)
  | .rstD x a l h => some (rstUse x a l h 8, true, noMore)
  | .ratom d a p h => some (ratomUse d a p h, true, s.issuerCheck)
  | i => (handleUses i).map (fun x => (x.1, x.2, noMore))

/-- The instructions that may store to local memory at once (R166, R195, R199). -/
def storesLocal : Instr → Bool
  | .stB _ _ _ _ => true
  | .stH _ _ _ _ => true
  | .stW _ _ _ _ => true
  | .stD _ _ _ _ => true
  | .stQ _ _ _ _ => true
  | .atomW _ _ _ _ => true
  | .atomD _ _ _ _ => true
  | .redW _ _ _ _ => true
  | .redD _ _ _ _ => true
  | _ => false

/-- The destination of the other instructions that write registers: MBOUND, XSTAT, HNARROW and HQUERY (R158, R159, R288, R289). -/
def blockWrites : Instr → Option (Dst × Nat)
  | .mbound d _ _ => some (.s d, 1)
  | .xstat d _ _ => some (.s d, 1)
  | .hnarrow d _ => some (d, 1)
  | .hquery d _ => some (.s (Fin.ofNat 128 (8 * d.val)), 8)
  | _ => none

/-- A memory instruction is a uniform operation (R40, R188). -/
def State.uniformAccess (s : State) (m : MemUse) : Bool := (m.uses .word).isUniform (s.team s.cur.team)

/-- The operands of a memory instruction are ready (R41, R53, R188). -/
def State.MemReady (s : State) (m : MemUse) : Prop := s.Ready (m.usesOf (s.openHandle m.ask (s.uniformAccess m)))

/-- What an instruction that stops at a trap of the issuing class leaves (R190): its waits over, the trap taken. -/
def State.trapped (s : State) (cause : Nat) (xval : Word) (xaddr : DWord) : State :=
  (s.clearWaits s.me).trapAt cause xval xaddr

/-! ### Engine commands -/

/-- Nothing makes the issue of a command wait (R141, R142, R250): no drain of its space, its counter below 255, room in q14 for
a record beside entries that may come back (R41), and room in its engine's queue (32 copy commands, 16 tasks). -/
def State.EngineFree (s : State) (k : Fin 8) (record term : Bool) : Prop :=
  s.stopped = false ∧ s.drained s.cur = false ∧ s.cur.kget k.val ≠ 255 ∧
    (record = true → s.cur.q14.tags.length + s.cur.q14res + s.cur.owes 14 + 4 ≤ 16) ∧
    s.engineLoad (s.ix.slot / 144) term < (if term then 16 else 32)

/-- The instruction completes by accepting a command (R141, R142, R148): the counter rises by one, a record's room is
reserved, the next ORD is one more, the command, with its parameters as they read at issue, joins the queue under a new number,
and the class moves on. Nothing else of the group changes, its registers and flags among it, no other group, nothing of any core
but the handle entries its handle cache holds (the die's TLBs and walk caches may gain the table's translations), and no byte of
memory, unless the lookup of a handle mends a line that a rope protects. -/
def Accepts (i : Instr) (s : State) (op : CmdOp) (k : Fin 8) (record notrap nullIdx : Bool) (a : Fin 16) : Prop :=
  ∃ t, exec i s = .next t ∧ t.cur.kget k.val = s.cur.kget k.val + 1 ∧ (∀ j, j ≠ k.val → t.cur.kget j = s.cur.kget j) ∧
    ({ t.cur with lanes := s.cur.lanes, k := s.cur.k } : Group) =
      { s.cur with ord := s.cur.ord + 1, q14res := s.cur.q14res + (if record then 4 else 0) } ∧
    (∃ c, mget? t.cmds s.seq = some c ∧ c.op = op ∧ c.slot = s.ix.slot ∧ c.ctr = k.val ∧ c.ord = s.cur.ord ∧ c.record = record ∧
      c.notrap = notrap ∧ c.nullIdx = nullIdx ∧ c.phase = .queued ∧
      c.w = (List.range 8).map (fun j => (s.cur.sget (8 * a.val + j)).bits)) ∧
    (∀ n, n ≠ s.seq → mget? t.cmds n = mget? s.cmds n) ∧ t.seq = s.seq + 1 ∧
    (∀ l, t.cur.lane l = if l ∈ s.ix.lanes then { s.cur.lane l with pc := nextPc s.ix.pc, chain := s.ix.chain, sleep := .awake }
      else s.cur.lane l) ∧
    t.cur.lanes.length = s.cur.lanes.length ∧ (∀ n, n ≠ s.ix.slot → t.group n = s.group n) ∧
    (∀ c, ({ t.core c with hcache := (s.core c).hcache } : Core) = s.core c) ∧
    ({ t with
        groups := s.groups, cmds := s.cmds, seq := s.seq, cores := s.cores, waits := s.waits, tlb := s.tlb, walks := s.walks
        selfRef := s.selfRef, mem := s.mem, memPoison := s.memPoison, outbox := s.outbox, free := s.free } : State) = s ∧
    t.waits = s.waits.filter (fun w => w.agent != s.me) ∧ (s.Unrepaired → sameMemory s t)

/-- The first poisoned parameter word of an FX instruction raises POISON, else the first field out of its range ENGINE, with
the word's number and the status FIELD in sr.xval (R140). -/
def FieldTraps (i : Instr) (s : State) (ps : List Reg) (fields : List (Nat × Bool)) : Prop :=
  (∀ w, w < ps.length → (ps.getD w Reg.zero).poison = true → (∀ j < w, (ps.getD j Reg.zero).poison = false) →
    exec i s = .next (s.trapped 0x0A (BitVec.ofNat 32 (256 * w)) 0)) ∧
  (ps.any (fun r => r.poison) = false → ∀ f, fields.find? (fun x => x.2) = some f →
    exec i s = .next (s.trapped 0x0C (BitVec.ofNat 32 (256 * f.1 + 1)) 0))

/-- A parameter word of HNARROW has a reserved bit set, or a policy above 4 (R288 step 2); `w` gives the words. -/
def narrowReserved (w : Nat → Nat) (j : Nat) : Prop :=
  (j = 0 ∧ (w 0 / 2 ^ 28 ≠ 0 ∨ w 0 / 2 ^ 12 % 2 ^ 4 ≠ 0)) ∨
    (j = 5 ∧ (w 5 / 2 ^ 13 ≠ 0 ∨ w 5 / 2 ^ 11 % 2 ≠ 0 ∨ 4 < w 5 / 2 ^ 8 % 2 ^ 3 ∨ w 5 / 2 ^ 5 % 2 ^ 3 ≠ 0)) ∨
    (j = 6 ∧ w 6 ≠ 0) ∨ (j = 7 ∧ w 7 ≠ 0)

/-! ### Steps of the module -/

/-- The step completes, and its next state meets a condition. -/
def Reaches (i : Instr) (s : State) (post : State → Prop) : Prop := ∃ t, exec i s = .next t ∧ post t

/-- No page is in motion, no domain is a rope member, and no monitor is armed. -/
def State.Plain (s : State) : Prop :=
  (∀ e ∈ s.doms, e.2.mig0.move = none ∧ e.2.mig1.move = none ∧ e.2.rope.state = 0) ∧ s.Unwatched

/-- From one state to the other, bytes are stored at a physical address, and no other byte of memory changes. -/
def Stored (s t : State) (pa : Nat) (bs : List Byte) : Prop :=
  (∀ k < bs.length, t.byte (pa + k) = bs.getD k 0) ∧ ∀ a, a < pa ∨ pa + bs.length ≤ a → t.byte a = s.byte a

/-- A byte after stores of some lanes, one after another: the last that covers its address gives it (R191). -/
def laidOver (byte : Nat → Byte) (stores : List (Nat × List Byte)) (a : Nat) : Byte :=
  stores.foldl (fun b w => if w.1 ≤ a ∧ a < w.1 + w.2.length then w.2.getD (a - w.1) 0 else b) (byte a)

/-- Atomics of n bytes by several lanes, in their order (R191, R199): lane, address, operand and swap value of each. What each read,
and the bytes after them. -/
def atomicRun (aop : Aop) (n : Nat) : List (Nat × Nat × Nat × Nat) → (Nat → Byte) → List (Nat × Nat) × (Nat → Byte)
  | [], byte => ([], byte)
  | (lane, pa, d, swap) :: rest, byte =>
    let old := leNat ((List.range n).map (fun k => byte (pa + k)))
    let r := atomicRun aop n rest (laidOver byte [(pa, leBytes n (atomicRule aop n old d swap))])
    ((lane, old) :: r.1, r.2)

/-- A group stands as its saved area at `ga` says (R253): its registers with their tags, its flags, horizons, trap and failure
registers, and each lane's entry and vector registers. -/
def restoredAs (s : State) (ga : Nat) (g : Group) : Prop :=
  let n (at_ k : Nat) : Nat := s.natAt (ga + at_) k
  let w := g.width
  let v := 0x300 + 48 * w
  g.prio.toNat = n 8 8 % 2 ^ 4 ∧ g.fflags.toNat = n 8 8 / 2 ^ 4 % 2 ^ 5 ∧ g.ord = n 8 8 / 2 ^ 9 % 2 ^ 8 ∧
  g.horDie = n 0x10 8 ∧ g.horDev = n 0x18 8 ∧ g.horPod = n 0x20 8 ∧ g.xpc.toNat = n 0x28 8 ∧ g.xaddr.toNat = n 0x30 8 ∧
  g.xval.toNat = n 0x38 4 ∧ g.xcause.toNat = n 0x3C 4 ∧ g.xlane.toNat = n 0x40 4 ∧ g.failed.toNat = n 0x48 4 ∧ g.nfailed = n 0x4C 1 ∧
  (∀ r < 128, g.sget r = { bits := BitVec.ofNat 32 (n (0x80 + 4 * r) 4), poison := (n (0x280 + r / 8) 1).testBit (r % 8) }) ∧
  ∀ l < w, let e := 0x300 + 48 * l
    let x := g.lane l
    let state := n (e + 30) 2
    x.pc.toNat = n e 8 ∧ x.lsp.toNat = n (e + 8) 8 ∧ x.depth.toNat = n (e + 28) 2 ∧ x.exited = state.testBit 0 ∧
    x.parked = state.testBit 1 ∧ x.run = n (e + 32) 4 % 2 ^ 17 ∧ x.arrived.toNat = n (e + 36) 2 ∧
    (state / 4 % 8 = 0 → x.sleep = .awake) ∧ (state / 4 % 8 = 2 → x.sleep = .barWait (state / 2 ^ 8 % 2 ^ 4)) ∧
    (state / 4 % 8 = 3 → x.sleep = .barAgain (state / 2 ^ 8 % 2 ^ 4)) ∧
    ∀ r < g.nregs, x.vget r = { bits := BitVec.ofNat 32 (n (v + 4 * (w * r + l)) 4)
                                poison := (n (v + 4 * g.nregs * w + (w * r + l) / 8) 1).testBit ((w * r + l) % 8) }

/-- The plain registers of a domain's window: offset and size (R356). -/
def plainRegisters : List (Nat × Nat) :=
  [(0x0110, 8), (0x0118, 8), (0x0120, 4), (0x0208, 8), (0x0210, 8), (0x0308, 8), (0x0310, 8), (0x0608, 8), (0x0710, 4),
   (0x0730, 8), (0x0740, 8), (0x0908, 8), (0x0910, 8), (0x0918, 8), (0x0948, 8), (0x0950, 8), (0x0958, 8), (0x0A00, 8),
   (0x0A08, 8), (0x0A10, 4), (0x0B08, 8), (0x0B10, 8)]

/-- The state after a rope command of a domain is over (R350, R357): its code and its interrupt. -/
def State.ropeEnded (t : State) (dom code : Nat) : Prop :=
  (t.dom dom).rope.code = code ∧ (t.dom dom).rope.busy = .none ∧ (sget 0 t.domInt dom).getLsbD 3 = true

/-- The next step issues from a group's class (R222, R223, R230); r is the state in which it issues. The agenda says so, or it is
empty, nothing of the module is due, and the group is its partition's first that is ready; or, `second`, the agenda says that
the core's cycle issues its second word, and the group is the one that pairs with the first. -/
def State.IssuesNext (s r : State) (slot : Nat) (held second : Bool) : Prop :=
  (second = false ∧ ∃ core part, r.issuer core part = some slot ∧
    ((∃ rest, s.agenda = .issue core part held :: rest ∧ r = { s.readied with agenda := rest }) ∨
      (s.agenda = [] ∧ r = s.readied ∧ held = false ∧ r.idle = false ∧ r.nextIssue = some (core, part) ∧
        (∀ f, r.first = some f → r.changedBy (fun x => x.issueSecond f.core f.part) = none) ∧
        ∀ f ∈ r.dueSteps, r.changedBy f = none))) ∨
  (second = true ∧ held = false ∧ ∃ f rest, s.agenda = .second f.core f.part :: rest ∧ r = { s.readied with agenda := rest } ∧
    r.first = some f ∧ r.idle = false ∧ r.secondIssuer f = some slot)

/-- No row but a reset does anything in a stopped module (R362). -/
def isReset : Instr → Bool
  | .coldReset _ => true
  | .hotReset _ => true
  | _ => false

/-- What a domain holds and how it is configured (R276, R277): its block's fields, every other field as when it is off. -/
def Domain.resources (d : Domain) : Domain :=
  { Domain.off with
    active := d.active, scrub := d.scrub, qfirst0 := d.qfirst0, qcnt0 := d.qcnt0, qfirst1 := d.qfirst1, qcnt1 := d.qcnt1
    lports := d.lports, lweight := d.lweight, hbm := d.hbm, lpd := d.lpd, cxlp := d.cxlp, cores := d.cores, astab := d.astab
    qtab := d.qtab, wintab := d.wintab, admtab := d.admtab }

/-- The rows that may change what a domain holds: the Seoft controller's two commands (R277, R278), the resets and a thermal trip
(R362, R363). -/
def changesDomains : Instr → Bool
  | .domcfg _ _ => true
  | .domoff _ _ => true
  | .coldReset _ => true
  | .hotReset _ => true
  | .thermalTrip => true
  | _ => false

end Sys2Proof.Machine
end

