-- ==== Sys2Proof/Certificates/Slice0/Obligations.lean ====
section
/-! DEFINITION. The statements about the machine, each a proposition that formalises rules of the spec. -/

section

open Sys2Proof Sys2Proof.Machine

/-! ### Vector and uniform instructions -/

/-- R94, R95, R99, R100: each 32-bit integer instruction of R94, its operands ready, completes, and each lane's word is the tabled
one, without flags; the count of a shift is b, every bit of it. A result's tag is that of R82, but SEL takes the tag of a and of
the word it selects, and no other; MOVI and MOVIH form their words from the immediate. -/
def Obligations.IntegerWords : Prop :=
  (∀ (d : Dst) (a b : Src),
  Computes (.add d a b) (usesWord2 d a b) (words2 (fun x y => BitVec.ofNat 32 (x.toNat + y.toNat))) ∧
  Computes (.sub d a b) (usesWord2 d a b) (words2 (fun x y => BitVec.ofInt 32 (x.toInt - y.toInt))) ∧
  Computes (.mul d a b) (usesWord2 d a b) (words2 (fun x y => BitVec.ofNat 32 (x.toNat * y.toNat))) ∧
  Computes (.mulh d a b) (usesWord2 d a b) (words2 (fun x y => BitVec.ofInt 32 (x.toInt * y.toInt / 2 ^ 32))) ∧
  Computes (.mulhu d a b) (usesWord2 d a b) (words2 (fun x y => BitVec.ofNat 32 (x.toNat * y.toNat / 2 ^ 32))) ∧
  Computes (.and d a b) (usesWord2 d a b) (words2 (fun x y => x &&& y)) ∧
  Computes (.or d a b) (usesWord2 d a b) (words2 (fun x y => x ||| y)) ∧
  Computes (.xor d a b) (usesWord2 d a b) (words2 (fun x y => x ^^^ y)) ∧
  Computes (.shl d a b) (usesWord2 d a b) (words2 (fun x c => BitVec.ofNat 32 (x.toNat * 2 ^ c.toNat))) ∧
  Computes (.shr d a b) (usesWord2 d a b) (words2 (fun x c => BitVec.ofNat 32 (x.toNat / 2 ^ c.toNat))) ∧
  Computes (.sar d a b) (usesWord2 d a b) (words2 (fun x c => BitVec.ofInt 32 (x.toInt / 2 ^ c.toNat))) ∧
  Computes (.min d a b) (usesWord2 d a b) (words2 (fun x y => BitVec.ofInt 32 (min x.toInt y.toInt))) ∧
  Computes (.max d a b) (usesWord2 d a b) (words2 (fun x y => BitVec.ofInt 32 (max x.toInt y.toInt))) ∧
  Computes (.minu d a b) (usesWord2 d a b) (words2 (fun x y => BitVec.ofNat 32 (min x.toNat y.toNat))) ∧
  Computes (.maxu d a b) (usesWord2 d a b) (words2 (fun x y => BitVec.ofNat 32 (max x.toNat y.toNat))) ∧
  Computes (.slt d a b) (usesWord2 d a b) (words2 (fun x y => truth (x.toInt < y.toInt))) ∧
  Computes (.sltu d a b) (usesWord2 d a b) (words2 (fun x y => truth (x.toNat < y.toNat))) ∧
  Computes (.seq d a b) (usesWord2 d a b) (words2 (fun x y => truth (x = y)))) ∧
  (∀ (d : Dst) (a b : Src) (n : BitVec 16),
  Computes (.mad d a b) (usesWord3 d a b)
    (wordRes (fun x => BitVec.ofNat 32 ((wordAt x 0).toNat * (wordAt x 1).toNat + (wordAt x 2).toNat))) ∧
  Computes (.sel d a b) (usesWord3 d a b) (fun x =>
    let c := (x.getD 0 []).headD Reg.zero
    let w := (x.getD (if c.bits ≠ 0 then 1 else 2) []).headD Reg.zero
    { words := [{ bits := w.bits, poison := c.poison || w.poison }], flags := 0#5 }) ∧
  Computes (.movi d n) { srcs := [], dst := d, words := 1, uniform := [], noUni := false }
    (fun _ => { words := [{ bits := BitVec.ofInt 32 n.toInt, poison := false }], flags := 0#5 }) ∧
  Computes (.movih d n) { srcs := [(dstSrc d, .word)], dst := d, words := 1, uniform := [], noUni := false }
    (wordRes (fun x => BitVec.ofNat 32 (n.toNat * 65536 + (wordAt x 0).toNat % 65536))))

/-- R96 to R98: the 64-bit integer instructions and the INTU functions. TCNT's word is the number of non-zero digits of a
non-adjacent form of the low half read as a signed number. -/
def Obligations.IntegerPairs : Prop :=
  (∀ (d : Dst) (a b : Src),
  Computes (.add64 d a b) (use2 d 2 a .pair b .pair) (pairs2 (fun x y => BitVec.ofNat 64 (x.toNat + y.toNat))) ∧
  Computes (.sub64 d a b) (use2 d 2 a .pair b .pair) (pairs2 (fun x y => BitVec.ofInt 64 (x.toInt - y.toInt))) ∧
  Computes (.mul64 d a b) (use2 d 2 a .pair b .pair) (pairs2 (fun x y => BitVec.ofNat 64 (x.toNat * y.toNat))) ∧
  Computes (.shl64 d a b) (use2 d 2 a .pair b .word) (shifts2 (fun x c => BitVec.ofNat 64 (x.toNat * 2 ^ c.toNat))) ∧
  Computes (.shr64 d a b) (use2 d 2 a .pair b .word) (shifts2 (fun x c => BitVec.ofNat 64 (x.toNat / 2 ^ c.toNat))) ∧
  Computes (.sar64 d a b) (use2 d 2 a .pair b .word) (shifts2 (fun x c => BitVec.ofInt 64 (x.toInt / 2 ^ c.toNat))) ∧
  Computes (.slt64 d a b) (use2 d 1 a .pair b .pair) (wordRes (fun x => truth ((pairAt x 0).toInt < (pairAt x 1).toInt))) ∧
  Computes (.sltu64 d a b) (use2 d 1 a .pair b .pair) (wordRes (fun x => truth ((pairAt x 0).toNat < (pairAt x 1).toNat))) ∧
  Computes (.madwu d a b) (use3 d 2 a .word b .word .pair)
    (pairRes (fun x => BitVec.ofNat 64 ((pairAt x 2).toNat + (wordAt x 0).toNat * (wordAt x 1).toNat))) ∧
  Computes (.addwu d a b) (use3 d 2 a .word b .word .pair)
    (pairRes (fun x => BitVec.ofNat 64 ((pairAt x 2).toNat + (wordAt x 0).toNat + (wordAt x 1).toNat))) ∧
  Computes (.mov64 d a) (use1 d 2 a .pair) (pairRes (fun x => pairAt x 0)) ∧
  Computes (.neg64 d a) (use1 d 2 a .pair) (pairRes (fun x => BitVec.ofInt 64 (0 - (pairAt x 0).toInt)))) ∧
  (∀ (d : Dst) (a : Src),
  Computes (.mov d a) (usesWord1 d a) (words1 (fun x => x)) ∧
  Computes (.not d a) (usesWord1 d a) (words1 (fun x => BitVec.ofNat 32 (2 ^ 32 - 1 - x.toNat))) ∧
  Computes (.neg d a) (usesWord1 d a) (words1 (fun x => BitVec.ofInt 32 (0 - x.toInt))) ∧
  Computes (.abs d a) (usesWord1 d a) (words1 (fun x => if x.getLsbD 31 then BitVec.ofInt 32 (0 - x.toInt) else x)) ∧
  Computes (.clz d a) (usesWord1 d a) (words1 (fun x => BitVec.ofNat 32 (32 - Nat.size x.toNat))) ∧
  Computes (.ctz d a) (usesWord1 d a)
    (words1 (fun x => BitVec.ofNat 32 (((List.range 32).find? (fun i => x.getLsbD i)).getD 32))) ∧
  Computes (.popc d a) (usesWord1 d a) (words1 (fun x => BitVec.ofNat 32 ((List.range 32).countP (fun i => x.getLsbD i)))) ∧
  Computes (.brev d a) (usesWord1 d a) (words1 (fun x => BitVec.reverse x)) ∧
  Computes (.bswap d a) (usesWord1 d a) (words1 (fun x => BitVec.ofNat 32 ((x.toNat % 256) * 2 ^ 24 +
    (x.toNat / 2 ^ 8 % 256) * 2 ^ 16 + (x.toNat / 2 ^ 16 % 256) * 2 ^ 8 + x.toNat / 2 ^ 24))) ∧
  Computes (.sextb d a) (usesWord1 d a) (words1 (fun x => BitVec.ofInt 32 (BitVec.ofNat 8 x.toNat).toInt)) ∧
  Computes (.sexth d a) (usesWord1 d a) (words1 (fun x => BitVec.ofInt 32 (BitVec.ofNat 16 x.toNat).toInt)) ∧
  Computes (.zextb d a) (usesWord1 d a) (words1 (fun x => BitVec.ofNat 32 (x.toNat % 256))) ∧
  Computes (.zexth d a) (usesWord1 d a) (words1 (fun x => BitVec.ofNat 32 (x.toNat % 65536))) ∧
  ∃ digits : Word → List (Nat × Bool),
    Computes (.tcnt d a) (usesWord1 d a) (words1 (fun x => BitVec.ofNat 32 (digits x).length)) ∧
    ∀ x, (digits x).Pairwise (fun p q => p.1 + 1 < q.1) ∧
      ((digits x).map (fun p => if p.2 then -(2 : Int) ^ p.1 else 2 ^ p.1)).sum = (BitVec.ofNat 16 x.toNat).toInt)

/-- R102 to R105, R107 to R109: the FP32 and FP64 F3 instructions and the FUN and DUN functions complete with the value and the
flags of their operation on the operand codes; a comparison or a class gives a 32-bit word in both widths. The arithmetic is
the subject of FloatRounding, FloatExactOperations, FloatSpecial, FloatOrder and FloatRoots; here are the others: FNEG and FABS
change the sign bit alone, FRND gives the integral value of its direction under the operand's sign, FCLASS the bit of R109, and
FEXP2, FLOG2, FSIN and FCOS their special operands and their exact results. A NaN gives the canonical NaN, a signalling one NV. -/
def Obligations.FloatInstructions : Prop :=
  (∀ (d : Dst) (a b : Src),
  Computes (.fadd d a b) (usesWord2 d a b) (f32Two (fpAdd Fmt.f32)) ∧
  Computes (.fsub d a b) (usesWord2 d a b) (f32Two (fpSub Fmt.f32)) ∧
  Computes (.fmul d a b) (usesWord2 d a b) (f32Two (fpMul Fmt.f32)) ∧
  Computes (.ffma d a b) (usesWord3 d a b)
    (wordFlags (fun x => fpFma Fmt.f32 (wordAt x 0).toNat (wordAt x 1).toNat (wordAt x 2).toNat)) ∧
  Computes (.fmin d a b) (usesWord2 d a b) (f32Two (fpMinMax Fmt.f32 false)) ∧
  Computes (.fmax d a b) (usesWord2 d a b) (f32Two (fpMinMax Fmt.f32 true)) ∧
  Computes (.fslt d a b) (usesWord2 d a b) (f32Two (fun x y => ((fpCmp Fmt.f32 .lt x y).1.toNat, (fpCmp Fmt.f32 .lt x y).2))) ∧
  Computes (.fsle d a b) (usesWord2 d a b) (f32Two (fun x y => ((fpCmp Fmt.f32 .le x y).1.toNat, (fpCmp Fmt.f32 .le x y).2))) ∧
  Computes (.fseq d a b) (usesWord2 d a b) (f32Two (fun x y => ((fpCmp Fmt.f32 .eq x y).1.toNat, (fpCmp Fmt.f32 .eq x y).2))) ∧
  Computes (.fsun d a b) (usesWord2 d a b) (f32Two (fun x y => ((fpCmp Fmt.f32 .un x y).1.toNat, (fpCmp Fmt.f32 .un x y).2))) ∧
  Computes (.dadd d a b) (use2 d 2 a .dbl b .dbl) (f64Two (fpAdd Fmt.f64)) ∧
  Computes (.dsub d a b) (use2 d 2 a .dbl b .dbl) (f64Two (fpSub Fmt.f64)) ∧
  Computes (.dmul d a b) (use2 d 2 a .dbl b .dbl) (f64Two (fpMul Fmt.f64)) ∧
  Computes (.dfma d a b) (use3 d 2 a .dbl b .dbl .dbl)
    (pairFlags (fun x => fpFma Fmt.f64 (pairAt x 0).toNat (pairAt x 1).toNat (pairAt x 2).toNat)) ∧
  Computes (.dmin d a b) (use2 d 2 a .dbl b .dbl) (f64Two (fpMinMax Fmt.f64 false)) ∧
  Computes (.dmax d a b) (use2 d 2 a .dbl b .dbl) (f64Two (fpMinMax Fmt.f64 true)) ∧
  Computes (.dslt d a b) (use2 d 1 a .dbl b .dbl) (wordFlags (fun x =>
    let r := fpCmp Fmt.f64 .lt (pairAt x 0).toNat (pairAt x 1).toNat
    (r.1.toNat, r.2))) ∧
  Computes (.dsle d a b) (use2 d 1 a .dbl b .dbl) (wordFlags (fun x =>
    let r := fpCmp Fmt.f64 .le (pairAt x 0).toNat (pairAt x 1).toNat
    (r.1.toNat, r.2))) ∧
  Computes (.dseq d a b) (use2 d 1 a .dbl b .dbl) (wordFlags (fun x =>
    let r := fpCmp Fmt.f64 .eq (pairAt x 0).toNat (pairAt x 1).toNat
    (r.1.toNat, r.2)))) ∧
  (∀ (d : Dst) (a : Src),
  Computes (.fneg d a) (usesWord1 d a) (f32One (fpNeg Fmt.f32)) ∧
  Computes (.fabs d a) (usesWord1 d a) (f32One (fpAbs Fmt.f32)) ∧
  Computes (.fsqrt d a) (usesWord1 d a) (f32One (fpSqrt Fmt.f32)) ∧
  Computes (.frcp d a) (usesWord1 d a) (f32One (fpRcp Fmt.f32)) ∧
  Computes (.frsq d a) (usesWord1 d a) (f32One (fpRsqrt Fmt.f32)) ∧
  Computes (.fexp2 d a) (usesWord1 d a) (f32One fpExp2) ∧
  Computes (.flog2 d a) (usesWord1 d a) (f32One fpLog2) ∧
  Computes (.fsin d a) (usesWord1 d a) (f32One (fpSinCos false)) ∧
  Computes (.fcos d a) (usesWord1 d a) (f32One (fpSinCos true)) ∧
  Computes (.frndn d a) (usesWord1 d a) (f32One (fpRound Fmt.f32 .ne)) ∧
  Computes (.frndz d a) (usesWord1 d a) (f32One (fpRound Fmt.f32 .z)) ∧
  Computes (.frndp d a) (usesWord1 d a) (f32One (fpRound Fmt.f32 .up)) ∧
  Computes (.frndm d a) (usesWord1 d a) (f32One (fpRound Fmt.f32 .down)) ∧
  Computes (.fclass d a) (usesWord1 d a) (f32One (fun x => ((fpClass Fmt.f32 x).1.toNat, (fpClass Fmt.f32 x).2))) ∧
  Computes (.dneg d a) (use1 d 2 a .dbl) (f64One (fpNeg Fmt.f64)) ∧
  Computes (.dabs d a) (use1 d 2 a .dbl) (f64One (fpAbs Fmt.f64)) ∧
  Computes (.dsqrt d a) (use1 d 2 a .dbl) (f64One (fpSqrt Fmt.f64)) ∧
  Computes (.drcp d a) (use1 d 2 a .dbl) (f64One (fpRcp Fmt.f64)) ∧
  Computes (.drsq d a) (use1 d 2 a .dbl) (f64One (fpRsqrt Fmt.f64)) ∧
  Computes (.drndn d a) (use1 d 2 a .dbl) (f64One (fpRound Fmt.f64 .ne)) ∧
  Computes (.drndz d a) (use1 d 2 a .dbl) (f64One (fpRound Fmt.f64 .z)) ∧
  Computes (.drndp d a) (use1 d 2 a .dbl) (f64One (fpRound Fmt.f64 .up)) ∧
  Computes (.drndm d a) (use1 d 2 a .dbl) (f64One (fpRound Fmt.f64 .down)) ∧
  Computes (.dclass d a) (use1 d 1 a .dbl) (wordFlags (fun x =>
    let r := fpClass Fmt.f64 (pairAt x 0).toNat
    (r.1.toNat, r.2)))) ∧
  (∀ f ∈ [Fmt.f32, Fmt.f64], ∀ a < 2 ^ (f.signBit + 1),
  let v := f.decode a
  let nan := (f.nan, nvIf v.isSnan)
  fpClass f a = (classBit f v, nvIf v.isSnan) ∧
  (v.isNan = true → fpNeg f a = nan ∧ fpAbs f a = nan ∧ ∀ mode, fpRound f mode a = nan) ∧
  (v.isNan = false → fpNeg f a = (a ^^^ 2 ^ f.signBit, 0#5) ∧ fpAbs f a = (a % 2 ^ f.signBit, 0#5)) ∧
  (v.isInf = true ∨ v.isZero = true → ∀ mode, fpRound f mode a = (a, 0#5)) ∧
  (v.isFin = true → ∀ mode, ∃ n, isIntegral mode v.rat n ∧
    let r := fpRound f mode a
    r.2 = 0#5 ∧ (f.decode r.1).isFin = true ∧ (f.decode r.1).rat = n ∧ (f.decode r.1).neg? = v.neg?)) ∧
  ∀ a : Nat,
  let f := Fmt.f32
  let v := f.decode a
  let nan := (f.nan, nvIf v.isSnan)
  (v.isNan = true → fpExp2 a = nan ∧ fpLog2 a = nan ∧ fpSinCos false a = nan ∧ fpSinCos true a = nan) ∧
  (v.isInf = true → fpExp2 a = (if v.neg? then 0 else f.infCode, 0#5) ∧
    fpLog2 a = (if v.neg? then (f.nan, Flags.nv) else (f.infCode, 0#5)) ∧
    fpSinCos false a = (f.nan, Flags.nv) ∧ fpSinCos true a = (f.nan, Flags.nv)) ∧
  (∀ n : Int, v.isFin = true → v.rat = n → fpExp2 a = roundFin f .ne false 1 n) ∧
  (v.isZero = true → fpLog2 a = (f.signed true f.infCode, Flags.dz) ∧ fpSinCos false a = (a, 0#5) ∧
    (f.decode (fpSinCos true a).1).rat = 1 ∧ (fpSinCos true a).2 = 0#5) ∧
  (v.isFin = true → v.rat < 0 → fpLog2 a = (f.nan, Flags.nv)) ∧
  (∀ n : Int, v.isFin = true → v.rat = (2 : ℚ) ^ n → (f.decode (fpLog2 a).1).isFin = true ∧ (f.decode (fpLog2 a).1).rat = n ∧
    (fpLog2 a).2 = 0#5 ∧ (n = 0 → (fpLog2 a).1 = 0))

/-- R106, R110: the packed instructions work on each element alone, and the conversions convert the operand read as the
source type, CVT by RoundNE and CVTZ by RoundZ, to the code and the flags of R78 and R79: the fates of a NaN, an infinity, a zero, a
value in range and one beyond it, for every destination. An integer source is the number its low bits say. R66, R71, R74, R153, R154, R216: an element
that a copy command moves, a weight and a term-list element as they are decoded, and a block as it is quantised. That a NaN or
infinity code among the weights gives NaN at its own element only, a signalling one keeping its kind, is the model's choice (log
40). -/
def Obligations.PackedAndConversions : Prop :=
  (∀ (d : Dst) (a b : Src) (x y : Ty),
  Computes (.hadd2 d a b) (use2 d 1 a .half b .half) (packedRes (fun e w => fpAdd Fmt.f16 (half (wordAt w 0) e) (half (wordAt w 1) e))) ∧
  Computes (.hmul2 d a b) (use2 d 1 a .half b .half) (packedRes (fun e w => fpMul Fmt.f16 (half (wordAt w 0) e) (half (wordAt w 1) e))) ∧
  Computes (.hfma2 d a b) (use3 d 1 a .half b .half .half)
    (packedRes (fun e w => fpFma Fmt.f16 (half (wordAt w 0) e) (half (wordAt w 1) e) (half (wordAt w 2) e))) ∧
  Computes (.badd2 d a b) (use2 d 1 a .bhalf b .bhalf)
    (packedRes (fun e w => fpAdd Fmt.bf16 (half (wordAt w 0) e) (half (wordAt w 1) e))) ∧
  Computes (.bmul2 d a b) (use2 d 1 a .bhalf b .bhalf)
    (packedRes (fun e w => fpMul Fmt.bf16 (half (wordAt w 0) e) (half (wordAt w 1) e))) ∧
  Computes (.bfma2 d a b) (use3 d 1 a .bhalf b .bhalf .bhalf)
    (packedRes (fun e w => fpFma Fmt.bf16 (half (wordAt w 0) e) (half (wordAt w 1) e) (half (wordAt w 2) e))) ∧
  Computes (.cvt d a x y) (use1 d (cvtWords x) a (cvtPos y)) (fun w =>
    let r := convert .ne x y (pairAt w 0).toNat
    { words := resWords (cvtWords x) (BitVec.ofNat 64 r.1) (w.any anyPoison), flags := r.2 }) ∧
  Computes (.cvtz d a x y) (use1 d (cvtWords x) a (cvtPos y)) (fun w =>
    let r := convert .z x y (pairAt w 0).toNat
    { words := resWords (cvtWords x) (BitVec.ofNat 64 r.1) (w.any anyPoison), flags := r.2 }) ∧
  (∀ n : Nat, convertRule .ne x (tyIsInt y) (tyValue y n) (convert .ne x y n) ∧
    convertRule .z x (tyIsInt y) (tyValue y n) (convert .z x y n)) ∧
  ∀ n : Nat, match tyFmt y with
    | some f => tyValue y n = f.decode n
    | none => (tyValue y n).isFin = true ∧ (tyValue y n).neg? = decide ((tyValue y n).rat < 0) ∧
        (tyValue y n).rat = if tySigned y then (((BitVec.ofNat (tyBits y) n).toInt : Int) : ℚ) else ((n % 2 ^ tyBits y : Nat) : ℚ)) ∧
  (∀ (x y : Ty) (n : Nat), (x = y → moveElem x y n = (n % 2 ^ tyBits x, 0#5)) ∧
    (x ≠ y → convertRule .ne x (tyIsInt y) (tyValue y n) (moveElem x y n))) ∧
  (∀ wf < 6, (∀ code scale : Nat, code < 256 → decodesWeight wf code scale (decodeWeight wf code scale)) ∧
    ∀ xs : List FVal, quantisesBlock wf xs (quantBlock wf xs)) ∧
  ∀ (r : RowRead) (q : Int),
    (scaleIsNan r.scale = true → r.value q = .nan false) ∧
    (scaleIsNan r.scale = false → (r.value q).isFin = true ∧ (r.value q).rat = (q : ℚ) * (scaleVal r.scale).rat ∧
      ((r.value q).rat = 0 → (r.value q).neg? = false))

/-- R111 to R117: the lane operations complete. The shuffles and the segmented scans do so in every lane of the class C, from the
words of the lanes of C alone, and their destination is never uniform. A scan of LUN in a lane takes the lanes of C up to it, a
uniform result the whole of C; a minimum or maximum is a word of C at or beyond every other; LBALLOT and RDLANE follow. That an
instruction with D = nul acts in every lane of the class is the model's choice (log 29). -/
def Obligations.LaneOperations : Prop :=
  (∀ (d : Dst) (a b : Src),
  let u : Uses := { usesWord2 d a b with noUni := true }
  let seg (c : List Nat) (l : Nat) (ws : Nat → List (List Reg)) := segmentLanes c l (fun m => (laneB ws m).bits != 0)
  let tags (c : List Nat) (l : Nat) (ws : Nat → List (List Reg)) := (seg c l ws).any (fun m => (laneB ws m).poison)
  ComputesAcross (.shfl d a b) u (shuffled (fun _ b => b)) ∧
  ComputesAcross (.shflx d a b) u (shuffled (fun l b => ((l.toNat ^^^ b.toNat : Nat) : Int))) ∧
  ComputesAcross (.shflu d a b) u (shuffled (fun l b => l - b)) ∧
  ComputesAcross (.shfld d a b) u (shuffled (fun l b => l + b)) ∧
  ComputesAcross (.lsegi d a b) u (fun _ c l ws => sumI (seg c l ws) ws (tags c l ws)) ∧
  ComputesAcross (.lsegf d a b) u (fun _ c l ws => sumF (seg c l ws) ws (tags c l ws)) ∧
  ComputesAcross (.lsegd d a b) { use2 d 2 a .dbl b .word with noUni := true }
    (fun _ c l ws => sumD (seg c l ws) ws (tags c l ws))) ∧
  (∀ (d : Dst) (a b : Src),
  let u : Uses := { usesWord1 d a with uniform := [] }
  let v : Uses := { use1 d 2 a .dbl with uniform := [] }
  let upTo (once : Bool) (c : List Nat) (l : Nat) := if once then c else c.filter (fun m => decide (m ≤ l))
  let count (l : List Word) := l.countP (fun w => w != 0)
  ComputesAcross (.lscani d a) u (fun once c l ws => sumI (upTo once c l) ws false) ∧
  ComputesAcross (.lscanf d a) u (fun once c l ws => sumF (upTo once c l) ws false) ∧
  ComputesAcross (.lscand d a) v (fun once c l ws => sumD (upTo once c l) ws false) ∧
  ComputesAcross (.lredi d a) u (fun _ c _ ws => sumI c ws false) ∧
  ComputesAcross (.lredf d a) u (fun _ c _ ws => sumF c ws false) ∧
  ComputesAcross (.lredd d a) v (fun _ c _ ws => sumD c ws false) ∧
  (∃ least : List Word → Word, (∀ l, l ≠ [] → least l ∈ l ∧ ∀ w ∈ l, (least l).toInt ≤ w.toInt) ∧
    ComputesAcross (.lmini d a) u (overAll least)) ∧
  (∃ greatest : List Word → Word, (∀ l, l ≠ [] → greatest l ∈ l ∧ ∀ w ∈ l, w.toInt ≤ (greatest l).toInt) ∧
    ComputesAcross (.lmaxi d a) u (overAll greatest)) ∧
  ComputesAcross (.lany d a) u (overAll (fun l => truth (∃ w ∈ l, w ≠ 0))) ∧
  ComputesAcross (.lall d a) u (overAll (fun l => truth (∀ w ∈ l, w ≠ 0))) ∧
  ComputesAcross (.lcount d a) u (overAll (fun l => BitVec.ofNat 32 (count l))) ∧
  ComputesAcross (.lrank d a) u (fun once c l ws =>
    overAll (fun _ => BitVec.ofNat 32 (count (wordsOver (c.filter (fun m => once || decide (m < l))) ws))) once c l ws) ∧
  (∀ s : State, s.Ready { usesWord2 d a b with uniform := [b] } →
    exec (.lballot d a b) s = .next (s.crossed { usesWord2 d a b with uniform := [b] } (fun _ c l ws =>
      let j := laneB ws l
      let bits := (c.map (fun m => if (laneA ws m).bits = 0 then 0 else 2 ^ m)).sum
      { words := [{ bits := if 32 * j.bits.toNat < s.cur.width then BitVec.ofNat 32 (bits / 2 ^ (32 * j.bits.toNat)) else 0,
                    poison := c.any (fun m => (laneA ws m).poison) || j.poison }], flags := 0#5 }))) ∧
  ComputesAcross (.rdlane d a b) { usesWord2 d a b with uniform := [b] } (fun _ c l ws =>
    let j := laneB ws l
    if j.bits.toNat ∈ c then
      { words := [{ bits := (laneA ws j.bits.toNat).bits, poison := (laneA ws j.bits.toNat).poison || j.poison }], flags := 0#5 }
    else { words := [{ bits := 0, poison := j.poison }], flags := 0#5 }))

/-! ### Arithmetic -/

/-- R77, R78, R79, R63, R64: a positive magnitude m x 2^e rounded to any of the eight formats is, with its sign, RoundNE or RoundZ of
it on the continued grid: past the largest finite value it is the fate of R78 with OF and NX, else the code's value is the
rounded one, with NX exactly when that differs from the exact value, and UF exactly when it is tiny after rounding too. -/
def Obligations.FloatRounding : Prop := ∀ f ∈ allFormats, ∀ (neg : Bool) (m : Nat) (e : Int), 0 < m →
  let x : ℝ := (((m : ℚ) * (2 : ℚ) ^ e : ℚ) : ℝ)
  f.roundedNE neg x (roundFin f .ne neg m e) ∧ f.roundedZ neg x (roundFin f .z neg m e)

/-- R101, R103, R114: on finite operands the sum, difference, product, fused product and exact sum are the exact result
rounded once; an exact zero is +0 for a sum unless both operands are -0, and a product's sign is the XOR of the signs.
R83, R84, R85: an exact image of either kind takes a contribution by its case: a finite one adds its multiple of 2^-z modulo 2^w and
keeps the flags, a NaN or an infinity sets its flag and keeps the sum; closing gives NaN with NV, an infinity, or the signed
sum rounded once. R127, R129, R131: so are a block's contribution, an epilogue's value and a rescaled accumulator value. -/
def Obligations.FloatExactOperations : Prop :=
  (∀ f ∈ ieeeFormats, ∀ a b c : Nat,
  (f.decode a).isFin = true → (f.decode b).isFin = true → (f.decode c).isFin = true →
  let x := (f.decode a).rat
  let y := (f.decode b).rat
  let z := (f.decode c).rat
  let sa := (f.decode a).neg?
  let sb := (f.decode b).neg?
  f.once (x + y) (x == 0 && y == 0 && sa && sb) (fpAdd f a b) ∧
  f.once (x - y) (x == 0 && y == 0 && sa && !sb) (fpSub f a b) ∧
  f.once (x * y) (sa != sb) (fpMul f a b) ∧
  f.once (x * y + z) (x * y == 0 && z == 0 && (sa != sb) && (f.decode c).neg?) (fpFma f a b c) ∧
  ∀ l : List Nat, (∀ k ∈ l, (f.decode k).isFin = true) → f.once ((l.map (fun k => (f.decode k).rat)).sum) false (exactSum f l)) ∧
  (∀ k ∈ [(40, 312, 149), (272, 2168, 1074)], ∀ image : Nat,
  let esize := k.1
  let w := k.2.1
  let z := k.2.2
  let flags := image / 2 ^ w
  let sum := image % 2 ^ w
  let pinf := flags.testBit 1
  let ninf := flags.testBit 2
  let nan := flags.testBit 0 || (pinf && ninf)
  (∀ f ∈ [Fmt.f32, Fmt.f64], (f = Fmt.f32 ∨ esize = 272) → ∀ a : Nat,
    let v := f.decode a
    let new := imageAdd esize image v
    (v.isNan = true → new = sum + 2 ^ w * (flags ||| 1)) ∧
    (v.isInf = true → new = sum + 2 ^ w * (flags ||| if v.neg? then 4 else 2)) ∧
    (v.isFin = true → new / 2 ^ w = flags ∧
      ∃ n : Int, (n : ℚ) = v.rat * (2 : ℚ) ^ z ∧ ((new % 2 ^ w : Nat) : Int) = ((sum : Int) + n) % 2 ^ w)) ∧
  ∀ f ∈ [Fmt.f32, Fmt.f64],
    (nan = true → imageClose esize image f = (f.nan, Flags.nv)) ∧
    (nan = false → pinf = true → imageClose esize image f = (f.infCode, 0#5)) ∧
    (nan = false → ninf = true → imageClose esize image f = (f.signed true f.infCode, 0#5)) ∧
    (nan = false → pinf = false → ninf = false →
      f.once (((BitVec.ofNat w sum).toInt : ℚ) / (2 : ℚ) ^ z) false (imageClose esize image f))) ∧
  (∀ wf < 6, ∀ (bs rs : Nat) (qs : List Int) (codes : List Nat), qs.length = codes.length → (∀ k ∈ codes, k < 256) →
    contributes wf bs rs qs codes (contribution wf bs rs qs codes)) ∧
  (∀ f ∈ ieeeFormats ++ [Fmt.e4m3, Fmt.e5m2], ∀ a tag : Nat, epilogueValue f a tag (roundVal f (tagged a tag))) ∧
  ∀ (a : DWord) (old new : Nat), let v := Fmt.f64.decode a.toNat
    v.isFin = true → v.rat ≠ 0 → scaleIsZero old = false → scaleIsNan old = false → scaleIsZero new = false → scaleIsNan new = false →
    Fmt.f64.roundedNE v.neg? (((|v.rat| * (scaleVal old).rat / (scaleVal new).rat : ℚ)) : ℝ) (rescaled a old new)

/-- R101, R64: NaN and infinity operands of the sum, the difference, the product and the fused product: the canonical NaN, with NV
exactly when an operand is signalling or the operation is invalid, also when the addend of an invalid product is a quiet NaN;
else an infinity of the right sign without flags. R114: so with the exact sum of a list that holds a NaN or an infinity, as the
scans, segmented scans and reductions of lanes form it. -/
def Obligations.FloatSpecial : Prop :=
  (∀ f ∈ ieeeFormats, ∀ l : List Nat,
  let nan := ∃ k ∈ l, (f.decode k).isNan = true
  let snan := ∃ k ∈ l, (f.decode k).isSnan = true
  let infinite (neg : Bool) := ∃ k ∈ l, (f.decode k).isInf = true ∧ (f.decode k).neg? = neg
  let both := infinite false ∧ infinite true
  (nan ∨ both → (exactSum f l).1 = f.nan ∧ (snan ∨ both → (exactSum f l).2 = Flags.nv) ∧ (¬ snan → ¬ both → (exactSum f l).2 = 0#5)) ∧
  ∀ neg, ¬ nan → ¬ both → infinite neg → exactSum f l = (f.signed neg f.infCode, 0#5)) ∧
  ∀ f ∈ ieeeFormats, ∀ a b c : Nat,
  let x := f.decode a
  let y := f.decode b
  let z := f.decode c
  let nan := x.isNan || y.isNan
  let nv := nvIf (x.isSnan || y.isSnan)
  let invalid := (x.isInf && y.isZero) || (x.isZero && y.isInf)
  let infinity (neg : Bool) := (f.signed neg f.infCode, 0#5)
  (nan = true → fpAdd f a b = (f.nan, nv) ∧ fpSub f a b = (f.nan, nv) ∧ fpMul f a b = (f.nan, nv)) ∧
  (nan = false → x.isInf = true → y.isInf = true →
    (x.neg? ≠ y.neg? → fpAdd f a b = (f.nan, Flags.nv)) ∧ (x.neg? = y.neg? → fpSub f a b = (f.nan, Flags.nv))) ∧
  (nan = false → x.isInf = true → (y.isInf = false ∨ y.neg? = x.neg?) →
    fpAdd f a b = infinity x.neg? ∧ fpAdd f b a = infinity x.neg?) ∧
  (nan = false → x.isInf = true → (y.isInf = false ∨ y.neg? ≠ x.neg?) →
    fpSub f a b = infinity x.neg? ∧ fpSub f b a = infinity (!x.neg?)) ∧
  (nan = false → invalid = true → fpMul f a b = (f.nan, Flags.nv) ∧ fpFma f a b c = (f.nan, Flags.nv)) ∧
  (nan = false → invalid = false → x.isInf || y.isInf = true →
    fpMul f a b = infinity (x.neg? != y.neg?) ∧
    (z.isInf = true → z.neg? ≠ (x.neg? != y.neg?) → fpFma f a b c = (f.nan, Flags.nv)) ∧
    (z.isNan = false → (z.isInf = false ∨ z.neg? = (x.neg? != y.neg?)) → fpFma f a b c = infinity (x.neg? != y.neg?))) ∧
  (invalid = false → nan || z.isNan = true → fpFma f a b c = (f.nan, nvIf (x.isSnan || y.isSnan || z.isSnan))) ∧
  (nan = false → x.isInf || y.isInf = false → z.isInf = true → fpFma f a b c = infinity z.neg?)

/-- R104, R105: the comparisons agree with the order of the reals and their infinities, and are false for a NaN; minimum and
maximum return an operand that is least or greatest, -0 below +0, the operand itself of two equal ones, and the other operand
of one NaN; their flags are NV alone. -/
def Obligations.FloatOrder : Prop := ∀ f ∈ ieeeFormats, ∀ a b : Nat,
  let x := f.decode a
  let y := f.decode b
  let nan := x.isNan || y.isNan
  let quietNv := nvIf (x.isSnan || y.isSnan)
  fpCmp f .lt a b = (!nan && decide (x.ext < y.ext), nvIf nan) ∧
  fpCmp f .le a b = (!nan && decide (x.ext ≤ y.ext), nvIf nan) ∧
  fpCmp f .eq a b = (!nan && decide (x.ext = y.ext), quietNv) ∧
  fpCmp f .un a b = (nan, quietNv) ∧
  (x.isNan = true → y.isNan = true → ∀ mx, fpMinMax f mx a b = (f.nan, quietNv)) ∧
  (x.isNan = true → y.isNan = false → ∀ mx, fpMinMax f mx a b = (b, quietNv) ∧ fpMinMax f mx b a = (b, quietNv)) ∧
  (nan = false → (x.ext < y.ext ∨ (x.isZero = true ∧ y.isZero = true ∧ x.neg? = true ∧ y.neg? = false)) →
    fpMinMax f false a b = (a, 0#5) ∧ fpMinMax f false b a = (a, 0#5) ∧
    fpMinMax f true a b = (b, 0#5) ∧ fpMinMax f true b a = (b, 0#5)) ∧
  (nan = false → x.ext = y.ext → x.neg? = y.neg? → ∀ mx, (fpMinMax f mx a b).2 = 0#5 ∧
    (f.decode (fpMinMax f mx a b).1).ext = x.ext ∧ (f.decode (fpMinMax f mx a b).1).neg? = x.neg?)

/-- R107, R108: the square root, the reciprocal and the reciprocal square root of a positive finite operand, and the reciprocal of a
negative one, are the exact real result rounded once by RoundNE with its flags; and their special operands: a zero, a value
below -0, an infinity, a NaN. FEXP2, FLOG2, FSIN and FCOS of an operand whose result is inexact: RoundNE, with its flags, of a value
within 2^-400 of the exact one, for FEXP2 of 2^-400 times it. That such a value always rounds as the exact one does, as R108
says, log 15 presumes. -/
def Obligations.FloatRoots : Prop :=
  (∀ a : Nat,
  let f := Fmt.f32
  let v := f.decode a
  let x : ℝ := (v.rat : ℝ)
  let close : ℝ := (2 : ℝ) ^ (-400 : Int)
  (v.isFin = true → (∀ n : Int, v.rat ≠ n) → f.nearlyRounded ((2 : ℝ) ^ x) ((2 : ℝ) ^ x * close) (fpExp2 a)) ∧
  (v.isFin = true → 0 < v.rat → (∀ n : Int, v.rat ≠ (2 : ℚ) ^ n) → f.nearlyRounded (Real.logb 2 x) close (fpLog2 a)) ∧
  (v.isFin = true → v.rat ≠ 0 → f.nearlyRounded (Real.sin x) close (fpSinCos false a) ∧ f.nearlyRounded (Real.cos x) close (fpSinCos true a))) ∧
  ∀ f ∈ [Fmt.f32, Fmt.f64], ∀ a : Nat,
  let v := f.decode a
  let x : ℝ := (v.rat : ℝ)
  let nan := (f.nan, nvIf v.isSnan)
  let invalid := (f.nan, Flags.nv)
  let infinite := (f.signed v.neg? f.infCode, Flags.dz)
  (v.isFin = true → 0 < x → f.roundedNE false (Real.sqrt x) (fpSqrt f a) ∧ f.roundedNE false (1 / x) (fpRcp f a) ∧
    f.roundedNE false (1 / Real.sqrt x) (fpRsqrt f a)) ∧
  (v.isFin = true → x < 0 → fpSqrt f a = invalid ∧ f.roundedNE true (1 / -x) (fpRcp f a) ∧ fpRsqrt f a = invalid) ∧
  (v.isZero = true → fpSqrt f a = (a, 0#5) ∧ fpRcp f a = infinite ∧ fpRsqrt f a = infinite) ∧
  (v.isInf = true → fpRcp f a = (f.signed v.neg? 0, 0#5) ∧
    (v.neg? = false → fpSqrt f a = (f.infCode, 0#5) ∧ fpRsqrt f a = (0, 0#5)) ∧
    (v.neg? = true → fpSqrt f a = invalid ∧ fpRsqrt f a = invalid)) ∧
  (v.isNan = true → fpSqrt f a = nan ∧ fpRcp f a = nan ∧ fpRsqrt f a = nan)

/-! ### Operands -/

/-- R38, R39, R41, R44, R90: the words each source gives a lane when the operands are ready: a register's consecutive
words, the literal, never poisoned (as it is in a word, sign-extended in an integer pair, converted in an FP64 pair, rounded to
both halves of a packed word, a NaN keeping its kind), or the oldest entries of its port that no earlier source of the
instruction pops, in the lane's place of a vector channel and whole for a uniform one; afterwards the ports hold what no source
popped. -/
def Obligations.OperandWords : Prop := ∀ (s : State) (u : Uses), s.Ready u →
  let r := s.take s.ix.slot u.srcs
  (∀ i, i < u.srcs.length → ∀ l : Nat,
    let x := u.srcs.getD i (.lit, .word)
    let got := (r.2.srcWords r.1 l).getD i []
    match x.1 with
    | .v n => got = (List.range x.2.words).map (fun k => (s.cur.lane l).vget (n.val + k))
    | .s n => got = (List.range x.2.words).map (fun k => s.cur.sget (n.val + k))
    | .lit =>
        let bits := (wordsVal got).toNat
        let halves (f : Fmt) (snan : Nat) := got.length = 1 ∧ bits / 65536 = bits % 65536 ∧ litRule s.ix.lit f snan (bits % 65536)
        (x.2 = .word → got = [Reg.of s.ix.lit]) ∧
        (x.2 = .pair → got.length = 2 ∧ wordsVal got = BitVec.ofInt 64 s.ix.lit.toInt) ∧
        (x.2 = .dbl → got.length = 2 ∧ litRule s.ix.lit Fmt.f64 0x7FF4000000000000 bits) ∧
        (x.2 = .half → halves Fmt.f16 0x7D00) ∧ (x.2 = .bhalf → halves Fmt.bf16 0x7FA0) ∧ ∀ reg ∈ got, reg.poison = false
    | .q n => got = (((s.portEntries n.val).drop (popCount (u.srcs.take i) n.val)).take x.2.words).map
        (fun e => e.getD (if s.portUniform n.val then 0 else l) Reg.zero)) ∧
  ∀ p, p ≤ 14 → r.2.portEntries p = (s.portEntries p).drop (popCount u.srcs p)

/-- R90, R91, R81, R41: where results go. In a vector register, each lane of the class gets its own result; a uniform
register gets the one result; a port gets an entry for each word, with a word for each lane of the class in a vector
channel; nul discards. The class's lanes stand at the sequential successor, awake, and the flags of every evaluation are
ORed into sr.fflags. Entries lie in local memory, where a tagged sector also poisons what is read there (R41, R61, R312). -/
def Obligations.ResultWrites : Prop := ∀ (s : State) (u : Uses) (ls : List Nat) (res : Nat → Res), s.Issues → s.Ready u →
  s.Pushable u → (ls = s.ix.lanes ∨ (dstIsVec (s.team s.cur.team) u.dst = false ∧ ls = [s.lowest])) →
  (∀ l, (res l).words.length = u.words) →
  let r := s.take s.ix.slot u.srcs
  let t := r.2.retire u (ls.map (fun l => (l, res l)))
  let word (l k : Nat) : Reg := (res l).words.getD k Reg.zero
  (∀ n, u.dst = .v n → ∀ l ∈ s.ix.lanes, ∀ k < u.words, (t.cur.lane l).vget (n.val + k) = word l k) ∧
  (∀ n, u.dst = .s n → ∀ k < u.words, t.cur.sget (n.val + k) = word s.lowest k) ∧
  (∀ n c, u.dst = .q n → (s.team s.cur.team).chan? n.val = some c →
    let want := r.2.portEntries n.val ++ (List.range u.words).map (fun k =>
      if c.vector then (List.range s.cur.width).map (fun l => if l ∈ s.ix.lanes then word l k else Reg.zero)
      else [word s.lowest k])
    let bits (es : List (List Reg)) : List (List Word) := es.map (fun e => e.map (fun w => w.bits))
    bits (t.portEntries n.val) = bits want ∧
      ((∀ k, sget false (s.core (s.ix.slot / 144)).locPoison k = false) → t.portEntries n.val = want)) ∧
  (u.dst = .nul → (∀ l k, (t.cur.lane l).vget k = (s.cur.lane l).vget k) ∧ ∀ k, t.cur.sget k = s.cur.sget k) ∧
  (∀ l ∈ s.ix.lanes, (t.cur.lane l).pc = nextPc s.ix.pc ∧ (t.cur.lane l).sleep = .awake ∧ (t.cur.lane l).chain = s.ix.chain) ∧
  t.cur.fflags = (ls.map (fun l => (res l).flags)).foldl (fun f g => f ||| g) s.cur.fflags

/-- R90, R111, R81: the frame of every instruction that writes one destination (the instructions `arithmeticUses` lists), when
its operands are ready: nothing else changes, and only floating-point instructions raise flags. R190, R194, R199: the registers a
handle instruction whose access passes leaves as they are at its issue: all but its destination's in its own lanes, which a
load from local memory or a cache fills at once (the words of other loads come with their return, see AccessesReturn). R158,
R159, R288, R289: so with MBOUND, XSTAT, HNARROW and HQUERY that have moved their class on. -/
def Obligations.ArithmeticFrame : Prop :=
  (∀ (i : Instr) (u : Uses) (s t : State), arithmeticUses i = some u → s.Issues →
  s.Ready u → exec i s = .next t →
  arithmeticFrame s t u ∧ (setsFlags i = false → t.cur.fflags = s.cur.fflags)) ∧
  (∀ (i : Instr) (m : MemUse) (b : Bool) (more : HEntry → Nat → List Reg → Spot → LaneFate) (s t s' : State) (p : Passed),
  s.checkedUses i = some (m, b, more) → s.Issues → s.checked m b more = .go p t → s.Pushable (m.uses .word) →
  (p.entry.space = 1 → storesLocal i = true → s.Unwatched) → exec i s = .next s' →
  registerFrame s s' s.ix.slot s.ix.lanes m.dst m.words) ∧
  ∀ (i : Instr) (d : Dst) (words : Nat) (s t : State), blockWrites i = some (d, words) → s.Issues →
  s.Pushable { srcs := [], dst := d, words := words, uniform := [], noUni := false } → exec i s = .next t →
  (∀ l ∈ s.ix.lanes, (t.cur.lane l).pc = nextPc s.ix.pc ∧ (t.cur.lane l).sleep = .awake ∧ (t.cur.lane l).exited = false ∧
    (t.cur.lane l).depth = (s.cur.lane l).depth) →
  registerFrame s t s.ix.slot s.ix.lanes d words

/-- R40, R41, R42, R53, R54, R92: what an arithmetic instruction does when its operands are not ready. An operand the decode
rules refuse raises OPERAND (0x02), an unbound port QUEUE (0x0D), with the word in sr.xval and no other effect; a port that
cannot serve, its room less the places kept for entries that may come back, puts the class to sleep on it with nothing popped. Nothing but these two stops it. -/
def Obligations.OperandsNotReady : Prop := ∀ (i : Instr) (u : Uses) (s : State), arithmeticUses i = some u → s.stopped = false →
  let t := s.team s.cur.team
  let declared (words : Nat) (n : Fin 112) := n.val + words ≤ s.cur.nregs
  let bad := u.dst = .q 14 ∨ (dstIsUni t u.dst = true ∧ (u.noUni = true ∨ ∃ x ∈ u.uniform, srcIsVec t x = true)) ∨
    (∃ n, u.dst = .v n ∧ ¬ declared u.words n) ∨ ∃ x ∈ u.srcs, ∃ n, x.1 = .v n ∧ ¬ declared x.2.words n
  let unbound := (∃ n : Fin 15, u.dst = .q n ∧ n.val ≠ 14 ∧ t.chan? n.val = none) ∨
    ∃ x ∈ u.srcs, ∃ n : Fin 15, x.1 = .q n ∧ n.val ≠ 14 ∧ t.chan? n.val = none
  let short (p : Nat) := (s.portEntries p).length < popCount u.srcs p
  let full (p : Nat) := u.dst = .q (Fin.ofNat 15 p) ∧ p < 15 ∧ 16 < (s.portEntries p).length - popCount u.srcs p + u.words + s.owed s.cur p
  (bad → exec i s = .next (s.trapAt 0x02 s.ix.word 0)) ∧
  (¬ bad → unbound → exec i s = .next (s.trapAt 0x0D s.ix.word 0)) ∧
  (¬ bad → ¬ unbound → (∃ p, p < 15 ∧ (short p ∨ full p)) → ∃ p, p < 15 ∧ (short p ∨ full p) ∧ exec i s = .next (s.sleepOn p u)) ∧
  (¬ bad → ¬ unbound → (∀ p, p < 15 → ¬ short p ∧ ¬ full p) → s.Ready u)

/-! ### Special registers, poison -/

/-- R270 to R273, R80: SRD completes with the register's value, without poison, in each lane of the class or once for a uniform
destination; sr.lane, sr.depth and sr.lsp are each lane's own. SWR from a uniform source without poison writes the register and
nothing else but its class's place and the port it pops; a poisoned source raises POISON (0x0A) with sr.xval 0 and pops
nothing, a vector source OPERAND. -/
def Obligations.SpecialRegisters : Prop :=
  (∀ (d : Dst) (r : SReg) (s : State),
  let u : Uses := { srcs := [], dst := d, words := if r.isPair then 2 else 1, uniform := [], noUni := SReg.perLane r }
  s.Ready u → exec (.srd d r) s = .next (s.retire u ((if dstIsUni (s.team s.cur.team) d then [s.lowest] else s.ix.lanes).map (fun l =>
    (l, { words := if r.isPair then pairWords (BitVec.ofNat 64 (s.sregRule l r)) false
                   else [{ bits := BitVec.ofNat 32 (s.sregRule l r), poison := false }], flags := 0#5 }))))) ∧
  (∀ (a : Src) (r : SReg) (s : State), r ∈ writableSregs → s.stopped = false →
  let u : Uses := { srcs := [(a, if r.isPair then .pair else .word)], dst := .nul, words := 0, uniform := [a], noUni := false }
  let taken := s.take s.ix.slot u.srcs
  let words := (taken.2.srcWords taken.1 s.lowest).headD []
  (srcIsVec (s.team s.cur.team) a = true → exec (.swr a r) s = .next (s.trapAt 0x02 s.ix.word 0)) ∧
  (srcIsVec (s.team s.cur.team) a = false → s.Ready u → words.any (fun w => w.poison) = true →
    exec (.swr a r) s = .next (s.trapAt 0x0A 0 0)) ∧
  (srcIsVec (s.team s.cur.team) a = false → s.Ready u → words.any (fun w => w.poison) = false →
    exec (.swr a r) s = .next (taken.2.modCur (fun g => swrRule g (wordsVal words).toNat r)).advance))

/-- R316: PTEST and PCLR complete in each lane: 1 when the source word is poisoned, else 0; and the source's bits; both
without poison. R46: NOP completes and only moves its class on. -/
def Obligations.PoisonInstructionsAndNop : Prop := ∀ (d : Dst) (a : Src),
  Computes (.ptest d a) (usesWord1 d a) (fun x =>
    { words := [{ bits := truth (x.any anyPoison = true), poison := false }], flags := 0#5 }) ∧
  Computes (.pclr d a) (usesWord1 d a) (fun x => { words := [{ bits := wordAt x 0, poison := false }], flags := 0#5 }) ∧
  ∀ s : State, s.stopped = false → exec .nop s = .next s.advance

/-! ### Memory instructions -/

/-- R191, R193 to R196, R165, R166: every load and constant load whose access passes completes, its words at once or the access
opened; every store whose access passes completes, its bytes in local memory or in the store queue. -/
def Obligations.LoadsAndStoresComplete : Prop :=
  (∀ (d : Dst) (a : Src) (l : Bool) (h : Fin 128),
  Loads (.ldB d a l h) d (loadUse d a l h 1 [0, 1, 4, 5, 6, 7]) 1 true ∧
  Loads (.ldBu d a l h) d (loadUse d a l h 1 [0, 1, 4, 5, 6, 7]) 1 false ∧
  Loads (.ldH d a l h) d (loadUse d a l h 2 [0, 1, 4, 5, 6, 7]) 2 true ∧
  Loads (.ldHu d a l h) d (loadUse d a l h 2 [0, 1, 4, 5, 6, 7]) 2 false ∧
  Loads (.ldW d a l h) d (loadUse d a l h 4 [0, 1, 4, 5, 6, 7]) 4 false ∧
  Loads (.ldD d a l h) d (loadUse d a l h 8 [0, 1, 4, 5, 6, 7]) 8 false ∧
  Loads (.ldQ d a l h) d (loadUse d a l h 16 [0, 1, 4, 5, 6, 7]) 16 false ∧
  Loads (.ldcW d a l h) d (loadUse d a l h 4 [2]) 4 false ∧
  Loads (.ldcD d a l h) d (loadUse d a l h 8 [2]) 8 false) ∧
  (∀ (d a : Src) (l : Bool) (h : Fin 128),
  Stores (.stB d a l h) (storeUse d a l h 1) 1 ∧ Stores (.stH d a l h) (storeUse d a l h 2) 2 ∧
  Stores (.stW d a l h) (storeUse d a l h 4) 4 ∧ Stores (.stD d a l h) (storeUse d a l h 8) 8 ∧
  Stores (.stQ d a l h) (storeUse d a l h 16) 16)

/-- R197 to R201, R203: an atomic or a reduction whose access passes completes: on local memory lane after lane, each lane's old
value (with its sector's tag) to the destination of an ATOM; elsewhere as a write on its way to its home, which an ATOM
waits for and a RED does not. The new value at the target is that of R198. RCLOSE whose access passes, image and result cell,
completes: each lane's image is closed at its home, and the group waits for the values to store to the cells; the lanes from the
first whose image a lower lane's cell meets wait until those cells are stored (R191; how, log 27 says). -/
def Obligations.AtomicsComplete : Prop :=
  (∀ (d : Dst) (a : Src) (aop : Aop) (h : Fin 16) (s t : State) (p : Passed) (n : Nat),
  n = 4 ∨ n = 8 →
  let atom : Instr := if n = 4 then .atomW d a aop h else .atomD d a aop h
  let red : Instr := if n = 4 then .redW d a aop h else .redD d a aop h
  let core := s.ix.slot / 144
  let sent := p.spots.map (fun q =>
    ({ lane := q.lane, at_ := q.at_, va := q.va, prot := q.leaf.testBit 6, repl := q.leaf.testBit 7,
       act := atomicAct aop n p.entry.esize q (p.data q.lane) } : Sent))
  let local_ := t.localAtoms core n aop p.data p.spots
  (s.Passes (atomicUse d a aop h n true) true noMore p t →
    (p.entry.space = 1 → exec atom s = .next (local_.2.deliver d (n / 4) local_.1)) ∧
    (p.entry.space ≠ 1 → t.cur.storeQ.length < 64 →
      exec atom s = .next (((t.startReturn (.atom d n (aop == .addX)) (s.poppedBy t s.ix.slot) p).send (some t.seq) sent).advance))) ∧
  (s.Passes (atomicUse d a aop h n false) true noMore p t →
    (p.entry.space = 1 → exec red s = .next local_.2.advance) ∧
    (p.entry.space ≠ 1 → t.cur.storeQ.length < 64 → exec red s = .next (t.send none sent).advance)) ∧
  ∀ m x swap : Nat, m < 2 ^ (8 * n) → x < 2 ^ (8 * n) → newValue aop n m x swap = atomicRule aop n m x swap) ∧
  (∀ (a : Src) (l : Bool) (h : Fin 128) (s t : State) (p : Passed) (n : Nat), n = 4 ∨ n = 8 →
  let cells := p.spots.map (fun q => (q.lane, (q.at_.getLastD (0, 0)).1, p.entry.base + p.cellOff q.lane, q.leaf))
  let closes := p.spots.map (fun q => ({ lane := q.lane, at_ := imagePart p.entry.esize q.at_, va := q.va, prot := q.leaf.testBit 6
                                         repl := q.leaf.testBit 7, act := .close (imagePart p.entry.esize q.at_) p.entry.esize (n == 8) } : Sent))
  s.Passes (closeUse a l h) false (s.cellCheck (closeUse a l h).ask n) p t →
  ∃ run later, closes = run ++ later ∧ closesTogether cells n run later ∧
    exec (if n = 4 then .rcloseF32 a l h else .rcloseF64 a l h) s =
      .next ((t.startReturn (.close cells later) (s.poppedBy t s.ix.slot) { p with spots := p.spots.take run.length }).send
        (some t.seq) run).advance)

/-- R204, R206, R207: remote loads, stores and atomics whose access passes, with room for their requests, complete: a load asks
once for each place its lanes name, a store and an atomic once for each lane, each the target its peer index names. A load or
an atomic waits for the answers at its word; a store moves on. One request for each place, where R184 speaks of one for each
sector, is the model's choice (log 70). -/
def Obligations.RemoteAccessesComplete : Prop := ∀ (d : Dst) (x a : Src) (l : Bool) (h : Fin 128) (h4 : Fin 16) (aop : Aop)
    (s t : State) (p : Passed) (n : Nat), n = 4 ∨ n = 8 → t.peerFull p = false →
  (s.Passes (rldUse d a l h n) false s.issuerCheck p t →
    exec (if n = 4 then .rldW d a l h else .rldD d a l h) s =
      .next (((t.startReturn (.remote d n) (s.poppedBy t s.ix.slot) p).postAll p p.sharers (fun _ => .read n) t.seq).stayAt)) ∧
  (s.Passes (rstUse x a l h n) true noMore p t → (∀ q ∈ p.spots, t.issuerReason (t.groupDom t.cur) (p.peer q.lane) = 0) →
    exec (if n = 4 then .rstW x a l h else .rstD x a l h) s =
      .next (p.spots.foldl (fun acc q => acc.postAccess (p.peer q.lane)
        (.access s.ix.slot [q.lane] p.entry.esize q.va (.write n (wordsVal (p.data q.lane))) none)) t).advance) ∧
  (s.Passes (ratomUse d a aop h4) true s.issuerCheck p t →
    exec (.ratom d a aop h4) s =
      .next (((t.startReturn (.remote d 4) (s.poppedBy t s.ix.slot) p).postAll p (p.spots.map (fun q => [q]))
        (fun q => .atomic aop (wordsVal (p.data q.lane))) t.seq).stayAt))

/-- R210, R211: the CACHE functions whose access passes complete: WB and WBINV when no store of the group to the lines is
pending, writing dirty host lines back; WBINV and INV drop the core's L1 copies of the lines, IINV its instruction-cache
copies, CINV its constant cache; FETCHB discards the words the class holds. -/
def Obligations.CacheFunctionsComplete : Prop := ∀ (a : Src) (l : Bool) (h : Fin 128) (s t : State) (p : Passed),
  let core := s.ix.slot / 144
  let lines := nub ((p.spots.filter (fun q => !q.loc)).map (fun q => q.start / 128))
  let keepOut (x : List (Nat × Copy)) := x.filter (fun e => !lines.contains e.1)
  (s.Passes { ask := cacheAsk a l h, data := none, dst := .nul, words := 0 } false noMore p t →
    (t.storesPending lines = false →
      exec (.cacheWb a l h) s = .next (t.hostBack lines).advance ∧
      exec (.cacheWbinv a l h) s = .next ((t.hostBack lines).modCore core (fun c => { c with l1 := keepOut c.l1 })).advance) ∧
    exec (.cacheInv a l h) s = .next (t.modCore core (fun c => { c with l1 := keepOut c.l1 })).advance ∧
    exec (.cacheIinv a l h) s =
      .next (t.modCore core (fun c => { c with icache := c.icache.filter (fun e => !lines.contains e.1) })).advance) ∧
  (s.stopped = false →
    exec .cacheCinv s = .next (s.modCore core (fun c => { c with ccache := [] })).advance ∧
    exec .cacheFetchb s = .next ((s.modCur (fun g => g.modLanes s.ix.lanes (fun _ x => { x with fetched := [] }))).advance))

/-- R212, R176: a WAITC whose access passes, with no pending write of its group to the words and no write on its way to a replica of
them (R179), completes: the class moves on when
every lane's word already meets its condition, else each lane sleeps with its monitor armed: on its own word, with its condition
and its comparand, latched exactly when the word already meets it. -/
def Obligations.WaitcCompletes : Prop := ∀ (d a : Src) (l : Bool) (h : Fin 128) (c : Cond) (s t : State) (p : Passed),
  s.Passes (waitUse d a l h) false s.watchCheck p t → (∀ k ∈ s.ix.lanes, k < 256) →
  (∀ q ∈ p.spots, q.loc = true ∨ t.lineReplicating (q.start / 128) = false) →
  (∀ q ∈ p.spots, q.loc = true ∨ ∀ w ∈ t.pendingWrites t.ix.slot, ∀ z ∈ w.spans, overlap z (q.start, 4) = false) →
  let i : Instr := match c with
    | .eq => .waitcEq d a l h
    | .ne => .waitcNe d a l h
    | .ge => .waitcGe d a l h
  let word (q : Spot) : Word := ((p.data q.lane).headD Reg.zero).bits
  let place (q : Spot) : Place := if q.loc then .loc (s.ix.slot / 144) q.start else .phys q.start
  let meets (q : Spot) : Prop := match c with
    | .eq => t.watched (place q) = word q
    | .ne => t.watched (place q) ≠ word q
    | .ge => (t.watched (place q) - word q).msb = false
  ∃ t', exec i s = .next t' ∧
    ((∀ q ∈ p.spots, meets q ∧ t.placePoison (place q) = false) → ∀ k ∈ s.ix.lanes, k < s.cur.lanes.length →
      (t'.cur.lane k).pc = nextPc s.ix.pc ∧ (t'.cur.lane k).sleep = .awake) ∧
    ((∃ q ∈ p.spots, ¬ meets q) → ∀ k ∈ s.ix.lanes, k < s.cur.lanes.length →
      ∃ q ∈ p.spots, (q.lane = k ∨ q.lane = uniformLane) ∧ ∃ w, (t'.cur.lane k).sleep = .waitc w ∧ w.cond = c ∧
        w.place = place q ∧ w.d = word q ∧ (w.latched = true ↔ meets q))

/-- R189, R190, R285, R286, R287 (steps 1 to 3, in their order): what the handle of an instruction that R189 checks decides. A
poisoned index raises POISON, one above 4,095 HANDLE; of the entry it names, poison raises POISON, an
entry that is not VALID or of another space HANDLE, a WIDE handle with an odd offset register ILLEGAL, a missing permission
PERM. The trap is the instruction's only effect. -/
def Obligations.HandleChecks : Prop := ∀ (i : Instr) (m : MemUse) (b : Bool) (more : HEntry → Nat → List Reg → Spot → LaneFate) (s : State),
  s.checkedUses i = some (m, b, more) → s.MemReady m →
  let r := s.cur.sget m.ask.h
  let lid := (s.team s.cur.team).lid
  (r.poison = true → exec i s = .next (s.trapped 0x0A 0 0)) ∧
  (r.poison = false → 4095 < r.bits.toNat → exec i s = .next (s.trapped 0x05 r.bits 0)) ∧
  ∀ e, r.poison = false → r.bits.toNat ≤ 4095 → s.lookup s.me (s.ix.slot / 144) lid r.bits.toNat = .entry e →
    let badSpace := e.valid = false ∨ e.space ∉ m.ask.spaces ∨ (e.space = 7 ∧ s.uniformAccess m = true) ∨ (e.space = 3 ∧ e.wide = true)
    let lacks := if m.ask.anyOf then e.perm &&& m.ask.perms = 0 else e.perm &&& m.ask.perms ≠ m.ask.perms
    (e.poison = true → exec i s = .next (s.trapped 0x0A r.bits (BitVec.ofNat 64 ((s.launch lid).htab + 32 * r.bits.toNat)))) ∧
    (e.poison = false → badSpace → exec i s = .next (s.trapped 0x05 r.bits 0)) ∧
    (e.poison = false → ¬ badSpace → e.wide = true → srcOddReg m.ask.a = true → exec i s = .next (s.trapped 0x01 s.ix.word 0)) ∧
    (e.poison = false → ¬ badSpace → (e.wide = false ∨ srcOddReg m.ask.a = false) → lacks → exec i s = .next (s.trapped 0x04 r.bits 0))

/-- R188, R189 (steps 4 to 9), R23, R201, R202, R204, R247: what one lane's offset decides, in every space. A poisoned offset raises
POISON; an offset below 0, or an access past its end (the handle's length, the lane's own region for STACK, the team's
allocation for LOCAL, the address space), BOUNDS; a misaligned address, for a whole exact image a misaligned offset too,
MISALIGN; an atomic that its space or its image kind does not take ATOMIC; poisoned data POISON. Then local memory and a
remote window need no translation here; in the other spaces a missing one waits, a refused one traps, and an atomic on host
memory that cannot be locked raises ATOMIC. That a STACK access is bounded by the handle's length as well as by the lane's
region is the model's choice (log 25). -/
def Obligations.LaneChecks : Prop := ∀ (s : State) (x : Ask) (e : HEntry) (lane : Nat) (ws : List Reg) (bad : Bool),
  let t := s.team s.cur.team
  let l := s.launch t.lid
  let exact := x.image && e.space == 4
  let size := if exact then e.esize else x.size
  let align := if exact then 8 else x.align
  let base : Nat := if x.pairA then (ws.headD Reg.zero).bits.toNat else (wordsVal ws).toNat
  let off : Int := base + (if x.disp then s.ix.lit.toInt else 0)
  let o := off.toNat
  let region := if e.space = 7 then (256 * s.ix.slot + lane) * l.hdr.stackB else 0
  let va : Nat := e.base + region + o
  let trap (cause : Nat) (xval : Word) (xaddr : DWord) : LaneFate :=
    .trap { cause := cause, xval := xval, pc := s.ix.pc, lane := lane, xaddr := xaddr }
  let within := o + size ≤ (if e.space = 7 then t.hdr.stackB else e.length) ∧ (e.space = 7 → region + o + size ≤ e.length) ∧
    (e.space = 1 → va + size ≤ t.len) ∧ va + size ≤ 2 ^ 57
  let straight := va % align = 0 ∧ (exact = true → o % align = 0)
  let takes := match x.aop with
    | none => True
    | some (aop, wide) => if aop = .addX then e.space = 4 ∧ ¬ (wide = true ∧ e.esize = 40) else e.space ≠ 4
  let fate := s.checkLane x e lane ws bad
  (ws.any (fun w => w.poison) = true → fate = trap 0x0A 0 0) ∧
  (ws.any (fun w => w.poison) = false →
    (off < 0 → fate = trap 0x03 (BitVec.ofInt 32 off) 0) ∧
    (0 ≤ off → ¬ within → fate = trap 0x03 (BitVec.ofInt 32 off) (BitVec.ofNat 64 va)) ∧
    (0 ≤ off → within → ¬ straight → fate = trap 0x06 (BitVec.ofNat 32 va) (BitVec.ofNat 64 va)) ∧
    (0 ≤ off → within → straight → ¬ takes →
      fate = trap 0x13 (BitVec.ofNat 32 ((x.aop.elim 0 (fun p => aopNat p.1)) + 256 * e.space)) (BitVec.ofNat 64 va)) ∧
    (0 ≤ off → within → straight → takes → bad = true → fate = trap 0x0A 0 (BitVec.ofNat 64 va)) ∧
    (0 ≤ off → within → straight → takes → bad = false →
      (e.space = 1 → fate = .ok { lane := lane, off := o, va := va, loc := true, at_ := [(t.base + va, size)], leaf := 0 }) ∧
      (e.space = 3 → fate = .ok { lane := lane, off := o, va := va, loc := false, at_ := [], leaf := 0 }) ∧
      (e.space ≠ 1 → e.space ≠ 3 →
        let via := viaCore (s.ix.slot / 144)
        let at_ := (piecesOf va size).map (fun q => (s.paOf via l.dom l.space q.1 x.need false, q.2))
        let unlocked := x.aop.isSome = true ∧ ∃ q ∈ at_, s.unlockable q.1 = true
        match s.reach s.me via l.dom l.space x.need false (piecesOf va size) with
        | .fault fva lv c => fate = .wait fva lv c
        | .held => fate = .held
        | .failed _ c => fate = trap c (BitVec.ofNat 32 va) (BitVec.ofNat 64 va)
        | .ok => (unlocked → fate = trap 0x13 (BitVec.ofNat 32 va) (BitVec.ofNat 64 va)) ∧
            (¬ unlocked → fate = .ok { lane := lane, off := o, va := va, loc := false, at_ := at_,
                                       leaf := s.leafOf via l.dom l.space va x.need false }))))

/-- R190, R305: an access is precise. When a lane of the class fails a check of R189, or the check that its own rule adds, the trap
names the lowest such lane and is the only effect; when no lane fails but a translation is missing, the class waits and nothing
else happens. That a failing lane traps the class while a lower lane's translation waits is the model's choice (log 68). -/
def Obligations.AccessIsPrecise : Prop := ∀ (i : Instr) (m : MemUse) (b : Bool) (more : HEntry → Nat → List Reg → Spot → LaneFate)
    (s : State) (hx : Nat) (e : HEntry),
  s.checkedUses i = some (m, b, more) → s.MemReady m → s.openHandle m.ask (s.uniformAccess m) = .ok hx e →
  let taken := s.take s.ix.slot (m.usesOf (.ok hx e)).srcs
  let fate (l : Nat) : LaneFate :=
    let ws := taken.2.srcWords taken.1 l
    match s.checkLane m.ask e l (ws.headD []) (b && ((ws.drop 1).headD []).any (fun w => w.poison)) with
    | .ok q => more e l (ws.headD []) q
    | f => f
  let lanes := if s.uniformAccess m then [s.lowest] else s.ix.lanes
  (∀ n tr, n < lanes.length → fate (lanes.getD n 0) = .trap tr → (∀ k < n, ∀ tr', fate (lanes.getD k 0) ≠ .trap tr') →
    exec i s = .next ((s.clearWaits s.me).takeTrap tr)) ∧
  ((∀ l ∈ lanes, ∀ tr, fate l ≠ .trap tr) → (∃ l ∈ lanes, ∃ va lv c, fate l = .wait va lv c) →
    exec i s = .next (s.waitLanes m.ask.need (lanes.filterMap (fun l => match fate l with
      | .wait va lv c => some (va, lv, c)
      | _ => none))))

/-- R166, R184, R190, R191: the frame of a store to local memory: a byte of local memory outside the bytes its lanes store, in any
core, reads as before, and so does every byte of physical memory; a byte of the last lane's own store reads as that lane's data
(no monitor watches a poisoned word beforehand: one that does raises POISON in its own group, R213). And the frame of every
memory instruction when its access passes. A store, an ATOM or a RED on LOCAL changes no byte outside the bytes its lanes name
in the core's local memory (no monitor is armed: one may wake or trap its own group); every other one, a load, a CACHE function,
WAITC, RCLOSE, a remote access or an access outside LOCAL, changes no byte of memory at its issue (a store is performed at its
home later, see WritesReachTheirHomes). An ATOM or a load may push into a ring, whose bytes change, and a read of a line that a rope protects may mend it (R349). -/
def Obligations.MemoryFrames : Prop :=
  (∀ (s : State) (core : Nat) (ws : List (Nat × List Byte)),
  (∀ hit, s.poisonedWatches hit = []) →
  let t := s.putLocal core ws
  (∀ c off, (c ≠ core ∨ ∀ w ∈ ws, off < w.1 ∨ w.1 + w.2.length ≤ off) → t.locByte c off = s.locByte c off) ∧
  (∀ pa, t.byte pa = s.byte pa) ∧
  (∀ w, ws.getLast? = some w → ∀ k < w.2.length, t.locByte core (w.1 + k) = w.2.getD k 0)) ∧
  (∀ (i : Instr) (m : MemUse) (b : Bool) (more : HEntry → Nat → List Reg → Spot → LaneFate) (s t s' : State) (p : Passed),
  s.checkedUses i = some (m, b, more) → s.Issues → s.checked m b more = .go p t → s.Uncounted → s.Unrepaired → s.Pushable (m.uses .word) →
  exec i s = .next s' →
  let pushed (c off : Nat) := s.pushes (m.uses .word) c off
  let stored (c off : Nat) := c = s.ix.slot / 144 ∧ ∃ q ∈ p.spots, q.start ≤ off ∧ off < q.start + q.size
  ((p.entry.space = 1 ∧ storesLocal i = true → s.Unwatched) → sameHome s s') ∧
  (p.entry.space = 1 → storesLocal i = true → s.Unwatched →
    ∀ c off, ¬ stored c off → ¬ pushed c off → s'.locByte c off = s.locByte c off) ∧
  (p.entry.space ≠ 1 ∨ storesLocal i = false → ∀ c off, ¬ pushed c off → s'.locByte c off = s.locByte c off))

/-! ### Control instructions -/

/-- R30, R257, R258, R226, R228: a branch whose condition words carry no poison completes: each lane of the class goes to the
target or to the next word by its own condition, with its taken-branch run kept as R258 says; B and B.S are always taken.
The lanes of the class that have just taken a backward branch park at their target when the run of one of them has reached
65,536 and another lane is a candidate. That only the lanes which took the branch park, where R228 speaks of the lanes of the
class, is the model's choice (log 32). -/
def Obligations.BranchesComplete : Prop := ∀ (a : Src) (o : BitVec 16) (s : State),
  let target_ := addrOf (3 * (s.ix.pc.toNat / 16 : Nat) + (s.ix.pc.toNat % 16 / 4 : Nat) + o.toInt)
  let next := addrOf (3 * (s.ix.pc.toNat / 16 : Nat) + (s.ix.pc.toNat % 16 / 4 : Nat) + 1)
  let back := decide (o.toInt ≤ 0)
  let went (t : State) (spin : Bool) (taken : Nat → Bool) : State :=
    t.modCur (fun g => g.modLanes s.ix.lanes (fun l x => branched x (taken l) back spin target_ next))
  let ends (t : State) (spin : Bool) (taken : Nat → Bool) : State :=
    if back && !spin then (went t spin taken).autoPark (s.ix.lanes.filter taken) else went t spin taken
  (s.stopped = false →
    exec (.b o) s = .next (ends s false (fun _ => true)) ∧ exec (.bS o) s = .next (ends s true (fun _ => true))) ∧
  let r := s.take s.ix.slot (jumpUse a .word).srcs
  let cond (l : Nat) : Reg := ((r.2.srcWords r.1 l).headD []).headD Reg.zero
  (s.Ready (jumpUse a .word) → (∀ l ∈ s.ix.lanes, (cond l).poison = false) →
    exec (.bz a o) s = .next (ends r.2 false (fun l => decide ((cond l).bits = 0))) ∧
    exec (.bnz a o) s = .next (ends r.2 false (fun l => decide ((cond l).bits ≠ 0))) ∧
    exec (.bltz a o) s = .next (ends r.2 false (fun l => decide ((cond l).bits.toInt < 0))) ∧
    exec (.bgez a o) s = .next (ends r.2 false (fun l => decide (0 ≤ (cond l).bits.toInt))) ∧
    exec (.bzS a o) s = .next (ends r.2 true (fun l => decide ((cond l).bits = 0))) ∧
    exec (.bnzS a o) s = .next (ends r.2 true (fun l => decide ((cond l).bits ≠ 0)))) ∧
  (s.Ready (jumpUse a .word) → ∀ n, n < s.ix.lanes.length → (cond (s.ix.lanes.getD n 0)).poison = true →
    (∀ k < n, (cond (s.ix.lanes.getD k 0)).poison = false) →
    let trap := s.takeTrap { cause := 0x0A, xval := 0, pc := s.ix.pc, lane := s.ix.lanes.getD n 0, xaddr := 0 }
    exec (.bz a o) s = .next trap ∧ exec (.bnz a o) s = .next trap ∧ exec (.bltz a o) s = .next trap ∧
    exec (.bgez a o) s = .next trap ∧ exec (.bzS a o) s = .next trap ∧ exec (.bnzS a o) s = .next trap)

/-- R259 to R262: CALL, and CALLR from a register or literal pair whose targets are legal and not poisoned, complete when no
lane's link stack is full, every entry's store passes R189 and the store queue has room: each lane's sequential successor is
stored at its link stack's top, its depth rises by 1, its link-stack pointer by 8, and it goes to its target. -/
def Obligations.CallsComplete : Prop := ∀ (a : Src) (o : BitVec 24) (s : State) (spots : List Spot) (e : HEntry), s.stopped = false →
  (∀ l ∈ s.ix.lanes, (s.cur.lane l).depth ≠ BitVec.allOnes 16 ∧
    (s.cur.lane l).lsp.toNat + 8 ≤ (s.team s.cur.team).hdr.stackB) →
  s.StackOk .write (fun x => x.lsp.toNat) spots e → s.cur.storeQ.length < 64 →
  let h := (s.launch (s.team s.cur.team).lid).stackH
  let pushedTo (t : Nat → DWord) : State :=
    ((s.settleStack .write h e spots).send none (spots.map (fun p =>
      { lane := p.lane, at_ := p.at_, va := p.va, prot := p.leaf.testBit 6, repl := p.leaf.testBit 7,
        act := .store p.start (leBytes 8 (nextPc s.ix.pc).toNat) }))).modCur
      (fun g => g.modLanes s.ix.lanes (fun l x =>
        { x with pc := t l, depth := x.depth + 1, lsp := x.lsp + 8, chain := false, sleep := .awake }))
  exec (.call o) s = .next (pushedTo (fun _ => target s.ix.pc o.toInt)) ∧
  let pair (l : Nat) : List Reg := gotWords s.cur s.ix.lit .pair (.reg a) l
  (s.heldBy (jumpUse a .pair) = none → (∀ l ∈ s.ix.lanes, (pair l).any (fun w => w.poison) = false ∧
      (wordsVal (pair l)).toNat % 4 = 0 ∧ (wordsVal (pair l)).toNat % 16 ≠ 12) →
    exec (.callr a) s = .next (pushedTo (fun l => wordsVal (pair l))))

/-- R260, R262, R263, R311: the stack traps and the traps of jumps. A call in a lane whose depth is 65,535, or whose link stack has
no room, raises STACK (0x0B) with reason 1 or 2, RET and XRET in a lane of depth 0 with reason 3, naming the lowest such lane; no
return address is stored and no lane moves. CALLR and JR first raise POISON (0x0A) for a poisoned pair, then MISALIGN (0x06), with
the low word of the address, for a pair that no program counter may hold; XRET raises MISALIGN for such an sr.xpc. (RET's entry
is read first: see AccessesReturn.) -/
def Obligations.StackTraps : Prop := ∀ (o : BitVec 24) (a : Src) (s : State) (l : Nat), s.stopped = false → l ∈ s.ix.lanes →
  let named (bad : Nat → Bool) := s.ix.lanes.find? bad = some l
  let lowest (bad : Lane → Bool) := named (fun k => bad (s.cur.lane k))
  let trap (cause : Nat) (xval : Word) (xaddr : DWord) : Host.Outcome State Fault Refusal :=
    .next (s.takeTrap { cause := cause, xval := xval, pc := s.ix.pc, lane := l, xaddr := xaddr })
  let stack (reason : Nat) (xaddr : DWord) := trap 0x0B (BitVec.ofNat 32 (reason * 2 ^ 30 + (s.cur.lane l).depth.toNat)) xaddr
  let deepest (i : Instr) : Prop :=
    (lowest (fun x => x.depth == BitVec.allOnes 16) → exec i s = stack 1 0) ∧
    ((∀ k ∈ s.ix.lanes, (s.cur.lane k).depth ≠ BitVec.allOnes 16) →
      lowest (fun x => decide ((s.team s.cur.team).hdr.stackB < x.lsp.toNat + 8)) →
      exec i s = stack 2 (BitVec.ofNat 64 (s.regionVa l (s.cur.lane l).lsp.toNat)))
  let pair (k : Nat) : List Reg := gotWords s.cur s.ix.lit .pair (.reg a) k
  let tagged (k : Nat) : Bool := (pair k).any (fun w => w.poison)
  let crooked (x : DWord) : Bool := x.toNat % 4 != 0 || x.toNat % 16 == 12
  deepest (.call o) ∧
  (s.heldBy (jumpUse a .pair) = none →
    (named tagged → exec (.callr a) s = trap 0x0A 0 0 ∧ exec (.jr a) s = trap 0x0A 0 0) ∧
    ((∀ k ∈ s.ix.lanes, tagged k = false) → named (fun k => crooked (wordsVal (pair k))) →
      exec (.callr a) s = trap 0x06 ((wordsVal (pair l)).setWidth 32) 0 ∧
      exec (.jr a) s = trap 0x06 ((wordsVal (pair l)).setWidth 32) 0) ∧
    ((∀ k ∈ s.ix.lanes, tagged k = false ∧ crooked (wordsVal (pair k)) = false) → deepest (.callr a))) ∧
  (lowest (fun x => x.depth == 0) → exec .ret s = stack 3 0 ∧ exec .xret s = stack 3 0) ∧
  ∀ spots e, (∀ k ∈ s.ix.lanes, (s.cur.lane k).depth ≠ 0) → s.StackOk .read (fun x => x.lsp.toNat - 8) spots e → s.lowest = l →
    crooked s.cur.xpc = true → exec .xret s = trap 0x06 (s.cur.xpc.setWidth 32) 0

/-- R262, R263, R311: JR to legal targets without poison moves each lane there; RET and XRET with an entry in every lane whose
load passes R189 open that load (RET once no pending write of its group to the entries is left, XRET only toward a legal
sr.xpc), for which the class waits. A JR to its own or a lower address counts as a taken backward branch: lanes park at its target as at a
branch's, only those that jumped back, which is the model's choice (log 32). -/
def Obligations.JumpsAndReturnsComplete : Prop := ∀ (a : Src) (s : State) (spots : List Spot) (e : HEntry), s.stopped = false →
  let pair (l : Nat) : List Reg := gotWords s.cur s.ix.lit .pair (.reg a) l
  let back (l : Nat) : Bool := decide ((wordsVal (pair l)).toNat ≤ s.ix.pc.toNat)
  let opened (k : LoadKind) : State :=
    (s.settleStack .read (s.launch (s.team s.cur.team).lid).stackH e spots).startLoad k [] false 7 e.policy spots
  (s.heldBy (jumpUse a .pair) = none → (∀ l ∈ s.ix.lanes, (pair l).any (fun w => w.poison) = false ∧
      (wordsVal (pair l)).toNat % 4 = 0 ∧ (wordsVal (pair l)).toNat % 16 ≠ 12) →
    exec (.jr a) s = .next ((s.modCur (fun g => g.modLanes s.ix.lanes (fun l x =>
      { x with pc := wordsVal (pair l), chain := false, sleep := .awake,
               run := if back l then min (x.run + 1) 65536 else x.run }))).autoPark (s.ix.lanes.filter back))) ∧
  ((∀ l ∈ s.ix.lanes, (s.cur.lane l).depth ≠ 0) → s.StackOk .read (fun x => x.lsp.toNat - 8) spots e →
    ((∀ p ∈ spots, ∀ q ∈ p.at_, mustWait (s.pendingWrites s.ix.slot) p.lane q = false) → exec .ret s = .next (opened .ret)) ∧
    (s.cur.xpc.toNat % 4 = 0 → s.cur.xpc.toNat % 16 ≠ 12 → exec .xret s = .next (opened (.xret s.cur.xpc))))

/-- R264, R265, R266, R235, R236: EXIT ends the lanes of the class; YIELD goes on when the counter is at or below the threshold,
else sleeps until it is; BAR and BAR.ARR arrive at a barrier, BAR to wait for it, and BAR.WAIT waits for the arrivals of its
lanes that have not completed; the barriers of the team complete when every lane has arrived or exited.
R235, R237: a barrier of a team completes exactly when every lane of its resident groups that has not exited has arrived, some
lane has, and every group's writes before its arrivals are acknowledged: the arrivals are cleared, the generation counts up, and
a lane that waits for it goes past its word. That a generation with no arrival does not complete, and that a lane asleep for its
second arrival wakes at its BAR and issues it again, are the model's choices (log 14). -/
def Obligations.ExitYieldBarriers : Prop :=
  (∀ (t : Fin 32) (k : Fin 8) (i : BitVec 16) (n : Fin 16) (s : State), s.stopped = false →
  let class_ (f : Lane → Lane) : State := s.modCur (fun g => g.modLanes s.ix.lanes (fun _ x => f x))
  let marked (t : State) : State := t.modCur (fun g => { g with arrSeq := mset g.arrSeq n.val s.seq })
  let arrived (x : Lane) : Lane := { x with arrived := x.arrived ||| BitVec.twoPow 16 n.val, chain := false }
  let again (x : Lane) : Lane := { x with sleep := .barAgain n.val, chain := false }
  exec .exit s = .next ((class_ (fun x => { x with exited := true, chain := false, sleep := .awake })).barriersCheck s.cur.team) ∧
  (s.cur.kget k.val ≤ t.val → exec (.yield t k i) s = .next (s.moveTo (target s.ix.pc i.toInt))) ∧
  (t.val < s.cur.kget k.val →
    exec (.yield t k i) s = .next (class_ (fun x => { x with sleep := .yield k.val t.val (target s.ix.pc i.toInt) }))) ∧
  exec (.bar n) s = .next ((marked (class_ (fun x => if x.arrived.getLsbD n.val then again x
    else { arrived x with sleep := .barWait n.val }))).barrierCheck s.cur.team n.val) ∧
  exec (.barArr n) s = .next ((marked (class_ (fun x => if x.arrived.getLsbD n.val then again x
    else { arrived x with sleep := .awake, pc := nextPc x.pc }))).barrierCheck s.cur.team n.val) ∧
  exec (.barWait n) s = .next (class_ (fun x => if x.arrived.getLsbD n.val
    then { x with sleep := .barWait n.val, chain := false } else { x with sleep := .awake, pc := nextPc x.pc, chain := false }))) ∧
  (∀ (s : State) (team n : Nat), n < 16 →
  let gs := (s.groups.filter (fun e => e.2.team == team)).map (fun e => e.2)
  let full := ∀ g ∈ gs, ∀ x ∈ g.lanes, x.exited = true ∨ x.arrived.getLsbD n = true
  let some_ := ∃ g ∈ gs, ∃ x ∈ g.lanes, x.arrived.getLsbD n = true
  let released := ∀ e ∈ s.groups, e.2.team = team →
    let before := sget 0 (s.group e.1).arrSeq n
    (∀ w ∈ (s.group e.1).storeQ, before ≤ w.id) ∧ (∀ w ∈ s.flight, w.slot = e.1 → before ≤ w.id) ∧
      ∀ a ∈ s.acks, a.slot = e.1 → before ≤ a.id
  (¬ (full ∧ some_ ∧ released) → s.barrierCheck team n = s) ∧
  (full → some_ → released → ∀ slot g, mget? s.groups slot = some g → g.team = team → ∀ l, l < g.lanes.length →
    let x := g.lane l
    let y := ((s.barrierCheck team n).group slot).lane l
    y.arrived.getLsbD n = false ∧ (∀ m, m < 16 → m ≠ n → y.arrived.getLsbD m = x.arrived.getLsbD m) ∧
    (x.sleep = .barWait n → y.sleep = .awake ∧ y.pc = nextPc x.pc) ∧
    (x.sleep = .barAgain n → y.sleep = .awake ∧ y.pc = x.pc)))

/-! ### Traps -/

/-- R308, R259: taking a trap in a launch with a vector, when no lane's link stack is full, every entry's store passes and the
store queue has room:
the five trap registers of the group record it; in each lane of the class the recorded pc is pushed (stored on its way to
memory at the lane's link-stack pointer, depth + 1, pointer + 8), the taken-branch run is cleared and the lane stands awake
at the vector. Lanes outside the class, their registers and every other group stay as they were. -/
def Obligations.TrapEntry : Prop := ∀ (s : State) (t : Trap) (v : DWord) (spots : List Spot) (e : HEntry), s.Issues →
  (s.launch (s.team s.cur.team).lid).vector = some v →
  (∀ l ∈ s.ix.lanes, (s.cur.lane l).depth ≠ BitVec.allOnes 16 ∧
    (s.cur.lane l).lsp.toNat + 8 ≤ (s.team s.cur.team).hdr.stackB) →
  s.StackOk .write (fun x => x.lsp.toNat) spots e → s.cur.storeQ.length < 64 →
  let u := s.takeTrap t
  u.cur.xcause = BitVec.ofNat 32 t.cause ∧ u.cur.xval = t.xval ∧ u.cur.xpc = t.pc ∧ u.cur.xlane = BitVec.ofNat 32 t.lane ∧
  u.cur.xaddr = t.xaddr ∧
  (∀ l ∈ s.ix.lanes, (u.cur.lane l).pc = v ∧ (u.cur.lane l).depth = (s.cur.lane l).depth + 1 ∧
    (u.cur.lane l).lsp = (s.cur.lane l).lsp + 8 ∧ (u.cur.lane l).sleep = .awake ∧ (u.cur.lane l).run = 0 ∧
    (u.cur.lane l).v = (s.cur.lane l).v) ∧
  (∀ l, l ∉ s.ix.lanes → u.cur.lane l = s.cur.lane l) ∧
  u.cur.s = s.cur.s ∧ u.cur.fflags = s.cur.fflags ∧ u.cur.prio = s.cur.prio ∧ u.cur.k = s.cur.k ∧
  (∀ p ∈ spots, ∃ w ∈ u.cur.storeQ, ∃ op ∈ w.ops, op.lane = p.lane ∧ op.act = .store p.start (leBytes 8 t.pc.toNat)) ∧
  (∀ n, n ≠ s.ix.slot → u.group n = s.group n) ∧ (s.Unrepaired → sameMemory s u)

/-- R308, R309: a trap in a launch without a vector, or in a lane whose link stack cannot take an entry, ends the group: its
trap registers record it, every lane exits, its deferred traps are dropped, the launch notes a failure with status 5. -/
def Obligations.TrapEndsGroup : Prop := ∀ (s : State) (t : Trap), s.Issues →
  (s.launch (s.team s.cur.team).lid).vector = none ∨
    (∃ l ∈ s.ix.lanes, (s.cur.lane l).depth = BitVec.allOnes 16 ∨
      (s.team s.cur.team).hdr.stackB < (s.cur.lane l).lsp.toNat + 8) →
  let u := s.takeTrap t
  u.cur.xcause = BitVec.ofNat 32 t.cause ∧ u.cur.xval = t.xval ∧ u.cur.xpc = t.pc ∧ u.cur.xlane = BitVec.ofNat 32 t.lane ∧
  u.cur.xaddr = t.xaddr ∧ u.cur.trapped = true ∧ u.cur.deferred = [] ∧ u.cur.loads = [] ∧
  (∀ x ∈ u.cur.lanes, x.exited = true) ∧ (u.team s.cur.team).failed = true ∧
  (∀ l, mget? s.launches (s.team s.cur.team).lid = some l →
    (u.launch (s.team s.cur.team).lid).fail.isSome = true ∧
    (l.fail = none → (u.launch (s.team s.cur.team).lid).fail = some (5, (s.team s.cur.team).t)))

/-- R310, R311, R256: TRAP and BKPT take their trap: the pushed and recorded address is the sequential successor; TRAP (0x10)
records its operand, a poisoned operand raises POISON instead; BKPT (0x11) records 0. -/
def Obligations.SoftwareTraps : Prop := ∀ (a : Src) (s : State),
  let next := addrOf (3 * (s.ix.pc.toNat / 16 : Nat) + (s.ix.pc.toNat % 16 / 4 : Nat) + 1)
  let v := ((s.srcWords (s.take s.ix.slot (jumpUse a .word).srcs).1 s.lowest).headD []).headD Reg.zero
  (s.Ready (jumpUse a .word) → v.poison = false →
    exec (.trap a) s = .next (s.takeTrap { cause := 0x10, xval := v.bits, pc := next, lane := s.lowest, xaddr := 0 })) ∧
  (s.Ready (jumpUse a .word) → v.poison = true →
    exec (.trap a) s = .next (s.takeTrap { cause := 0x0A, xval := 0, pc := s.ix.pc, lane := s.lowest, xaddr := 0 })) ∧
  (s.stopped = false →
    exec .bkpt s = .next (s.takeTrap { cause := 0x11, xval := 0, pc := next, lane := s.lowest, xaddr := 0 }))

/-! ### Fences, engine commands, tasks, handles -/

/-- R208, R224: FENCE completes: ACQ goes on at once; every other kind leaves its class asleep at the fence until its release is
complete; SURVIVE (0x12) is raised at once at survivable scope where the lanes wrote a line no rope can take (R209).
R172, R174, R175, R170: a sleeping class's fence up to pod scope completes once every write of its group before the fence is
acknowledged, the clock of its die has passed the horizon of the scope (die, device, pod) and the write-visible times the module
had heard of when the fence began, and at pod scope no earlier remote access of its domain is open; an SC fence of die scope or
wider also waits 16 ticks and leaves its time in its lanes. Its lanes go on past it, awake; until then nothing changes. At system
scope, beyond all that, every dirty line of host memory has gone to the host (R172, R180). At survivable scope, beyond that again,
a line that its rope cannot take raises SURVIVE at the fence; a line of the lanes that is dirty is written back; the fence
goes on waiting while a delta of a written line's rope to a holder not lost, or a flush of the lanes, is open, and completes
when none is (R182, R209, R347, R348). R206: the refusal of an RST at a group with a class at such a fence of pod scope or
wider raises PEER (0x0F; MOVED 0x13 for a lost page) precisely there. That a release counts every time the module has heard, that
the SC time is that of the group's own die, and that a pod release waits for the remote accesses of every group of its domain,
are the model's choices (logs 66, 71 and 81). -/
def Obligations.Fences : Prop :=
  (∀ (eng : Bool) (k : FenceKind) (sc : Scope) (s : State), s.stopped = false →
  let sleeps : State := { s.modCur (fun g => g.modLanes s.ix.lanes (fun _ x =>
    { x with sleep := .fence { eng := eng, kind := k, scope := sc, seq := s.seq, since := none, heard := s.heard }, chain := s.ix.chain })) with seq := s.seq + 1 }
  (k = .acq → exec (.fence eng k sc) s = .next s.advance) ∧
  (k ≠ .acq → (sc = .survivable → s.unsurvivable s.ix.slot s.ix.lanes = none) → exec (.fence eng k sc) s = .next sleeps) ∧
  (k ≠ .acq → sc = .survivable → ∀ w, s.unsurvivable s.ix.slot s.ix.lanes = some w →
    exec (.fence eng k sc) s =
      .next (s.takeTrap { cause := 0x12, xval := 0, pc := s.ix.pc, lane := s.lowest, xaddr := BitVec.ofNat 64 w.va }))) ∧
  (∀ (g l : Nat) (s : State) (lanes : List Nat) (f : FenceWait), s.stopped = false →
  (s.group g).fences.find? (fun e => e.1.contains l) = some (lanes, f) →
  let x := s.group g
  let now := s.dieTime (g / 144 / 72)
  let acked := (∀ w ∈ x.storeQ, f.seq ≤ w.id) ∧ (∀ w ∈ s.flight, w.slot = g → f.seq ≤ w.id) ∧
    ∀ a ∈ s.acks, a.slot = g → f.seq ≤ a.id
  let mine := if g / 144 / 72 = 0 then f.heard.same0 else f.heard.same1
  let seen := (f.scope ∉ [.group, .team] → max x.horDie mine < now) ∧
    (f.scope ∉ [.group, .team, .die] → max x.horDev f.heard.all < now) ∧
    (f.scope ∈ [.pod, .system, .survivable] → max x.horPod f.heard.pod < now ∧ ∀ r ∈ s.remote, ∀ k lanes window off op n,
      r.kind = .access k lanes window off op n → s.groupDom (s.group k) = s.groupDom x → f.seq < r.seq)
  let sc := f.kind = .sc ∧ f.scope ∉ [.group, .team]
  let own (k : Nat) := k ∈ lanes ∨ k = uniformLane
  let done (u : State) : State := u.modGroup g (fun y =>
    let y := y.modLanes lanes (fun _ z =>
      { z with sleep := .awake, pc := nextPc z.pc, scAfter := if f.kind = .sc ∧ f.scope ∉ [.group, .team] then max z.scAfter now else z.scAfter })
    if f.scope = .survivable then { y with written := y.written.filter (fun w => !(lanes.contains w.lane || w.lane == uniformLane)) } else y)
  let goes (u : State) : Prop :=
    (¬ sc → exec (.fenceComplete g l) s = .next (done u)) ∧
    (sc → f.since = none → exec (.fenceComplete g l) s = .next (u.modGroup g (fun y => y.modLanes lanes (fun _ z =>
      { z with sleep := .fence { f with since := some s.time } })))) ∧
    (sc → ∀ t0, f.since = some t0 →
      exec (.fenceComplete g l) s = .next (if t0 + 16 ≤ s.time then done u else u))
  (¬ (acked ∧ seen) → exec (.fenceComplete g l) s = .next s) ∧
  (acked → seen → f.scope ∉ [.system, .survivable] → goes s) ∧
  (acked → seen → f.scope ∈ [.system, .survivable] → ∃ u : State,
    (u = { s with dirty := u.dirty, outbox := u.outbox } ∧ (∀ e ∈ u.dirty, isHost (128 * e.1) = false) ∧
      (∀ n, isHost (128 * n) = false → mget? u.dirty n = mget? s.dirty n) ∧
      ∃ sent, u.outbox = s.outbox ++ sent ∧ ∀ e ∈ s.dirty, isHost (128 * e.1) = true → Msg.hostWriteBack e.1 (s.line e.1) ∈ sent) ∧
    (f.scope = .system → goes u) ∧
    (f.scope = .survivable →
      let v := u.modGroup g (fun y => { y with peered := y.peered.filter (fun p => !(lanes.contains p.lane || p.lane == uniformLane)) })
      let home (n : Nat) : Nat := lineOf (u.locate (128 * n))
      (∀ w, u.unsurvivable g lanes = some w → exec (.fenceComplete g l) s = .next (u.trapAsleep g lanes
        { cause := 0x12, xval := 0, pc := (x.lane (lanes.headD 0)).pc, lane := lanes.headD 0, xaddr := BitVec.ofNat 64 w.va })) ∧
      (u.unsurvivable g lanes = none → (∀ r ∈ s.remote, r.sent = true) → (∀ p ∈ x.peered, ¬ own p.lane) →
        let unanswered := ∃ r ∈ s.remote, (∃ k ps, own k ∧ r.kind = .flush g k ps) ∨
          ∃ w ∈ x.written, own w.lane ∧ ∃ dom n p y, s.protectedAt w.line = some (dom, n) ∧ r.kind = .delta dom p y ∧
            (s.dom dom).rope.lost.getLsbD p = false
        ((∀ w ∈ x.written, own w.lane → mget? u.dirty (home w.line) = none) →
          (unanswered → exec (.fenceComplete g l) s = .next v) ∧ (¬ unanswered → goes v)) ∧
        (∀ n, (∀ w ∈ x.written, own w.lane → w.line = n) → (∃ w ∈ x.written, own w.lane) → isHost (128 * home n) = false →
          s.protectedAt n = none → s.protectedAt (lineOf (u.homeOf (128 * home n))) = none →
          (∀ e ∈ s.doms, e.2.crnOn = false ∧ e.2.mig0.move = none ∧ e.2.mig1.move = none) →
          (∀ k ps, ∀ r ∈ s.remote, own k → r.kind ≠ .flush g k ps) → ¬ sc →
          Reaches (.fenceComplete g l) s (fun t => mget? t.dirty (home n) = none ∧
            ∀ k ∈ lanes, ((t.group g).lane k).sleep = .awake ∧ ((t.group g).lane k).pc = nextPc (x.lane k).pc)))))) ∧
  (∀ (s : State) (a : PeerReply) (o : OutReq) (slot w off : Nat) (by_ lanes : List Nat) (op : PeerOp) (f : FenceWait), s.stopped = false →
  s.findReq a.target a.id = some o → o.kind = .access slot by_ w off op none → a.reason ≠ 0 →
  (s.group slot).fences = [(lanes, f)] → f.kind ≠ .acq → f.scope ∈ [.pod, .system, .survivable] →
  exec (.rstRefusal a) s = .next (((s.dropReq o.target o.id).trapAsleep slot lanes {
    cause := if a.reason = 0x100 then 0x13 else 0x0F
    xval := BitVec.ofNat 32 (if a.reason = 0x100 then 0x30E else a.reason * 2 ^ 24 + o.target % 1024)
    pc := ((s.group slot).lane (lanes.headD 0)).pc
    lane := lanes.headD 0
    xaddr := BitVec.ofNat 64 off }).releaseHeld))

/-- R138 to R142, R148, R214, R215, R250: an engine command whose checks pass, with room and its counter below 255, is accepted
and changes nothing else (`Accepts` lists the frame): its work is the engine's, later. -/
def Obligations.EngineCommandsAccepted : Prop := ∀ (notrap record nullidx : Bool) (k : Fin 8) (a : Fin 16) (s : State), s.Issues →
  (s.EngineFree k record false →
    (∀ c, s.copyCheck (s.params a) = .ok c → Accepts (.xcopy notrap record k a) s .xcopy k record notrap false a) ∧
    (∀ c, s.gatherCheck 1 2 (s.params a) = .ok c →
      Accepts (.xgather notrap record nullidx k a) s .xgather k record notrap nullidx a) ∧
    (∀ c, s.gatherCheck 2 1 (s.params a) = .ok c →
      Accepts (.xscatter notrap record nullidx k a) s .xscatter k record notrap nullidx a) ∧
    (∀ es, s.engineCheck (s.params a) (encTermChecks (s.params a)) (encTermExtents (s.params a)) = .ok es →
      Accepts (.xencTerm notrap record k a) s .xencTerm k record notrap false a) ∧
    (∀ es, s.engineCheck (s.params a) (encBlockChecks (s.params a)) (encBlockExtents (s.params a)) = .ok es →
      Accepts (.xencBlock notrap record k a) s .xencBlock k record notrap false a) ∧
    (∀ es, s.engineCheck (s.params a) (decTermChecks (s.params a)) (decTermExtents (s.params a)) = .ok es →
      Accepts (.xdecTerm notrap record k a) s .xdecTerm k record notrap false a) ∧
    (∀ es, s.engineCheck (s.params a) (decBlockChecks (s.params a)) (decBlockExtents (s.params a)) = .ok es →
      Accepts (.xdecBlock notrap record k a) s .xdecBlock k record notrap false a)) ∧
  (s.EngineFree k record true →
    (∀ es, s.engineCheck (s.params a) (taskChecks false (s.team s.cur.team).tiles.length (s.params a)) (taskExtents (s.params a)) = .ok es →
      Accepts (.mtask notrap record k a) s .mtask k record notrap false a) ∧
    (∀ es, s.engineCheck (s.params a) (taskChecks true (s.team s.cur.team).tiles.length (s.params a)) (taskExtents (s.params a)) = .ok es →
      Accepts (.mtaskStream notrap record k a) s .mtaskStream k record notrap false a))

/-- R140, R255: at the issue of an engine command in no drain, the lowest poisoned parameter word raises POISON (0x0A) with
256 times its number in sr.xval, else the first field out of its range raises ENGINE (0x0C) with
the number again and status FIELD (1). -/
def Obligations.EngineFieldTraps : Prop := ∀ (notrap record nullidx : Bool) (k : Fin 8) (a : Fin 16) (s : State), s.stopped = false →
  s.drained s.cur = false →
  let ps := s.params a
  FieldTraps (.xcopy notrap record k a) s ps (copyFields ps) ∧
  FieldTraps (.xgather notrap record nullidx k a) s ps (gatherFields ps) ∧
  FieldTraps (.xscatter notrap record nullidx k a) s ps (gatherFields ps) ∧
  FieldTraps (.xencTerm notrap record k a) s ps (encTermChecks ps).fields ∧
  FieldTraps (.xencBlock notrap record k a) s ps (encBlockChecks ps).fields ∧
  FieldTraps (.xdecTerm notrap record k a) s ps (decTermChecks ps).fields ∧
  FieldTraps (.xdecBlock notrap record k a) s ps (decBlockChecks ps).fields ∧
  FieldTraps (.mtask notrap record k a) s ps (taskChecks false (s.team s.cur.team).tiles.length ps).fields ∧
  FieldTraps (.mtaskStream notrap record k a) s ps (taskChecks true (s.team s.cur.team).tiles.length ps).fields

/-- R238, R241, R267 to R269: SPAWN with sound parameter words, its counter below 255 and room for a record completes: with
room in the core's task queue the task joins it with status 0; else, with room in the overflow ring and its entry and tail
written, it joins the ring with status 1; else, with the ring full and no stall asked, it
reports status 2 and counts nothing. The status is written to the parameter block's last word. -/
def Obligations.SpawnCompletes : Prop := ∀ (record stall : Bool) (k : Fin 8) (a : Fin 16) (s : State), s.Issues → s.stopped = false →
  s.drained s.cur = false →
  let w (j : Nat) : Nat := (s.cur.sget (8 * a.val + j)).bits.toNat
  let core := s.ix.slot / 144
  let l := s.launch (s.team s.cur.team).lid
  (∀ j < 7, (s.cur.sget (8 * a.val + j)).poison = false) →
  (w 0 % 16 = 0 ∧ w 1 < 2 ^ 25 ∧ w 2 % 4 = 0 ∧ w 3 < 2 ^ 25 ∧ w 4 = 0 ∧ w 5 = 0 ∧ w 6 = 0) →
  s.cur.kget k.val ≠ 255 → (record = true → s.cur.q14.tags.length + s.cur.q14res + s.cur.owes 14 + 4 ≤ 16) →
  ((s.core core).tasks.length < 64 → ∃ t q, exec (.spawn record stall k a) s = .next t ∧
    (t.core core).tasks = (s.core core).tasks ++ [q] ∧ q.khdr = w 0 + 2 ^ 32 * w 1 ∧ q.arga = w 2 + 2 ^ 32 * w 3 ∧
    q.lid = (s.team s.cur.team).lid ∧ q.join.spawner = s.ix.slot ∧ q.join.ctr = k.val ∧ q.join.record = record ∧
    t.cur.kget k.val = s.cur.kget k.val + 1 ∧ t.cur.q14res = s.cur.q14res + (if record then 4 else 0) ∧
    t.cur.sget (8 * a.val + 7) = Reg.of 0) ∧
  (64 ≤ (s.core core).tasks.length → l.ringTail - l.ringHead < l.ovfn → ∀ u v,
    let q := s.newTask (s.params a) record k.val true
    let die := core / 72
    s.tWrite s.me die l.dom l.space (l.area + 64 + 64 * (l.ringTail % l.ovfn)) (ringEntry q s.ix.slot) = .ok u →
    u.tWrite s.me die l.dom l.space (l.area + 8) (leBytes 8 (l.ringTail + 1)) = .ok v →
    ∃ t, exec (.spawn record stall k a) s = .next t ∧ (∀ pa, t.byte pa = v.byte pa) ∧
      (t.launch (s.team s.cur.team).lid).ringTail = l.ringTail + 1 ∧
      mget? (t.launch (s.team s.cur.team).lid).ringInfo l.ringTail = some q ∧ t.cur.kget k.val = s.cur.kget k.val + 1 ∧
      t.cur.sget (8 * a.val + 7) = Reg.of 1) ∧
  (64 ≤ (s.core core).tasks.length → l.ovfn ≤ l.ringTail - l.ringHead → stall = false →
    ∃ t, exec (.spawn record stall k a) s = .next t ∧ t.cores = s.cores ∧ t.cur.kget k.val = s.cur.kget k.val ∧
      t.cur.sget (8 * a.val + 7) = Reg.of 2)

/-- R155, R158, R125, R159: MBOUND writes the bound of the task that its parameter words describe, or 0 for one that R155
refuses; XSTAT writes, by its function, the first failed command's record word, the number of failed commands, or the sum of
the eight counters, and the first also clears both. Each completes unless its group is drained. R123 to R125: a task's counted cycles
never exceed the bound; without slack a term group's are the sum of each element's greatest count and the block closes; they are never
below a lane's own terms; and more slack never raises them. -/
def Obligations.BoundAndStatus : Prop :=
  (∀ (d : Fin 128) (a : Fin 16) (m : Bool) (f : Fin 4) (s : State), s.stopped = false →
  s.drained s.cur = false →
  let w4 := s.cur.sget (8 * a.val + 4)
  let w7 := s.cur.sget (8 * a.val + 7)
  let kk := w4.bits.toNat % 2 ^ 16
  let x := w7.bits.toNat
  let rows := x / 2 ^ 23 % 2 ^ 9 + 1
  let terms := x / 2 ^ 7 % 2 ^ 3 + 1
  let g := 8 * 2 ^ (x / 2 ^ 13 % 2 ^ 3)
  let refused := kk = 0 ∨ 4 < x / 2 ^ 13 % 2 ^ 3 ∨ 5 < x / 2 ^ 10 % 2 ^ 3 ∨ 5 < x / 2 ^ 3 % 2 ^ 4 ∨ x % 4 ≠ 0 ∨
    (128 < rows ∧ g ≠ 8) ∨ (m = true ∧ (8 < rows ∨ g ≠ 8))
  let bound := if refused then 0 else (kk * terms + 2 * ((kk + 31) / 32) + 24) * (((rows + g - 1) / g + 15) / 16)
  let writes (t : State) (r : Reg) : State := (t.modCur (fun y => y.sset d.val r)).advance
  exec (.mbound d a m) s = .next (writes s { bits := BitVec.ofNat 32 bound, poison := w4.poison || w7.poison }) ∧
  (f = 0 → exec (.xstat d a f) s = .next (writes (s.modCur (fun y => { y with failed := 0, nfailed := 0 })) (Reg.of s.cur.failed))) ∧
  (f = 1 → exec (.xstat d a f) s = .next (writes s (Reg.of (BitVec.ofNat 32 s.cur.nfailed)))) ∧
  (f = 2 → exec (.xstat d a f) s =
    .next (writes s (Reg.of (BitVec.ofNat 32 ((List.range 8).map (fun k => s.cur.kget k)).sum))))) ∧
  ∀ (slack k : Nat) (rows : List (List Nat)), 0 < k → rows ≠ [] →
    let blocks := (k + 31) / 32
    (∀ cap g : Nat, 0 < g → (∀ r ∈ rows, ∀ x ∈ r, x ≤ cap) →
      countedCycles slack k g rows ≤ (k * cap + 2 * blocks + 24) * (((rows.length + g - 1) / g + 15) / 16)) ∧
    groupCycles 0 k rows = ((List.range k).map (fun j => maxOf (rows.map (fun r => r.getD j 0)))).sum + 2 * blocks ∧
    (∀ r ∈ rows, r.length = k → r.sum + 2 * blocks ≤ groupCycles slack k rows) ∧
    groupCycles (slack + 1) k rows ≤ groupCycles slack k rows

/-- R288: HNARROW makes its checks in their order, each raising its trap precisely: a poisoned parameter word, a reserved bit, P6,
P7 or a policy above 4, a parent that is not VALID or of space STACK or CODE (a poisoned one raises POISON), one without the narrow
permission, a new index inside the loaded table, a range outside the parent, a misaligned range of exact images, a table page whose
fault was ended. When all pass, it completes: the entry's 32 bytes are written (the parent's base
plus the offset, the new length, the parent's space and element size, the permissions of both, the new policy and WIDE),
no handle cache keeps the old entry, and the destination gets the new index. A base past its 57 bits makes an entry that is not
VALID (log 78).
R289: HQUERY of an index without poison completes: the eight words of a valid entry in the uniform destination block, or
zeros for an entry that is not VALID or an index above 4,095; a poisoned index raises POISON with sr.xval 0, a poisoned entry
POISON with the index. -/
def Obligations.HandleInstructions : Prop :=
  (∀ (d : Dst) (a : Fin 16) (s : State), s.stopped = false →
  let w (j : Nat) : Nat := (s.cur.sget (8 * a.val + j)).bits.toNat
  let tagged (j : Nat) : Bool := (s.cur.sget (8 * a.val + j)).poison
  let lid := (s.team s.cur.team).lid
  let l := s.launch lid
  let parent := w 0 % 2 ^ 12
  let new := w 0 / 2 ^ 16 % 2 ^ 12
  let ofs := w 1 + 2 ^ 32 * w 2
  let len := w 3 + 2 ^ 32 * w 4
  let va := l.htab + 32 * new
  let die := s.ix.slot / 144 / 72
  let traps (t : State) (cause xval xaddr : Nat) : Prop :=
    exec (.hnarrow d a) s = .next (t.trapAt cause (BitVec.ofNat 32 xval) (BitVec.ofNat 64 xaddr))
  let clean := ∀ j < 8, tagged j = false
  ((∃ j < 8, tagged j = true) → traps s 0x0A 0 0) ∧
  (clean → ∀ j < 8, narrowReserved w j → (∀ i < j, ¬ narrowReserved w i) → traps s 0x05 (0x10000 + j) 0) ∧
  (clean → (∀ j < 8, ¬ narrowReserved w j) → ∀ p, s.lookup s.me (s.ix.slot / 144) lid parent = .entry p →
    let sound := p.poison = false ∧ p.valid = true ∧ p.space ≠ 6 ∧ p.space ≠ 7
    let granted := p.perm.testBit 4 = true
    let beyond := l.hcnt ≤ new
    let inside := 0 < len ∧ ofs + len ≤ p.length
    let straight := p.space = 4 → ofs % 8 = 0 ∧ len % p.esize = 0
    (p.poison = true → traps s 0x0A parent (l.htab + 32 * parent)) ∧
    (p.poison = false → (p.valid = false ∨ p.space = 6 ∨ p.space = 7) → traps s 0x05 parent 0) ∧
    (sound → ¬ granted → traps s 0x04 parent 0) ∧
    (sound → granted → ¬ beyond → traps s 0x05 new 0) ∧
    (sound → granted → beyond → ¬ inside → traps s 0x03 ofs (p.base + ofs)) ∧
    (sound → granted → beyond → inside → ¬ straight → traps s 0x06 ofs (p.base + ofs)) ∧
    (sound → granted → beyond → inside → straight →
      (∀ v c, s.reach s.me die l.dom l.space (.kind .write) true (piecesOf va 32) = .failed v c → c ≠ 0x0E →
        traps (s.clearWaits s.me) 0x08 new va) ∧
      (s.reach s.me die l.dom l.space (.kind .write) true (piecesOf va 32) = .ok → s.tHolds die l.dom l.space va 32 .write = false →
        let b := p.base + ofs
        exec (.hnarrow d a) s = .next (((((s.tPut die l.dom l.space (piecesOf va 32)
          (handleBytes true (if b < 2 ^ 57 then b else b % 2 ^ 57 + 2 ^ 57) len p.space (p.perm &&& (w 5 % 2 ^ 5)) (w 5 / 2 ^ 8 % 2 ^ 3)
            (w 5 / 2 ^ 12 % 2 == 1) p.esize)).dropHandle lid new).clearWaits s.me).writeDst s.ix.slot d 1
              [(s.lowest, [Reg.of (BitVec.ofNat 32 new)])]).advance))))) ∧
  (∀ (d : Fin 16) (a : Src) (s : State),
  let u : Uses := { srcs := [(a, .word)], dst := .s (Fin.ofNat 128 (8 * d.val)), words := 8, uniform := [a], noUni := false }
  s.Ready u →
  let taken := s.take s.ix.slot u.srcs
  let r := ((taken.2.srcWords taken.1 s.lowest).headD []).headD Reg.zero
  let lid := (s.team s.cur.team).lid
  let zeros : Res := { words := List.replicate 8 Reg.zero, flags := 0#5 }
  let words (e : HEntry) : Res :=
    { words := (List.range 8).map (fun j => Reg.of (BitVec.ofNat 32 (leNat ((e.bytes.drop (4 * j)).take 4)))), flags := 0#5 }
  (r.poison = true → exec (.hquery d a) s = .next (s.trapAt 0x0A 0 0)) ∧
  (r.poison = false → 4095 < r.bits.toNat → exec (.hquery d a) s = .next (taken.2.retire u [(s.lowest, zeros)])) ∧
  ∀ e, r.poison = false → r.bits.toNat ≤ 4095 → s.lookup s.me (s.ix.slot / 144) lid r.bits.toNat = .entry e →
    (e.poison = true → exec (.hquery d a) s =
      .next (s.trapped 0x0A r.bits (BitVec.ofNat 64 ((s.launch lid).htab + 32 * r.bits.toNat)))) ∧
    (e.poison = false → exec (.hquery d a) s = .next (((taken.2.keepEntry s.ix.slot lid r.bits.toNat e).clearWaits s.me).retire u
      [(s.lowest, if e.valid then words e else zeros)])))

/-! ### Steps of the module: memory -/

/-- R161, R162, R169 to R171, R174, R180, R184, R198, R199, R202, R290, R291, R355: a write leaves its store queue when nothing
earlier in the queue touches its bytes, and the caches it passes drop their copies of its lines; performed at its home it
stores its bytes (the new value of R198 for an atomic, whose old value goes back to the access that waits for it) and nothing
else, and its acknowledgement leaves with write-visible times past every lease granted on its lines; an atomic of host memory
takes effect there, as an AtomicOp of the link, or in a locked read and then a write; the acknowledgement raises the group's
horizons and what the module's groups have heard. R176, R191, R201, R203: the parts of several lanes take effect in lane order as
one run, each atomic reading what the one before left; ADD.X adds into its image; the read of an image that RCLOSE makes changes
nothing, has no acknowledgement, and returns the rounded value with its flags. R179: a write to a replicated page is performed at
its home, stays on its way while the replica applies it, and only then is acknowledged. A host access reads or stores device
memory at its home, or stores to a host line that the device does not hold. What the module's groups have heard (log 66) and the free
constant Config.hostAtomics (log 67) are the model's choices. -/
def Obligations.WritesReachTheirHomes : Prop := ∀ (s : State) (w : HomeWrite) (lane pa : Nat), s.stopped = false →
  (∀ g pre post, (s.group g).storeQ = pre ++ w :: post → (∀ x ∈ pre, x.id ≠ w.id ∧ spansMeet w.spans x.spans = false ∧
      spansMeet x.spans w.spans = false) →
    Reaches (.storeLeavesCore g w.id) s (fun t => t.flight = s.flight ++ [w] ∧
      (t.group g).storeQ = (s.group g).storeQ.filter (fun x => x.id != w.id) ∧
      (∀ n ∈ linesOf w.spans, mget? (t.core (g / 144)).l1 n = none) ∧ sameMemory s t)) ∧
  (s.flight.find? (fun x => x.id == w.id) = some w →
    (∀ x ∈ s.flight, x.slot = w.slot → x.id < w.id → spansMeet x.spans w.spans = false) → s.Plain → s.Uncounted →
    let performed (t : State) : Prop := t.flight = s.flight.filter (fun x => x.id != w.id) ∧
      ∃ a, t.acks = s.acks ++ [a] ∧ a.id = w.id ∧ a.slot = w.slot ∧ a.lines = linesOf w.spans ∧
        ∀ n ∈ linesOf w.spans, s.dieTime (homeDie (128 * n)) + 8 ≤ a.all ∧ (s.leaseOf n).1 + 8 ≤ a.all ∧ (s.leaseOf n).2 + 8 ≤ a.all
    let fresh := w.stage = .fresh ∧ (linesOf w.spans).any s.lineHeld = false ∧ (linesOf w.spans).any s.lineReplicating = false ∧ s.lostPage w = false
    let returns (t : State) (old n : Nat) : Prop := ∀ m, w.ret = some m → ∀ op, mget? (s.group w.slot).loads m = some op →
      mget? (t.group w.slot).loads m = some { op with
        values := op.values ++ [(lane, (List.range (n / 4)).map (fun k =>
          { bits := BitVec.ofNat 32 (old / 2 ^ (32 * k)), poison := s.poisonAt pa }))]
        waiting := op.waiting.filter (fun l => l != lane) }
    let asked (xs : List (Nat × List Reg)) (f : BitVec 5) (t : State) : Prop := ∀ m, w.ret = some m →
      ∀ op, mget? (s.group w.slot).loads m = some op → mget? (t.group w.slot).loads m = some { op with
        values := op.values ++ xs, flags := op.flags ||| f, waiting := op.waiting.filter (fun l => !xs.any (fun x => x.1 == l)) }
    (∀ bs, fresh → w.ops = [{ lane := lane, act := .store pa bs }] →
      (w.repl = false → Reaches (.homeWritePerform w.id) s (fun t => performed t ∧ Stored s t pa bs)) ∧
      (w.repl = true → Reaches (.homeWritePerform w.id) s (fun t => t.acks = s.acks ∧ Stored s t pa bs ∧ ∃ old,
        t.flight = s.flight.filter (fun x => x.id != w.id) ++ [{ w with stage := .replicating old }]))) ∧
    (∀ old, w.stage = .replicating old → Reaches (.homeWritePerform w.id) s (fun t => performed t ∧ sameMemory s t)) ∧
    (∀ stores : List (Nat × Nat × List Byte), fresh → w.repl = false → stores ≠ [] →
      w.ops = stores.map (fun x => { lane := x.1, act := .store x.2.1 x.2.2 }) →
      Reaches (.homeWritePerform w.id) s (fun t => performed t ∧ ∀ a, t.byte a = laidOver s.byte (stores.map Prod.snd) a)) ∧
    (∀ (aop : Aop) (n : Nat) (parts : List (Nat × Nat × Nat × Nat)), fresh → w.repl = false → parts ≠ [] → n = 4 ∨ n = 8 → aop ≠ .addX →
      (∀ x ∈ parts, isHost x.2.1 = false ∧ x.2.2.1 < 2 ^ (8 * n) ∧ x.2.2.2 < 2 ^ (8 * n)) →
      w.ops = parts.map (fun x => { lane := x.1, act := .atomic aop x.2.1 n (BitVec.ofNat 64 x.2.2.1) (BitVec.ofNat 64 x.2.2.2) }) →
      let run := atomicRun aop n parts s.byte
      Reaches (.homeWritePerform w.id) s (fun t => performed t ∧ (∀ a, t.byte a = run.2 a) ∧
        ∃ xs, asked xs 0#5 t ∧ xs.map (fun x => (x.1, x.2.map Reg.bits)) =
          run.1.map (fun r => (r.1, (List.range (n / 4)).map (fun k => BitVec.ofNat 32 (r.2 / 2 ^ (32 * k))))))) ∧
    (∀ (esize : Nat) (d : DWord) (double : Bool), fresh → w.repl = false → isHost pa = false →
      w.ops = [{ lane := lane, act := .addX [(pa, esize)] esize d double }] → Reaches (.homeWritePerform w.id) s (fun t => performed t ∧
        Stored s t pa (leBytes esize (imageAdd esize (s.natAt pa esize)
          (if double then Fmt.f64.decode d.toNat else Fmt.f32.decode (d.toNat % 2 ^ 32)))))) ∧
    (∀ (esize : Nat) (double : Bool), fresh → w.ops = [{ lane := lane, act := .close [(pa, esize)] esize double }] →
      let r := imageClose esize (s.natAt pa esize) (if double then Fmt.f64 else Fmt.f32)
      Reaches (.homeWritePerform w.id) s (fun t => t.flight = s.flight.filter (fun x => x.id != w.id) ∧ t.acks = s.acks ∧ sameMemory s t ∧
        asked [(lane, (List.range (if double then 2 else 1)).map (fun k =>
          { bits := BitVec.ofNat 32 (r.1 / 2 ^ (32 * k)), poison := s.poisonIn pa esize }))] r.2 t)) ∧
    (∀ (aop : Aop) (n : Nat) (d swap : DWord), w.repl = false → n = 4 ∨ n = 8 → aop ≠ .addX → d.toNat < 2 ^ (8 * n) → swap.toNat < 2 ^ (8 * n) →
      w.ops = [{ lane := lane, act := .atomic aop pa n d swap }] →
      let whole := isHost pa = false ∨ (aop ∈ [.addI, .xchg, .cas] ∧ Config.hostAtomics = true)
      (fresh → whole → Reaches (.homeWritePerform w.id) s (fun t => performed t ∧ returns t (s.natAt pa n) n ∧
        Stored s t pa (leBytes n (atomicRule aop n (s.natAt pa n) d.toNat swap.toNat)) ∧
        (isHost pa = true → t.outbox.getLast? = some (.atomicOp aop pa n d swap)))) ∧
      (fresh → ¬ whole →
        exec (.homeWritePerform w.id) s = .next (s.modFlight w.id (fun x => { x with stage := .locked (s.bytesAt pa n) }))) ∧
      (∀ bs, w.stage = .locked bs → bs.length = n → isHost pa = true → ¬ whole →
        Reaches (.homeWritePerform w.id) s (fun t => performed t ∧ returns t (leNat bs) n ∧
          Stored s t pa (leBytes n (atomicRule aop n (leNat bs) d.toNat swap.toNat)))))) ∧
  (∀ a, s.acks.find? (fun x => x.id == a.id) = some a → (mget? s.groups a.slot).isSome = true →
    s.answersBefore (a.slot / 144) a.seq a.lines (a.lines.any (fun n => homeDie (128 * n) != a.slot / 144 / 72)) = false →
    let apart (x y : Group) : Group := { x with lanes := y.lanes, arrSeq := y.arrSeq }
    Reaches (.writeAck a.id) s (fun t => t.acks = s.acks.filter (fun x => x.id != a.id) ∧
      apart (t.group a.slot) (s.group a.slot) = { s.group a.slot with
        horDie := max (s.group a.slot).horDie a.same, horDev := max (s.group a.slot).horDev a.all
        horPod := max (s.group a.slot).horPod a.all } ∧
      (∀ n, n ≠ a.slot → apart (t.group n) (s.group n) = s.group n) ∧
      t.heard.all = max s.heard.all a.all ∧ t.heard.pod = max s.heard.pod a.all ∧
      (a.slot / 144 / 72 = 0 → t.heard.same0 = max s.heard.same0 a.same) ∧
      (a.slot / 144 / 72 = 1 → t.heard.same1 = max s.heard.same1 a.same) ∧ sameMemory s t)) ∧
  (∀ a : HostAccess, s.Plain → s.ready = true → s.assigned a.pa = true →
    (a.data = [] → 0 < a.size → s.Uncounted → Reaches (.hostMemAccess a) s (fun t => sameMemory s t ∧ t.idle = false ∧
      t.outbox = s.outbox ++ [.hostData a.pa (s.bytesAt a.pa a.size) (s.poisonIn a.pa a.size)])) ∧
    (a.data ≠ [] → isHost a.pa = false ∨ (linesOf [(a.pa, max a.size a.data.length)]).any s.holdsHost = false →
      Reaches (.hostMemAccess a) s (fun t => Stored s t a.pa a.data)))

/-- R165, R168, R169, R179, R180, R184, R345: the home, or a die's own copy of a replicated page, answers a load that misses
sectors of a line with the line and a lease, which the home records when a copy may be kept; the answer serves the loads that
asked for it and enters the core's L1 unless the core has an unacknowledged write to the line; a copy whose lease is over
is dropped; eviction folds a line's lease record into its slice's; a write-back leaves the line clean without changing
memory; a snooped host line is given up after its latest lease end plus 8. -/
def Obligations.FillsAndLeases : Prop := ∀ (s : State) (g line lease : Nat), s.stopped = false →
  (∀ (n : Nat) (op : LoadOp), mget? (s.group g).loads n = some op → (∃ k ∈ op.missing, k / 4 = line) →
    (∀ f ∈ s.fills, f.line ≠ line) → s.Plain → s.Uncounted → s.lineHeld line = false →
    32 ≤ lease → lease ≤ (if isHost (128 * line) then 256 else 4096) →
    Reaches (.homeFill (g / 144) line lease) s (fun t => sameMemory s t ∧ ∃ f e x,
      t.fills = s.fills ++ [f] ∧ f.core = g / 144 ∧ f.line = line ∧ e ∈ s.groups ∧ e.1 / 144 = g / 144 ∧ x ∈ e.2.loads ∧
      (e.1, x.1) ∈ f.asks ∧ (∀ k ∈ x.2.missing, k / 4 = line → k ∈ f.secs) ∧ (∀ k ∈ f.secs, k / 4 = line) ∧
      f.keep = x.2.cached ∧
      (let die := g / 144 / 72
       let own := x.2.repl.contains line
       f.data = (if own then s.replicaLine die line (s.line line) else s.line line) ∧
       f.grant = s.dieTime (if own then die else homeDie (128 * line)) ∧ f.ends = f.grant + lease ∧
       (f.keep = true → f.ends ≤ (if die = 0 then (t.leaseOf line).1 else (t.leaseOf line).2))))) ∧
  (∀ n f, s.fills[n]? = some f → s.answersBefore f.core f.seq [f.line] f.far = false →
    let plain (x : Fill) : Fill := { x with far := false }
    Reaches (.cacheFillArrival n) s (fun t => t.fills.map plain = (removeIx s.fills n).map plain ∧
      (∀ g k op, (g, k) ∈ f.asks → f.asks.Nodup → mget? (s.group g).loads k = some op → mget? (t.group g).loads k = some { op with
        missing := op.missing.filter (fun m => !f.secs.contains m)
        lines := op.lines ++ (op.missing.filter (fun m => f.secs.contains m)).map (fun m => (m, f.data)) }) ∧
      (f.keep = false ∨ s.unacked f.core f.line = true → mget? (t.core f.core).l1 f.line = none) ∧
      (f.keep = true → s.unacked f.core f.line = false → (s.core f.core).l1.length < 2048 →
        mget? (t.core f.core).l1 f.line = some { secs := f.secs, data := f.data, ends := f.ends, grant := f.grant }) ∧
      sameMemory s t)) ∧
  (∀ (c : CacheId) (x : Copy), s.copyAt c line = some x →
    let now := s.dieTime (match c with
      | .l1 core => core / 72
      | .rdc die => die)
    (x.ends ≤ now → Reaches (.leaseExpiry c line) s (fun t => t.copyAt c line = none ∧ sameMemory s t)) ∧
    (now < x.ends → exec (.leaseExpiry c line) s = .next s)) ∧
  (∀ a b, mget? s.leases line = some (a, b) → mget? s.dirty (lineOf (s.locate (128 * line))) = none →
    Reaches (.l2Evict line) s (fun t => mget? t.leases line = none ∧ a ≤ (t.leaseOf line).1 ∧ b ≤ (t.leaseOf line).2 ∧ t.mem = s.mem)) ∧
  (∀ old, mget? s.dirty line = some old → s.backHeld line = false → isHost (128 * line) = false →
    (∀ d < 8, (s.dom d).crnOn = false) →
    Reaches (.l2Writeback line) s (fun t => t.dirty = mdel s.dirty line ∧ t.mem = s.mem ∧ t.memPoison = s.memPoison)) ∧
  (isHost (128 * line) = true → exec (.hostSnoop line) s = .next { s with idle := false, snoops := s.snoops ++ [(line, s.dieTime 0)] }) ∧
  (∀ n since, s.snoops[n]? = some (line, since) →
    let latest := max (s.leaseOf line).1 (s.leaseOf line).2
    (s.dieTime 0 ≤ latest + 8 → exec (.hostSnoopReply n) s = .next s) ∧
    (latest + 8 < s.dieTime 0 → exec (.hostSnoopReply n) s = .next { s with
      snoops := removeIx s.snoops n, dirty := mdel s.dirty line, leases := mdel s.leases line
      outbox := s.outbox ++ [.snoopReply line (s.line line)] }))

/-! ### Steps of the module: groups, launches, queues -/

/-- R41, R184, R190, R194, R199, R203, R204, R205, R212, R263, R306, R311: the end of a group's earliest outstanding access whose sectors
and answers are all there and whose destination has room: a load's words, an atomic's old values and a remote access's values are
written, and no other register; a close sends its cells, then the
closes that waited for them, and sets its flags after the last; a remote access with a refused lane gives back
what it popped and raises PEER or ATOMIC at the lowest refused one; a RET pops each lane to its own entry, or raises POISON or
MISALIGN; an XRET pops its lanes to the address that it read from sr.xpc. A retest wakes a class past its WAITC when every monitor of it has latched or
holds, with no write of its word on its way to a replica (R179), and no other class. -/
def Obligations.AccessesReturn : Prop := ∀ (s : State) (g n : Nat) (op : LoadOp), s.stopped = false →
  ((s.group g).loads.find? (fun e => s.loadReady g e.2) = some (n, op) →
    let taken : State := (s.asClass g op.lanes).dropLoad g n
    let ends (t : State) : Prop := exec (.loadReturn g) s = .next { t with ix := s.ix }
    let framed (t : State) (d : Dst) (words : Nat) : Prop :=
      taken.Pushable { srcs := [], dst := d, words := words, uniform := [], noUni := false } →
      registerFrame taken t g (op.lanes ++ op.access.map (fun a => a.lane) ++ op.values.map (fun v => v.1)) d words
    let trap (cause lane : Nat) (xval : Word) (xaddr : DWord) : Trap :=
      { cause := cause, xval := xval, pc := taken.ix.pc, lane := lane, xaddr := xaddr }
    (∀ d size signed, op.kind = .load d size signed → size ∈ [1, 2, 4, 8, 16] → (signed = true → size ≤ 2) →
      let words := if size ≤ 4 then 1 else size / 4
      let t := taken.writeDst g d words
        (op.access.map (fun a => (a.lane, loadRule size signed (accessBytes op.lines a) (accessPoison op.lines a))))
      ends t ∧ framed t d words) ∧
    (∀ d size zero, op.kind = .atom d size zero → size = 4 ∨ size = 8 → (∀ v ∈ op.values, v.2.length = size / 4) →
      let t := taken.writeDst g d (size / 4) (if zero = true then
        op.values.map (fun v => (v.1, List.replicate (size / 4) Reg.zero)) else op.values)
      ends t ∧ framed t d (size / 4)) ∧
    (∀ d size, op.kind = .remote d size → op.refusals = [] → (∀ v ∈ op.values, v.2.length = size / 4) →
      let t := (taken.writeDst g d (size / 4) op.values).advance
      ends t ∧ framed t d (size / 4)) ∧
    (∀ d size lane reason peer off, op.kind = .remote d size → (lane, reason, peer, off) ∈ op.refusals →
      (∀ r ∈ op.refusals, r ≠ (lane, reason, peer, off) → lane < r.1) →
      ends ((taken.putBack g op.popped).takeTrap (trap (if reason = 0x100 then 0x13 else 0x0F)
        (if lane = 256 then op.lanes.headD 0 else lane)
        (BitVec.ofNat 32 (if reason = 0x100 then 0x30E else reason * 2 ^ 24 + peer % 1024)) (BitVec.ofNat 64 off)))) ∧
    (∀ cells, op.kind = .close cells [] →
      ends ((taken.sendAs g none (cellsSent op (cells.filter (fun c => op.values.any (fun v => v.1 == c.1))))).orFlags op.flags)) ∧
    (∀ cells later, op.kind = .close cells later → later ≠ [] → ∃ run rest, later = run ++ rest ∧
      let done (c : Nat × Nat × Nat × Nat) : Bool := op.values.any (fun v => v.1 == c.1)
      closesTogether cells (closeBytes later) run rest ∧
      ends (((taken.sendAs g none (cellsSent op (cells.filter done))).modGroup g (fun x => { x with loads := x.loads ++ [(n, { op with
        kind := .close (cells.filter (fun c => !done c)) rest, values := [], waiting := run.map (fun w => w.lane) })] })).sendAs g (some n) run)) ∧
    (op.kind = .ret →
      let bad (l : Nat) : Bool := (op.entry l).1.toNat % 4 != 0 || (op.entry l).1.toNat % 16 == 12
      (∀ l, op.lanes.find? (fun l => (op.entry l).2) = some l →
        ends (taken.takeTrap (trap 0x0A l 0 (BitVec.ofNat 64 (taken.regionVa l ((taken.cur.lane l).lsp.toNat - 8)))))) ∧
      (∀ l, (∀ k ∈ op.lanes, (op.entry k).2 = false) → op.lanes.find? bad = some l →
        ends (taken.takeTrap (trap 0x06 l ((op.entry l).1.setWidth 32) 0))) ∧
      ((∀ l ∈ op.lanes, (op.entry l).2 = false ∧ bad l = false) →
        ends (taken.modGroup g (fun x => x.modLanes op.lanes (fun l z =>
          { z with pc := (op.entry l).1, depth := z.depth - 1, lsp := z.lsp - 8, chain := false, sleep := .awake }))))) ∧
    (∀ to_, op.kind = .xret to_ → ends (taken.modGroup g (fun x => x.modLanes op.lanes (fun _ z =>
      { z with pc := to_, depth := z.depth - 1, lsp := z.lsp - 8, chain := false, sleep := .awake }))))) ∧
  (∀ x l v, mget? s.groups g = some x → (∀ e ∈ s.groups, ∀ y ∈ e.2.lanes, ∀ z, y.sleep = .waitc z → s.placePoison z.place = false) →
    l < x.lanes.length → (x.lane l).sleep = .waitc v →
    let holds (z : Watch) : Prop := match z.cond with
      | .eq => s.watched z.place = z.d
      | .ne => s.watched z.place ≠ z.d
      | .ge => (s.watched z.place - z.d).msb = false
    let met := ∀ y ∈ x.lanes, (x.lane l).sameWait y = true → ∀ z, y.sleep = .waitc z →
      (z.latched = true ∨ holds z) ∧ s.replicating z.place = false
    Reaches (.monitorRetest g) s (fun t =>
      (met → ((t.group g).lane l).sleep = .awake ∧ ((t.group g).lane l).pc = nextPc (x.lane l).pc) ∧
      (¬ met → ((t.group g).lane l).sleep ≠ .awake ∧ ((t.group g).lane l).pc = (x.lane l).pc)))

/-- R222, R34, R308: the issuing class of a group stands wherever some lane is a candidate; no candidate has a higher issue key
(the greater depth, or at equal depth the lower program counter) than a lane of it; and it holds every candidate that shares
depth and program counter with one of its lanes, and no other lane, the lanes stalled in one trap entry being a class apart.
The candidates are the lanes that have not exited, are not parked, asleep or stalled (`mayBeChosen`), and only those between the
words of a chain while there are any. -/
def Obligations.IssuingClassIsHighest : Prop := ∀ (s : State) (g : Group),
  let candidates := s.candidates g
  let lanes := s.issuingClass g
  (∀ l, l ∈ candidates ↔ l < g.lanes.length ∧ s.mayBeChosen g (g.lane l) ∧
    ((∃ m < g.lanes.length, s.mayBeChosen g (g.lane m) ∧ (g.lane m).chain = true) → (g.lane l).chain = true)) ∧
  (candidates ≠ [] → lanes ≠ []) ∧
  (∀ l ∈ lanes, l ∈ candidates ∧ ∀ m ∈ candidates,
    (g.lane m).depth ≤ (g.lane l).depth ∧ ((g.lane m).depth = (g.lane l).depth → (g.lane l).pc ≤ (g.lane m).pc) ∧
    (m ∈ lanes ↔ (g.lane m).depth = (g.lane l).depth ∧ (g.lane m).pc = (g.lane l).pc ∧ (g.lane m).enters = (g.lane l).enters))

/-- R146, R222, R227, R230, R243, R250, R254: a pending deferred trap is taken at the next boundary outside a chain, by the
issuing class at its own address; with no candidate lane, awake or stalled at a fence, every parked lane becomes one; a group ready for 1,024 cycles takes
effective priority 16; a group that may end is gone, and with the last one of a team of a launch, the team; a drain holds a group at a boundary that
meets its conditions; after DST_DRAIN ticks the held groups resume and STATE is 3; with no saved team left, a resumption is over.
R252 to R254: the next saved team of the launch that comes first is placed on the chosen core: it leaves the saved teams, stands as
its area says (x, y, z, barrier generations, local memory with its tags, accumulator values and row tags) with its channels, and
each of its groups stands in its new slot as its group area says. -/
def Obligations.GroupSteps : Prop := ∀ (s : State) (g dom die : Nat), s.stopped = false →
  let x := s.group g
  (∀ d ds, x.deferred = d :: ds → s.mayIssue g = true →
    let lanes := s.issuingClass x
    let lane := x.lane (lanes.headD 0)
    let taken := (s.modGroup g (fun y => { y with deferred := y.deferred.drop 1 })).asClass g lanes
    lane.chain = false → lane.enters = none → (∀ w ∈ s.waits, w.agent ≠ s.classAgent g (lanes.headD 0)) →
    exec (.takeDeferredTrap g) s = .next { taken.takeTrap
      { cause := d.cause, xval := d.xval, pc := lane.pc, lane := lanes.headD 0, xaddr := d.xaddr } with ix := s.ix }) ∧
  (x.held = false → (∀ l ∈ x.lanes, s.counts x l = false) →
    Reaches (.unpark g) s (fun t => ({ t with groups := s.groups } : State) = s ∧ (∀ n, n ≠ g → t.group n = s.group n) ∧
      t.group g = { x with lanes := x.lanes.map (fun l =>
        if l.parked = true ∧ l.exited = false then { l with parked := false, run := 0 } else l) })) ∧
  (s.ready? g = true →
    (x.ready + 1024 ≤ s.cycleOf (g / 144) → Reaches (.priorityAgeBoost g) s (fun t => (t.group g).effective = 16 ∧
      t = s.modGroup g (fun y => { y with boost := true }))) ∧
    (s.cycleOf (g / 144) < x.ready + 1024 → exec (.priorityAgeBoost g) s = .next s)) ∧
  (∀ y, mget? s.groups g = some y → s.mayEnd g y = true → Reaches (.groupEnd g) s (fun t => mget? t.groups g = none ∧
    (∀ n, n ≠ g → ((mget? t.groups n).isSome ↔ (mget? s.groups n).isSome)) ∧
    (∀ m, mget? s.teams y.team = some m → m.task = none → m.hdr.ngrp = m.done.length + 1 → mget? t.teams y.team = none) ∧
    t.mem = s.mem)) ∧
  (∀ y, mget? s.groups g = some y → s.mayHold g y = true →
    exec (.groupHeld g) s = .next (s.modGroup g (fun z => { z with held := true }))) ∧
  (∀ x, (s.dom dom).drain = some x → x.resume = false →
    let inDrain (e : Nat × Group) : Bool := s.groupDom e.2 == dom && s.groupSpace e.2 == x.space
    ((s.dom dom).drainLimit ≠ 0 → x.since + (s.dom dom).drainLimit.toNat ≤ s.time →
      Reaches (.drainLimitExpiry dom) s (fun t => (t.dom dom).preState = 3 ∧ (t.dom dom).drain = none ∧
        t.groups = s.groups.map (fun e => if inDrain e then (e.1, { e.2 with held := false }) else e))) ∧
    ((s.dom dom).drainLimit = 0 ∨ s.time < x.since + (s.dom dom).drainLimit.toNat → exec (.drainLimitExpiry dom) s = .next s)) ∧
  ((∀ lid ∈ s.servedOrder die, ∀ k ∈ s.saved, k.lid ≠ lid) → Reaches (.teamRestore die) s (fun t => t.saved = s.saved ∧ t.groups = s.groups ∧
    ∀ d x, mget? s.doms d = some x → (t.dom d) = (match x.drain with
      | some y => if y.resume = true ∧ (∀ k ∈ s.saved, ¬ (k.dom = d ∧ k.space = y.space)) then { x with preState := 0, drain := none } else x
      | none => x))) ∧
  (∀ (lid : Nat) (rest : List Nat) (k : SavedTeam) (hand : Bool) (f : Fit) (t0 : State),
    let l := s.launch lid
    let n := f.tiles.length
    s.servedOrder die = lid :: rest → l.ringInfo = [] → s.savedNext lid = some k → s.agentWaits (.teamStart lid) = false →
    s.choose l.dom l.die l.hdr = some (hand, f) → f.slots.Nodup → f.tiles.Nodup → f.slots.length = k.groups.length →
    s.rangeHeld k.area (k.endsAt l.hdr n - k.area) = false → s.savedBad k l.hdr n = false →
    s.moveStacks (.teamStart lid) (f.core / 72) k f = .ok t0 → t0.launch lid = l → s.Unwatched → t0.Plain →
    t0.poisonIn (k.tilesAt l.hdr) (k.endsAt l.hdr n - k.tilesAt l.hdr) = false →
    let xyz := t0.natAt (k.area + 0x10) 8
    Reaches (.teamRestore die) s (fun t =>
      (∀ y ∈ t.saved, ¬ (y.lid = k.lid ∧ y.area = k.area)) ∧ (∀ y ∈ t0.saved, ¬ (y.lid = k.lid ∧ y.area = k.area) → y ∈ t.saved) ∧
      (∀ d, (t0.dom k.dom).drain = some d → d.resume = true → d.space = k.space →
        (∀ y ∈ t0.saved, ¬ (y.lid = k.lid ∧ y.area = k.area) → ¬ (y.dom = k.dom ∧ y.space = k.space)) → (t.dom k.dom).preState = 0) ∧
      (∃ m, mget? t.teams t0.seq = some m ∧ m.lid = lid ∧ m.x = xyz % 2 ^ 16 ∧ m.y = xyz / 2 ^ 16 % 2 ^ 16 ∧
        m.z = xyz / 2 ^ 32 % 2 ^ 16 ∧ m.core = f.core ∧ m.base = f.base ∧ m.tiles = f.tiles ∧ m.slots = f.slots ∧ m.chans = k.chans ∧
        ∀ b < 16, sget 0 m.gens b = t0.natAt (k.area + 0x20 + 8 * b) 4) ∧
      (∀ i < k.groups.length, let g := t.group (f.slots.getD i 0)
        g.team = t0.seq ∧ g.index = i ∧ g.width = l.hdr.width ∧ g.nregs = l.hdr.nregs ∧ restoredAs t0 (k.groupAt l.hdr n i) g) ∧
      (∀ a < l.hdr.locB, t.locByte f.core (f.base + a) = t0.byte (k.area + 0x100 + a)) ∧
      (∀ a < l.hdr.locB / 32, sget false (t.core f.core).locPoison (f.base / 32 + a) = t0.poisonAt (k.area + 0x100 + 32 * a)) ∧
      ∀ j < n, let tile := f.tiles.getD j 0
        let at_ := k.tilesAt l.hdr + 133632 * j
        (∀ i < 16384, (t.core f.core).accGet (16384 * tile + i) = (BitVec.ofNat 64 (t0.natAt (at_ + 8 * i) 8),
          (t0.natAt (at_ + 131584 + i / 8) 1).testBit (i % 8))) ∧
        ∀ r < 128, (t.core f.core).tagGet (128 * tile + r) = t0.natAt (at_ + 131072 + 4 * r) 4))

/-- R21, R25, R60, R239, R248, R249, R293: a placed team takes the launch's next index and stands on the chosen core, at home or
handed to the other die, its channels bound as its header says and empty; every group of it starts as R25 says; a queued task
whose turn has come leaves its queue; a front-end that sees its tail ahead of its head takes the new records, one after
another, and stores its head after each. -/
def Obligations.WorkStarts : Prop := ∀ (s : State) (die lid core q : Nat) (rest : List Nat), s.stopped = false →
  let l := s.launch lid
  (s.servedOrder die = lid :: rest → l.ringInfo = [] → l.hdr.narg = 0 → s.teamsOpen lid = true → s.agentWaits (.teamStart lid) = false →
    ∀ (hand : Bool) (f : Fit), s.choose l.dom l.die l.hdr = some (hand, f) →
    Reaches (if hand then .teamHandoff die else .teamPlace die) s (fun t => (t.launch lid).next = l.next + 1 ∧
      ∃ m, mget? t.teams s.seq = some m ∧ m.lid = lid ∧ m.t = l.next ∧ m.x = l.next % l.gx ∧ m.y = l.next / l.gx % l.gy ∧
        m.z = l.next / (l.gx * l.gy) ∧ m.core = f.core ∧ m.base = f.base ∧ m.tiles = f.tiles ∧ m.slots = f.slots ∧
        ∀ p c, m.chan? p = some c → c.tags = [] ∧ c.words = (if c.vector then l.hdr.width else 1) ∧
          ∃ kind, l.hdr.chans[p]? = some (kind, c.ofs) ∧ kind ≠ 0 ∧ (c.vector = true ↔ kind = 1))) ∧
  (∀ (m : Team) (args : List Reg) (i : Nat), m.slots.Nodup → m.slots.length = m.hdr.ngrp → i < m.hdr.ngrp → args.length ≤ 64 →
    let g := (s.startTeam m args).group (m.slots.getD i 0)
    g.index = i ∧ g.width = m.hdr.width ∧ g.nregs = m.hdr.nregs ∧ g.team = s.seq ∧ g.prio = 8 ∧ g.fflags = 0 ∧
    g.horDie = 0 ∧ g.horDev = 0 ∧ g.horPod = 0 ∧ (∀ k < 8, g.kget k = 0) ∧ (∀ r, g.sget r = args.getD r Reg.zero) ∧
    g.q14.tags = [] ∧ g.q14.ofs = m.hdr.crq + 64 * i ∧
    ∀ l, l < m.hdr.width → (g.lane l).pc = m.hdr.entryVa m.hdrVa ∧ (g.lane l).depth = 0 ∧ (g.lane l).lsp = 0 ∧
      (g.lane l).exited = false ∧ (g.lane l).sleep = .awake ∧ ∀ r, (g.lane l).vget r = Reg.zero) ∧
  (∀ (x : QTask) (xs : List QTask) (t0 : State), (s.core core).tasks = x :: xs → s.taskReleased x = true → (s.core core).gated = false →
    s.agentWaits (.taskStart core) = false →
    s.tryTask (.taskStart core) (core / 72) core x (fun h => s.fits core h) = .over t0 →
    exec (.taskStart core) s = .next (t0.modCore core (fun c => { c with tasks := c.tasks.drop (c.tasks.length - xs.length) }))) ∧
  (∀ x, mget? s.queues q = some x → x.running = true → s.agentWaits (.queue q) = false →
    let d := if q < 4096 then 0 else 1
    let set (t : State) (f : HostQueue → HostQueue) : State := { t.clearWaits (.queue q) with queues := mupd t.queues q f, idle := false }
    (∀ u bs, x.goal = 0 → s.tRead (.queue q) d x.dom x.space x.tailA 4 = .ok u bs false →
      let n := (leNat bs + 2 ^ 32 - x.h) % 2 ^ 32
      0 < n → n ≤ 2 ^ x.log2n → exec (.queueTailLatch q) s = .next (set u (fun y => { y with goal := n }))) ∧
    (∀ u bs p t, x.goal ≠ 0 → x.taken = 0 →
      s.tRead (.queue q) d x.dom x.space (x.ring + 64 * (x.h % 2 ^ x.log2n)) 64 = .ok u bs p →
      u.takeRecord (.queue q) x.dom x.space d bs p = .done t →
      exec (.queueTailLatch q) s = .next (set t (fun y => { y with taken := 1 }))) ∧
    (∀ t, x.goal ≠ 0 → x.taken ≠ 0 → s.tStore (.queue q) d x.dom x.space x.headA (leBytes 4 ((x.h + 1) % 2 ^ 32)) = .ok t →
      exec (.queueTailLatch q) s = .next (set t (fun y => { y with taken := 0, goal := y.goal - 1, h := (x.h + 1) % 2 ^ 32 }))))

/-! ### Steps of the module: peers, engines -/

/-- R161, R171, R181, R204 to R206, R295, R326, R327, R347, R357: a request of another module is answered once: a duplicate with
the recorded answer, one not admitted or without a window with reason 1, one the window refuses with its reason, one whose
page is lost or ended with reason 4; else it is performed. At the issuer, an answer gives its lanes their value or refusal and raises
the pod horizon of a write or an atomic; a refused RST leaves a deferred trap. A plane fails by its ports or by a request's 16,384
ticks; requests on it go out again on the next plane, four times at most, each naming its source module, source domain and
epoch; a retrained plane is in use again. Reason 4 for a request whose page is lost and translation on die 0 (log 35), and a
poisoned table entry taken as not VALID (log 36), are the model's choices. -/
def Obligations.PeerSteps : Prop := ∀ (s : State) (r : PeerReq) (a : PeerReply) (o : OutReq) (plane : Nat), s.stopped = false →
  let answers (reason : Nat) : Prop := Reaches (.peerRequest r) s (fun t =>
    t.outbox = s.outbox ++ [.answer r.srcModule r.id reason 0 false 0 false] ∧ sameMemory s t)
  let fresh := (s.recordsOf r.srcModule r.epoch).find? (fun x => x.id == r.id) = none ∧ mget? s.peerWait (peerKey r) = none ∧
    ∀ n ∈ s.peerTables r, s.lineHeld n = false ∧ s.repairs n = false
  let va (w : Window) : Nat := w.base + r.offset
  let reach (w : Window) (n : Nat) := s.reach (.peer (peerKey r)) 0 (peerDom r) w.space (.kind (peerKind r.op)) false (piecesOf (va w) n)
  let pa (w : Window) : Nat := s.paOf 0 (peerDom r) w.space (va w) (.kind (peerKind r.op)) false
  let flowing := ∀ x ∈ s.remote, x.sent = true
  (∀ x, (s.recordsOf r.srcModule r.epoch).find? (fun x => x.id == r.id) = some x → Reaches (.peerRequest r) s (fun t =>
    t.outbox = s.outbox ++ [.answer r.srcModule r.id x.status x.value x.poison x.remaining x.prot] ∧ sameMemory s t)) ∧
  (fresh → s.admits r = false → answers 1) ∧
  (fresh → s.admits r = true → s.windowAt r = none → answers 1) ∧
  (∀ w, fresh → s.admits r = true → s.windowAt r = some w →
    (windowReason w r ≠ 0 → answers (windowReason w r)) ∧
    (windowReason w r = 0 → (∃ v c, reach w (peerSize r.op w) = .failed v c) → answers 4) ∧
    (∀ n, n = 4 ∨ n = 8 → s.Plain → s.Uncounted → windowReason w r = 0 → reach w n = .ok → piecesOf (va w) n = [(va w, n)] →
      (linesOf [(pa w, n)]).any s.lineHeld = false →
      (r.op = .read n → Reaches (.peerRequest r) s (fun t => sameMemory s t ∧
        t.outbox = s.outbox ++ [.answer r.srcModule r.id 0 (BitVec.ofNat 64 (s.natAt (pa w) n)) (s.poisonIn (pa w) n) 0 false])) ∧
      (∀ d, r.op = .write n d → Reaches (.peerRequest r) s (fun t => Stored s t (pa w) (leBytes n d.toNat) ∧
        ∃ p left prot, t.outbox = s.outbox ++ [.answer r.srcModule r.id 0 0 p left prot] ∧
          { id := r.id, status := 0, value := 0, poison := p, remaining := left, prot := prot } ∈ t.recordsOf r.srcModule r.epoch)))) ∧
  (∀ slot lanes w off op n x, s.findReq a.target a.id = some o → o.kind = .access slot lanes w off op (some n) → flowing →
    mget? (s.group slot).loads n = some x →
    let waiting := x.waiting.filter (fun l => !lanes.contains l)
    (a.reason = 0 → Reaches (.peerAnswer a) s (fun t => t.findReq a.target a.id = none ∧
      mget? (t.group slot).loads n = some { x with
        waiting := waiting, values := x.values ++ lanes.map (fun l => (l, answerWords op a.value a.poison)) } ∧
      ((∀ k, op ≠ .read k) → s.dieTime (slot / 144 / 72) + a.remaining + 8 ≤ (t.group slot).horPod))) ∧
    (a.reason ≠ 0 → Reaches (.peerAnswer a) s (fun t => t.findReq a.target a.id = none ∧
      mget? (t.group slot).loads n = some { x with
        waiting := waiting, refusals := x.refusals ++ lanes.map (fun l => (l, a.reason, o.target, off)) }))) ∧
  (∀ slot lanes w off op, s.findReq a.target a.id = some o → o.kind = .access slot lanes w off op none → flowing → a.reason ≠ 0 →
    (mget? s.groups slot).isSome = true → (∀ e ∈ (s.group slot).fences, e.2.podWide = false) → (s.group slot).trapped = false →
    Reaches (.rstRefusal a) s (fun t => t.findReq a.target a.id = none ∧
      (t.group slot).deferred = (s.group slot).deferred ++ [{ cause := if a.reason = 0x100 then 0x13 else 0x0F
                                                              xval := BitVec.ofNat 32 (if a.reason = 0x100 then 0x30E else a.reason * 2 ^ 24 + o.target % 1024)
                                                              xaddr := BitVec.ofNat 64 off }])) ∧
  (plane < s.planeCount → flowing → (∀ x ∈ s.remote, x.plane ≠ plane) →
    Reaches (.planeFail plane) s (fun t => plane ∈ t.planeDown ∧ t.mgmtInt.getLsbD 3 = true ∧
      ∀ n < 16, t.uaUp.getLsbD n = (s.uaUp.getLsbD n && n % s.planeCount != plane))) ∧
  (s.remote = [o] → o.sent = true →
    (s.time < o.sentAt + 16384 → exec (.planeTimeout 0) s = .next s) ∧
    (o.sentAt + 16384 ≤ s.time → o.sends < 4 → ∀ p,
      ({ s with planeDown := s.planeDown ++ [o.plane] } : State).planeFrom (s.reqDom o.kind) (o.plane + 1) = some p →
      Reaches (.planeTimeout 0) s (fun t => o.plane ∈ t.planeDown ∧
        t.remote = [{ o with plane := p, sends := o.sends + 1, sentAt := s.time, sent := true }] ∧
        t.outbox = s.outbox ++ [.request o.target o.id p s.device.toNat (s.reqDom o.kind) s.epoch o.kind])) ∧
    (o.sentAt + 16384 ≤ s.time → o.sends = 4 → ∀ slot lanes w off op n x, o.kind = .access slot lanes w off op (some n) →
      mget? (s.group slot).loads n = some x → Reaches (.planeTimeout 0) s (fun t => t.remote = [] ∧
        mget? (t.group slot).loads n = some { x with
          waiting := x.waiting.filter (fun l => !lanes.contains l)
          refusals := x.refusals ++ lanes.map (fun l => (l, 5, o.target, off)) }))) ∧
  (plane < s.planeCount → flowing → Reaches (.planeRetrain plane) s (fun t => plane ∉ t.planeDown ∧ t.mgmtInt.getLsbD 3 = true ∧
    ∀ n < 16, t.uaUp.getLsbD n = (s.uaUp.getLsbD n || n % s.planeCount == plane)))

/-- R127, R131, R133, R138, R141 to R147, R149: a released copy command does its work, ends with the status and flags of it, or
with the status of what stopped it; a task starts with its rows read and no block closed; each block close moves its term group
on; after the last one the epilogue writes; a command that has done its work and whose writes are visible is gone: its
counter has fallen, its record stands in q14, and a failure is noted and, unless the instruction said otherwise, left as a deferred trap.
R72, R73, R76, R118 to R120, R150, R152 to R154: where the rows of a copy command's work stand; the NAF of an integer, its cut to a cap, the encoding
of a row, and that a row's bytes read back as what was encoded. R127 to R129: how an accumulator row is prepared and folded.
FLAGS 0 in a failed command's record (log 40), counts cut to 32 bits (log 75), and the whole work of a copy command in one step
(log 8) are the model's choices. -/
def Obligations.EngineSteps : Prop :=
  (∀ (s : State) (n : Nat) (c : Cmd), s.stopped = false → s.Unwatched → s.Uncounted → mget? s.cmds n = some c →
  let ended (t : State) (status va : Nat) : Prop := ∃ d, mget? t.cmds n = some d ∧ d.phase = .finishing ∧ d.status = status ∧ d.failAt = va
  (s.mayStart n c = true → c.op ≠ .mtask → c.op ≠ .mtaskStream →
    (∀ st va, s.work n c = .stop (.fail st va) → Reaches (.engineCommandStart n) s (fun t => ended t st va ∧ t.mem = s.mem)) ∧
    (∀ (d : EDone) (ls : List (Nat × List Nat)) (u : State) (w : Nat), s.work n c = .got d ls →
      (s.fetched c ls).enginePut n c d.puts = .ok (u, w) →
      Reaches (.engineCommandStart n) s (fun t => t.mem = u.mem ∧ t.cores = u.cores ∧
        ∃ e, mget? t.cmds n = some e ∧ e.phase = .finishing ∧ e.status = (if d.index.isSome then 8 else c.status) ∧
          e.flags = c.flags ||| d.flags ∧ e.wvt = max c.wvt w ∧ e.words = d.words.map (BitVec.ofNat 32)))) ∧
  (s.taskMayStart n c = true → ∀ (rows : List RowRead) (ls : List (Nat × List Nat)),
    s.readTermRows n c (c.handle 0) (fun h => h.k == c.taskK && decide (h.t ≤ taskT (c.word 7))) (c.word 1) c.taskM = .got rows ls →
    Reaches (.mtaskStart n) s (fun t => t.mem = s.mem ∧ ∃ e, mget? t.cmds n = some e ∧ e.phase = .folding ∧
      e.nextBlk = List.replicate c.groups 0 ∧ e.rows.length = rows.length ∧ some e.lane0 = s.freeRun c)) ∧
  (∀ tg, c.mayClose tg = true → s.agentWaits (.cmd n) = false →
    let b := c.nextBlk.getD tg 0
    ∀ (ws : List (List Byte)) (wl : List (Nat × List Nat)) (sb : List Byte) (sl : List (Nat × List Nat)), s.readStride n c (c.handle 1) (16 * c.taskStr) (wfBytes c.taskWf c.taskN) (c.word 2 + 16 * c.taskStr * (32 * b))
        (min 32 (c.taskK - 32 * b)) = .got ws wl →
      s.engineRead n c (c.handle 1) (c.word 3 + 4 * strideElems c.taskWf c.taskStr * b) (4 * c.taskN) = .got sb sl →
      tg < c.nextBlk.length → Reaches (.blockClose n tg) s (fun t => t.mem = s.mem ∧ ∃ e, mget? t.cmds n = some e ∧
        e.nextBlk.getD tg 0 = b + 1 ∧ (∀ k, k ≠ tg → e.nextBlk.getD k 0 = c.nextBlk.getD k 0) ∧
        (e.phase = .finishing ↔ c.taskEpi = 0 ∧ ∀ k ∈ e.nextBlk, c.blocks ≤ k))) ∧
  (c.phase = .folding → c.inLanes = false → c.taskEpi ≠ 0 → s.agentWaits (.cmd n) = false → ∀ u w,
    s.enginePut n c (s.epiDone c).puts = .ok (u, w) →
    Reaches (.epilogue n) s (fun t => t.mem = u.mem ∧ ∃ e, mget? t.cmds n = some e ∧ e.phase = .finishing)) ∧
  (c.phase = .finishing → (mget? s.groups c.slot).isSome = true →
    (s.dieTime (c.core / 72) ≤ c.wvt → exec (.engineCommandComplete n) s = .next s) ∧
    (c.wvt < s.dieTime (c.core / 72) → Reaches (.engineCommandComplete n) s (fun t => mget? t.cmds n = none ∧
      let g := s.group c.slot
      let w0 : Word := BitVec.ofNat 32 (c.op.code * 2 ^ 24 + c.status * 2 ^ 16 + (if c.status = 0 then c.flags.toNat else 0) * 2 ^ 11 +
        c.ctr * 2 ^ 8 + c.ord % 256)
      (t.group c.slot).kget c.ctr = g.kget c.ctr - 1 ∧
      (c.record = true → g.q14.words = 1 → g.q14.tags.length + 4 ≤ 16 →
        (t.group c.slot).q14 = { g.q14 with tags := g.q14.tags ++ List.replicate 4 [false] } ∧ (t.group c.slot).q14res = g.q14res - 4 ∧
        ∀ k < 4, ∀ i < 4, t.locByte (c.slot / 144) ((s.team g.team).base + g.q14.ofs + 4 * ((g.q14.head + g.q14.tags.length + k) % 16) + i) =
          BitVec.ofNat 8 (((w0 :: c.recordTail).getD k 0).toNat / 2 ^ (8 * i))) ∧
      (c.status = 0 → (t.group c.slot).deferred = g.deferred ∧ (t.group c.slot).nfailed = g.nfailed) ∧
      (c.status ≠ 0 → (t.group c.slot).nfailed = min 255 (g.nfailed + 1) ∧ (g.nfailed = 0 → (t.group c.slot).failed = w0) ∧
        (c.notrap = false → g.trapped = false → (t.group c.slot).deferred =
          g.deferred ++ [{ cause := statusCause c.status, xval := w0, xaddr := BitVec.ofNat 64 c.failAt }])))))) ∧
  (∀ (s : State) (n : Nat) (c : Cmd) (d : EDone) (ls : List (Nat × List Nat)), s.work n c = .got d ls → writesAt c d.puts) ∧
  (∀ q : Int, |q| ≤ 2 ^ 32 → isNaf q (naf q)) ∧
  (∀ (q : Int) (cap : Nat), |q| ≤ 32767 → 1 ≤ cap → cutToT q cap = termSum ((naf q).take cap)) ∧
  (∀ (xs : List FVal) (cap : Nat), encodesRow xs cap (encodeRow xs cap)) ∧
  (∀ (x : Encoded) (cap : Nat), 1 ≤ cap → cap ≤ 8 → x.q ≠ [] → x.scale < 2 ^ 24 → x.q.length < 2 ^ 31 → worstRow x.q.length cap < 2 ^ 32 →
    (∀ q ∈ x.q, |q| ≤ 32768 ∧ (naf q).length ≤ cap) → (scaleIsNan x.scale = true → ∀ q ∈ x.q, q = 0) →
    let bs := x.bytes cap
    let h := rowHead (bs.take 16)
    h.scale = x.scale ∧ h.t = cap ∧ h.k = x.q.length ∧ h.rest = 0 ∧ h.good = true ∧ bs.length = 16 + pad16 h.plen ∧
      (∀ b ∈ bs.drop (16 + h.plen), b = 0) ∧
      readRow h ((bs.drop 16).take h.plen) = some { scale := x.scale, elems := x.q.map (fun q => (q, (naf q).length)) }) ∧
  (∀ (c : Core) (acc : Bool) (p : Nat × Nat) (new : Nat), p.2 < 128 → preparesRow c acc p new (c.prepare acc p new)) ∧
  ∀ (x : Core) (key contrib : Nat),
    (x.fold key contrib).1.accGet key = (BitVec.ofNat 64 (fpAdd Fmt.f64 (x.accGet key).1.toNat contrib).1, (x.accGet key).2) ∧
    (x.fold key contrib).2 = (fpAdd Fmt.f64 (x.accGet key).1.toNat contrib).2 ∧
    ∀ k, k ≠ key → (x.fold key contrib).1.accGet k = x.accGet k

/-! ### Steps of the module: registers and commands -/

/-- R129, R185, R280, R324, R325, R337, R357 to R364: the power commands, heard when none is in progress, the stretch of a core's clock, the
thermal events, channels, ports and the registers they set. A gate at once where nothing is resident and a hold counted from the
sag's event (log 58), and memory that reads 0 after a trip (log 1), are the model's choices. -/
def Obligations.PowerSteps : Prop := ∀ (s : State) (v : Word), s.stopped = false →
  let op := (v.extractLsb' 28 4).toNat
  let named (c : Nat) : Prop := c < 144 ∧ s.pwrCores.getLsbD c = true
  (s.pwrBusy = false → op = 1 → (v.extractLsb' 0 3).toNat < 5 →
    exec (.clock v) s = .next { s with wantPoint := v.extractLsb' 0 3, pwrBusy := true }) ∧
  (s.pwrBusy = true → exec .clockPointReached s = .next { s with point := s.wantPoint, pwrBusy := false }) ∧
  (s.pwrBusy = false → op = 2 → Reaches (.gate v) s (fun t => ∀ c, named c → (t.core c).gateWant = true ∧
    ((s.core c).tasks = [] → (∀ e ∈ s.groups, e.1 / 144 ≠ c) → (t.core c).gated = true))) ∧
  (s.pwrBusy = false → op = 3 → Reaches (.ungate v) s (fun t => ∀ c, named c →
    (t.core c).gateWant = false ∧ (t.core c).gated = false ∧ (t.core c).tasks = (s.core c).tasks ∧
    (t.core c).acc = [] ∧ (t.core c).tags = [] ∧ (t.core c).l1 = [] ∧ (∀ off, t.locByte c off = 0) ∧
    ∀ g, g / 144 = c → (∀ r, (t.group g).sget r = Reg.zero) ∧ ∀ l r, ((t.group g).lane l).vget r = Reg.zero)) ∧
  (s.pwrBusy = false → op = 4 → Reaches (.selfref v) s (fun t => ∀ n < 24, t.selfWant.getLsbD n =
    (s.selfWant.getLsbD n || (if n < 8 then s.pwrHbm.getLsbD n else s.pwrLpd.getLsbD (n - 8))))) ∧
  (∀ n < 24, s.selfWant.getLsbD n = true → s.deviceQuiet n = true →
    Reaches (.selfrefEntry n) s (fun t => t.selfRef.getLsbD n = true ∧ t.selfWant.getLsbD n = false ∧
      ∀ m < 24, m ≠ n → t.selfRef.getLsbD m = s.selfRef.getLsbD m ∧ t.selfWant.getLsbD m = s.selfWant.getLsbD m)) ∧
  (s.pwrBusy = false → op = 5 →
    (s.mayIdle = true → exec (.idle v) s = .next { s with idle := true, refused := false }) ∧
    (s.mayIdle = false → exec (.idle v) s = .next { s with refused := true })) ∧
  exec (.pwrStatWrite v) s = .next { s with tripped := s.tripped && !v.getLsbD 6, droop := s.droop && !v.getLsbD 5 } ∧
  (∀ core k, core < 144 → 1 ≤ k → k ≤ 4 → Reaches (.droopSag core k) s (fun t => t.droop = true ∧
    t.core core = { s.core core with stretch := k, sagEnds := some s.time })) ∧
  (∀ core t0, (s.core core).sagEnds = some t0 →
    (t0 + 1000 ≤ s.time → Reaches (.droopHoldExpiry core) s (fun t => t.core core = { s.core core with stretch := 0, sagEnds := none })) ∧
    (s.time < t0 + 1000 → exec (.droopHoldExpiry core) s = .next s)) ∧
  Reaches .thermalTrip s (fun t => t.stopped = true ∧ t.tripLog = true ∧ t.doms = [] ∧ t.cores = [] ∧ t.groups = [] ∧ t.launches = [] ∧
    ∀ pa, isHost pa = false → t.byte pa = 0) ∧
  (∀ temp : Byte, (110 ≤ temp.toNat → exec (.thermalWarn temp) s = exec .thermalTrip s) ∧
    (temp.toNat < 110 → Reaches (.thermalWarn temp) s (fun t => t.temp = temp ∧ (s.warn ≤ temp → s.hot = false → t.mgmtInt.getLsbD 2 = true) ∧
      (temp < s.warn ∨ s.hot = true → t = { s with temp := temp, hot := decide (s.warn ≤ temp) })))) ∧
  (∀ n < 320, ((s.channel n).state = 0 → Reaches (.channelHalf n) s (fun t => (t.channel n).state = 1 ∧ t.mgmtInt.getLsbD 1 = true)) ∧
    ((s.channel n).state < 2 → s.Unwatched → Reaches (.channelOffline n) s (fun t => (t.channel n).state = 2 ∧ t.mgmtInt.getLsbD 1 = true ∧
      ∀ pa, channelOf (t.locate pa) = some n → t.poisonAt pa = true))) ∧
  (∀ port < 2, ∀ gone, (s.Unwatched → Reaches (.cxlPortDown port gone) s (fun t =>
      let left := ∃ i < (s.cxl port).sizes.length, i ∉ (s.cxl port).gone ∧ gone ≠ some i
      (gone = none ∨ ¬ left → (t.cxl port).up = false ∧ (t.cxl port).downAt.isSome = true) ∧
      (gone ≠ none → left → (t.cxl port).up = (s.cxl port).up ∧ (t.cxl port).downAt = (s.cxl port).downAt) ∧
      t.mgmtInt.getLsbD 3 = true ∧ ∀ k, gone = some k → k ∈ (t.cxl port).gone ∧
        ∀ pa, cxlOf pa = some port → deviceAt (s.cxl port).sizes 0 (pa - cxlBase port) = k → t.rawPoison pa = true)) ∧
    Reaches (.cxlPortUp port) s (fun t => (t.cxl port).up = true ∧ (t.cxl port).downAt = none ∧ t.mgmtInt.getLsbD 3 = true)) ∧
  (∀ n, exec (.refreshPostponementLimit n) s = .next s)

/-- R319, R322, R356, R357, R359: register writes. A plain register of a domain that is on reads back the value written; writing 1 to an INT_STAT
bit clears it; LNK_CFG takes its first sound write; FB_BASE and FB_DEPTH empty the fault buffer's ring; FB_STAT clears DROPPED and
DROPCNT; the replay commands give the accesses they cover their retry or their end, and BUSY clears when all of them have had it. -/
def Obligations.RegisterSteps : Prop := ∀ (s : State) (dom : Nat) (v : Word) (x : DWord), s.stopped = false →
  let d := s.dom dom
  let op := (v.extractLsb' 29 3).toNat
  let space := (v.extractLsb' 0 12).toNat
  let page := d.fbRaddr.toNat / 2 ^ 16 % 2 ^ 41
  let heard := d.active = true ∧ d.fbBusy = false
  let replayed (fate : WaitFate) (key : FaultKey → Bool) (wait : FaultWait → Bool) (t : State) : Prop :=
    (t.dom dom).fbBusy = true ∧ t.pending = s.pending.filter (fun k => !(k.dom == dom && key k)) ∧
    t.waits = s.waits.map (fun w => if w.dom = dom ∧ w.fate = .pending ∧ wait w = true then { w with fate := fate } else w)
  let written (k : FaultKey) : Bool := k.written && k.space == space && k.page == page
  let named (w : FaultWait) : Bool := w.space == space && w.page == page &&
    s.pending.any (fun k => written k && k.dom == dom && k.is w.die w.dom w.space w.page)
  (∀ p ∈ plainRegisters, dom < 8 → d.active = true → s.ready = true →
    Reaches (.registerWrite (dom + 1) p.1 p.2 x) s (fun t => t.regRead (dom + 1) p.1 p.2 = x.toNat % 2 ^ (8 * p.2))) ∧
  Reaches (.intStatWrite 0 v) s (fun t => ∀ n < 8, t.mgmtInt.getLsbD n = (s.mgmtInt.getLsbD n && !v.getLsbD n)) ∧
  (d.active = true → Reaches (.intStatWrite (dom + 1) v) s (fun t => ∀ n < 8,
    (sget 0 t.domInt dom).getLsbD n = ((sget 0 s.domInt dom).getLsbD n && !v.getLsbD n))) ∧
  (s.lnkLock = true → exec (.lnkCfgWrite v) s = .next s) ∧
  (s.lnkLock = false → v.extractLsb' 16 10 ≤ v.extractLsb' 2 10 → exec (.lnkCfgWrite v) s = .next { s with
    lnkLock := true, device := v.extractLsb' 16 10, podM1 := v.extractLsb' 2 10, planes := v.extractLsb' 0 2 }) ∧
  (d.active = true →
    exec (.fbBaseWrite dom x) s = .next (s.modDom dom (fun d => { d with fbBase := x, fbTail := d.fbHead })) ∧
    exec (.fbDepthWrite dom v) s = .next (s.modDom dom (fun d => { d with fbDepth := v.setWidth 17, fbTail := d.fbHead })) ∧
    (v.getLsbD 0 = true → exec (.fbStatWrite dom v) s = .next (s.modDom dom (fun d => { d with dropped := false, dropCnt := 0 }))) ∧
    (v.getLsbD 0 = false → exec (.fbStatWrite dom v) s = .next (s.modDom dom (fun d => { d with dropCnt := v.extractLsb' 16 16 })))) ∧
  (heard → op = 1 → Reaches (.replayAll dom v) s (replayed .retry (fun _ => true) (fun _ => true))) ∧
  (heard → op = 2 → Reaches (.replayPage dom v) s (replayed .retry written named)) ∧
  (heard → op = 3 → Reaches (.endPage dom v) s (replayed .ended written named)) ∧
  (heard → op = 4 → Reaches (.endSpace dom v) s (replayed .ended (fun k => k.space == space) (fun w => w.space == space))) ∧
  (d.fbBusy = true →
    ((∀ w ∈ s.waits, w.dom = dom → w.fate = .pending) → exec (.replayDone dom) s = .next (s.modDom dom (fun d => { d with fbBusy := false }))) ∧
    ((∃ w ∈ s.waits, w.dom = dom ∧ w.fate ≠ .pending) → exec (.replayDone dom) s = .next s))

/-- R250, R285, R290 to R293, R296, R331, R338, R377: the commands of system software over translation, ownership, queues, peers,
pre-emption and page moves, each of a domain that is on: what each sets at once, what it refuses with ERR, and when the waiting
ones are done. What DONE waits for (log 50), TO_DEVICE done in its step and ERR for a range past 2^57 (log 52), STATE 0 at once
for a space with nothing saved (log 79) and the free outcome of ABORT (log 55) are the model's choices. -/
def Obligations.CommandSteps : Prop := ∀ (s : State) (dom die : Nat) (v : Word), s.stopped = false → (s.dom dom).active = true →
  let d := s.dom dom
  let op := (v.extractLsb' 30 2).toNat
  let space := (v.extractLsb' 0 12).toNat
  let q := (v.extractLsb' 0 13).toNat
  let change (f : Domain → Domain) : State := s.modDom dom f
  let gone (t : State) (lo len : Nat) : Prop := ∀ k va, lo ≤ va → va < lo + len → t.held k dom space va = none ∧
    ∀ level, t.walkHeld k dom space va level = none
  (d.invBusy = none →
    (op = 1 → Reaches (.xltInvSpace dom v) s (fun t => gone t 0 (2 ^ 57) ∧ (t.dom dom).invBusy = some (space, 0, 2 ^ 57, s.seq) ∧
      (t.dom dom).invErr = false)) ∧
    (op = 2 → d.invAddr.toNat % 65536 = 0 → d.invLen.toNat % 65536 = 0 → Reaches (.xltInvRange dom v) s (fun t =>
      gone t d.invAddr.toNat d.invLen.toNat ∧ (t.dom dom).invBusy = some (space, d.invAddr.toNat, d.invLen.toNat, s.seq) ∧ (t.dom dom).invErr = false)) ∧
    (op = 2 → d.invAddr.toNat % 65536 ≠ 0 ∨ d.invLen.toNat % 65536 ≠ 0 →
      exec (.xltInvRange dom v) s = .next (change (fun d => { d with invErr := true }))) ∧
    (op = 3 → d.invAddr.toNat % 32 = 0 → d.invLen.toNat % 32 = 0 → Reaches (.xltInvHandles dom v) s (fun t =>
      ∀ lid ∈ s.tablesOver dom space d.invAddr.toNat d.invLen.toNat, ∀ core i, i < 4096 → mget? (t.core core).hcache (4096 * lid + i) = none)) ∧
    (op = 3 → d.invAddr.toNat % 32 ≠ 0 ∨ d.invLen.toNat % 32 ≠ 0 →
      exec (.xltInvHandles dom v) s = .next (change (fun d => { d with invErr := true })))) ∧
  (∀ sp lo len n, d.invBusy = some (sp, lo, len, n) → sp < 4096 →
    (s.spaceQuiet dom sp n = false → exec (.xltInvDone dom) s = .next s) ∧
    (s.spaceQuiet dom sp n = true → s.rewalk dom sp lo len = none →
      Reaches (.xltInvDone dom) s (fun t => (t.dom dom).invBusy = none ∧ t.mem = s.mem ∧
        ∀ k va, lo ≤ va → va < lo + len → t.held k dom sp va = none))) ∧
  (d.ownBusy = none →
    (op = 2 → s.ownLeaves dom space = none → exec (.toHost dom v) s = .next (change (fun d => { d with ownErr := true }))) ∧
    (op = 1 → s.ownLeaves dom space = none → exec (.toDevice dom v) s = .next (change (fun d => { d with ownErr := true }))) ∧
    (∀ a e, s.ownLeaves dom space = some [(a, e)] → s.Plain → s.ownWrites = [] → s.rangeHeld a 8 = false →
      (op = 2 → Reaches (.toHost dom v) s (fun t => Stored s t a (leBytes 8 (if e.testBit 5 then e else e + 32)) ∧
        gone t d.ownAddr.toNat d.ownLen.toNat ∧ (t.dom dom).ownErr = false ∧
        (t.dom dom).ownBusy = some { space := space, lo := d.ownAddr.toNat, len := d.ownLen.toNat, moment := s.time
                                     seq := s.seq, until_ := none })) ∧
      (op = 1 → Reaches (.toDevice dom v) s (fun t => Stored s t a (leBytes 8 (if e.testBit 5 then e - 32 else e)) ∧
        (t.dom dom).ownErr = false ∧ (t.dom dom).ownBusy = none)))) ∧
  (∀ h, d.ownBusy = some h → h.space < 4096 →
    let quiet := s.spaceQuiet dom h.space h.seq = true ∧ s.domainDone dom h.seq = true
    s.rewalk dom h.space h.lo h.len = none →
    (¬ quiet → exec (.toHostDone dom) s = .next s) ∧
    (quiet → h.until_ = none →
      exec (.toHostDone dom) s = .next (change (fun d => { d with ownBusy := some { h with until_ := some s.visibleAt } }))) ∧
    (quiet → ∀ n, h.until_ = some n →
      let due := h.moment + 4104 < s.time ∧ n < s.dieTime 0 ∧ n < s.dieTime 1
      (¬ due → exec (.toHostDone dom) s = .next s) ∧
      (due → Reaches (.toHostDone dom) s (fun t => (t.dom dom).ownBusy = none ∧ t.mem = s.mem ∧
        ∀ line, isHost (128 * line) = true → mget? t.dirty line = none)))) ∧
  (op = 1 → d.qcWait = none → (d.queueEntry q = none → exec (.qfeLoadStart dom v) s = .next (change (fun d => { d with qcErr := true, qcWait := none }))) ∧
    ∀ a, d.queueEntry q = some a → s.rangeHeld a 32 = false → s.homePoisonIn a 32 = false →
      (queueOf dom a (s.homeBytes a 32) = none → exec (.qfeLoadStart dom v) s = .next (change (fun d => { d with qcErr := true, qcWait := none }))) ∧
      ∀ x, queueOf dom a (s.homeBytes a 32) = some x → Reaches (.qfeLoadStart dom v) s (fun t => mget? t.queues q = some x ∧
        (t.dom dom).qcErr = false)) ∧
  (op = 2 → d.qcWait = none → ∀ a x, d.queueEntry q = some a → mget? s.queues q = some x → Reaches (.qfeStop dom v) s (fun t =>
    mget? t.queues q = some { x with running := false } ∧ (t.dom dom).qcErr = false)) ∧
  (v.getLsbD 0 = true → exec (.peerSync dom v) s = .next (change (fun d => { d with peerSync := true }))) ∧
  (d.peerSync = true → (∀ e ∈ s.peerWait, e.2.window / 256 ≠ dom) →
    exec (.peerSyncDone dom) s = .next (change (fun d => { d with peerSync := false }))) ∧
  (op = 1 → d.preState ≠ 1 → Reaches (.preempt dom v) s (fun t => (t.dom dom).preState = 1 ∧ (t.dom dom).preTeams = 0 ∧
    (t.dom dom).drain = some { space := space, since := s.time, resume := false } ∧ space ∈ (t.dom dom).stopped)) ∧
  (op = 2 → d.drain = none → Reaches (.resume dom v) s (fun t => space ∉ (t.dom dom).stopped ∧
    ((∃ k ∈ s.saved, k.dom = dom ∧ k.space = space) → (t.dom dom).preState = 1 ∧
      (t.dom dom).drain = some { space := space, since := s.time, resume := true }) ∧
    ((∀ k ∈ s.saved, ¬ (k.dom = dom ∧ k.space = space)) → (t.dom dom).preState = 0 ∧ (t.dom dom).drain = none))) ∧
  (op = 2 → ∀ x, d.drain = some x → x.resume = false → Reaches (.resume dom v) s (fun t => (t.dom dom).preState = 3 ∧ (t.dom dom).drain = none)) ∧
  (op = 1 → die < 2 → (d.mig die).busy = false → Reaches (.move dom die v) s (fun t => ((t.dom dom).mig die).walk = some space ∧
    ((t.dom dom).mig die).state = 0 ∧ ((t.dom dom).mig die).code = 0)) ∧
  (op = 2 → (d.mig die).state = 1 →
    ((d.mig die).abort = true → exec (.abort dom die v) s = .next s) ∧
    ((d.mig die).abort = false → Reaches (.abort dom die v) s (fun t =>
      ((t.dom dom).mig die).state = 3 ∨ (((t.dom dom).mig die).state = 1 ∧ ((t.dom dom).mig die).abort = true))))

/-! ### Steps of the module: saves, page moves, ropes, the Seoft controller -/

/-- R250 to R253, R328 to R341: a drain whose groups are all held saves the space, or ends with STATE 3 when the save region does
not hold it; a MOVE's walk ends in a move, a refusal or a wait; a chunk copy moves the cursor without changing any byte the
page reads as; a return switches a chunk, copied back if it was written at the destination, and ends with the first; a commit
puts the destination into the leaf and drops the page's translations, and the move ends once no access of the old leaf is
left; a lost location turns the move, and where it costs chunks (those written at a lost destination, those not yet copied from a
lost source) LOST is set in the leaf, the page's translations are dropped, every sector of those chunks at the place that is left
is poisoned with its bytes as they stood, and the move ends FAILED with the loss's code; a cairn epoch halves the counters. Other
domains may be there beside the one whose page moves; they have no page in motion and no rope. A chunk's copy, a commit and an
end as one step each (log 19) and the MIG registers read at the walk's end (log 54) are the model's choices. -/
def Obligations.SavesAndMoves : Prop := ∀ (s : State) (dom die : Nat) (d : Domain), s.stopped = false → mget? s.doms dom = some d → s.Unwatched →
  (s.doms.map Prod.fst).Nodup → dom < 8 → die < 2 →
  (∀ e ∈ s.doms, e.2.rope.state = 0 ∧ (e.2.mig (1 - die)).move = none ∧ (e.1 ≠ dom → (e.2.mig die).move = none)) →
  let m := d.mig die
  (∀ x, d.drain = some x → x.resume = false → s.allHeld dom x.space = true →
    let ls := (s.launches.filter (fun e => e.2.dom == dom && e.2.space == x.space)).map (fun e => e.1)
    let ts := (s.teams.filter (fun e => s.inSpace dom x.space e.2)).map (fun e => e.1)
    let len := ts.foldl (fun n t => n + (s.teamArea t 0).length) (64 + 128 * ls.length)
    (d.saveLen.toNat < len → Reaches (.preemptSave dom) s (fun t => (t.dom dom).preState = 3 ∧ (t.dom dom).drain = none ∧
      t.teams = s.teams ∧ t.saved = s.saved ∧ t.mem = s.mem)) ∧
    (len ≤ d.saveLen.toNat → d.saveBase.toNat % 256 = 0 → s.domHoldsRange dom d.saveBase.toNat len = true →
      s.rangeHeld d.saveBase.toNat len = false → Reaches (.preemptSave dom) s (fun t => (t.dom dom).preState = 2 ∧ (t.dom dom).preTeams = ts.length ∧ (t.dom dom).drain = none ∧
        (∀ tid ∈ ts, mget? t.teams tid = none) ∧ (∀ e ∈ t.groups, e.2.team ∉ ts) ∧ t.saved.length = s.saved.length + ts.length))) ∧
  (∀ space, m.walk = some space → s.agentWaits (.moveWalk dom die) = false → m.va.toNat < 2 ^ 57 →
    s.endedCause (.moveWalk dom die) die space m.va.toNat = none → s.walkWaits dom space m.va.toNat (fun _ => none) = false →
    (∀ a level e, s.walk dom space m.va.toNat = .leaf a level e →
      let code := s.moveCode dom die m.va.toNat m.dst.toNat e (levelSize level)
      (code ≠ 0 → Reaches (.moveWalkEnd dom die) s (fun t => ((t.dom dom).mig die).walk = none ∧ ((t.dom dom).mig die).state = 0 ∧
        ((t.dom dom).mig die).code = code)) ∧
      (code = 0 → Reaches (.moveWalkEnd dom die) s (fun t => ((t.dom dom).mig die).state = 1 ∧ ((t.dom dom).mig die).cursor = 0 ∧
        ((t.dom dom).mig die).move = some { space := space, va := m.va.toNat, src := entryAddr e, dst := m.dst.toNat, size := levelSize level,
                                            leafPa := a, written := [], lost := [], lossKind := 0, committed := none
                                            off := (s.channels.filter (fun c => c.2.state == 2)).map (fun c => c.1) }))) ∧
    (∀ level, s.walk dom space m.va.toNat = .bad level → Reaches (.moveWalkEnd dom die) s (fun t => t.agentWaits (.moveWalk dom die) = true))) ∧
  (∀ x, m.move = some x → x.src % 4096 = 0 → x.dst % 4096 = 0 → x.size % 4096 = 0 → overlap (x.src, x.size) (x.dst, x.size) = false →
    let chunk (j : Nat) : List Nat := (List.range 32).map (fun k => x.src / 128 + 32 * j + k)
    let clean (j : Nat) : Prop := ∀ n ∈ chunk j, mget? s.dirty (s.locate (128 * n) / 128) = none
    let count := x.size / 4096
    let sound := s.brokenAt x x.src x.size = false ∧ s.brokenAt x x.dst x.size = false
    let kept (t : State) : Prop := ∀ k < x.size, t.byte (x.src + k) = s.byte (x.src + k)
    let returned (t : State) : Prop :=
      ((t.dom dom).mig die).move = none ∧ ((t.dom dom).mig die).state = (if x.lost = [] then 5 else 6) ∧ ((t.dom dom).mig die).code = x.lossKind
    let leafFree := s.ownWrites = [] ∧ s.rangeHeld x.leafPa 8 = false ∧ (x.leafPa + 8 ≤ x.src ∨ x.src + x.size ≤ x.leafPa)
    let dropped (t : State) : Prop := ∀ k va, x.va ≤ va → va < x.va + x.size → t.held k dom x.space va = none
    (x.lossKind = 0 → m.state = 1 → m.cursor < count → clean m.cursor → sound → Reaches (.chunkCopy dom die) s (fun t =>
      let u := (t.dom dom).mig die
      u.cursor = m.cursor + 1 ∧ u.state = (if m.abort then 3 else if m.cursor + 1 = count then 2 else 1) ∧ kept t)) ∧
    (x.lossKind = 0 → m.state = 3 → 1 < m.cursor → m.cursor ≤ count → sound → Reaches (.chunkReturn dom die) s (fun t =>
      let u := (t.dom dom).mig die
      u.cursor = m.cursor - 1 ∧ u.state = 3 ∧ kept t ∧ (m.cursor - 1 ∉ x.written → t.mem = s.mem))) ∧
    (x.lossKind = 0 → m.state = 3 → m.cursor = 1 → 1 ≤ count → sound → m.map = 0 → Reaches (.chunkReturn dom die) s (fun t => returned t ∧ kept t)) ∧
    (m.state = 3 → m.cursor = 0 → m.map = 0 → Reaches (.chunkReturn dom die) s (fun t => returned t ∧ t.mem = s.mem)) ∧
    (m.state = 2 → x.committed = none → s.dirty = [] → leafFree →
      Reaches (.migrationCommit dom die) s (fun t =>
        let u := (t.dom dom).mig die
        u.state = 2 ∧ (∃ y, u.move = some y ∧ y.committed.isSome = true) ∧ dropped t ∧
        (let e := s.natAt x.leafPa 8
         t.natAt x.leafPa 8 = (e - entryAddr e + x.dst) % 2 ^ 64))) ∧
    (∀ n, m.state = 2 → x.committed = some n →
      (s.spaceQuiet dom x.space n = false → exec (.migrationCommit dom die) s = .next s) ∧
      (s.spaceQuiet dom x.space n = true → m.map = 0 → Reaches (.migrationCommit dom die) s (fun t =>
        let u := (t.dom dom).mig die
        u.move = none ∧ u.state = (if x.lost = [] then 4 else 6) ∧ u.code = (if x.lost = [] then 0 else 8) ∧ t.mem = s.mem))) ∧
    (∀ source : Bool, x.lossKind = 0 → m.state = 1 ∨ m.state = 3 → s.mayLose x (if source then x.src else x.dst) x.size = true →
      s.groups = [] → m.cursor ≤ count → leafFree →
      let lost := if source then (List.range (count - m.cursor)).map (fun k => m.cursor + k) else x.written.filter (fun j => decide (j < m.cursor))
      let left := if source then x.dst else x.src
      Reaches (.locationLost dom die source) s (fun t =>
        let u := (t.dom dom).mig die
        u.state = (if source then 2 else 3) ∧ u.abort = false ∧
        (∃ y, u.move = some y ∧ y.lossKind = (if source then 8 else 7) ∧ y.lost = lost ∧ y.written = x.written) ∧
        (lost = [] → t.mem = s.mem ∧ t.memPoison = s.memPoison) ∧
        (lost ≠ [] → t.natAt x.leafPa 8 = s.natAt x.leafPa 8 ||| 2 ^ 52 ∧ dropped t ∧
          (∀ j ∈ lost, ∀ i < 128, t.rawPoison (left + 4096 * j + 32 * i) = true) ∧
          ∀ a, a < x.leafPa ∨ x.leafPa + 8 ≤ a → t.rawByte a = s.rawByte a)))) ∧
  (m.move = none → s.flight = [] → s.peerLocks = [] → s.ownWrites = [] → d.active = true → d.crnOn = true → d.crnNext ≤ s.time → Reaches (.cairnEpoch dom) s (fun t =>
    (t.dom dom).crnNext = d.crnNext + 2 ^ (d.crnEpoch.toNat + 10) ∧
    ∀ k < d.crnCount.toNat, s.domHolds dom (d.crnBase.toNat + 2 * k) = true →
      t.natAt (d.crnBase.toNat + 2 * k) 2 = s.natAt (d.crnBase.toNat + 2 * k) 2 / 2))

/-- R342 to R354, R375, R379: the rope commands and steps of a member, heard when none is in progress: the refusals by their codes, JOIN into
seeding or rebuilding, LEAVE, LOSE, SETCUT, REBUILD and REPAIR; a seeding member and a rebuilding one advance by a
stripe; a holder takes a delta in its order from the module at its source position, adds it to its parity line and acknowledges it; a
member answers a repair's read of a line when no delta of it is on its way; a flush is answered when nothing of it is
outstanding and its lines' members have finished seeding. R350, R353: a REPAIR of a page that stands in the frame map, its leaf LOST
or not, starts at the page's first stripe; each of its stripes, like each of a rebuild, puts the decoded line with its tags into DRAM
where the L2 has no newer one, and the last of the 512 ends it with code 0; too few inputs end it with TOOFEW. The codes that refuse
a REPAIR and what JOIN accepts (log 56), and what a survivable flush waits for (log 41), are the model's choices. -/
def Obligations.RopeSteps : Prop := ∀ (s : State) (dom : Nat) (v : Word) (d : RopeDesc), s.stopped = false → (s.dom dom).active = true →
  d.k ≤ 16 → d.m ≤ 3 →
  let r := (s.dom dom).rope
  let op := (v.extractLsb' 28 4).toNat
  let pos := (v.extractLsb' 0 5).toNat
  let used := pos < d.k ∨ (16 ≤ pos ∧ pos < 16 + d.m)
  let data := d.self < 16
  let cut := r.arg.toNat % 2 ^ 48
  (r.busy = .none →
    (op = 1 → (r.state ≠ 0 → Reaches (.join dom v) s (fun t => t.ropeEnded dom 2)) ∧
      (r.state = 0 → s.ropeDescAt dom = none → Reaches (.join dom v) s (fun t => t.ropeEnded dom 1)) ∧
      (r.state = 0 → s.ropeDescAt dom = some d → Reaches (.join dom v) s (fun t =>
        let u := (t.dom dom).rope
        u.desc = some d ∧ u.cur = 0 ∧ u.code = 0 ∧ ((u.state = 1 ∧ u.busy = .seeding) ∨ (u.state = 5 ∧ u.busy = .rebuilding))))) ∧
    (op = 2 → Reaches (.leave dom v) s (fun t => t.ropeEnded dom 0 ∧ (t.dom dom).rope.state = 0)) ∧
    (r.desc = none → (op = 3 → Reaches (.lose dom v) s (fun t => t.ropeEnded dom 7)) ∧
      (op = 4 → Reaches (.setcut dom v) s (fun t => t.ropeEnded dom 7)) ∧ (op = 5 → Reaches (.rebuild dom v) s (fun t => t.ropeEnded dom 7)) ∧
      (op = 6 → Reaches (.repair dom v) s (fun t => t.ropeEnded dom 7))) ∧
    (r.desc = some d →
      (op = 3 → ¬ used → Reaches (.lose dom v) s (fun t => t.ropeEnded dom 3)) ∧
      (op = 3 → used → Reaches (.lose dom v) s (fun t => t.ropeEnded dom 0 ∧ (t.dom dom).rope.lost.getLsbD pos = true ∧
        ∀ q ∈ t.remote, ∀ y, q.kind ≠ .delta dom pos y)) ∧
      (op = 4 → ¬ used → Reaches (.setcut dom v) s (fun t => t.ropeEnded dom 3)) ∧
      (op = 4 → used → ¬ data → pos < 16 → cut < sget 0 r.retired pos → Reaches (.setcut dom v) s (fun t => t.ropeEnded dom 4)) ∧
      (op = 4 → used → ¬ data → pos < 16 → sget 0 r.retired pos ≤ cut → Reaches (.setcut dom v) s (fun t => t.ropeEnded dom 0 ∧
        mget? (t.dom dom).rope.seqs pos = some cut ∧ ∀ y ∈ sget [] (t.dom dom).rope.logs pos, y.seq ≤ cut)) ∧
      (op = 5 → s.ropeDescAt dom = none → Reaches (.rebuild dom v) s (fun t => t.ropeEnded dom 1)) ∧
      (op = 5 → ∀ e, s.ropeDescAt dom = some e → sameButMember d.bytes e.bytes pos = true →
        (r.lost.getLsbD pos = false → Reaches (.rebuild dom v) s (fun t => t.ropeEnded dom 3)) ∧
        (r.lost.getLsbD pos = true → Reaches (.rebuild dom v) s (fun t => t.ropeEnded dom 0 ∧ (t.dom dom).rope.desc = some e ∧
          (mget? (t.dom dom).rope.starts pos).isSome = true))) ∧
      (op = 6 → r.state ≠ 2 → r.state ≠ 3 → Reaches (.repair dom v) s (fun t => t.ropeEnded dom 6)) ∧
      (op = 6 → r.state = 2 ∨ r.state = 3 → ¬ data → Reaches (.repair dom v) s (fun t => t.ropeEnded dom 5)) ∧
      (op = 6 → r.state = 2 ∨ r.state = 3 → data →
        let va := r.arg.toNat
        let inside := va % 65536 = 0 ∧ d.pvbase ≤ va ∧ va < d.pvbase + d.plen ∧ s.endedCause (.rope dom) 0 d.pspace va = none
        (¬ inside → Reaches (.repair dom v) s (fun t => t.ropeEnded dom 5)) ∧
        (inside → s.walkWaits dom d.pspace va (fun _ => none) = false → ∀ a level e, s.walk dom d.pspace va = .leaf a level e →
          let frame := (entryAddr e + va % levelSize level) / 65536
          let step := (va - d.pvbase) / 65536
          (mget? r.frames step ≠ some frame → Reaches (.repair dom v) s (fun t => t.ropeEnded dom 5)) ∧
          (mget? r.frames step = some frame → Reaches (.repair dom v) s (fun t =>
            let u := (t.dom dom).rope
            u.busy = .repairing va frame ∧ u.cur = 512 * step ∧ u.code = 0 ∧ u.state = r.state ∧ t.mem = s.mem)))))) ∧
  (r.desc = some d →
    (r.busy = .seeding → data → r.cur + 1 < d.stripes → ∀ n, r.lineOf r.cur = some n → r.roomFor 1 = true →
      Reaches (.seedStripe dom) s (fun t => (t.dom dom).rope.cur = r.cur + 1 ∧ (t.dom dom).rope.busy = .seeding ∧
        sget 0 (t.dom dom).rope.seqs d.self = sget 0 r.seqs d.self + 1)) ∧
    (∀ xs, r.busy = .rebuilding → s.Unwatched → s.inputsWait r d = false → d.k ≤ (s.inputsOf r d xs).length → r.cur + 1 < d.stripes →
      Reaches (.rebuildStripe dom xs) s (fun t => (t.dom dom).rope.cur = r.cur + 1 ∧ (t.dom dom).rope.busy = .rebuilding ∧
        ∀ l, r.placeOf d r.cur = some l → t.rawLine (lineOf (s.locate (128 * l))) = decodeInputs s.free d.k d.self (s.inputsOf r d xs))) ∧
    (∀ xs va frame, r.busy = .repairing va frame → s.Unwatched → s.inputsWait r d = false →
      let inputs := s.inputsOf r d xs
      let last := (va - d.pvbase) / 128 + 512
      let at_ := lineOf (s.locate (128 * (512 * frame + r.cur % 512)))
      (inputs.length < d.k → Reaches (.rebuildStripe dom xs) s (fun t => t.ropeEnded dom 6 ∧ t.mem = s.mem)) ∧
      (d.k ≤ inputs.length → Reaches (.rebuildStripe dom xs) s (fun t =>
        (r.cur + 1 < last → (t.dom dom).rope.cur = r.cur + 1 ∧ (t.dom dom).rope.busy = .repairing va frame) ∧
        (last ≤ r.cur + 1 → t.ropeEnded dom 0) ∧
        (mget? s.dirty at_ = none → t.rawLine at_ = decodeInputs s.free d.k d.self inputs)))) ∧
    (∀ xs, r.busy = .rebuilding → s.inputsWait r d = false → (s.inputsOf r d xs).length < d.k → Reaches (.rebuildStripe dom xs) s (fun t =>
      t.ropeEnded dom 6 ∧ (t.dom dom).rope.state = 4)) ∧
    (∀ stripe from_, r.state ≠ 0 → r.state ≠ 5 → stripe < d.stripes → (data → s.deltasOpen dom stripe from_ = false) →
      Reaches (.repairInputRequest dom stripe from_) s (fun t => (∃ x, t.outbox = s.outbox ++ [.stripe dom stripe from_ x]) ∧
        (data → stripe ∈ (t.dom dom).rope.frozen) ∧ t.mem = s.mem)) ∧
    (∀ x : Delta, x.module ≠ d.module x.source ∨ x.domain ≠ d.domain x.source → exec (.deltaApply dom x) s = .next s) ∧
    (∀ (x : Delta) (q : Nat), r.state = 1 ∨ r.state = 2 ∨ r.state = 3 → ¬ data → x.ropeId = d.ropeId → x.source < d.k → x.stripe < d.stripes →
      x.module = d.module x.source → x.domain = d.domain x.source →
      r.lost.getLsbD x.source = false → mget? r.seqs x.source = some q → r.early = [] →
      let ack : Msg := .deltaAck (d.module x.source) x.source x.seq
      (x.seq ≤ q → exec (.deltaApply dom x) s = .next { s with outbox := s.outbox ++ [ack] }) ∧
      (x.seq = q + 1 → Reaches (.deltaApply dom x) s (fun t => t.outbox = s.outbox ++ [ack] ∧
        mget? (t.dom dom).rope.seqs x.source = some x.seq ∧ (t.dom dom).rope.early = [])) ∧
      (q + 1 < x.seq → Reaches (.deltaApply dom x) s (fun t => t.outbox = s.outbox ∧ (t.dom dom).rope.early = [x] ∧ t.mem = s.mem))) ∧
    (∀ p s0, r.state ≠ 0 → ¬ data → p < d.k → mget? r.seqs p = none → r.early = [] →
      Reaches (.rebuildStartMarker dom p s0) s (fun t => t.outbox = s.outbox ++ [.deltaAck (d.module p) p s0] ∧
        mget? (t.dom dom).rope.seqs p = some s0)) ∧
    (∀ lines, (∀ n ∈ lines, mget? s.dirty (lineOf (s.locate (128 * n))) = none) → s.holdersOpen dom = false →
      ((∀ n ∈ lines, s.covers n = true) → exec (.survivableFlush dom lines) s = .next { s with outbox := s.outbox ++ [.flushAck dom] }) ∧
      ((∃ n ∈ lines, s.covers n = false) → exec (.survivableFlush dom lines) s = .next s)))

/-- R277, R278, R300 to R303, R312, R357, R363: the mailbox commands, heard in a window that exists, end with their codes; a report or a certificate
stands at the buffer; DOMCFG activates a sound domain, DOMOFF ends one; a reset whose images all pass leaves the module as R363 says, and
one whose images do not leaves it without domains; function-level resets; an uncorrectable error tags its word or sector, or
drops a clean copy. The rules of the buffer, the order of DOMCFG's checks and BADCMD for DOMOFF of an off domain (log 57), what
the resets keep and clear (log 59), and memory that reads 0 after one (log 1) are the model's choices. -/
def Obligations.SeoftAndResets : Prop := ∀ (s : State) (win dom : Nat) (v : Word), s.stopped = false →
  let op := (v.extractLsb' 24 8).toNat
  let target := (v.extractLsb' 0 3).toNat
  let heard := win = 0 ∨ (win ≤ 8 ∧ (s.dom (win - 1)).active = true)
  let buf := ((mget? s.mailbox win).elim 0 (fun m => m.buf)).toNat
  let ended (i : Instr) (code : Nat) (more : State → Prop) : Prop := Reaches i s (fun t =>
    (t.mail win).code = BitVec.ofNat 16 code ∧ (t.mail win).done = true ∧ more t)
  let stands (bs : List Byte) (t : State) : Prop := Stored s t buf bs
  (heard →
    (op = 1 → (win ≠ 0 → target ≠ win - 1 → ended (.report win v) 6 (fun t => t.mem = s.mem)) ∧
      (win = 0 ∨ target = win - 1 → s.bufferOk win buf 30496 = false → ended (.report win v) 5 (fun t => t.mem = s.mem)) ∧
      (win = 0 ∨ target = win - 1 → s.bufferOk win buf 30496 = true → s.homePoisonIn buf 32 = false → s.Plain →
        let body := s.reportBody target (s.bytesAt buf 32)
        ended (.report win v) 0 (stands (body ++ s.signature body)))) ∧
    (op = 2 → let cert := Config.certificate (Config.slhPublic s.seeds)
      (s.bufferOk win buf cert.length = false → ended (.getcert win v) 5 (fun t => t.mem = s.mem)) ∧
      (s.bufferOk win buf cert.length = true → s.Plain → ended (.getcert win v) 0 (stands cert))) ∧
    (op = 3 → (win ≠ 0 → ended (.domcfg win v) 6 (fun t => t.doms = s.doms)) ∧
      (win = 0 → s.bufferOk 0 buf 128 = false → ended (.domcfg win v) 5 (fun t => t.doms = s.doms)) ∧
      (win = 0 → s.bufferOk 0 buf 128 = true → s.homePoisonIn buf 128 = false →
        let block := s.homeBytes buf 128
        let d := domainOf block
        ((s.dom target).active = true → ended (.domcfg win v) 2 (fun t => t.doms = s.doms)) ∧
        ((s.dom target).active = false → blockOk block target = false → ended (.domcfg win v) 1 (fun t => t.doms = s.doms)) ∧
        ((s.dom target).active = false → blockOk block target = true →
          ((∃ e ∈ s.doms, e.2.active = true ∧ d.conflicts e.2 = true) → ended (.domcfg win v) 3 (fun t => t.doms = s.doms)) ∧
          ((∀ e ∈ s.doms, e.2.active = true → d.conflicts e.2 = false) →
            ((s.setDomain target d).tablesOk target d = false → ended (.domcfg win v) 4 (fun t => t.doms = s.doms)) ∧
            ((s.setDomain target d).tablesOk target d = true → ended (.domcfg win v) 0 (fun t => t.dom target = d ∧
              t.dmeasOf target = shake256 (s.dmeasOf target ++ block) 64)))))) ∧
    (op = 4 → (win ≠ 0 → ended (.domoff win v) 6 (fun t => t.doms = s.doms)) ∧
      (win = 0 → (s.dom target).active = false → ended (.domoff win v) 1 (fun t => t.doms = s.doms)) ∧
      (win = 0 → (s.dom target).active = true → s.groups = [] → s.launches = [] → s.peerWait = [] → ended (.domoff win v) 0 (fun t =>
        mget? t.doms target = none ∧ (∀ e ∈ t.tlb, e.dom ≠ target) ∧ (∀ q ∈ t.queues, q.2.dom ≠ target) ∧
        (∀ c, (s.dom target).cores.getLsbD c = true → (∀ off, t.locByte c off = 0) ∧ (t.core c).acc = [] ∧ (t.core c).tasks = []) ∧
        ((s.dom target).scrub = true → ∀ pa, s.domHolds target pa = true → mget? t.mem pa = none))))) ∧
  (∀ x : BootInput, let boot := bootImages s.keyDigest s.minSvn x.images 4 [] []
    let r := s.bringUp x
    exec (.coldReset x) s = .next r ∧ exec (.hotReset x) s = .next r ∧ r.epoch = s.epoch + 1 ∧ r.time = 0 ∧ r.cycles = 0 ∧ r.groups = [] ∧
    r.launches = [] ∧ r.cores = [] ∧ r.selfRef = 0 ∧ r.stopped = false ∧ (∀ pa, isHost pa = false → r.byte pa = 0) ∧
    (boot.2.2 = none → r.ready = true ∧ r.bootFail = false ∧ r.doms = [(0, Domain.whole)] ∧ r.point = 0) ∧
    (boot.2.2 ≠ none → r.ready = false ∧ r.bootFail = true ∧ r.doms = [] ∧ (r.mail 0).done = true)) ∧
  ((s.dom dom).active = true → Reaches (.flrDomain dom) s (fun t => (∀ e ∈ t.queues, e.2.dom = dom → e.2.running = false) ∧
    (∀ lid l, mget? s.launches lid = some l → l.dom = dom → (t.launch lid).killed = true ∧ (t.launch lid).fail.isSome = true) ∧ t.mem = s.mem)) ∧
  exec .flrManagement s = .next { s with mgmtInt := 0, posted := s.posted.filter (fun p => p.1 != 0) } ∧
  (s.Unwatched → ∀ e : ErrorSite, ∃ t, exec (.uncorrectableError e) s = .next t ∧ t.mem = s.mem ∧ (match e with
    | .atom pa => s.assigned pa = true →
        (mget? s.dirty (pa / 128) = none → t.rawPoison (pa / 64 * 64) = true ∧ t.rawPoison (pa / 64 * 64 + 32) = true) ∧
        (∀ old, mget? s.dirty (pa / 128) = some old → ∃ new, mget? t.dirty (pa / 128) = some new ∧ new.bytes = old.bytes ∧
          ∀ i < old.poison.length, new.poison[i]? = some (old.poison.getD i false || i / 2 == pa / 64 % 2)) ∧
        ∀ n, channelOf pa = some n → (t.channel n).ue = if (s.channel n).ue = 0xFFFF then 0xFFFF else (s.channel n).ue + 1
    | .l2 sector => (mget? s.dirty (sector / 4)).isSome = true → t.rawPoison (32 * sector) = true
    | .copy c line => t.copyAt c line = none
    | .constCopy core line => mget? (t.core core).ccache line = none
    | .codeCopy core line => mget? (t.core core).icache line = none
    | .localSector core sector => 32 * sector + 32 ≤ 1572864 → t.locPoisonIn core (32 * sector) 32 = true
    | .accumulator core tile row col => ((t.core core).accGet (16384 * tile + 128 * row + col)) = (((s.core core).accGet (16384 * tile + 128 * row + col)).1, true)
    | .vreg g lane n => n < (s.group g).nregs → lane < (s.group g).lanes.length →
        ((t.group g).lane lane).vget n = { ((s.group g).lane lane).vget n with poison := true }
    | .sreg g n => n < 128 → (mget? s.groups g).isSome = true → (t.group g).sget n = { (s.group g).sget n with poison := true }
    | .queue _ _ _ _ => t.groups = s.groups
    | .q14 g k => ∀ x y, (s.group g).q14.tags[k]? = some (x :: y) → (t.group g).q14.tags[k]? = some (true :: y)
    | .engine n => ∀ c, mget? s.cmds n = some c → c.phase ≠ .finishing →
        ∃ d, mget? t.cmds n = some d ∧ d.status = 0x0B ∧ d.phase = .finishing))

/-! ### The whole machine -/

/-- R36 to R53: the encoding and the decoder agree on every instruction word. An instruction that no ILLEGAL test refuses decodes from
its word, operand for operand, with the chain bit as it stands; and a word that decodes is the encoding of a well-formed
instruction, bit for bit. -/
def Obligations.EncodingRoundTrip : Prop :=
  (∀ (i : Instr) (w : Word), i.wellFormed = true → encode i = some w →
    decode w = .ok (false, i) ∧ decode (w ||| 0x80000000#32) = .ok (true, i)) ∧
  ∀ (w : Word) (c : Bool) (i : Instr), decode w = .ok (c, i) →
    i.wellFormed = true ∧ c = w.getLsbD 31 ∧ encode i = some (w &&& 0x7FFFFFFF#32)

/-- R48, R53, R262, R263, R310, R316, R92: words that the spec writes out decode to the instructions it writes beside them, and
words it calls ILLEGAL do not decode. -/
def Obligations.DecodedWords : Prop :=
  decode 0x00000000#32 = .ok (false, .nop) ∧
  decode 0x3B050245#32 = .ok (false, .cvt (.v 5) (.v 2) .f32 .f64) ∧
  decode 0x3C060704#32 = .ok (false, .cvtz (.v 6) (.v 7) .s32 .f32) ∧
  decode 0x3B83894B#32 = .ok (false, .cvt (.s 3) (.s 9) .f32 .e2m1) ∧
  decode 0x7A000000#32 = .ok (false, .ret) ∧
  decode 0x7F008500#32 = .ok (false, .trap (.s 5)) ∧
  decode 0x7F000001#32 = .ok (false, .bkpt) ∧
  decode 0x7F000002#32 = .ok (false, .xret) ∧
  decode 0x7F030105#32 = .ok (false, .ptest (.v 3) (.v 1)) ∧
  decode 0x7F010106#32 = .ok (false, .pclr (.v 1) (.v 1)) ∧
  decode 0x7A000001#32 = .error .fixedField ∧
  decode 0x7F010001#32 = .error .fixedField ∧
  decode 0x7F007000#32 = .error .trapQueue ∧
  decode 0x3B050244#32 = .error .equalTypes

/-- R29 to R34, R211, R222, R230, R306: a step runs the decoded instruction. When a group issues next (the first word of a core
cycle, or the second), its class is in no stalled trap entry and has no deferred trap to take first, and its fetch finds a packet
whose word at the class's address decodes, with the literal inside the CODE handle when the word reads it, the step is that
instruction's meaning at the state in which the class issues: its group, lanes, address, word and literal latched, one tick
(none for a second word) and one number on, the class's lanes holding the packet, and no register, flag or byte of memory
changed. An instruction that can only stall there leaves nothing but the tick. The words of a fresh packet are those that
stand at its physical address. One tick for an issue and none for a second word (log 5), and the order of the module's own
steps, with no step for a word that can only stall (log 3), are the model's choices. -/
def Obligations.StepRunsDecoded : Prop :=
  ∀ (s r : State) (slot : Nat) (held second c : Bool) (p : Packet) (line : Option Nat) (i : Instr),
  s.stopped = false → s.IssuesNext r slot held second →
  let g := r.group slot
  let lanes := r.issuingClass g
  let lane := g.lane (lanes.headD 0)
  let code := (r.launch (r.team g.team).lid).code
  let w := p.words.getD (lane.pc.toNat % 16 / 4) 0
  lane.enters = none → (g.deferred = [] ∨ lane.chain = true ∨ ∃ x ∈ r.waits, x.agent = r.classAgent slot (lanes.headD 0)) →
  r.fetch slot lanes held = .ok p line → decode w = .ok (c, i) →
  (readsLiteral w i = true → inCode code (lane.pc.toNat / 16 * 16 + 12) 4 = true) →
  (∃ t u, exec i t = .next u ∧ step s = .next (if t.stalledAt i u then (if second then r else r.tick 1) else u) ∧
    t.ix = { slot := slot, lanes := lanes, pc := lane.pc, word := w, lit := p.words.getD 3 0,
             chain := c && decide (lane.pc.toNat % 16 < 8) && !pipeB i } ∧
    t.agenda = s.agenda.tail ∧ t.time = (if second then s.time else s.time + 1) ∧ t.seq = r.seq + 1 ∧ t.stopped = false ∧
    (s.Uncounted → s.Unrepaired → sameMemory s t) ∧
    t.cur.s = g.s ∧ t.cur.fflags = g.fflags ∧ t.cur.k = g.k ∧ t.cur.team = g.team ∧
    (∀ l, l < g.lanes.length → t.cur.lane l = if l ∈ lanes then (g.lane l).holdPacket p else g.lane l) ∧
    (∀ n, n ≠ slot → t.group n = r.group n) ∧ t.teams = s.teams ∧ t.launches = s.launches) ∧
  (held = false → let l := r.launch (r.team g.team).lid
    let pa := r.paOf (2 + slot / 144) l.dom l.space (lane.pc.toNat / 16 * 16) (.kind .fetch) false
    pa % 16 = 0 → mget? (r.core (slot / 144)).icache (pa / 128) = none → r.repairs (pa / 128) = false →
    ∀ k < 4, p.words.getD k 0 = BitVec.ofNat 32 (r.natAt (pa + 4 * k) 4))

/-- R363, R277: the module after reset: device time 0, domain 0 holding every resource and no other domain on, clock point
3.6 GHz, no core gated, nothing in self-refresh, READY, nothing launched; its memory and tags stand in canonical form, its
accumulators and registers clear. (That a byte no one has written reads 0, and the values the spec does not give, are the model's
choices: notes/assumptions 1 and 12.) -/
def Obligations.ResetState : Prop :=
  let s := State.reset
  s.memWf ∧ s.time = 0 ∧ s.ready = true ∧ s.bootFail = false ∧ s.stopped = false ∧ s.point = 0 ∧ s.selfRef = 0 ∧
  (∀ c, (s.core c).gated = false ∧ (s.core c).gateWant = false ∧ (s.core c).tasks = [] ∧ ∀ k, (s.core c).accGet k = (0, false)) ∧
  (s.dom 0).active = true ∧ (∀ d, d ≠ 0 → (s.dom d).active = false) ∧
  (∀ n, n < 144 → (s.dom 0).cores.getLsbD n = true) ∧ (∀ n, n < 8 → (s.dom 0).hbm.getLsbD n = true) ∧
  (∀ n, n < 16 → (s.dom 0).lpd.getLsbD n = true ∧ (s.dom 0).lports.getLsbD n = true) ∧
  (∀ n, n < 2 → (s.dom 0).cxlp.getLsbD n = true) ∧
  (s.dom 0).qfirst0 = 0 ∧ (s.dom 0).qcnt0 = 4096 ∧ (s.dom 0).qfirst1 = 4096 ∧ (s.dom 0).qcnt1 = 4096 ∧
  s.groups = [] ∧ s.teams = [] ∧ s.launches = [] ∧ s.queues = [] ∧ s.cmds = [] ∧ s.remote = [] ∧ s.tlb = [] ∧
  (∀ pa, s.byte pa = 0)

/-- R10, R312: every step keeps physical memory and its poison tags in canonical form: addresses strictly rising, no entry equal to what
an unlisted address reads as. -/
def Obligations.MemoryStaysCanonical : Prop := ∀ s t : State, s.memWf → step s = .next t → t.memWf

/-- R362, R363: no row is refused, and nothing stops the machine but a thermal trip: in a stopped module every row but the resets
ends in the fault moduleStopped, in any other every row answers a next state; and no step of a module that is not stopped
is unsafe. The fault moduleStopped is the model's choice (log 61). -/
def Obligations.EveryRowCompletes : Prop :=
  (∀ (i : Instr) (s : State), s.stopped = false ∨ isReset i = true → ∃ t, exec i s = .next t) ∧
  (∀ (i : Instr) (s : State), s.stopped = true → isReset i = false → exec i s = .fault .moduleStopped) ∧
  ∀ s : State, ¬ unsafeOutcome s (step s)

/-- R276, R277: what a domain holds changes only on the Seoft controller's commands DOMCFG and DOMOFF, a reset or a thermal trip: no
instruction of a program and no other step of the module changes the cores, memories, queues, ports or tables of any domain,
nor whether it is on. -/
def Obligations.DomainsChangeOnlyByCommand : Prop := ∀ (i : Instr) (s t : State), changesDomains i = false → exec i s = .next t →
  ∀ d, (t.dom d).resources = (s.dom d).resources

end
end

