-- ==== Sys2Proof/Laws/Store.lean ====
section
/-! SUPPORT. The laws of sparse tables (Store.lean): what a read gives after a write or a removal, and that writes and
removals keep the canonical form. -/

namespace Sys2Proof.Machine

/-- Every key of a table is at or above a bound. -/
def keysFrom {α : Type} (lo : Nat) (m : List (Nat × α)) : Prop := ∀ e ∈ m, lo ≤ e.1

theorem keysRise_cons {α : Type} (j : Nat) (x : α) (t : List (Nat × α)) :
    keysRise ((j, x) :: t) = true ↔ keysFrom (j + 1) t ∧ keysRise t = true := by
  induction t generalizing j x with
  | nil => simp [keysRise, keysFrom]
  | cons e t ih =>
    obtain ⟨k, y⟩ := e
    simp only [keysRise, Bool.and_eq_true, decide_eq_true_eq]
    constructor
    · rintro ⟨h, r⟩
      refine ⟨fun f hf => ?_, r⟩
      rcases List.mem_cons.mp hf with rfl | hf
      · exact h
      · have := ((ih k y).mp r).1 f hf
        omega
    · rintro ⟨h, r⟩
      exact ⟨h (k, y) (by simp), r⟩

/-- A read after a write to the same key. -/
theorem mget_mset_same {α : Type} (m : List (Nat × α)) (k : Nat) (v : α) : mget? (mset m k v) k = some v := by
  induction m with
  | nil => simp [mset, mget?]
  | cons e t ih =>
    obtain ⟨j, x⟩ := e
    simp only [mset]
    split
    · simp [mget?]
    · split
      · simp [mget?]
      · rename_i h1 h2
        simp [mget?, h2, ih]

/-- A write leaves every other key alone. -/
theorem mget_mset_other {α : Type} (m : List (Nat × α)) (k k' : Nat) (v : α) (h : k' ≠ k) :
    mget? (mset m k v) k' = mget? m k' := by
  induction m with
  | nil => simp [mset, mget?, h]
  | cons e t ih =>
    obtain ⟨j, x⟩ := e
    simp only [mset]
    split
    · simp [mget?, h]
    · split
      · rename_i h1 h2
        subst h2
        simp [mget?, h]
      · simp only [mget?]
        rw [ih]

/-- A read after a removal of the same key. -/
theorem mget_mdel_same {α : Type} (m : List (Nat × α)) (k : Nat) : mget? (mdel m k) k = none := by
  unfold mdel
  induction m with
  | nil => rfl
  | cons e t ih =>
    obtain ⟨j, x⟩ := e
    simp only [List.filter_cons]
    split
    · rename_i hj
      simp only [bne_iff_ne, ne_eq] at hj
      simp [mget?, Ne.symm hj, ih]
    · exact ih

/-- A removal leaves every other key alone. -/
theorem mget_mdel_other {α : Type} (m : List (Nat × α)) (k k' : Nat) (hk : k' ≠ k) : mget? (mdel m k) k' = mget? m k' := by
  unfold mdel
  induction m with
  | nil => rfl
  | cons e t ih =>
    obtain ⟨j, x⟩ := e
    simp only [List.filter_cons]
    split
    · simp only [mget?, ih]
    · rename_i hj
      have hj : j = k := by simpa using hj
      subst hj
      simp only [mget?, hk, if_false, ih]

/-- Keys above a bound stay above it under a write at or above it. -/
theorem keysFrom_mset {α : Type} (m : List (Nat × α)) (lo k : Nat) (v : α) (h : keysFrom lo m) (hk : lo ≤ k) :
    keysFrom lo (mset m k v) := by
  induction m with
  | nil => intro e he; simp [mset] at he; subst he; exact hk
  | cons e t ih =>
    obtain ⟨j, x⟩ := e
    simp only [mset]
    split
    · intro f hf
      rcases List.mem_cons.mp hf with rfl | hf
      · exact hk
      · exact h f hf
    · split
      · intro f hf
        rcases List.mem_cons.mp hf with rfl | hf
        · exact hk
        · exact h f (by simp [hf])
      · intro f hf
        rcases List.mem_cons.mp hf with rfl | hf
        · exact h _ (by simp)
        · exact ih (fun e he => h e (by simp [he])) f hf

/-- A write keeps the keys rising. -/
theorem keysRise_mset {α : Type} (m : List (Nat × α)) (k : Nat) (v : α) (h : keysRise m = true) : keysRise (mset m k v) = true := by
  induction m with
  | nil => rfl
  | cons e t ih =>
    obtain ⟨j, x⟩ := e
    have hr := (keysRise_cons j x t).mp h
    simp only [mset]
    split
    · rename_i hk
      refine (keysRise_cons k v _).mpr ⟨fun f hf => ?_, h⟩
      rcases List.mem_cons.mp hf with rfl | hf
      · exact hk
      · have := hr.1 f hf
        omega
    · split
      · rename_i h1 h2
        subst h2
        exact (keysRise_cons k v t).mpr hr
      · exact (keysRise_cons j x _).mpr ⟨keysFrom_mset t (j + 1) k v hr.1 (by omega), ih hr.2⟩

/-- Leaving entries out keeps the keys rising. -/
theorem keysRise_filter {α : Type} (m : List (Nat × α)) (p : Nat × α → Bool) (h : keysRise m = true) :
    keysRise (m.filter p) = true := by
  induction m with
  | nil => rfl
  | cons e t ih =>
    obtain ⟨j, x⟩ := e
    have hr := (keysRise_cons j x t).mp h
    simp only [List.filter_cons]
    split
    · exact (keysRise_cons j x _).mpr ⟨fun f hf => hr.1 f (List.mem_filter.mp hf).1, ih hr.2⟩
    · exact ih hr.2

/-- What a write leaves is what it wrote or was listed before. -/
theorem mem_of_mem_mset {α : Type} (m : List (Nat × α)) (k : Nat) (v : α) (e : Nat × α) (h : e ∈ mset m k v) :
    e = (k, v) ∨ e ∈ m := by
  induction m with
  | nil => simpa [mset] using h
  | cons f t ih =>
    obtain ⟨j, x⟩ := f
    simp only [mset] at h
    split at h
    · simpa using h
    · split at h
      · rcases List.mem_cons.mp h with rfl | h
        · exact .inl rfl
        · exact .inr (by simp [h])
      · rcases List.mem_cons.mp h with rfl | h
        · exact .inr (by simp)
        · rcases ih h with rfl | h
          · exact .inl rfl
          · exact .inr (by simp [h])

theorem canonical_iff {α : Type} [DecidableEq α] (d : α) (m : List (Nat × α)) :
    canonical d m = true ↔ keysRise m = true ∧ ∀ e ∈ m, e.2 ≠ d := by
  simp [canonical]

/-- Giving a key a value keeps the canonical form. -/
theorem canonical_sset {α : Type} [DecidableEq α] (d : α) (m : List (Nat × α)) (k : Nat) (v : α) (h : canonical d m = true) :
    canonical d (sset d m k v) = true := by
  rw [canonical_iff] at h ⊢
  unfold sset
  split
  · exact ⟨keysRise_filter m _ h.1, fun e he => h.2 e (List.mem_filter.mp he).1⟩
  · rename_i hv
    refine ⟨keysRise_mset m k v h.1, fun e he => ?_⟩
    rcases mem_of_mem_mset m k v e he with rfl | he
    · exact hv
    · exact h.2 e he

/-- Leaving entries out keeps the canonical form. -/
theorem canonical_filter {α : Type} [DecidableEq α] (d : α) (m : List (Nat × α)) (p : Nat × α → Bool) (h : canonical d m = true) :
    canonical d (m.filter p) = true := by
  rw [canonical_iff] at h ⊢
  exact ⟨keysRise_filter m p h.1, fun e he => h.2 e (List.mem_filter.mp he).1⟩

/-- A read after giving the same key a value. -/
@[simp] theorem sget_sset_same {α : Type} [DecidableEq α] (d : α) (m : List (Nat × α)) (k : Nat) (v : α) :
    sget d (sset d m k v) k = v := by
  unfold sget sset
  split
  · rename_i hv
    simp [mget_mdel_same m k, hv]
  · simp [mget_mset_same]

/-- Giving a key a value leaves every other key alone. -/
theorem sget_sset_other {α : Type} [DecidableEq α] (d : α) (m : List (Nat × α)) (k k' : Nat) (v : α) (hk : k' ≠ k) :
    sget d (sset d m k v) k' = sget d m k' := by
  unfold sget sset
  split
  · rw [mget_mdel_other m k k' hk]
  · rw [mget_mset_other m k k' v hk]

/-- Writing a run of bytes keeps the canonical form. -/
theorem canonical_putBytes (m : List Host.Cell) (pa : Nat) (bs : List Byte) (h : canonical 0 m = true) :
    canonical 0 (putBytes m pa bs) = true := by
  induction bs generalizing m pa with
  | nil => exact h
  | cons b t ih => exact ih _ _ (canonical_sset 0 m pa b h)

/-- A byte outside the run written reads as before. -/
theorem sget_putBytes_outside (m : List Host.Cell) (pa k : Nat) (bs : List Byte) (hk : k < pa ∨ pa + bs.length ≤ k) :
    sget 0 (putBytes m pa bs) k = sget 0 m k := by
  induction bs generalizing m pa with
  | nil => rfl
  | cons b t ih =>
    simp only [List.length_cons] at hk
    simp only [putBytes]
    rw [ih _ _ (by omega), sget_sset_other 0 m pa k b (by omega)]

/-- A byte of the run written reads as written. -/
theorem sget_putBytes_inside (m : List Host.Cell) (pa i : Nat) (bs : List Byte) (hi : i < bs.length) :
    sget 0 (putBytes m pa bs) (pa + i) = bs[i] := by
  induction bs generalizing m pa i with
  | nil => simp at hi
  | cons b t ih =>
    simp only [putBytes]
    cases i with
    | zero =>
      rw [sget_putBytes_outside _ _ _ _ (by omega)]
      exact sget_sset_same 0 m pa b
    | succ n =>
      rw [show pa + (n + 1) = pa + 1 + n by omega, ih (sset 0 m pa b) (pa + 1) n (by simpa using hi)]
      rfl

/-- The best element is absent only from an empty list. -/
theorem bestBy_eq_none {α : Type} (lt : α → α → Bool) (l : List α) : bestBy lt l = none ↔ l = [] := by
  cases l with
  | nil => simp [bestBy]
  | cons x t =>
    simp only [bestBy]
    split
    · simp
    · split <;> simp

/-- The best element of a list is one of its elements. -/
theorem bestBy_mem {α : Type} (lt : α → α → Bool) : ∀ (l : List α) (x : α), bestBy lt l = some x → x ∈ l
  | a :: t, x, h => by
    simp only [bestBy] at h
    split at h
    · simp_all
    · rename_i y hy
      split at h
      · cases h; exact List.mem_cons_of_mem _ (bestBy_mem lt t _ hy)
      · cases h; exact List.mem_cons_self ..

/-- No element of a list stands above the best one, for a measure that orders its elements. -/
theorem bestBy_best {α : Type} (lt : α → α → Bool) (asymm : ∀ a b, lt a b = true → lt b a = false)
    (trans : ∀ a b c, lt a b = false → lt b c = false → lt a c = false) :
    ∀ (l : List α) (x : α), bestBy lt l = some x → ∀ y ∈ l, lt x y = false
  | a :: t, x, h => by
    have irrefl : ∀ b, lt b b = false := fun b => by
      cases hb : lt b b with
      | false => rfl
      | true => have := asymm b b hb; simp_all
    simp only [bestBy] at h
    split at h
    · rename_i hn
      cases h; rw [bestBy_eq_none] at hn; subst hn; intro y hy; simp at hy; subst hy; exact irrefl _
    · rename_i z hz
      have ih := bestBy_best lt asymm trans t z hz
      split at h
      · rename_i hlt
        cases h; intro y hy
        rcases List.mem_cons.1 hy with rfl | hy
        · exact asymm _ _ hlt
        · exact ih y hy
      · rename_i hlt
        cases h; intro y hy
        rcases List.mem_cons.1 hy with rfl | hy
        · exact irrefl _
        · exact trans _ z _ (by simpa using hlt) (ih y hy)

/-- Memory keeps its canonical form under a run of bytes. -/
theorem Memory.wf_putBytes (m : List Host.Cell) (pa : Nat) (bs : List Byte) (h : Memory.wf m = true) :
    Memory.wf (putBytes m pa bs) = true := canonical_putBytes m pa bs h

/-- Memory keeps its canonical form when bytes are forgotten. -/
theorem Memory.wf_filter (m : List Host.Cell) (p : Host.Cell → Bool) (h : Memory.wf m = true) :
    Memory.wf (m.filter p) = true := canonical_filter 0 m p h

/-- Memory after reset is in its canonical form. -/
theorem Memory.wf_reset : Memory.wf State.reset.mem = true := rfl

end Sys2Proof.Machine
end

