-- ==== Sys2Proof/Laws/State.lean ====
section
/-! SUPPORT. What each named update of the state does to each of its fields, and what the accessors read after it. -/

namespace Sys2Proof.Machine

/-! ### State.modGroup -/

@[simp] theorem State.modGroup_agenda (s : State) (n : Nat) (f : Group → Group) : (s.modGroup n f).agenda = s.agenda := rfl
@[simp] theorem State.modGroup_free (s : State) (n : Nat) (f : Group → Group) : (s.modGroup n f).free = s.free := rfl
@[simp] theorem State.modGroup_seq (s : State) (n : Nat) (f : Group → Group) : (s.modGroup n f).seq = s.seq := rfl
@[simp] theorem State.modGroup_ix (s : State) (n : Nat) (f : Group → Group) : (s.modGroup n f).ix = s.ix := rfl
@[simp] theorem State.modGroup_time (s : State) (n : Nat) (f : Group → Group) : (s.modGroup n f).time = s.time := rfl
@[simp] theorem State.modGroup_skew (s : State) (n : Nat) (f : Group → Group) : (s.modGroup n f).skew = s.skew := rfl
@[simp] theorem State.modGroup_cycles (s : State) (n : Nat) (f : Group → Group) : (s.modGroup n f).cycles = s.cycles := rfl
@[simp] theorem State.modGroup_stopped (s : State) (n : Nat) (f : Group → Group) : (s.modGroup n f).stopped = s.stopped := rfl
@[simp] theorem State.modGroup_epoch (s : State) (n : Nat) (f : Group → Group) : (s.modGroup n f).epoch = s.epoch := rfl
@[simp] theorem State.modGroup_ready (s : State) (n : Nat) (f : Group → Group) : (s.modGroup n f).ready = s.ready := rfl
@[simp] theorem State.modGroup_bootFail (s : State) (n : Nat) (f : Group → Group) : (s.modGroup n f).bootFail = s.bootFail := rfl
@[simp] theorem State.modGroup_point (s : State) (n : Nat) (f : Group → Group) : (s.modGroup n f).point = s.point := rfl
@[simp] theorem State.modGroup_pwrBusy (s : State) (n : Nat) (f : Group → Group) : (s.modGroup n f).pwrBusy = s.pwrBusy := rfl
@[simp] theorem State.modGroup_tripped (s : State) (n : Nat) (f : Group → Group) : (s.modGroup n f).tripped = s.tripped := rfl
@[simp] theorem State.modGroup_droop (s : State) (n : Nat) (f : Group → Group) : (s.modGroup n f).droop = s.droop := rfl
@[simp] theorem State.modGroup_refused (s : State) (n : Nat) (f : Group → Group) : (s.modGroup n f).refused = s.refused := rfl
@[simp] theorem State.modGroup_idle (s : State) (n : Nat) (f : Group → Group) : (s.modGroup n f).idle = s.idle := rfl
@[simp] theorem State.modGroup_wantPoint (s : State) (n : Nat) (f : Group → Group) : (s.modGroup n f).wantPoint = s.wantPoint := rfl
@[simp] theorem State.modGroup_pwrCores (s : State) (n : Nat) (f : Group → Group) : (s.modGroup n f).pwrCores = s.pwrCores := rfl
@[simp] theorem State.modGroup_pwrLpd (s : State) (n : Nat) (f : Group → Group) : (s.modGroup n f).pwrLpd = s.pwrLpd := rfl
@[simp] theorem State.modGroup_pwrHbm (s : State) (n : Nat) (f : Group → Group) : (s.modGroup n f).pwrHbm = s.pwrHbm := rfl
@[simp] theorem State.modGroup_selfWant (s : State) (n : Nat) (f : Group → Group) : (s.modGroup n f).selfWant = s.selfWant := rfl
@[simp] theorem State.modGroup_selfRef (s : State) (n : Nat) (f : Group → Group) : (s.modGroup n f).selfRef = s.selfRef := rfl
@[simp] theorem State.modGroup_watts (s : State) (n : Nat) (f : Group → Group) : (s.modGroup n f).watts = s.watts := rfl
@[simp] theorem State.modGroup_warn (s : State) (n : Nat) (f : Group → Group) : (s.modGroup n f).warn = s.warn := rfl
@[simp] theorem State.modGroup_temp (s : State) (n : Nat) (f : Group → Group) : (s.modGroup n f).temp = s.temp := rfl
@[simp] theorem State.modGroup_tripLog (s : State) (n : Nat) (f : Group → Group) : (s.modGroup n f).tripLog = s.tripLog := rfl
@[simp] theorem State.modGroup_lnkLock (s : State) (n : Nat) (f : Group → Group) : (s.modGroup n f).lnkLock = s.lnkLock := rfl
@[simp] theorem State.modGroup_device (s : State) (n : Nat) (f : Group → Group) : (s.modGroup n f).device = s.device := rfl
@[simp] theorem State.modGroup_podM1 (s : State) (n : Nat) (f : Group → Group) : (s.modGroup n f).podM1 = s.podM1 := rfl
@[simp] theorem State.modGroup_planes (s : State) (n : Nat) (f : Group → Group) : (s.modGroup n f).planes = s.planes := rfl
@[simp] theorem State.modGroup_uaUp (s : State) (n : Nat) (f : Group → Group) : (s.modGroup n f).uaUp = s.uaUp := rfl
@[simp] theorem State.modGroup_cxl0 (s : State) (n : Nat) (f : Group → Group) : (s.modGroup n f).cxl0 = s.cxl0 := rfl
@[simp] theorem State.modGroup_cxl1 (s : State) (n : Nat) (f : Group → Group) : (s.modGroup n f).cxl1 = s.cxl1 := rfl
@[simp] theorem State.modGroup_channels (s : State) (n : Nat) (f : Group → Group) : (s.modGroup n f).channels = s.channels := rfl
@[simp] theorem State.modGroup_mgmtInt (s : State) (n : Nat) (f : Group → Group) : (s.modGroup n f).mgmtInt = s.mgmtInt := rfl
@[simp] theorem State.modGroup_domInt (s : State) (n : Nat) (f : Group → Group) : (s.modGroup n f).domInt = s.domInt := rfl
@[simp] theorem State.modGroup_mailbox (s : State) (n : Nat) (f : Group → Group) : (s.modGroup n f).mailbox = s.mailbox := rfl
@[simp] theorem State.modGroup_serial (s : State) (n : Nat) (f : Group → Group) : (s.modGroup n f).serial = s.serial := rfl
@[simp] theorem State.modGroup_secret (s : State) (n : Nat) (f : Group → Group) : (s.modGroup n f).secret = s.secret := rfl
@[simp] theorem State.modGroup_keyDigest (s : State) (n : Nat) (f : Group → Group) : (s.modGroup n f).keyDigest = s.keyDigest := rfl
@[simp] theorem State.modGroup_minSvn (s : State) (n : Nat) (f : Group → Group) : (s.modGroup n f).minSvn = s.minSvn := rfl
@[simp] theorem State.modGroup_svn (s : State) (n : Nat) (f : Group → Group) : (s.modGroup n f).svn = s.svn := rfl
@[simp] theorem State.modGroup_meas (s : State) (n : Nat) (f : Group → Group) : (s.modGroup n f).meas = s.meas := rfl
@[simp] theorem State.modGroup_dmeas (s : State) (n : Nat) (f : Group → Group) : (s.modGroup n f).dmeas = s.dmeas := rfl
@[simp] theorem State.modGroup_mem (s : State) (n : Nat) (f : Group → Group) : (s.modGroup n f).mem = s.mem := rfl
@[simp] theorem State.modGroup_memPoison (s : State) (n : Nat) (f : Group → Group) : (s.modGroup n f).memPoison = s.memPoison := rfl
@[simp] theorem State.modGroup_dirty (s : State) (n : Nat) (f : Group → Group) : (s.modGroup n f).dirty = s.dirty := rfl
@[simp] theorem State.modGroup_leases (s : State) (n : Nat) (f : Group → Group) : (s.modGroup n f).leases = s.leases := rfl
@[simp] theorem State.modGroup_evicted (s : State) (n : Nat) (f : Group → Group) : (s.modGroup n f).evicted = s.evicted := rfl
@[simp] theorem State.modGroup_rdc (s : State) (n : Nat) (f : Group → Group) : (s.modGroup n f).rdc = s.rdc := rfl
@[simp] theorem State.modGroup_flight (s : State) (n : Nat) (f : Group → Group) : (s.modGroup n f).flight = s.flight := rfl
@[simp] theorem State.modGroup_acks (s : State) (n : Nat) (f : Group → Group) : (s.modGroup n f).acks = s.acks := rfl
@[simp] theorem State.modGroup_fills (s : State) (n : Nat) (f : Group → Group) : (s.modGroup n f).fills = s.fills := rfl
@[simp] theorem State.modGroup_tlb (s : State) (n : Nat) (f : Group → Group) : (s.modGroup n f).tlb = s.tlb := rfl
@[simp] theorem State.modGroup_pending (s : State) (n : Nat) (f : Group → Group) : (s.modGroup n f).pending = s.pending := rfl
@[simp] theorem State.modGroup_waits (s : State) (n : Nat) (f : Group → Group) : (s.modGroup n f).waits = s.waits := rfl
@[simp] theorem State.modGroup_snoops (s : State) (n : Nat) (f : Group → Group) : (s.modGroup n f).snoops = s.snoops := rfl
@[simp] theorem State.modGroup_noLock (s : State) (n : Nat) (f : Group → Group) : (s.modGroup n f).noLock = s.noLock := rfl
@[simp] theorem State.modGroup_doms (s : State) (n : Nat) (f : Group → Group) : (s.modGroup n f).doms = s.doms := rfl
@[simp] theorem State.modGroup_cores (s : State) (n : Nat) (f : Group → Group) : (s.modGroup n f).cores = s.cores := rfl
@[simp] theorem State.modGroup_launches (s : State) (n : Nat) (f : Group → Group) : (s.modGroup n f).launches = s.launches := rfl
@[simp] theorem State.modGroup_teams (s : State) (n : Nat) (f : Group → Group) : (s.modGroup n f).teams = s.teams := rfl
@[simp] theorem State.modGroup_groups (s : State) (n : Nat) (f : Group → Group) : (s.modGroup n f).groups = mupd s.groups n f := rfl
@[simp] theorem State.modGroup_cmds (s : State) (n : Nat) (f : Group → Group) : (s.modGroup n f).cmds = s.cmds := rfl
@[simp] theorem State.modGroup_queues (s : State) (n : Nat) (f : Group → Group) : (s.modGroup n f).queues = s.queues := rfl
@[simp] theorem State.modGroup_saved (s : State) (n : Nat) (f : Group → Group) : (s.modGroup n f).saved = s.saved := rfl
@[simp] theorem State.modGroup_remote (s : State) (n : Nat) (f : Group → Group) : (s.modGroup n f).remote = s.remote := rfl
@[simp] theorem State.modGroup_nextReq (s : State) (n : Nat) (f : Group → Group) : (s.modGroup n f).nextReq = s.nextReq := rfl
@[simp] theorem State.modGroup_planeDown (s : State) (n : Nat) (f : Group → Group) : (s.modGroup n f).planeDown = s.planeDown := rfl
@[simp] theorem State.modGroup_sources (s : State) (n : Nat) (f : Group → Group) : (s.modGroup n f).sources = s.sources := rfl
@[simp] theorem State.modGroup_peerWait (s : State) (n : Nat) (f : Group → Group) : (s.modGroup n f).peerWait = s.peerWait := rfl
@[simp] theorem State.modGroup_peerLocks (s : State) (n : Nat) (f : Group → Group) : (s.modGroup n f).peerLocks = s.peerLocks := rfl
@[simp] theorem State.modGroup_ownWrites (s : State) (n : Nat) (f : Group → Group) : (s.modGroup n f).ownWrites = s.ownWrites := rfl
@[simp] theorem State.modGroup_outbox (s : State) (n : Nat) (f : Group → Group) : (s.modGroup n f).outbox = s.outbox := rfl
@[simp] theorem State.modGroup_first (s : State) (n : Nat) (f : Group → Group) : (s.modGroup n f).first = s.first := rfl
@[simp] theorem State.modGroup_heard (s : State) (n : Nat) (f : Group → Group) : (s.modGroup n f).heard = s.heard := rfl
@[simp] theorem State.modGroup_hot (s : State) (n : Nat) (f : Group → Group) : (s.modGroup n f).hot = s.hot := rfl
@[simp] theorem State.modGroup_posted (s : State) (n : Nat) (f : Group → Group) : (s.modGroup n f).posted = s.posted := rfl
@[simp] theorem State.modGroup_moveTurn (s : State) (n : Nat) (f : Group → Group) : (s.modGroup n f).moveTurn = s.moveTurn := rfl
@[simp] theorem State.modGroup_walks (s : State) (n : Nat) (f : Group → Group) : (s.modGroup n f).walks = s.walks := rfl

/-! ### State.modTeam -/

@[simp] theorem State.modTeam_agenda (s : State) (n : Nat) (f : Team → Team) : (s.modTeam n f).agenda = s.agenda := rfl
@[simp] theorem State.modTeam_free (s : State) (n : Nat) (f : Team → Team) : (s.modTeam n f).free = s.free := rfl
@[simp] theorem State.modTeam_seq (s : State) (n : Nat) (f : Team → Team) : (s.modTeam n f).seq = s.seq := rfl
@[simp] theorem State.modTeam_ix (s : State) (n : Nat) (f : Team → Team) : (s.modTeam n f).ix = s.ix := rfl
@[simp] theorem State.modTeam_time (s : State) (n : Nat) (f : Team → Team) : (s.modTeam n f).time = s.time := rfl
@[simp] theorem State.modTeam_skew (s : State) (n : Nat) (f : Team → Team) : (s.modTeam n f).skew = s.skew := rfl
@[simp] theorem State.modTeam_cycles (s : State) (n : Nat) (f : Team → Team) : (s.modTeam n f).cycles = s.cycles := rfl
@[simp] theorem State.modTeam_stopped (s : State) (n : Nat) (f : Team → Team) : (s.modTeam n f).stopped = s.stopped := rfl
@[simp] theorem State.modTeam_epoch (s : State) (n : Nat) (f : Team → Team) : (s.modTeam n f).epoch = s.epoch := rfl
@[simp] theorem State.modTeam_ready (s : State) (n : Nat) (f : Team → Team) : (s.modTeam n f).ready = s.ready := rfl
@[simp] theorem State.modTeam_bootFail (s : State) (n : Nat) (f : Team → Team) : (s.modTeam n f).bootFail = s.bootFail := rfl
@[simp] theorem State.modTeam_point (s : State) (n : Nat) (f : Team → Team) : (s.modTeam n f).point = s.point := rfl
@[simp] theorem State.modTeam_pwrBusy (s : State) (n : Nat) (f : Team → Team) : (s.modTeam n f).pwrBusy = s.pwrBusy := rfl
@[simp] theorem State.modTeam_tripped (s : State) (n : Nat) (f : Team → Team) : (s.modTeam n f).tripped = s.tripped := rfl
@[simp] theorem State.modTeam_droop (s : State) (n : Nat) (f : Team → Team) : (s.modTeam n f).droop = s.droop := rfl
@[simp] theorem State.modTeam_refused (s : State) (n : Nat) (f : Team → Team) : (s.modTeam n f).refused = s.refused := rfl
@[simp] theorem State.modTeam_idle (s : State) (n : Nat) (f : Team → Team) : (s.modTeam n f).idle = s.idle := rfl
@[simp] theorem State.modTeam_wantPoint (s : State) (n : Nat) (f : Team → Team) : (s.modTeam n f).wantPoint = s.wantPoint := rfl
@[simp] theorem State.modTeam_pwrCores (s : State) (n : Nat) (f : Team → Team) : (s.modTeam n f).pwrCores = s.pwrCores := rfl
@[simp] theorem State.modTeam_pwrLpd (s : State) (n : Nat) (f : Team → Team) : (s.modTeam n f).pwrLpd = s.pwrLpd := rfl
@[simp] theorem State.modTeam_pwrHbm (s : State) (n : Nat) (f : Team → Team) : (s.modTeam n f).pwrHbm = s.pwrHbm := rfl
@[simp] theorem State.modTeam_selfWant (s : State) (n : Nat) (f : Team → Team) : (s.modTeam n f).selfWant = s.selfWant := rfl
@[simp] theorem State.modTeam_selfRef (s : State) (n : Nat) (f : Team → Team) : (s.modTeam n f).selfRef = s.selfRef := rfl
@[simp] theorem State.modTeam_watts (s : State) (n : Nat) (f : Team → Team) : (s.modTeam n f).watts = s.watts := rfl
@[simp] theorem State.modTeam_warn (s : State) (n : Nat) (f : Team → Team) : (s.modTeam n f).warn = s.warn := rfl
@[simp] theorem State.modTeam_temp (s : State) (n : Nat) (f : Team → Team) : (s.modTeam n f).temp = s.temp := rfl
@[simp] theorem State.modTeam_tripLog (s : State) (n : Nat) (f : Team → Team) : (s.modTeam n f).tripLog = s.tripLog := rfl
@[simp] theorem State.modTeam_lnkLock (s : State) (n : Nat) (f : Team → Team) : (s.modTeam n f).lnkLock = s.lnkLock := rfl
@[simp] theorem State.modTeam_device (s : State) (n : Nat) (f : Team → Team) : (s.modTeam n f).device = s.device := rfl
@[simp] theorem State.modTeam_podM1 (s : State) (n : Nat) (f : Team → Team) : (s.modTeam n f).podM1 = s.podM1 := rfl
@[simp] theorem State.modTeam_planes (s : State) (n : Nat) (f : Team → Team) : (s.modTeam n f).planes = s.planes := rfl
@[simp] theorem State.modTeam_uaUp (s : State) (n : Nat) (f : Team → Team) : (s.modTeam n f).uaUp = s.uaUp := rfl
@[simp] theorem State.modTeam_cxl0 (s : State) (n : Nat) (f : Team → Team) : (s.modTeam n f).cxl0 = s.cxl0 := rfl
@[simp] theorem State.modTeam_cxl1 (s : State) (n : Nat) (f : Team → Team) : (s.modTeam n f).cxl1 = s.cxl1 := rfl
@[simp] theorem State.modTeam_channels (s : State) (n : Nat) (f : Team → Team) : (s.modTeam n f).channels = s.channels := rfl
@[simp] theorem State.modTeam_mgmtInt (s : State) (n : Nat) (f : Team → Team) : (s.modTeam n f).mgmtInt = s.mgmtInt := rfl
@[simp] theorem State.modTeam_domInt (s : State) (n : Nat) (f : Team → Team) : (s.modTeam n f).domInt = s.domInt := rfl
@[simp] theorem State.modTeam_mailbox (s : State) (n : Nat) (f : Team → Team) : (s.modTeam n f).mailbox = s.mailbox := rfl
@[simp] theorem State.modTeam_serial (s : State) (n : Nat) (f : Team → Team) : (s.modTeam n f).serial = s.serial := rfl
@[simp] theorem State.modTeam_secret (s : State) (n : Nat) (f : Team → Team) : (s.modTeam n f).secret = s.secret := rfl
@[simp] theorem State.modTeam_keyDigest (s : State) (n : Nat) (f : Team → Team) : (s.modTeam n f).keyDigest = s.keyDigest := rfl
@[simp] theorem State.modTeam_minSvn (s : State) (n : Nat) (f : Team → Team) : (s.modTeam n f).minSvn = s.minSvn := rfl
@[simp] theorem State.modTeam_svn (s : State) (n : Nat) (f : Team → Team) : (s.modTeam n f).svn = s.svn := rfl
@[simp] theorem State.modTeam_meas (s : State) (n : Nat) (f : Team → Team) : (s.modTeam n f).meas = s.meas := rfl
@[simp] theorem State.modTeam_dmeas (s : State) (n : Nat) (f : Team → Team) : (s.modTeam n f).dmeas = s.dmeas := rfl
@[simp] theorem State.modTeam_mem (s : State) (n : Nat) (f : Team → Team) : (s.modTeam n f).mem = s.mem := rfl
@[simp] theorem State.modTeam_memPoison (s : State) (n : Nat) (f : Team → Team) : (s.modTeam n f).memPoison = s.memPoison := rfl
@[simp] theorem State.modTeam_dirty (s : State) (n : Nat) (f : Team → Team) : (s.modTeam n f).dirty = s.dirty := rfl
@[simp] theorem State.modTeam_leases (s : State) (n : Nat) (f : Team → Team) : (s.modTeam n f).leases = s.leases := rfl
@[simp] theorem State.modTeam_evicted (s : State) (n : Nat) (f : Team → Team) : (s.modTeam n f).evicted = s.evicted := rfl
@[simp] theorem State.modTeam_rdc (s : State) (n : Nat) (f : Team → Team) : (s.modTeam n f).rdc = s.rdc := rfl
@[simp] theorem State.modTeam_flight (s : State) (n : Nat) (f : Team → Team) : (s.modTeam n f).flight = s.flight := rfl
@[simp] theorem State.modTeam_acks (s : State) (n : Nat) (f : Team → Team) : (s.modTeam n f).acks = s.acks := rfl
@[simp] theorem State.modTeam_fills (s : State) (n : Nat) (f : Team → Team) : (s.modTeam n f).fills = s.fills := rfl
@[simp] theorem State.modTeam_tlb (s : State) (n : Nat) (f : Team → Team) : (s.modTeam n f).tlb = s.tlb := rfl
@[simp] theorem State.modTeam_pending (s : State) (n : Nat) (f : Team → Team) : (s.modTeam n f).pending = s.pending := rfl
@[simp] theorem State.modTeam_waits (s : State) (n : Nat) (f : Team → Team) : (s.modTeam n f).waits = s.waits := rfl
@[simp] theorem State.modTeam_snoops (s : State) (n : Nat) (f : Team → Team) : (s.modTeam n f).snoops = s.snoops := rfl
@[simp] theorem State.modTeam_noLock (s : State) (n : Nat) (f : Team → Team) : (s.modTeam n f).noLock = s.noLock := rfl
@[simp] theorem State.modTeam_doms (s : State) (n : Nat) (f : Team → Team) : (s.modTeam n f).doms = s.doms := rfl
@[simp] theorem State.modTeam_cores (s : State) (n : Nat) (f : Team → Team) : (s.modTeam n f).cores = s.cores := rfl
@[simp] theorem State.modTeam_launches (s : State) (n : Nat) (f : Team → Team) : (s.modTeam n f).launches = s.launches := rfl
@[simp] theorem State.modTeam_teams (s : State) (n : Nat) (f : Team → Team) : (s.modTeam n f).teams = mupd s.teams n f := rfl
@[simp] theorem State.modTeam_groups (s : State) (n : Nat) (f : Team → Team) : (s.modTeam n f).groups = s.groups := rfl
@[simp] theorem State.modTeam_cmds (s : State) (n : Nat) (f : Team → Team) : (s.modTeam n f).cmds = s.cmds := rfl
@[simp] theorem State.modTeam_queues (s : State) (n : Nat) (f : Team → Team) : (s.modTeam n f).queues = s.queues := rfl
@[simp] theorem State.modTeam_saved (s : State) (n : Nat) (f : Team → Team) : (s.modTeam n f).saved = s.saved := rfl
@[simp] theorem State.modTeam_remote (s : State) (n : Nat) (f : Team → Team) : (s.modTeam n f).remote = s.remote := rfl
@[simp] theorem State.modTeam_nextReq (s : State) (n : Nat) (f : Team → Team) : (s.modTeam n f).nextReq = s.nextReq := rfl
@[simp] theorem State.modTeam_planeDown (s : State) (n : Nat) (f : Team → Team) : (s.modTeam n f).planeDown = s.planeDown := rfl
@[simp] theorem State.modTeam_sources (s : State) (n : Nat) (f : Team → Team) : (s.modTeam n f).sources = s.sources := rfl
@[simp] theorem State.modTeam_peerWait (s : State) (n : Nat) (f : Team → Team) : (s.modTeam n f).peerWait = s.peerWait := rfl
@[simp] theorem State.modTeam_peerLocks (s : State) (n : Nat) (f : Team → Team) : (s.modTeam n f).peerLocks = s.peerLocks := rfl
@[simp] theorem State.modTeam_ownWrites (s : State) (n : Nat) (f : Team → Team) : (s.modTeam n f).ownWrites = s.ownWrites := rfl
@[simp] theorem State.modTeam_outbox (s : State) (n : Nat) (f : Team → Team) : (s.modTeam n f).outbox = s.outbox := rfl
@[simp] theorem State.modTeam_first (s : State) (n : Nat) (f : Team → Team) : (s.modTeam n f).first = s.first := rfl
@[simp] theorem State.modTeam_heard (s : State) (n : Nat) (f : Team → Team) : (s.modTeam n f).heard = s.heard := rfl
@[simp] theorem State.modTeam_hot (s : State) (n : Nat) (f : Team → Team) : (s.modTeam n f).hot = s.hot := rfl
@[simp] theorem State.modTeam_posted (s : State) (n : Nat) (f : Team → Team) : (s.modTeam n f).posted = s.posted := rfl
@[simp] theorem State.modTeam_moveTurn (s : State) (n : Nat) (f : Team → Team) : (s.modTeam n f).moveTurn = s.moveTurn := rfl
@[simp] theorem State.modTeam_walks (s : State) (n : Nat) (f : Team → Team) : (s.modTeam n f).walks = s.walks := rfl

/-! ### State.modLaunch -/

@[simp] theorem State.modLaunch_agenda (s : State) (n : Nat) (f : Launch → Launch) : (s.modLaunch n f).agenda = s.agenda := rfl
@[simp] theorem State.modLaunch_free (s : State) (n : Nat) (f : Launch → Launch) : (s.modLaunch n f).free = s.free := rfl
@[simp] theorem State.modLaunch_seq (s : State) (n : Nat) (f : Launch → Launch) : (s.modLaunch n f).seq = s.seq := rfl
@[simp] theorem State.modLaunch_ix (s : State) (n : Nat) (f : Launch → Launch) : (s.modLaunch n f).ix = s.ix := rfl
@[simp] theorem State.modLaunch_time (s : State) (n : Nat) (f : Launch → Launch) : (s.modLaunch n f).time = s.time := rfl
@[simp] theorem State.modLaunch_skew (s : State) (n : Nat) (f : Launch → Launch) : (s.modLaunch n f).skew = s.skew := rfl
@[simp] theorem State.modLaunch_cycles (s : State) (n : Nat) (f : Launch → Launch) : (s.modLaunch n f).cycles = s.cycles := rfl
@[simp] theorem State.modLaunch_stopped (s : State) (n : Nat) (f : Launch → Launch) : (s.modLaunch n f).stopped = s.stopped := rfl
@[simp] theorem State.modLaunch_epoch (s : State) (n : Nat) (f : Launch → Launch) : (s.modLaunch n f).epoch = s.epoch := rfl
@[simp] theorem State.modLaunch_ready (s : State) (n : Nat) (f : Launch → Launch) : (s.modLaunch n f).ready = s.ready := rfl
@[simp] theorem State.modLaunch_bootFail (s : State) (n : Nat) (f : Launch → Launch) : (s.modLaunch n f).bootFail = s.bootFail := rfl
@[simp] theorem State.modLaunch_point (s : State) (n : Nat) (f : Launch → Launch) : (s.modLaunch n f).point = s.point := rfl
@[simp] theorem State.modLaunch_pwrBusy (s : State) (n : Nat) (f : Launch → Launch) : (s.modLaunch n f).pwrBusy = s.pwrBusy := rfl
@[simp] theorem State.modLaunch_tripped (s : State) (n : Nat) (f : Launch → Launch) : (s.modLaunch n f).tripped = s.tripped := rfl
@[simp] theorem State.modLaunch_droop (s : State) (n : Nat) (f : Launch → Launch) : (s.modLaunch n f).droop = s.droop := rfl
@[simp] theorem State.modLaunch_refused (s : State) (n : Nat) (f : Launch → Launch) : (s.modLaunch n f).refused = s.refused := rfl
@[simp] theorem State.modLaunch_idle (s : State) (n : Nat) (f : Launch → Launch) : (s.modLaunch n f).idle = s.idle := rfl
@[simp] theorem State.modLaunch_wantPoint (s : State) (n : Nat) (f : Launch → Launch) : (s.modLaunch n f).wantPoint = s.wantPoint := rfl
@[simp] theorem State.modLaunch_pwrCores (s : State) (n : Nat) (f : Launch → Launch) : (s.modLaunch n f).pwrCores = s.pwrCores := rfl
@[simp] theorem State.modLaunch_pwrLpd (s : State) (n : Nat) (f : Launch → Launch) : (s.modLaunch n f).pwrLpd = s.pwrLpd := rfl
@[simp] theorem State.modLaunch_pwrHbm (s : State) (n : Nat) (f : Launch → Launch) : (s.modLaunch n f).pwrHbm = s.pwrHbm := rfl
@[simp] theorem State.modLaunch_selfWant (s : State) (n : Nat) (f : Launch → Launch) : (s.modLaunch n f).selfWant = s.selfWant := rfl
@[simp] theorem State.modLaunch_selfRef (s : State) (n : Nat) (f : Launch → Launch) : (s.modLaunch n f).selfRef = s.selfRef := rfl
@[simp] theorem State.modLaunch_watts (s : State) (n : Nat) (f : Launch → Launch) : (s.modLaunch n f).watts = s.watts := rfl
@[simp] theorem State.modLaunch_warn (s : State) (n : Nat) (f : Launch → Launch) : (s.modLaunch n f).warn = s.warn := rfl
@[simp] theorem State.modLaunch_temp (s : State) (n : Nat) (f : Launch → Launch) : (s.modLaunch n f).temp = s.temp := rfl
@[simp] theorem State.modLaunch_tripLog (s : State) (n : Nat) (f : Launch → Launch) : (s.modLaunch n f).tripLog = s.tripLog := rfl
@[simp] theorem State.modLaunch_lnkLock (s : State) (n : Nat) (f : Launch → Launch) : (s.modLaunch n f).lnkLock = s.lnkLock := rfl
@[simp] theorem State.modLaunch_device (s : State) (n : Nat) (f : Launch → Launch) : (s.modLaunch n f).device = s.device := rfl
@[simp] theorem State.modLaunch_podM1 (s : State) (n : Nat) (f : Launch → Launch) : (s.modLaunch n f).podM1 = s.podM1 := rfl
@[simp] theorem State.modLaunch_planes (s : State) (n : Nat) (f : Launch → Launch) : (s.modLaunch n f).planes = s.planes := rfl
@[simp] theorem State.modLaunch_uaUp (s : State) (n : Nat) (f : Launch → Launch) : (s.modLaunch n f).uaUp = s.uaUp := rfl
@[simp] theorem State.modLaunch_cxl0 (s : State) (n : Nat) (f : Launch → Launch) : (s.modLaunch n f).cxl0 = s.cxl0 := rfl
@[simp] theorem State.modLaunch_cxl1 (s : State) (n : Nat) (f : Launch → Launch) : (s.modLaunch n f).cxl1 = s.cxl1 := rfl
@[simp] theorem State.modLaunch_channels (s : State) (n : Nat) (f : Launch → Launch) : (s.modLaunch n f).channels = s.channels := rfl
@[simp] theorem State.modLaunch_mgmtInt (s : State) (n : Nat) (f : Launch → Launch) : (s.modLaunch n f).mgmtInt = s.mgmtInt := rfl
@[simp] theorem State.modLaunch_domInt (s : State) (n : Nat) (f : Launch → Launch) : (s.modLaunch n f).domInt = s.domInt := rfl
@[simp] theorem State.modLaunch_mailbox (s : State) (n : Nat) (f : Launch → Launch) : (s.modLaunch n f).mailbox = s.mailbox := rfl
@[simp] theorem State.modLaunch_serial (s : State) (n : Nat) (f : Launch → Launch) : (s.modLaunch n f).serial = s.serial := rfl
@[simp] theorem State.modLaunch_secret (s : State) (n : Nat) (f : Launch → Launch) : (s.modLaunch n f).secret = s.secret := rfl
@[simp] theorem State.modLaunch_keyDigest (s : State) (n : Nat) (f : Launch → Launch) : (s.modLaunch n f).keyDigest = s.keyDigest := rfl
@[simp] theorem State.modLaunch_minSvn (s : State) (n : Nat) (f : Launch → Launch) : (s.modLaunch n f).minSvn = s.minSvn := rfl
@[simp] theorem State.modLaunch_svn (s : State) (n : Nat) (f : Launch → Launch) : (s.modLaunch n f).svn = s.svn := rfl
@[simp] theorem State.modLaunch_meas (s : State) (n : Nat) (f : Launch → Launch) : (s.modLaunch n f).meas = s.meas := rfl
@[simp] theorem State.modLaunch_dmeas (s : State) (n : Nat) (f : Launch → Launch) : (s.modLaunch n f).dmeas = s.dmeas := rfl
@[simp] theorem State.modLaunch_mem (s : State) (n : Nat) (f : Launch → Launch) : (s.modLaunch n f).mem = s.mem := rfl
@[simp] theorem State.modLaunch_memPoison (s : State) (n : Nat) (f : Launch → Launch) : (s.modLaunch n f).memPoison = s.memPoison := rfl
@[simp] theorem State.modLaunch_dirty (s : State) (n : Nat) (f : Launch → Launch) : (s.modLaunch n f).dirty = s.dirty := rfl
@[simp] theorem State.modLaunch_leases (s : State) (n : Nat) (f : Launch → Launch) : (s.modLaunch n f).leases = s.leases := rfl
@[simp] theorem State.modLaunch_evicted (s : State) (n : Nat) (f : Launch → Launch) : (s.modLaunch n f).evicted = s.evicted := rfl
@[simp] theorem State.modLaunch_rdc (s : State) (n : Nat) (f : Launch → Launch) : (s.modLaunch n f).rdc = s.rdc := rfl
@[simp] theorem State.modLaunch_flight (s : State) (n : Nat) (f : Launch → Launch) : (s.modLaunch n f).flight = s.flight := rfl
@[simp] theorem State.modLaunch_acks (s : State) (n : Nat) (f : Launch → Launch) : (s.modLaunch n f).acks = s.acks := rfl
@[simp] theorem State.modLaunch_fills (s : State) (n : Nat) (f : Launch → Launch) : (s.modLaunch n f).fills = s.fills := rfl
@[simp] theorem State.modLaunch_tlb (s : State) (n : Nat) (f : Launch → Launch) : (s.modLaunch n f).tlb = s.tlb := rfl
@[simp] theorem State.modLaunch_pending (s : State) (n : Nat) (f : Launch → Launch) : (s.modLaunch n f).pending = s.pending := rfl
@[simp] theorem State.modLaunch_waits (s : State) (n : Nat) (f : Launch → Launch) : (s.modLaunch n f).waits = s.waits := rfl
@[simp] theorem State.modLaunch_snoops (s : State) (n : Nat) (f : Launch → Launch) : (s.modLaunch n f).snoops = s.snoops := rfl
@[simp] theorem State.modLaunch_noLock (s : State) (n : Nat) (f : Launch → Launch) : (s.modLaunch n f).noLock = s.noLock := rfl
@[simp] theorem State.modLaunch_doms (s : State) (n : Nat) (f : Launch → Launch) : (s.modLaunch n f).doms = s.doms := rfl
@[simp] theorem State.modLaunch_cores (s : State) (n : Nat) (f : Launch → Launch) : (s.modLaunch n f).cores = s.cores := rfl
@[simp] theorem State.modLaunch_launches (s : State) (n : Nat) (f : Launch → Launch) : (s.modLaunch n f).launches = mupd s.launches n f := rfl
@[simp] theorem State.modLaunch_teams (s : State) (n : Nat) (f : Launch → Launch) : (s.modLaunch n f).teams = s.teams := rfl
@[simp] theorem State.modLaunch_groups (s : State) (n : Nat) (f : Launch → Launch) : (s.modLaunch n f).groups = s.groups := rfl
@[simp] theorem State.modLaunch_cmds (s : State) (n : Nat) (f : Launch → Launch) : (s.modLaunch n f).cmds = s.cmds := rfl
@[simp] theorem State.modLaunch_queues (s : State) (n : Nat) (f : Launch → Launch) : (s.modLaunch n f).queues = s.queues := rfl
@[simp] theorem State.modLaunch_saved (s : State) (n : Nat) (f : Launch → Launch) : (s.modLaunch n f).saved = s.saved := rfl
@[simp] theorem State.modLaunch_remote (s : State) (n : Nat) (f : Launch → Launch) : (s.modLaunch n f).remote = s.remote := rfl
@[simp] theorem State.modLaunch_nextReq (s : State) (n : Nat) (f : Launch → Launch) : (s.modLaunch n f).nextReq = s.nextReq := rfl
@[simp] theorem State.modLaunch_planeDown (s : State) (n : Nat) (f : Launch → Launch) : (s.modLaunch n f).planeDown = s.planeDown := rfl
@[simp] theorem State.modLaunch_sources (s : State) (n : Nat) (f : Launch → Launch) : (s.modLaunch n f).sources = s.sources := rfl
@[simp] theorem State.modLaunch_peerWait (s : State) (n : Nat) (f : Launch → Launch) : (s.modLaunch n f).peerWait = s.peerWait := rfl
@[simp] theorem State.modLaunch_peerLocks (s : State) (n : Nat) (f : Launch → Launch) : (s.modLaunch n f).peerLocks = s.peerLocks := rfl
@[simp] theorem State.modLaunch_ownWrites (s : State) (n : Nat) (f : Launch → Launch) : (s.modLaunch n f).ownWrites = s.ownWrites := rfl
@[simp] theorem State.modLaunch_outbox (s : State) (n : Nat) (f : Launch → Launch) : (s.modLaunch n f).outbox = s.outbox := rfl
@[simp] theorem State.modLaunch_first (s : State) (n : Nat) (f : Launch → Launch) : (s.modLaunch n f).first = s.first := rfl
@[simp] theorem State.modLaunch_heard (s : State) (n : Nat) (f : Launch → Launch) : (s.modLaunch n f).heard = s.heard := rfl
@[simp] theorem State.modLaunch_hot (s : State) (n : Nat) (f : Launch → Launch) : (s.modLaunch n f).hot = s.hot := rfl
@[simp] theorem State.modLaunch_posted (s : State) (n : Nat) (f : Launch → Launch) : (s.modLaunch n f).posted = s.posted := rfl
@[simp] theorem State.modLaunch_moveTurn (s : State) (n : Nat) (f : Launch → Launch) : (s.modLaunch n f).moveTurn = s.moveTurn := rfl
@[simp] theorem State.modLaunch_walks (s : State) (n : Nat) (f : Launch → Launch) : (s.modLaunch n f).walks = s.walks := rfl

/-! ### State.modCmd -/

@[simp] theorem State.modCmd_agenda (s : State) (n : Nat) (f : Cmd → Cmd) : (s.modCmd n f).agenda = s.agenda := rfl
@[simp] theorem State.modCmd_free (s : State) (n : Nat) (f : Cmd → Cmd) : (s.modCmd n f).free = s.free := rfl
@[simp] theorem State.modCmd_seq (s : State) (n : Nat) (f : Cmd → Cmd) : (s.modCmd n f).seq = s.seq := rfl
@[simp] theorem State.modCmd_ix (s : State) (n : Nat) (f : Cmd → Cmd) : (s.modCmd n f).ix = s.ix := rfl
@[simp] theorem State.modCmd_time (s : State) (n : Nat) (f : Cmd → Cmd) : (s.modCmd n f).time = s.time := rfl
@[simp] theorem State.modCmd_skew (s : State) (n : Nat) (f : Cmd → Cmd) : (s.modCmd n f).skew = s.skew := rfl
@[simp] theorem State.modCmd_cycles (s : State) (n : Nat) (f : Cmd → Cmd) : (s.modCmd n f).cycles = s.cycles := rfl
@[simp] theorem State.modCmd_stopped (s : State) (n : Nat) (f : Cmd → Cmd) : (s.modCmd n f).stopped = s.stopped := rfl
@[simp] theorem State.modCmd_epoch (s : State) (n : Nat) (f : Cmd → Cmd) : (s.modCmd n f).epoch = s.epoch := rfl
@[simp] theorem State.modCmd_ready (s : State) (n : Nat) (f : Cmd → Cmd) : (s.modCmd n f).ready = s.ready := rfl
@[simp] theorem State.modCmd_bootFail (s : State) (n : Nat) (f : Cmd → Cmd) : (s.modCmd n f).bootFail = s.bootFail := rfl
@[simp] theorem State.modCmd_point (s : State) (n : Nat) (f : Cmd → Cmd) : (s.modCmd n f).point = s.point := rfl
@[simp] theorem State.modCmd_pwrBusy (s : State) (n : Nat) (f : Cmd → Cmd) : (s.modCmd n f).pwrBusy = s.pwrBusy := rfl
@[simp] theorem State.modCmd_tripped (s : State) (n : Nat) (f : Cmd → Cmd) : (s.modCmd n f).tripped = s.tripped := rfl
@[simp] theorem State.modCmd_droop (s : State) (n : Nat) (f : Cmd → Cmd) : (s.modCmd n f).droop = s.droop := rfl
@[simp] theorem State.modCmd_refused (s : State) (n : Nat) (f : Cmd → Cmd) : (s.modCmd n f).refused = s.refused := rfl
@[simp] theorem State.modCmd_idle (s : State) (n : Nat) (f : Cmd → Cmd) : (s.modCmd n f).idle = s.idle := rfl
@[simp] theorem State.modCmd_wantPoint (s : State) (n : Nat) (f : Cmd → Cmd) : (s.modCmd n f).wantPoint = s.wantPoint := rfl
@[simp] theorem State.modCmd_pwrCores (s : State) (n : Nat) (f : Cmd → Cmd) : (s.modCmd n f).pwrCores = s.pwrCores := rfl
@[simp] theorem State.modCmd_pwrLpd (s : State) (n : Nat) (f : Cmd → Cmd) : (s.modCmd n f).pwrLpd = s.pwrLpd := rfl
@[simp] theorem State.modCmd_pwrHbm (s : State) (n : Nat) (f : Cmd → Cmd) : (s.modCmd n f).pwrHbm = s.pwrHbm := rfl
@[simp] theorem State.modCmd_selfWant (s : State) (n : Nat) (f : Cmd → Cmd) : (s.modCmd n f).selfWant = s.selfWant := rfl
@[simp] theorem State.modCmd_selfRef (s : State) (n : Nat) (f : Cmd → Cmd) : (s.modCmd n f).selfRef = s.selfRef := rfl
@[simp] theorem State.modCmd_watts (s : State) (n : Nat) (f : Cmd → Cmd) : (s.modCmd n f).watts = s.watts := rfl
@[simp] theorem State.modCmd_warn (s : State) (n : Nat) (f : Cmd → Cmd) : (s.modCmd n f).warn = s.warn := rfl
@[simp] theorem State.modCmd_temp (s : State) (n : Nat) (f : Cmd → Cmd) : (s.modCmd n f).temp = s.temp := rfl
@[simp] theorem State.modCmd_tripLog (s : State) (n : Nat) (f : Cmd → Cmd) : (s.modCmd n f).tripLog = s.tripLog := rfl
@[simp] theorem State.modCmd_lnkLock (s : State) (n : Nat) (f : Cmd → Cmd) : (s.modCmd n f).lnkLock = s.lnkLock := rfl
@[simp] theorem State.modCmd_device (s : State) (n : Nat) (f : Cmd → Cmd) : (s.modCmd n f).device = s.device := rfl
@[simp] theorem State.modCmd_podM1 (s : State) (n : Nat) (f : Cmd → Cmd) : (s.modCmd n f).podM1 = s.podM1 := rfl
@[simp] theorem State.modCmd_planes (s : State) (n : Nat) (f : Cmd → Cmd) : (s.modCmd n f).planes = s.planes := rfl
@[simp] theorem State.modCmd_uaUp (s : State) (n : Nat) (f : Cmd → Cmd) : (s.modCmd n f).uaUp = s.uaUp := rfl
@[simp] theorem State.modCmd_cxl0 (s : State) (n : Nat) (f : Cmd → Cmd) : (s.modCmd n f).cxl0 = s.cxl0 := rfl
@[simp] theorem State.modCmd_cxl1 (s : State) (n : Nat) (f : Cmd → Cmd) : (s.modCmd n f).cxl1 = s.cxl1 := rfl
@[simp] theorem State.modCmd_channels (s : State) (n : Nat) (f : Cmd → Cmd) : (s.modCmd n f).channels = s.channels := rfl
@[simp] theorem State.modCmd_mgmtInt (s : State) (n : Nat) (f : Cmd → Cmd) : (s.modCmd n f).mgmtInt = s.mgmtInt := rfl
@[simp] theorem State.modCmd_domInt (s : State) (n : Nat) (f : Cmd → Cmd) : (s.modCmd n f).domInt = s.domInt := rfl
@[simp] theorem State.modCmd_mailbox (s : State) (n : Nat) (f : Cmd → Cmd) : (s.modCmd n f).mailbox = s.mailbox := rfl
@[simp] theorem State.modCmd_serial (s : State) (n : Nat) (f : Cmd → Cmd) : (s.modCmd n f).serial = s.serial := rfl
@[simp] theorem State.modCmd_secret (s : State) (n : Nat) (f : Cmd → Cmd) : (s.modCmd n f).secret = s.secret := rfl
@[simp] theorem State.modCmd_keyDigest (s : State) (n : Nat) (f : Cmd → Cmd) : (s.modCmd n f).keyDigest = s.keyDigest := rfl
@[simp] theorem State.modCmd_minSvn (s : State) (n : Nat) (f : Cmd → Cmd) : (s.modCmd n f).minSvn = s.minSvn := rfl
@[simp] theorem State.modCmd_svn (s : State) (n : Nat) (f : Cmd → Cmd) : (s.modCmd n f).svn = s.svn := rfl
@[simp] theorem State.modCmd_meas (s : State) (n : Nat) (f : Cmd → Cmd) : (s.modCmd n f).meas = s.meas := rfl
@[simp] theorem State.modCmd_dmeas (s : State) (n : Nat) (f : Cmd → Cmd) : (s.modCmd n f).dmeas = s.dmeas := rfl
@[simp] theorem State.modCmd_mem (s : State) (n : Nat) (f : Cmd → Cmd) : (s.modCmd n f).mem = s.mem := rfl
@[simp] theorem State.modCmd_memPoison (s : State) (n : Nat) (f : Cmd → Cmd) : (s.modCmd n f).memPoison = s.memPoison := rfl
@[simp] theorem State.modCmd_dirty (s : State) (n : Nat) (f : Cmd → Cmd) : (s.modCmd n f).dirty = s.dirty := rfl
@[simp] theorem State.modCmd_leases (s : State) (n : Nat) (f : Cmd → Cmd) : (s.modCmd n f).leases = s.leases := rfl
@[simp] theorem State.modCmd_evicted (s : State) (n : Nat) (f : Cmd → Cmd) : (s.modCmd n f).evicted = s.evicted := rfl
@[simp] theorem State.modCmd_rdc (s : State) (n : Nat) (f : Cmd → Cmd) : (s.modCmd n f).rdc = s.rdc := rfl
@[simp] theorem State.modCmd_flight (s : State) (n : Nat) (f : Cmd → Cmd) : (s.modCmd n f).flight = s.flight := rfl
@[simp] theorem State.modCmd_acks (s : State) (n : Nat) (f : Cmd → Cmd) : (s.modCmd n f).acks = s.acks := rfl
@[simp] theorem State.modCmd_fills (s : State) (n : Nat) (f : Cmd → Cmd) : (s.modCmd n f).fills = s.fills := rfl
@[simp] theorem State.modCmd_tlb (s : State) (n : Nat) (f : Cmd → Cmd) : (s.modCmd n f).tlb = s.tlb := rfl
@[simp] theorem State.modCmd_pending (s : State) (n : Nat) (f : Cmd → Cmd) : (s.modCmd n f).pending = s.pending := rfl
@[simp] theorem State.modCmd_waits (s : State) (n : Nat) (f : Cmd → Cmd) : (s.modCmd n f).waits = s.waits := rfl
@[simp] theorem State.modCmd_snoops (s : State) (n : Nat) (f : Cmd → Cmd) : (s.modCmd n f).snoops = s.snoops := rfl
@[simp] theorem State.modCmd_noLock (s : State) (n : Nat) (f : Cmd → Cmd) : (s.modCmd n f).noLock = s.noLock := rfl
@[simp] theorem State.modCmd_doms (s : State) (n : Nat) (f : Cmd → Cmd) : (s.modCmd n f).doms = s.doms := rfl
@[simp] theorem State.modCmd_cores (s : State) (n : Nat) (f : Cmd → Cmd) : (s.modCmd n f).cores = s.cores := rfl
@[simp] theorem State.modCmd_launches (s : State) (n : Nat) (f : Cmd → Cmd) : (s.modCmd n f).launches = s.launches := rfl
@[simp] theorem State.modCmd_teams (s : State) (n : Nat) (f : Cmd → Cmd) : (s.modCmd n f).teams = s.teams := rfl
@[simp] theorem State.modCmd_groups (s : State) (n : Nat) (f : Cmd → Cmd) : (s.modCmd n f).groups = s.groups := rfl
@[simp] theorem State.modCmd_cmds (s : State) (n : Nat) (f : Cmd → Cmd) : (s.modCmd n f).cmds = mupd s.cmds n f := rfl
@[simp] theorem State.modCmd_queues (s : State) (n : Nat) (f : Cmd → Cmd) : (s.modCmd n f).queues = s.queues := rfl
@[simp] theorem State.modCmd_saved (s : State) (n : Nat) (f : Cmd → Cmd) : (s.modCmd n f).saved = s.saved := rfl
@[simp] theorem State.modCmd_remote (s : State) (n : Nat) (f : Cmd → Cmd) : (s.modCmd n f).remote = s.remote := rfl
@[simp] theorem State.modCmd_nextReq (s : State) (n : Nat) (f : Cmd → Cmd) : (s.modCmd n f).nextReq = s.nextReq := rfl
@[simp] theorem State.modCmd_planeDown (s : State) (n : Nat) (f : Cmd → Cmd) : (s.modCmd n f).planeDown = s.planeDown := rfl
@[simp] theorem State.modCmd_sources (s : State) (n : Nat) (f : Cmd → Cmd) : (s.modCmd n f).sources = s.sources := rfl
@[simp] theorem State.modCmd_peerWait (s : State) (n : Nat) (f : Cmd → Cmd) : (s.modCmd n f).peerWait = s.peerWait := rfl
@[simp] theorem State.modCmd_peerLocks (s : State) (n : Nat) (f : Cmd → Cmd) : (s.modCmd n f).peerLocks = s.peerLocks := rfl
@[simp] theorem State.modCmd_ownWrites (s : State) (n : Nat) (f : Cmd → Cmd) : (s.modCmd n f).ownWrites = s.ownWrites := rfl
@[simp] theorem State.modCmd_outbox (s : State) (n : Nat) (f : Cmd → Cmd) : (s.modCmd n f).outbox = s.outbox := rfl
@[simp] theorem State.modCmd_first (s : State) (n : Nat) (f : Cmd → Cmd) : (s.modCmd n f).first = s.first := rfl
@[simp] theorem State.modCmd_heard (s : State) (n : Nat) (f : Cmd → Cmd) : (s.modCmd n f).heard = s.heard := rfl
@[simp] theorem State.modCmd_hot (s : State) (n : Nat) (f : Cmd → Cmd) : (s.modCmd n f).hot = s.hot := rfl
@[simp] theorem State.modCmd_posted (s : State) (n : Nat) (f : Cmd → Cmd) : (s.modCmd n f).posted = s.posted := rfl
@[simp] theorem State.modCmd_moveTurn (s : State) (n : Nat) (f : Cmd → Cmd) : (s.modCmd n f).moveTurn = s.moveTurn := rfl
@[simp] theorem State.modCmd_walks (s : State) (n : Nat) (f : Cmd → Cmd) : (s.modCmd n f).walks = s.walks := rfl

/-! ### State.modCore -/

@[simp] theorem State.modCore_agenda (s : State) (n : Nat) (f : Core → Core) : (s.modCore n f).agenda = s.agenda := rfl
@[simp] theorem State.modCore_free (s : State) (n : Nat) (f : Core → Core) : (s.modCore n f).free = s.free := rfl
@[simp] theorem State.modCore_seq (s : State) (n : Nat) (f : Core → Core) : (s.modCore n f).seq = s.seq := rfl
@[simp] theorem State.modCore_ix (s : State) (n : Nat) (f : Core → Core) : (s.modCore n f).ix = s.ix := rfl
@[simp] theorem State.modCore_time (s : State) (n : Nat) (f : Core → Core) : (s.modCore n f).time = s.time := rfl
@[simp] theorem State.modCore_skew (s : State) (n : Nat) (f : Core → Core) : (s.modCore n f).skew = s.skew := rfl
@[simp] theorem State.modCore_cycles (s : State) (n : Nat) (f : Core → Core) : (s.modCore n f).cycles = s.cycles := rfl
@[simp] theorem State.modCore_stopped (s : State) (n : Nat) (f : Core → Core) : (s.modCore n f).stopped = s.stopped := rfl
@[simp] theorem State.modCore_epoch (s : State) (n : Nat) (f : Core → Core) : (s.modCore n f).epoch = s.epoch := rfl
@[simp] theorem State.modCore_ready (s : State) (n : Nat) (f : Core → Core) : (s.modCore n f).ready = s.ready := rfl
@[simp] theorem State.modCore_bootFail (s : State) (n : Nat) (f : Core → Core) : (s.modCore n f).bootFail = s.bootFail := rfl
@[simp] theorem State.modCore_point (s : State) (n : Nat) (f : Core → Core) : (s.modCore n f).point = s.point := rfl
@[simp] theorem State.modCore_pwrBusy (s : State) (n : Nat) (f : Core → Core) : (s.modCore n f).pwrBusy = s.pwrBusy := rfl
@[simp] theorem State.modCore_tripped (s : State) (n : Nat) (f : Core → Core) : (s.modCore n f).tripped = s.tripped := rfl
@[simp] theorem State.modCore_droop (s : State) (n : Nat) (f : Core → Core) : (s.modCore n f).droop = s.droop := rfl
@[simp] theorem State.modCore_refused (s : State) (n : Nat) (f : Core → Core) : (s.modCore n f).refused = s.refused := rfl
@[simp] theorem State.modCore_idle (s : State) (n : Nat) (f : Core → Core) : (s.modCore n f).idle = s.idle := rfl
@[simp] theorem State.modCore_wantPoint (s : State) (n : Nat) (f : Core → Core) : (s.modCore n f).wantPoint = s.wantPoint := rfl
@[simp] theorem State.modCore_pwrCores (s : State) (n : Nat) (f : Core → Core) : (s.modCore n f).pwrCores = s.pwrCores := rfl
@[simp] theorem State.modCore_pwrLpd (s : State) (n : Nat) (f : Core → Core) : (s.modCore n f).pwrLpd = s.pwrLpd := rfl
@[simp] theorem State.modCore_pwrHbm (s : State) (n : Nat) (f : Core → Core) : (s.modCore n f).pwrHbm = s.pwrHbm := rfl
@[simp] theorem State.modCore_selfWant (s : State) (n : Nat) (f : Core → Core) : (s.modCore n f).selfWant = s.selfWant := rfl
@[simp] theorem State.modCore_selfRef (s : State) (n : Nat) (f : Core → Core) : (s.modCore n f).selfRef = s.selfRef := rfl
@[simp] theorem State.modCore_watts (s : State) (n : Nat) (f : Core → Core) : (s.modCore n f).watts = s.watts := rfl
@[simp] theorem State.modCore_warn (s : State) (n : Nat) (f : Core → Core) : (s.modCore n f).warn = s.warn := rfl
@[simp] theorem State.modCore_temp (s : State) (n : Nat) (f : Core → Core) : (s.modCore n f).temp = s.temp := rfl
@[simp] theorem State.modCore_tripLog (s : State) (n : Nat) (f : Core → Core) : (s.modCore n f).tripLog = s.tripLog := rfl
@[simp] theorem State.modCore_lnkLock (s : State) (n : Nat) (f : Core → Core) : (s.modCore n f).lnkLock = s.lnkLock := rfl
@[simp] theorem State.modCore_device (s : State) (n : Nat) (f : Core → Core) : (s.modCore n f).device = s.device := rfl
@[simp] theorem State.modCore_podM1 (s : State) (n : Nat) (f : Core → Core) : (s.modCore n f).podM1 = s.podM1 := rfl
@[simp] theorem State.modCore_planes (s : State) (n : Nat) (f : Core → Core) : (s.modCore n f).planes = s.planes := rfl
@[simp] theorem State.modCore_uaUp (s : State) (n : Nat) (f : Core → Core) : (s.modCore n f).uaUp = s.uaUp := rfl
@[simp] theorem State.modCore_cxl0 (s : State) (n : Nat) (f : Core → Core) : (s.modCore n f).cxl0 = s.cxl0 := rfl
@[simp] theorem State.modCore_cxl1 (s : State) (n : Nat) (f : Core → Core) : (s.modCore n f).cxl1 = s.cxl1 := rfl
@[simp] theorem State.modCore_channels (s : State) (n : Nat) (f : Core → Core) : (s.modCore n f).channels = s.channels := rfl
@[simp] theorem State.modCore_mgmtInt (s : State) (n : Nat) (f : Core → Core) : (s.modCore n f).mgmtInt = s.mgmtInt := rfl
@[simp] theorem State.modCore_domInt (s : State) (n : Nat) (f : Core → Core) : (s.modCore n f).domInt = s.domInt := rfl
@[simp] theorem State.modCore_mailbox (s : State) (n : Nat) (f : Core → Core) : (s.modCore n f).mailbox = s.mailbox := rfl
@[simp] theorem State.modCore_serial (s : State) (n : Nat) (f : Core → Core) : (s.modCore n f).serial = s.serial := rfl
@[simp] theorem State.modCore_secret (s : State) (n : Nat) (f : Core → Core) : (s.modCore n f).secret = s.secret := rfl
@[simp] theorem State.modCore_keyDigest (s : State) (n : Nat) (f : Core → Core) : (s.modCore n f).keyDigest = s.keyDigest := rfl
@[simp] theorem State.modCore_minSvn (s : State) (n : Nat) (f : Core → Core) : (s.modCore n f).minSvn = s.minSvn := rfl
@[simp] theorem State.modCore_svn (s : State) (n : Nat) (f : Core → Core) : (s.modCore n f).svn = s.svn := rfl
@[simp] theorem State.modCore_meas (s : State) (n : Nat) (f : Core → Core) : (s.modCore n f).meas = s.meas := rfl
@[simp] theorem State.modCore_dmeas (s : State) (n : Nat) (f : Core → Core) : (s.modCore n f).dmeas = s.dmeas := rfl
@[simp] theorem State.modCore_mem (s : State) (n : Nat) (f : Core → Core) : (s.modCore n f).mem = s.mem := rfl
@[simp] theorem State.modCore_memPoison (s : State) (n : Nat) (f : Core → Core) : (s.modCore n f).memPoison = s.memPoison := rfl
@[simp] theorem State.modCore_dirty (s : State) (n : Nat) (f : Core → Core) : (s.modCore n f).dirty = s.dirty := rfl
@[simp] theorem State.modCore_leases (s : State) (n : Nat) (f : Core → Core) : (s.modCore n f).leases = s.leases := rfl
@[simp] theorem State.modCore_evicted (s : State) (n : Nat) (f : Core → Core) : (s.modCore n f).evicted = s.evicted := rfl
@[simp] theorem State.modCore_rdc (s : State) (n : Nat) (f : Core → Core) : (s.modCore n f).rdc = s.rdc := rfl
@[simp] theorem State.modCore_flight (s : State) (n : Nat) (f : Core → Core) : (s.modCore n f).flight = s.flight := rfl
@[simp] theorem State.modCore_acks (s : State) (n : Nat) (f : Core → Core) : (s.modCore n f).acks = s.acks := rfl
@[simp] theorem State.modCore_fills (s : State) (n : Nat) (f : Core → Core) : (s.modCore n f).fills = s.fills := rfl
@[simp] theorem State.modCore_tlb (s : State) (n : Nat) (f : Core → Core) : (s.modCore n f).tlb = s.tlb := rfl
@[simp] theorem State.modCore_pending (s : State) (n : Nat) (f : Core → Core) : (s.modCore n f).pending = s.pending := rfl
@[simp] theorem State.modCore_waits (s : State) (n : Nat) (f : Core → Core) : (s.modCore n f).waits = s.waits := rfl
@[simp] theorem State.modCore_snoops (s : State) (n : Nat) (f : Core → Core) : (s.modCore n f).snoops = s.snoops := rfl
@[simp] theorem State.modCore_noLock (s : State) (n : Nat) (f : Core → Core) : (s.modCore n f).noLock = s.noLock := rfl
@[simp] theorem State.modCore_doms (s : State) (n : Nat) (f : Core → Core) : (s.modCore n f).doms = s.doms := rfl
@[simp] theorem State.modCore_cores (s : State) (n : Nat) (f : Core → Core) : (s.modCore n f).cores = mset s.cores n (f (s.core n)) := rfl
@[simp] theorem State.modCore_launches (s : State) (n : Nat) (f : Core → Core) : (s.modCore n f).launches = s.launches := rfl
@[simp] theorem State.modCore_teams (s : State) (n : Nat) (f : Core → Core) : (s.modCore n f).teams = s.teams := rfl
@[simp] theorem State.modCore_groups (s : State) (n : Nat) (f : Core → Core) : (s.modCore n f).groups = s.groups := rfl
@[simp] theorem State.modCore_cmds (s : State) (n : Nat) (f : Core → Core) : (s.modCore n f).cmds = s.cmds := rfl
@[simp] theorem State.modCore_queues (s : State) (n : Nat) (f : Core → Core) : (s.modCore n f).queues = s.queues := rfl
@[simp] theorem State.modCore_saved (s : State) (n : Nat) (f : Core → Core) : (s.modCore n f).saved = s.saved := rfl
@[simp] theorem State.modCore_remote (s : State) (n : Nat) (f : Core → Core) : (s.modCore n f).remote = s.remote := rfl
@[simp] theorem State.modCore_nextReq (s : State) (n : Nat) (f : Core → Core) : (s.modCore n f).nextReq = s.nextReq := rfl
@[simp] theorem State.modCore_planeDown (s : State) (n : Nat) (f : Core → Core) : (s.modCore n f).planeDown = s.planeDown := rfl
@[simp] theorem State.modCore_sources (s : State) (n : Nat) (f : Core → Core) : (s.modCore n f).sources = s.sources := rfl
@[simp] theorem State.modCore_peerWait (s : State) (n : Nat) (f : Core → Core) : (s.modCore n f).peerWait = s.peerWait := rfl
@[simp] theorem State.modCore_peerLocks (s : State) (n : Nat) (f : Core → Core) : (s.modCore n f).peerLocks = s.peerLocks := rfl
@[simp] theorem State.modCore_ownWrites (s : State) (n : Nat) (f : Core → Core) : (s.modCore n f).ownWrites = s.ownWrites := rfl
@[simp] theorem State.modCore_outbox (s : State) (n : Nat) (f : Core → Core) : (s.modCore n f).outbox = s.outbox := rfl
@[simp] theorem State.modCore_first (s : State) (n : Nat) (f : Core → Core) : (s.modCore n f).first = s.first := rfl
@[simp] theorem State.modCore_heard (s : State) (n : Nat) (f : Core → Core) : (s.modCore n f).heard = s.heard := rfl
@[simp] theorem State.modCore_hot (s : State) (n : Nat) (f : Core → Core) : (s.modCore n f).hot = s.hot := rfl
@[simp] theorem State.modCore_posted (s : State) (n : Nat) (f : Core → Core) : (s.modCore n f).posted = s.posted := rfl
@[simp] theorem State.modCore_moveTurn (s : State) (n : Nat) (f : Core → Core) : (s.modCore n f).moveTurn = s.moveTurn := rfl
@[simp] theorem State.modCore_walks (s : State) (n : Nat) (f : Core → Core) : (s.modCore n f).walks = s.walks := rfl

/-! ### State.modDom -/

@[simp] theorem State.modDom_agenda (s : State) (n : Nat) (f : Domain → Domain) : (s.modDom n f).agenda = s.agenda := rfl
@[simp] theorem State.modDom_free (s : State) (n : Nat) (f : Domain → Domain) : (s.modDom n f).free = s.free := rfl
@[simp] theorem State.modDom_seq (s : State) (n : Nat) (f : Domain → Domain) : (s.modDom n f).seq = s.seq := rfl
@[simp] theorem State.modDom_ix (s : State) (n : Nat) (f : Domain → Domain) : (s.modDom n f).ix = s.ix := rfl
@[simp] theorem State.modDom_time (s : State) (n : Nat) (f : Domain → Domain) : (s.modDom n f).time = s.time := rfl
@[simp] theorem State.modDom_skew (s : State) (n : Nat) (f : Domain → Domain) : (s.modDom n f).skew = s.skew := rfl
@[simp] theorem State.modDom_cycles (s : State) (n : Nat) (f : Domain → Domain) : (s.modDom n f).cycles = s.cycles := rfl
@[simp] theorem State.modDom_stopped (s : State) (n : Nat) (f : Domain → Domain) : (s.modDom n f).stopped = s.stopped := rfl
@[simp] theorem State.modDom_epoch (s : State) (n : Nat) (f : Domain → Domain) : (s.modDom n f).epoch = s.epoch := rfl
@[simp] theorem State.modDom_ready (s : State) (n : Nat) (f : Domain → Domain) : (s.modDom n f).ready = s.ready := rfl
@[simp] theorem State.modDom_bootFail (s : State) (n : Nat) (f : Domain → Domain) : (s.modDom n f).bootFail = s.bootFail := rfl
@[simp] theorem State.modDom_point (s : State) (n : Nat) (f : Domain → Domain) : (s.modDom n f).point = s.point := rfl
@[simp] theorem State.modDom_pwrBusy (s : State) (n : Nat) (f : Domain → Domain) : (s.modDom n f).pwrBusy = s.pwrBusy := rfl
@[simp] theorem State.modDom_tripped (s : State) (n : Nat) (f : Domain → Domain) : (s.modDom n f).tripped = s.tripped := rfl
@[simp] theorem State.modDom_droop (s : State) (n : Nat) (f : Domain → Domain) : (s.modDom n f).droop = s.droop := rfl
@[simp] theorem State.modDom_refused (s : State) (n : Nat) (f : Domain → Domain) : (s.modDom n f).refused = s.refused := rfl
@[simp] theorem State.modDom_idle (s : State) (n : Nat) (f : Domain → Domain) : (s.modDom n f).idle = s.idle := rfl
@[simp] theorem State.modDom_wantPoint (s : State) (n : Nat) (f : Domain → Domain) : (s.modDom n f).wantPoint = s.wantPoint := rfl
@[simp] theorem State.modDom_pwrCores (s : State) (n : Nat) (f : Domain → Domain) : (s.modDom n f).pwrCores = s.pwrCores := rfl
@[simp] theorem State.modDom_pwrLpd (s : State) (n : Nat) (f : Domain → Domain) : (s.modDom n f).pwrLpd = s.pwrLpd := rfl
@[simp] theorem State.modDom_pwrHbm (s : State) (n : Nat) (f : Domain → Domain) : (s.modDom n f).pwrHbm = s.pwrHbm := rfl
@[simp] theorem State.modDom_selfWant (s : State) (n : Nat) (f : Domain → Domain) : (s.modDom n f).selfWant = s.selfWant := rfl
@[simp] theorem State.modDom_selfRef (s : State) (n : Nat) (f : Domain → Domain) : (s.modDom n f).selfRef = s.selfRef := rfl
@[simp] theorem State.modDom_watts (s : State) (n : Nat) (f : Domain → Domain) : (s.modDom n f).watts = s.watts := rfl
@[simp] theorem State.modDom_warn (s : State) (n : Nat) (f : Domain → Domain) : (s.modDom n f).warn = s.warn := rfl
@[simp] theorem State.modDom_temp (s : State) (n : Nat) (f : Domain → Domain) : (s.modDom n f).temp = s.temp := rfl
@[simp] theorem State.modDom_tripLog (s : State) (n : Nat) (f : Domain → Domain) : (s.modDom n f).tripLog = s.tripLog := rfl
@[simp] theorem State.modDom_lnkLock (s : State) (n : Nat) (f : Domain → Domain) : (s.modDom n f).lnkLock = s.lnkLock := rfl
@[simp] theorem State.modDom_device (s : State) (n : Nat) (f : Domain → Domain) : (s.modDom n f).device = s.device := rfl
@[simp] theorem State.modDom_podM1 (s : State) (n : Nat) (f : Domain → Domain) : (s.modDom n f).podM1 = s.podM1 := rfl
@[simp] theorem State.modDom_planes (s : State) (n : Nat) (f : Domain → Domain) : (s.modDom n f).planes = s.planes := rfl
@[simp] theorem State.modDom_uaUp (s : State) (n : Nat) (f : Domain → Domain) : (s.modDom n f).uaUp = s.uaUp := rfl
@[simp] theorem State.modDom_cxl0 (s : State) (n : Nat) (f : Domain → Domain) : (s.modDom n f).cxl0 = s.cxl0 := rfl
@[simp] theorem State.modDom_cxl1 (s : State) (n : Nat) (f : Domain → Domain) : (s.modDom n f).cxl1 = s.cxl1 := rfl
@[simp] theorem State.modDom_channels (s : State) (n : Nat) (f : Domain → Domain) : (s.modDom n f).channels = s.channels := rfl
@[simp] theorem State.modDom_mgmtInt (s : State) (n : Nat) (f : Domain → Domain) : (s.modDom n f).mgmtInt = s.mgmtInt := rfl
@[simp] theorem State.modDom_domInt (s : State) (n : Nat) (f : Domain → Domain) : (s.modDom n f).domInt = s.domInt := rfl
@[simp] theorem State.modDom_mailbox (s : State) (n : Nat) (f : Domain → Domain) : (s.modDom n f).mailbox = s.mailbox := rfl
@[simp] theorem State.modDom_serial (s : State) (n : Nat) (f : Domain → Domain) : (s.modDom n f).serial = s.serial := rfl
@[simp] theorem State.modDom_secret (s : State) (n : Nat) (f : Domain → Domain) : (s.modDom n f).secret = s.secret := rfl
@[simp] theorem State.modDom_keyDigest (s : State) (n : Nat) (f : Domain → Domain) : (s.modDom n f).keyDigest = s.keyDigest := rfl
@[simp] theorem State.modDom_minSvn (s : State) (n : Nat) (f : Domain → Domain) : (s.modDom n f).minSvn = s.minSvn := rfl
@[simp] theorem State.modDom_svn (s : State) (n : Nat) (f : Domain → Domain) : (s.modDom n f).svn = s.svn := rfl
@[simp] theorem State.modDom_meas (s : State) (n : Nat) (f : Domain → Domain) : (s.modDom n f).meas = s.meas := rfl
@[simp] theorem State.modDom_dmeas (s : State) (n : Nat) (f : Domain → Domain) : (s.modDom n f).dmeas = s.dmeas := rfl
@[simp] theorem State.modDom_mem (s : State) (n : Nat) (f : Domain → Domain) : (s.modDom n f).mem = s.mem := rfl
@[simp] theorem State.modDom_memPoison (s : State) (n : Nat) (f : Domain → Domain) : (s.modDom n f).memPoison = s.memPoison := rfl
@[simp] theorem State.modDom_dirty (s : State) (n : Nat) (f : Domain → Domain) : (s.modDom n f).dirty = s.dirty := rfl
@[simp] theorem State.modDom_leases (s : State) (n : Nat) (f : Domain → Domain) : (s.modDom n f).leases = s.leases := rfl
@[simp] theorem State.modDom_evicted (s : State) (n : Nat) (f : Domain → Domain) : (s.modDom n f).evicted = s.evicted := rfl
@[simp] theorem State.modDom_rdc (s : State) (n : Nat) (f : Domain → Domain) : (s.modDom n f).rdc = s.rdc := rfl
@[simp] theorem State.modDom_flight (s : State) (n : Nat) (f : Domain → Domain) : (s.modDom n f).flight = s.flight := rfl
@[simp] theorem State.modDom_acks (s : State) (n : Nat) (f : Domain → Domain) : (s.modDom n f).acks = s.acks := rfl
@[simp] theorem State.modDom_fills (s : State) (n : Nat) (f : Domain → Domain) : (s.modDom n f).fills = s.fills := rfl
@[simp] theorem State.modDom_tlb (s : State) (n : Nat) (f : Domain → Domain) : (s.modDom n f).tlb = s.tlb := rfl
@[simp] theorem State.modDom_pending (s : State) (n : Nat) (f : Domain → Domain) : (s.modDom n f).pending = s.pending := rfl
@[simp] theorem State.modDom_waits (s : State) (n : Nat) (f : Domain → Domain) : (s.modDom n f).waits = s.waits := rfl
@[simp] theorem State.modDom_snoops (s : State) (n : Nat) (f : Domain → Domain) : (s.modDom n f).snoops = s.snoops := rfl
@[simp] theorem State.modDom_noLock (s : State) (n : Nat) (f : Domain → Domain) : (s.modDom n f).noLock = s.noLock := rfl
@[simp] theorem State.modDom_doms (s : State) (n : Nat) (f : Domain → Domain) : (s.modDom n f).doms = mset s.doms n (f (s.dom n)) := rfl
@[simp] theorem State.modDom_cores (s : State) (n : Nat) (f : Domain → Domain) : (s.modDom n f).cores = s.cores := rfl
@[simp] theorem State.modDom_launches (s : State) (n : Nat) (f : Domain → Domain) : (s.modDom n f).launches = s.launches := rfl
@[simp] theorem State.modDom_teams (s : State) (n : Nat) (f : Domain → Domain) : (s.modDom n f).teams = s.teams := rfl
@[simp] theorem State.modDom_groups (s : State) (n : Nat) (f : Domain → Domain) : (s.modDom n f).groups = s.groups := rfl
@[simp] theorem State.modDom_cmds (s : State) (n : Nat) (f : Domain → Domain) : (s.modDom n f).cmds = s.cmds := rfl
@[simp] theorem State.modDom_queues (s : State) (n : Nat) (f : Domain → Domain) : (s.modDom n f).queues = s.queues := rfl
@[simp] theorem State.modDom_saved (s : State) (n : Nat) (f : Domain → Domain) : (s.modDom n f).saved = s.saved := rfl
@[simp] theorem State.modDom_remote (s : State) (n : Nat) (f : Domain → Domain) : (s.modDom n f).remote = s.remote := rfl
@[simp] theorem State.modDom_nextReq (s : State) (n : Nat) (f : Domain → Domain) : (s.modDom n f).nextReq = s.nextReq := rfl
@[simp] theorem State.modDom_planeDown (s : State) (n : Nat) (f : Domain → Domain) : (s.modDom n f).planeDown = s.planeDown := rfl
@[simp] theorem State.modDom_sources (s : State) (n : Nat) (f : Domain → Domain) : (s.modDom n f).sources = s.sources := rfl
@[simp] theorem State.modDom_peerWait (s : State) (n : Nat) (f : Domain → Domain) : (s.modDom n f).peerWait = s.peerWait := rfl
@[simp] theorem State.modDom_peerLocks (s : State) (n : Nat) (f : Domain → Domain) : (s.modDom n f).peerLocks = s.peerLocks := rfl
@[simp] theorem State.modDom_ownWrites (s : State) (n : Nat) (f : Domain → Domain) : (s.modDom n f).ownWrites = s.ownWrites := rfl
@[simp] theorem State.modDom_outbox (s : State) (n : Nat) (f : Domain → Domain) : (s.modDom n f).outbox = s.outbox := rfl
@[simp] theorem State.modDom_first (s : State) (n : Nat) (f : Domain → Domain) : (s.modDom n f).first = s.first := rfl
@[simp] theorem State.modDom_heard (s : State) (n : Nat) (f : Domain → Domain) : (s.modDom n f).heard = s.heard := rfl
@[simp] theorem State.modDom_hot (s : State) (n : Nat) (f : Domain → Domain) : (s.modDom n f).hot = s.hot := rfl
@[simp] theorem State.modDom_posted (s : State) (n : Nat) (f : Domain → Domain) : (s.modDom n f).posted = s.posted := rfl
@[simp] theorem State.modDom_moveTurn (s : State) (n : Nat) (f : Domain → Domain) : (s.modDom n f).moveTurn = s.moveTurn := rfl
@[simp] theorem State.modDom_walks (s : State) (n : Nat) (f : Domain → Domain) : (s.modDom n f).walks = s.walks := rfl

/-! ### The group that issues -/

theorem State.modCur_eq (s : State) (f : Group → Group) : s.modCur f = s.modGroup s.ix.slot f := rfl

theorem State.cur_eq (s : State) : s.cur = s.group s.ix.slot := rfl

/-- A changed value is read under its own key, and only there. -/
theorem mget_mupd {α : Type} (m : List (Nat × α)) (k k' : Nat) (f : α → α) :
    mget? (mupd m k f) k' = if k' = k then (mget? m k').map f else mget? m k' := by
  induction m with
  | nil => simp [mupd, mget?]
  | cons e t ih =>
    obtain ⟨j, x⟩ := e
    have hu : mupd ((j, x) :: t) k f = (if j = k then (j, f x) else (j, x)) :: mupd t k f := rfl
    rw [hu]
    by_cases hj : j = k <;> by_cases h1 : k' = j <;> by_cases h2 : k' = k <;> simp_all [mget?]

/-- A resident group after a change reads as changed. -/
theorem State.group_modGroup_same (s : State) (n : Nat) (f : Group → Group) (h : (mget? s.groups n).isSome = true) :
    (s.modGroup n f).group n = f (s.group n) := by
  obtain ⟨g, hg⟩ := Option.isSome_iff_exists.mp h
  simp [State.group, mget_mupd, hg]

/-- A change of one group leaves the others. -/
theorem State.group_modGroup_other (s : State) (n m : Nat) (f : Group → Group) (h : m ≠ n) :
    (s.modGroup n f).group m = s.group m := by
  simp [State.group, mget_mupd, h]

@[simp] theorem State.group_modTeam (s : State) (n m : Nat) (f : Team → Team) : (s.modTeam n f).group m = s.group m := rfl
@[simp] theorem State.group_modCore (s : State) (n m : Nat) (f : Core → Core) : (s.modCore n f).group m = s.group m := rfl
@[simp] theorem State.group_modLaunch (s : State) (n m : Nat) (f : Launch → Launch) : (s.modLaunch n f).group m = s.group m := rfl
@[simp] theorem State.team_modGroup (s : State) (n m : Nat) (f : Group → Group) : (s.modGroup n f).team m = s.team m := rfl
@[simp] theorem State.team_modCore (s : State) (n m : Nat) (f : Core → Core) : (s.modCore n f).team m = s.team m := rfl
@[simp] theorem State.launch_modGroup (s : State) (n m : Nat) (f : Group → Group) : (s.modGroup n f).launch m = s.launch m := rfl
@[simp] theorem State.launch_modTeam (s : State) (n m : Nat) (f : Team → Team) : (s.modTeam n f).launch m = s.launch m := rfl
@[simp] theorem State.core_modGroup (s : State) (n m : Nat) (f : Group → Group) : (s.modGroup n f).core m = s.core m := rfl
@[simp] theorem State.core_modTeam (s : State) (n m : Nat) (f : Team → Team) : (s.modTeam n f).core m = s.core m := rfl
@[simp] theorem State.dom_modGroup (s : State) (n m : Nat) (f : Group → Group) : (s.modGroup n f).dom m = s.dom m := rfl
@[simp] theorem State.dom_modTeam (s : State) (n m : Nat) (f : Team → Team) : (s.modTeam n f).dom m = s.dom m := rfl

/-- A changed core reads as changed. -/
theorem State.core_modCore_same (s : State) (n : Nat) (f : Core → Core) : (s.modCore n f).core n = f (s.core n) := by
  rw [State.core, State.modCore_cores, mget_mset_same]
  rfl

/-- A change of one core leaves the others. -/
theorem State.core_modCore_other (s : State) (n m : Nat) (f : Core → Core) (h : m ≠ n) : (s.modCore n f).core m = s.core m := by
  simp [State.core, mget_mset_other _ _ _ _ h]

/-- A changed domain reads as changed. -/
theorem State.dom_modDom_same (s : State) (n : Nat) (f : Domain → Domain) : (s.modDom n f).dom n = f (s.dom n) := by
  rw [State.dom, State.modDom_doms, mget_mset_same]
  rfl

/-- A change of one domain leaves the others. -/
theorem State.dom_modDom_other (s : State) (n m : Nat) (f : Domain → Domain) (h : m ≠ n) : (s.modDom n f).dom m = s.dom m := by
  simp [State.dom, mget_mset_other _ _ _ _ h]

/-- A lane of the class after a change of the class. -/
theorem Group.lane_modLanes (g : Group) (ls : List Nat) (f : Nat → Lane → Lane) (l : Nat) (h : l < g.lanes.length) :
    (g.modLanes ls f).lane l = if ls.contains l then f l (g.lane l) else g.lane l := by
  simp [Group.lane, Group.modLanes, List.getD, h]

/-- A change of lanes keeps their number. -/
@[simp] theorem Group.modLanes_length (g : Group) (ls : List Nat) (f : Nat → Lane → Lane) :
    (g.modLanes ls f).lanes.length = g.lanes.length := by
  simp [Group.modLanes]

end Sys2Proof.Machine
end

