-- ==== Sys2Proof/Laws/Operands.lean ====
section
/-! SUPPORT. What the operand operations and the two arithmetic courses do: what taking operands gives and changes, what
`alu`, `cross` and `withOperands` come to, and what writing results changes. -/

namespace Sys2Proof.Machine

/-- Nothing stops a module that a thermal trip has not stopped. -/
theorem State.runs_next (s t : State) (h : s.stopped = false) : s.runs t = .next t := by simp [State.runs, h]

/-- `runs` answers its state, or stops a stopped module; it never refuses. -/
theorem State.runs_cases (s t : State) :
    (s.stopped = false ∧ s.runs t = .next t) ∨ (s.stopped = true ∧ s.runs t = .fault .moduleStopped) := by
  unfold State.runs
  cases s.stopped <;> simp

/-- One source gives one list of words. -/
theorem State.take_length (s : State) (slot : Nat) (srcs : List (Src × Pos)) : (s.take slot srcs).1.length = srcs.length := by
  induction srcs generalizing s with
  | nil => rfl
  | cons e t ih =>
    obtain ⟨x, p⟩ := e
    cases x <;> simp [State.take, ih]

/-- A lane's words, one list for each source. -/
theorem State.srcWords_length (s : State) (gots : List (Pos × Got)) (l : Nat) : (s.srcWords gots l).length = gots.length := by
  simp [State.srcWords, laneWords]

/-- Operands that are ready are taken and given to the instruction. -/
theorem State.withOperands_ready (s : State) (u : Uses) (go : List (Pos × Got) → State → State) (h : s.heldBy u = none) :
    s.withOperands u go = go (s.take s.ix.slot u.srcs).1 (s.take s.ix.slot u.srcs).2 := by
  simp [State.withOperands, h]

/-- An arithmetic instruction whose operands are ready computes. -/
theorem State.alu_ready (s : State) (u : Uses) (f : List (List Reg) → Res) (h : s.heldBy u = none) : s.alu u f = s.computed u f := by
  rw [State.alu, State.withOperands_ready s u _ h]
  rfl

/-- Only the words of as many sources as the instruction has matter to what it computes. -/
theorem State.computed_congr (s : State) (u : Uses) (f g : List (List Reg) → Res)
    (h : ∀ x : List (List Reg), x.length = u.srcs.length → f x = g x) : s.computed u f = s.computed u g := by
  unfold State.computed
  simp only
  congr 1
  refine List.map_congr_left (fun l _ => ?_)
  rw [h]
  rw [State.srcWords_length, State.take_length]

/-- An arithmetic row: its completion, from the equality of its evaluation with a result on as many sources. -/
theorem computes_of_alu (i : Instr) (u : Uses) (f g : List (List Reg) → Res) (hi : ∀ s, exec i s = s.runs (s.alu u f))
    (h : ∀ x : List (List Reg), x.length = u.srcs.length → f x = g x) : Computes i u g := by
  intro s hs
  rw [hi, State.runs_next _ _ hs.1, State.alu_ready _ _ _ hs.2, State.computed_congr _ _ _ _ h]

/-- A lane operation whose operands are ready. -/
theorem State.cross_ready (s : State) (u : Uses) (f : Bool → List Nat → Nat → (Nat → List (List Reg)) → Res)
    (h : s.heldBy u = none) : s.cross u f = s.crossed u f := by
  rw [State.cross, State.withOperands_ready s u _ h]
  rfl

/-- The low word of 64 bits read from a list of words is its first word. -/
theorem wordsVal_low (l : List Reg) : (wordsVal l).setWidth 32 = (l.headD Reg.zero).bits := by
  match l with
  | [] => rfl
  | [a] => simp [wordsVal]
  | a :: b :: t =>
    ext i hi
    have h := @BitVec.getLsbD_append 32 32 i b.bits a.bits
    simp only [wordsVal, BitVec.getElem_setWidth, List.headD_cons]
    exact h.trans (by simp [hi])

end Sys2Proof.Machine
end

