-- ==== Sys2Proof/Laws/Exec.lean ====
section
/-! SUPPORT. What an arm of `exec` can answer: the state its meaning gives, unless the module is stopped. -/

namespace Sys2Proof.Machine

/-- Every row but the resets answers through `runs`. -/
theorem exec_runs (i : Instr) (s : State) (h : isReset i = false) : ∃ t, exec i s = s.runs t := by
  cases i with
  | swr a r =>
    show ∃ t, execSwr a r s = s.runs t
    unfold execSwr
    dsimp only
    split <;> exact ⟨_, rfl⟩
  | coldReset x => exact absurd h (by simp [isReset])
  | hotReset x => exact absurd h (by simp [isReset])
  | _ => exact ⟨_, rfl⟩

/-- A reset answers the state after the bring-up sequence. -/
theorem exec_reset (x : BootInput) (s : State) : exec (.coldReset x) s = .next (s.bringUp x) ∧ exec (.hotReset x) s = .next (s.bringUp x) :=
  ⟨rfl, rfl⟩

end Sys2Proof.Machine
end

