-- ==== Sys2Proof/Laws/Memory.lean ====
section
/-! SUPPORT. The canonical form of physical memory and of its poison tags: every operation over memory keeps it. And what writing
bytes at their own place leaves at every address. -/

namespace Sys2Proof.Machine

/-- What every step of a fold keeps, the fold keeps. -/
theorem foldl_keeps {α β : Type} (P : β → Prop) (f : β → α → β) (hf : ∀ b a, P b → P (f b a)) (l : List α) (b : β) (h : P b) :
    P (l.foldl f b) := by
  induction l generalizing b with
  | nil => exact h
  | cons a t ih => exact ih _ (hf b a h)

/-- The form is a property of the cells and the tags alone. -/
theorem State.memWf_of_eq (s t : State) (h : s.memWf) (hm : t.mem = s.mem) (hp : t.memPoison = s.memPoison) : t.memWf := by
  unfold State.memWf
  rw [hm, hp]
  exact h

theorem State.memWf_reset : State.reset.memWf := by
  constructor <;> rfl

theorem State.memWf_modDom (s : State) (d : Nat) (f : Domain → Domain) (h : s.memWf) : (s.modDom d f).memWf := h
theorem State.memWf_modCore (s : State) (c : Nat) (f : Core → Core) (h : s.memWf) : (s.modCore c f).memWf := h
theorem State.memWf_modGroup (s : State) (n : Nat) (f : Group → Group) (h : s.memWf) : (s.modGroup n f).memWf := h
theorem State.memWf_modTeam (s : State) (n : Nat) (f : Team → Team) (h : s.memWf) : (s.modTeam n f).memWf := h
theorem State.memWf_modLaunch (s : State) (n : Nat) (f : Launch → Launch) (h : s.memWf) : (s.modLaunch n f).memWf := h
theorem State.memWf_modCmd (s : State) (n : Nat) (f : Cmd → Cmd) (h : s.memWf) : (s.modCmd n f).memWf := h

/-! ### Writes -/

theorem State.memWf_setPoison (s : State) (k : Nat) (p : Bool) (h : s.memWf) : (s.setPoison k p).memWf :=
  ⟨h.1, canonical_sset false s.memPoison k p h.2⟩

theorem State.markDirty_mem (s : State) (pa : Nat) : (s.markDirty pa).mem = s.mem := by
  unfold State.markDirty
  dsimp only
  split <;> rfl

theorem State.markDirty_memPoison (s : State) (pa : Nat) : (s.markDirty pa).memPoison = s.memPoison := by
  unfold State.markDirty
  dsimp only
  split <;> rfl

theorem State.noteWrite_mem (s : State) (pa : Nat) : (s.noteWrite pa).mem = s.mem := by
  unfold State.noteWrite
  split <;> rfl

theorem State.noteWrite_memPoison (s : State) (pa : Nat) : (s.noteWrite pa).memPoison = s.memPoison := by
  unfold State.noteWrite
  split <;> rfl

/-- Bytes of one line: only the cells change; where they lie is asked once a written-since-copy bit is set (R332). -/
theorem State.writePiece_mem (s : State) (pa : Nat) (bs : List Byte) :
    (s.writePiece pa bs).mem = putBytes s.mem ((s.noteWrite pa).locate pa) bs := by
  show putBytes (s.noteWrite pa).mem ((s.noteWrite pa).locate pa) bs = _
  rw [State.noteWrite_mem]

theorem State.writePiece_memPoison (s : State) (pa : Nat) (bs : List Byte) : (s.writePiece pa bs).memPoison = s.memPoison := by
  show ((s.noteWrite pa).markDirty ((s.noteWrite pa).locate pa)).memPoison = s.memPoison
  rw [State.markDirty_memPoison, State.noteWrite_memPoison]

theorem State.memWf_writePiece (s : State) (pa : Nat) (bs : List Byte) (h : s.memWf) : (s.writePiece pa bs).memWf := by
  unfold State.memWf
  rw [State.writePiece_mem, State.writePiece_memPoison]
  exact ⟨Memory.wf_putBytes _ _ _ h.1, h.2⟩

theorem State.memWf_writeHome (s : State) (pa : Nat) (bs : List Byte) (h : s.memWf) : (s.writeHome pa bs).memWf :=
  foldl_keeps State.memWf _ (fun b a hb => b.memWf_writePiece a.1 a.2 hb) _ s h

theorem State.memWf_settlePoison (s : State) (k : Nat) (covered : Bool) (h : s.memWf) : (s.settlePoison k covered).memWf := by
  unfold State.settlePoison
  dsimp only
  split
  · exact s.memWf_setPoison _ _ h
  · split
    · exact s.memWf_setPoison _ _ h
    · exact h

theorem State.memWf_writeClean (s : State) (pa : Nat) (bs : List Byte) (h : s.memWf) : (s.writeClean pa bs).memWf := by
  unfold State.writeClean
  split
  · exact h
  · exact foldl_keeps State.memWf _ (fun b a hb => b.memWf_settlePoison a _ hb) _ _ (s.memWf_writeHome pa bs h)

theorem State.memWf_poisonRange (s : State) (pa n : Nat) (h : s.memWf) : (s.poisonRange pa n).memWf :=
  foldl_keeps State.memWf _ (fun b _ hb => b.memWf_setPoison _ _ hb) _ s h

theorem State.memWf_putLine (s : State) (line : Nat) (x : Line) (h : s.memWf) : (s.putLine line x).memWf := by
  refine foldl_keeps State.memWf _ (fun b _ hb => b.memWf_setPoison _ _ hb) _ _ ?_
  exact ⟨Memory.wf_putBytes _ _ _ h.1, h.2⟩

/-- Decoding a line asks other positions and takes a free value: no cell and no tag changes. -/
theorem State.memWf_decodedLine (s : State) (line : Nat) (need : Nat → Bool) (x : Line) (h : s.memWf) :
    (s.decodedLine line need x).2.memWf := by
  unfold State.decodedLine
  split
  · exact h
  · dsimp only
    split
    · exact h
    · exact h

theorem State.memWf_homeLine (s : State) (line : Nat) (h : s.memWf) : (s.homeLine line).2.memWf := by
  have hd : (s.decodedLine line (s.needsRepair line) (s.line line)).2.memWf := s.memWf_decodedLine line _ _ h
  unfold State.homeLine
  split
  · dsimp only
    split
    · exact hd
    · exact State.memWf_putLine _ _ _ hd
  · exact h

theorem State.memWf_heal (s : State) (line : Nat) (h : s.memWf) : (s.heal line).memWf := s.memWf_homeLine line h

theorem State.memWf_zeroMem (s : State) (hit : Nat → Bool) (h : s.memWf) : (s.zeroMem hit).memWf :=
  ⟨Memory.wf_filter _ _ h.1, canonical_filter false _ _ h.2⟩

theorem State.memWf_put (s : State) (pa : Nat) (bs : List Byte) (h : s.memWf) : ({ s with mem := putBytes s.mem pa bs } : State).memWf :=
  ⟨Memory.wf_putBytes _ _ _ h.1, h.2⟩

/-- A holder that joins clears its parity and initialises its log (R351). -/
theorem State.memWf_initHolder (s : State) (d : RopeDesc) (h : s.memWf) : (s.initHolder d).memWf := by
  unfold State.initHolder
  exact State.memWf_put _ _ _ (s.memWf_zeroMem _ h)

theorem State.memWf_place (s : State) (pa : Nat) (bs : List Byte) (h : s.memWf) : (s.place pa bs).memWf :=
  ⟨Memory.wf_putBytes _ _ _ h.1, canonical_filter false _ _ h.2⟩

/-- What outlasts a reset is in canonical form. -/
theorem State.memWf_nonVolatile (s : State) (h : s.memWf) : s.nonVolatile.memWf := by
  refine ⟨?_, canonical_filter false _ _ h.2⟩
  refine Memory.wf_filter _ _ ?_
  exact foldl_keeps (fun m => Memory.wf m = true) _ (fun m e hm => Memory.wf_putBytes m _ _ hm) _ s.mem h.1

/-! ### Bytes at their own place -/

/-- A byte outside a piece keeps its value at its own place. -/
theorem State.rawByte_writePiece_outside (s : State) (pa k : Nat) (bs : List Byte)
    (h : k < (s.noteWrite pa).locate pa ∨ (s.noteWrite pa).locate pa + bs.length ≤ k) :
    (s.writePiece pa bs).rawByte k = s.rawByte k := by
  unfold State.rawByte
  rw [State.writePiece_mem]
  exact sget_putBytes_outside s.mem _ k bs h

/-- A byte of a piece takes its new value at its own place. -/
theorem State.rawByte_writePiece_inside (s : State) (pa i : Nat) (bs : List Byte) (h : i < bs.length) :
    (s.writePiece pa bs).rawByte ((s.noteWrite pa).locate pa + i) = bs.getD i 0 := by
  unfold State.rawByte
  rw [State.writePiece_mem]
  rw [sget_putBytes_inside s.mem _ i bs h]
  simp [List.getD, h]

/-- Where no page is in motion every byte lies at its own address. -/
theorem State.locate_plain (s : State) (pa : Nat) (h : ∀ e ∈ s.doms, e.2.mig0.move = none ∧ e.2.mig1.move = none) : s.locate pa = pa := by
  have : s.doms.findSome? (fun e => (e.2.mig0.locate pa).or (e.2.mig1.locate pa)) = none := by
    rw [List.findSome?_eq_none_iff]
    intro e he
    obtain ⟨h0, h1⟩ := h e he
    simp [MigSet.locate, h0, h1]
  simp [State.locate, this]

/-- Where no page is in motion a home write notes nothing. -/
theorem State.noteWrite_plain (s : State) (pa : Nat) (h : ∀ e ∈ s.doms, e.2.mig0.move = none ∧ e.2.mig1.move = none) : s.noteWrite pa = s := by
  have : s.doms.all (fun e => e.2.mig0.move.isNone && e.2.mig1.move.isNone) = true := by
    rw [List.all_eq_true]
    intro e he
    simp [(h e he).1, (h e he).2]
  simp [State.noteWrite, this]

end Sys2Proof.Machine
end

