-- ==== Sys2Proof/Laws/PerInstr.lean ====
section
/-! SUPPORT. Statements made instruction by instruction. ChainBit: the parts the encoder joins into an instruction's word leave the
chain bit 0 (R33), and splitting the joined word gives those parts back (R36); the module's own steps have no word. -/

namespace Sys2Proof.Laws.ChainBit

/-- The encoder's word of an instruction has C = 0 and splits into the parts it was joined from. -/
def Statement (i : Instr) : Prop := ∀ f, instrFields i = some f → f.c = false ∧ splitWord (joinWord f) = f

/-- Joining and splitting the parts of a word is the identity. -/
theorem split_join (f : Fields) : splitWord (joinWord f) = f := by
  obtain ⟨c, op, d, a, b⟩ := f
  simp only [splitWord, joinWord, Fields.mk.injEq]
  refine ⟨?_, ?_, ?_, ?_, ?_⟩
  · rw [BitVec.getLsbD_append]
    cases c <;> simp
  all_goals
    ext k hk
    simp only [BitVec.getElem_extractLsb', BitVec.getLsbD_append]
    interval_cases k <;> simp

/-- A word whose parts have C = 0. -/
theorem word {i : Instr} {f : Fields} (h : instrFields i = some f) (hc : f.c = false) : Statement i := by
  intro g hg
  rw [h] at hg
  cases hg
  exact ⟨hc, split_join f⟩

/-- A step of the module. -/
theorem event {i : Instr} (h : instrFields i = none) : Statement i := by
  intro g hg
  rw [h] at hg
  cases hg

theorem nop : Statement .nop := word rfl rfl
theorem add (d : Dst) (a b : Src) : Statement (.add d a b) := word rfl rfl
theorem sub (d : Dst) (a b : Src) : Statement (.sub d a b) := word rfl rfl
theorem mul (d : Dst) (a b : Src) : Statement (.mul d a b) := word rfl rfl
theorem mulh (d : Dst) (a b : Src) : Statement (.mulh d a b) := word rfl rfl
theorem mulhu (d : Dst) (a b : Src) : Statement (.mulhu d a b) := word rfl rfl
theorem mad (d : Dst) (a b : Src) : Statement (.mad d a b) := word rfl rfl
theorem and (d : Dst) (a b : Src) : Statement (.and d a b) := word rfl rfl
theorem or (d : Dst) (a b : Src) : Statement (.or d a b) := word rfl rfl
theorem xor (d : Dst) (a b : Src) : Statement (.xor d a b) := word rfl rfl
theorem shl (d : Dst) (a b : Src) : Statement (.shl d a b) := word rfl rfl
theorem shr (d : Dst) (a b : Src) : Statement (.shr d a b) := word rfl rfl
theorem sar (d : Dst) (a b : Src) : Statement (.sar d a b) := word rfl rfl
theorem min (d : Dst) (a b : Src) : Statement (.min d a b) := word rfl rfl
theorem max (d : Dst) (a b : Src) : Statement (.max d a b) := word rfl rfl
theorem minu (d : Dst) (a b : Src) : Statement (.minu d a b) := word rfl rfl
theorem maxu (d : Dst) (a b : Src) : Statement (.maxu d a b) := word rfl rfl
theorem slt (d : Dst) (a b : Src) : Statement (.slt d a b) := word rfl rfl
theorem sltu (d : Dst) (a b : Src) : Statement (.sltu d a b) := word rfl rfl
theorem seq (d : Dst) (a b : Src) : Statement (.seq d a b) := word rfl rfl
theorem sel (d : Dst) (a b : Src) : Statement (.sel d a b) := word rfl rfl
theorem add64 (d : Dst) (a b : Src) : Statement (.add64 d a b) := word rfl rfl
theorem sub64 (d : Dst) (a b : Src) : Statement (.sub64 d a b) := word rfl rfl
theorem mul64 (d : Dst) (a b : Src) : Statement (.mul64 d a b) := word rfl rfl
theorem shl64 (d : Dst) (a b : Src) : Statement (.shl64 d a b) := word rfl rfl
theorem shr64 (d : Dst) (a b : Src) : Statement (.shr64 d a b) := word rfl rfl
theorem sar64 (d : Dst) (a b : Src) : Statement (.sar64 d a b) := word rfl rfl
theorem slt64 (d : Dst) (a b : Src) : Statement (.slt64 d a b) := word rfl rfl
theorem sltu64 (d : Dst) (a b : Src) : Statement (.sltu64 d a b) := word rfl rfl
theorem madwu (d : Dst) (a b : Src) : Statement (.madwu d a b) := word rfl rfl
theorem addwu (d : Dst) (a b : Src) : Statement (.addwu d a b) := word rfl rfl
theorem mov (d : Dst) (a : Src) : Statement (.mov d a) := word rfl rfl
theorem not (d : Dst) (a : Src) : Statement (.not d a) := word rfl rfl
theorem neg (d : Dst) (a : Src) : Statement (.neg d a) := word rfl rfl
theorem abs (d : Dst) (a : Src) : Statement (.abs d a) := word rfl rfl
theorem clz (d : Dst) (a : Src) : Statement (.clz d a) := word rfl rfl
theorem ctz (d : Dst) (a : Src) : Statement (.ctz d a) := word rfl rfl
theorem popc (d : Dst) (a : Src) : Statement (.popc d a) := word rfl rfl
theorem brev (d : Dst) (a : Src) : Statement (.brev d a) := word rfl rfl
theorem bswap (d : Dst) (a : Src) : Statement (.bswap d a) := word rfl rfl
theorem sextb (d : Dst) (a : Src) : Statement (.sextb d a) := word rfl rfl
theorem sexth (d : Dst) (a : Src) : Statement (.sexth d a) := word rfl rfl
theorem zextb (d : Dst) (a : Src) : Statement (.zextb d a) := word rfl rfl
theorem zexth (d : Dst) (a : Src) : Statement (.zexth d a) := word rfl rfl
theorem tcnt (d : Dst) (a : Src) : Statement (.tcnt d a) := word rfl rfl
theorem mov64 (d : Dst) (a : Src) : Statement (.mov64 d a) := word rfl rfl
theorem neg64 (d : Dst) (a : Src) : Statement (.neg64 d a) := word rfl rfl
theorem fadd (d : Dst) (a b : Src) : Statement (.fadd d a b) := word rfl rfl
theorem fsub (d : Dst) (a b : Src) : Statement (.fsub d a b) := word rfl rfl
theorem fmul (d : Dst) (a b : Src) : Statement (.fmul d a b) := word rfl rfl
theorem ffma (d : Dst) (a b : Src) : Statement (.ffma d a b) := word rfl rfl
theorem fmin (d : Dst) (a b : Src) : Statement (.fmin d a b) := word rfl rfl
theorem fmax (d : Dst) (a b : Src) : Statement (.fmax d a b) := word rfl rfl
theorem fslt (d : Dst) (a b : Src) : Statement (.fslt d a b) := word rfl rfl
theorem fsle (d : Dst) (a b : Src) : Statement (.fsle d a b) := word rfl rfl
theorem fseq (d : Dst) (a b : Src) : Statement (.fseq d a b) := word rfl rfl
theorem fsun (d : Dst) (a b : Src) : Statement (.fsun d a b) := word rfl rfl
theorem fneg (d : Dst) (a : Src) : Statement (.fneg d a) := word rfl rfl
theorem fabs (d : Dst) (a : Src) : Statement (.fabs d a) := word rfl rfl
theorem fsqrt (d : Dst) (a : Src) : Statement (.fsqrt d a) := word rfl rfl
theorem frcp (d : Dst) (a : Src) : Statement (.frcp d a) := word rfl rfl
theorem frsq (d : Dst) (a : Src) : Statement (.frsq d a) := word rfl rfl
theorem fexp2 (d : Dst) (a : Src) : Statement (.fexp2 d a) := word rfl rfl
theorem flog2 (d : Dst) (a : Src) : Statement (.flog2 d a) := word rfl rfl
theorem fsin (d : Dst) (a : Src) : Statement (.fsin d a) := word rfl rfl
theorem fcos (d : Dst) (a : Src) : Statement (.fcos d a) := word rfl rfl
theorem frndn (d : Dst) (a : Src) : Statement (.frndn d a) := word rfl rfl
theorem frndz (d : Dst) (a : Src) : Statement (.frndz d a) := word rfl rfl
theorem frndp (d : Dst) (a : Src) : Statement (.frndp d a) := word rfl rfl
theorem frndm (d : Dst) (a : Src) : Statement (.frndm d a) := word rfl rfl
theorem fclass (d : Dst) (a : Src) : Statement (.fclass d a) := word rfl rfl
theorem dadd (d : Dst) (a b : Src) : Statement (.dadd d a b) := word rfl rfl
theorem dsub (d : Dst) (a b : Src) : Statement (.dsub d a b) := word rfl rfl
theorem dmul (d : Dst) (a b : Src) : Statement (.dmul d a b) := word rfl rfl
theorem dfma (d : Dst) (a b : Src) : Statement (.dfma d a b) := word rfl rfl
theorem dmin (d : Dst) (a b : Src) : Statement (.dmin d a b) := word rfl rfl
theorem dmax (d : Dst) (a b : Src) : Statement (.dmax d a b) := word rfl rfl
theorem dslt (d : Dst) (a b : Src) : Statement (.dslt d a b) := word rfl rfl
theorem dsle (d : Dst) (a b : Src) : Statement (.dsle d a b) := word rfl rfl
theorem dseq (d : Dst) (a b : Src) : Statement (.dseq d a b) := word rfl rfl
theorem dneg (d : Dst) (a : Src) : Statement (.dneg d a) := word rfl rfl
theorem dabs (d : Dst) (a : Src) : Statement (.dabs d a) := word rfl rfl
theorem dsqrt (d : Dst) (a : Src) : Statement (.dsqrt d a) := word rfl rfl
theorem drcp (d : Dst) (a : Src) : Statement (.drcp d a) := word rfl rfl
theorem drsq (d : Dst) (a : Src) : Statement (.drsq d a) := word rfl rfl
theorem drndn (d : Dst) (a : Src) : Statement (.drndn d a) := word rfl rfl
theorem drndz (d : Dst) (a : Src) : Statement (.drndz d a) := word rfl rfl
theorem drndp (d : Dst) (a : Src) : Statement (.drndp d a) := word rfl rfl
theorem drndm (d : Dst) (a : Src) : Statement (.drndm d a) := word rfl rfl
theorem dclass (d : Dst) (a : Src) : Statement (.dclass d a) := word rfl rfl
theorem hadd2 (d : Dst) (a b : Src) : Statement (.hadd2 d a b) := word rfl rfl
theorem hmul2 (d : Dst) (a b : Src) : Statement (.hmul2 d a b) := word rfl rfl
theorem hfma2 (d : Dst) (a b : Src) : Statement (.hfma2 d a b) := word rfl rfl
theorem badd2 (d : Dst) (a b : Src) : Statement (.badd2 d a b) := word rfl rfl
theorem bmul2 (d : Dst) (a b : Src) : Statement (.bmul2 d a b) := word rfl rfl
theorem bfma2 (d : Dst) (a b : Src) : Statement (.bfma2 d a b) := word rfl rfl
theorem cvt (d : Dst) (a : Src) (x y : Ty) : Statement (.cvt d a x y) := word rfl rfl
theorem cvtz (d : Dst) (a : Src) (x y : Ty) : Statement (.cvtz d a x y) := word rfl rfl
theorem shfl (d : Dst) (a b : Src) : Statement (.shfl d a b) := word rfl rfl
theorem shflx (d : Dst) (a b : Src) : Statement (.shflx d a b) := word rfl rfl
theorem shflu (d : Dst) (a b : Src) : Statement (.shflu d a b) := word rfl rfl
theorem shfld (d : Dst) (a b : Src) : Statement (.shfld d a b) := word rfl rfl
theorem lsegi (d : Dst) (a b : Src) : Statement (.lsegi d a b) := word rfl rfl
theorem lsegf (d : Dst) (a b : Src) : Statement (.lsegf d a b) := word rfl rfl
theorem lsegd (d : Dst) (a b : Src) : Statement (.lsegd d a b) := word rfl rfl
theorem lscani (d : Dst) (a : Src) : Statement (.lscani d a) := word rfl rfl
theorem lscanf (d : Dst) (a : Src) : Statement (.lscanf d a) := word rfl rfl
theorem lscand (d : Dst) (a : Src) : Statement (.lscand d a) := word rfl rfl
theorem lredi (d : Dst) (a : Src) : Statement (.lredi d a) := word rfl rfl
theorem lredf (d : Dst) (a : Src) : Statement (.lredf d a) := word rfl rfl
theorem lredd (d : Dst) (a : Src) : Statement (.lredd d a) := word rfl rfl
theorem lmini (d : Dst) (a : Src) : Statement (.lmini d a) := word rfl rfl
theorem lmaxi (d : Dst) (a : Src) : Statement (.lmaxi d a) := word rfl rfl
theorem lany (d : Dst) (a : Src) : Statement (.lany d a) := word rfl rfl
theorem lall (d : Dst) (a : Src) : Statement (.lall d a) := word rfl rfl
theorem lcount (d : Dst) (a : Src) : Statement (.lcount d a) := word rfl rfl
theorem lrank (d : Dst) (a : Src) : Statement (.lrank d a) := word rfl rfl
theorem lballot (d : Dst) (a b : Src) : Statement (.lballot d a b) := word rfl rfl
theorem rdlane (d : Dst) (a b : Src) : Statement (.rdlane d a b) := word rfl rfl
theorem movi (d : Dst) (i : BitVec 16) : Statement (.movi d i) := word rfl rfl
theorem movih (d : Dst) (i : BitVec 16) : Statement (.movih d i) := word rfl rfl
theorem srd (d : Dst) (r : SReg) : Statement (.srd d r) := word rfl rfl
theorem swr (a : Src) (r : SReg) : Statement (.swr a r) := word rfl rfl
theorem ldB (d : Dst) (a : Src) (l : Bool) (h : Fin 128) : Statement (.ldB d a l h) := word rfl rfl
theorem ldBu (d : Dst) (a : Src) (l : Bool) (h : Fin 128) : Statement (.ldBu d a l h) := word rfl rfl
theorem ldH (d : Dst) (a : Src) (l : Bool) (h : Fin 128) : Statement (.ldH d a l h) := word rfl rfl
theorem ldHu (d : Dst) (a : Src) (l : Bool) (h : Fin 128) : Statement (.ldHu d a l h) := word rfl rfl
theorem ldW (d : Dst) (a : Src) (l : Bool) (h : Fin 128) : Statement (.ldW d a l h) := word rfl rfl
theorem ldD (d : Dst) (a : Src) (l : Bool) (h : Fin 128) : Statement (.ldD d a l h) := word rfl rfl
theorem ldQ (d : Dst) (a : Src) (l : Bool) (h : Fin 128) : Statement (.ldQ d a l h) := word rfl rfl
theorem stB (d a : Src) (l : Bool) (h : Fin 128) : Statement (.stB d a l h) := word rfl rfl
theorem stH (d a : Src) (l : Bool) (h : Fin 128) : Statement (.stH d a l h) := word rfl rfl
theorem stW (d a : Src) (l : Bool) (h : Fin 128) : Statement (.stW d a l h) := word rfl rfl
theorem stD (d a : Src) (l : Bool) (h : Fin 128) : Statement (.stD d a l h) := word rfl rfl
theorem stQ (d a : Src) (l : Bool) (h : Fin 128) : Statement (.stQ d a l h) := word rfl rfl
theorem ldcW (d : Dst) (a : Src) (l : Bool) (h : Fin 128) : Statement (.ldcW d a l h) := word rfl rfl
theorem ldcD (d : Dst) (a : Src) (l : Bool) (h : Fin 128) : Statement (.ldcD d a l h) := word rfl rfl
theorem atomW (d : Dst) (a : Src) (p : Aop) (h : Fin 16) : Statement (.atomW d a p h) := word rfl rfl
theorem atomD (d : Dst) (a : Src) (p : Aop) (h : Fin 16) : Statement (.atomD d a p h) := word rfl rfl
theorem redW (d : Dst) (a : Src) (p : Aop) (h : Fin 16) : Statement (.redW d a p h) := word rfl rfl
theorem redD (d : Dst) (a : Src) (p : Aop) (h : Fin 16) : Statement (.redD d a p h) := word rfl rfl
theorem rcloseF32 (a : Src) (l : Bool) (h : Fin 128) : Statement (.rcloseF32 a l h) := word rfl rfl
theorem rcloseF64 (a : Src) (l : Bool) (h : Fin 128) : Statement (.rcloseF64 a l h) := word rfl rfl
theorem rldW (d : Dst) (a : Src) (l : Bool) (h : Fin 128) : Statement (.rldW d a l h) := word rfl rfl
theorem rldD (d : Dst) (a : Src) (l : Bool) (h : Fin 128) : Statement (.rldD d a l h) := word rfl rfl
theorem rstW (d a : Src) (l : Bool) (h : Fin 128) : Statement (.rstW d a l h) := word rfl rfl
theorem rstD (d a : Src) (l : Bool) (h : Fin 128) : Statement (.rstD d a l h) := word rfl rfl
theorem ratom (d : Dst) (a : Src) (p : Aop) (h : Fin 16) : Statement (.ratom d a p h) := word rfl rfl
theorem fence (eng : Bool) (k : FenceKind) (s : Scope) : Statement (.fence eng k s) := word rfl rfl
theorem cacheWb (a : Src) (l : Bool) (h : Fin 128) : Statement (.cacheWb a l h) := word rfl rfl
theorem cacheWbinv (a : Src) (l : Bool) (h : Fin 128) : Statement (.cacheWbinv a l h) := word rfl rfl
theorem cacheInv (a : Src) (l : Bool) (h : Fin 128) : Statement (.cacheInv a l h) := word rfl rfl
theorem cacheCinv : Statement .cacheCinv := word rfl rfl
theorem cacheIinv (a : Src) (l : Bool) (h : Fin 128) : Statement (.cacheIinv a l h) := word rfl rfl
theorem cacheFetchb : Statement .cacheFetchb := word rfl rfl
theorem waitcEq (d a : Src) (l : Bool) (h : Fin 128) : Statement (.waitcEq d a l h) := word rfl rfl
theorem waitcNe (d a : Src) (l : Bool) (h : Fin 128) : Statement (.waitcNe d a l h) := word rfl rfl
theorem waitcGe (d a : Src) (l : Bool) (h : Fin 128) : Statement (.waitcGe d a l h) := word rfl rfl
theorem xcopy (notrap rec : Bool) (k : Fin 8) (a : Fin 16) : Statement (.xcopy notrap rec k a) := word rfl rfl
theorem xgather (notrap rec nullidx : Bool) (k : Fin 8) (a : Fin 16) : Statement (.xgather notrap rec nullidx k a) := word rfl rfl
theorem xscatter (notrap rec nullidx : Bool) (k : Fin 8) (a : Fin 16) : Statement (.xscatter notrap rec nullidx k a) := word rfl rfl
theorem xencTerm (notrap rec : Bool) (k : Fin 8) (a : Fin 16) : Statement (.xencTerm notrap rec k a) := word rfl rfl
theorem xencBlock (notrap rec : Bool) (k : Fin 8) (a : Fin 16) : Statement (.xencBlock notrap rec k a) := word rfl rfl
theorem xdecTerm (notrap rec : Bool) (k : Fin 8) (a : Fin 16) : Statement (.xdecTerm notrap rec k a) := word rfl rfl
theorem xdecBlock (notrap rec : Bool) (k : Fin 8) (a : Fin 16) : Statement (.xdecBlock notrap rec k a) := word rfl rfl
theorem mtask (notrap rec : Bool) (k : Fin 8) (a : Fin 16) : Statement (.mtask notrap rec k a) := word rfl rfl
theorem mtaskStream (notrap rec : Bool) (k : Fin 8) (a : Fin 16) : Statement (.mtaskStream notrap rec k a) := word rfl rfl
theorem mbound (d : Fin 128) (a : Fin 16) (m : Bool) : Statement (.mbound d a m) := word rfl rfl
theorem xstat (d : Fin 128) (a : Fin 16) (f : Fin 4) : Statement (.xstat d a f) := word rfl rfl
theorem b (o : BitVec 16) : Statement (.b o) := word rfl rfl
theorem bz (a : Src) (o : BitVec 16) : Statement (.bz a o) := word rfl rfl
theorem bnz (a : Src) (o : BitVec 16) : Statement (.bnz a o) := word rfl rfl
theorem bltz (a : Src) (o : BitVec 16) : Statement (.bltz a o) := word rfl rfl
theorem bgez (a : Src) (o : BitVec 16) : Statement (.bgez a o) := word rfl rfl
theorem bS (o : BitVec 16) : Statement (.bS o) := word rfl rfl
theorem bzS (a : Src) (o : BitVec 16) : Statement (.bzS a o) := word rfl rfl
theorem bnzS (a : Src) (o : BitVec 16) : Statement (.bnzS a o) := word rfl rfl
theorem call (o : BitVec 24) : Statement (.call o) := word rfl rfl
theorem callr (a : Src) : Statement (.callr a) := word rfl rfl
theorem jr (a : Src) : Statement (.jr a) := word rfl rfl
theorem ret : Statement .ret := word rfl rfl
theorem exit : Statement .exit := word rfl rfl
theorem yield (t : Fin 32) (k : Fin 8) (i : BitVec 16) : Statement (.yield t k i) := word rfl rfl
theorem bar (n : Fin 16) : Statement (.bar n) := word rfl rfl
theorem barArr (n : Fin 16) : Statement (.barArr n) := word rfl rfl
theorem barWait (n : Fin 16) : Statement (.barWait n) := word rfl rfl
theorem spawn (rec stall : Bool) (k : Fin 8) (a : Fin 16) : Statement (.spawn rec stall k a) := word rfl rfl
theorem trap (a : Src) : Statement (.trap a) := word rfl rfl
theorem bkpt : Statement .bkpt := word rfl rfl
theorem xret : Statement .xret := word rfl rfl
theorem hnarrow (d : Dst) (a : Fin 16) : Statement (.hnarrow d a) := word rfl rfl
theorem hquery (d : Fin 16) (a : Src) : Statement (.hquery d a) := word rfl rfl
theorem ptest (d : Dst) (a : Src) : Statement (.ptest d a) := word rfl rfl
theorem pclr (d : Dst) (a : Src) : Statement (.pclr d a) := word rfl rfl
theorem unpark (g : Nat) : Statement (.unpark g) := event rfl
theorem priorityAgeBoost (g : Nat) : Statement (.priorityAgeBoost g) := event rfl
theorem takeDeferredTrap (g : Nat) : Statement (.takeDeferredTrap g) := event rfl
theorem loadReturn (g : Nat) : Statement (.loadReturn g) := event rfl
theorem fenceComplete (g l : Nat) : Statement (.fenceComplete g l) := event rfl
theorem homeWritePerform (n : Nat) : Statement (.homeWritePerform n) := event rfl
theorem monitorRetest (g : Nat) : Statement (.monitorRetest g) := event rfl
theorem writeAck (n : Nat) : Statement (.writeAck n) := event rfl
theorem homeFill (core line lease : Nat) : Statement (.homeFill core line lease) := event rfl
theorem repairInputRequest (dom stripe from_ : Nat) : Statement (.repairInputRequest dom stripe from_) := event rfl
theorem cacheFillArrival (n : Nat) : Statement (.cacheFillArrival n) := event rfl
theorem leaseExpiry (c : CacheId) (line : Nat) : Statement (.leaseExpiry c line) := event rfl
theorem l2Evict (line : Nat) : Statement (.l2Evict line) := event rfl
theorem l2Writeback (line : Nat) : Statement (.l2Writeback line) := event rfl
theorem hostSnoop (line : Nat) : Statement (.hostSnoop line) := event rfl
theorem hostSnoopReply (n : Nat) : Statement (.hostSnoopReply n) := event rfl
theorem hostMemAccess (a : HostAccess) : Statement (.hostMemAccess a) := event rfl
theorem peerRequest (r : PeerReq) : Statement (.peerRequest r) := event rfl
theorem peerAnswer (a : PeerReply) : Statement (.peerAnswer a) := event rfl
theorem rstRefusal (a : PeerReply) : Statement (.rstRefusal a) := event rfl
theorem planeFail (plane : Nat) : Statement (.planeFail plane) := event rfl
theorem planeTimeout (n : Nat) : Statement (.planeTimeout n) := event rfl
theorem planeRetrain (plane : Nat) : Statement (.planeRetrain plane) := event rfl
theorem deltaApply (dom : Nat) (x : Delta) : Statement (.deltaApply dom x) := event rfl
theorem survivableFlush (dom : Nat) (lines : List Nat) : Statement (.survivableFlush dom lines) := event rfl
theorem rebuildStartMarker (dom pos s0 : Nat) : Statement (.rebuildStartMarker dom pos s0) := event rfl
theorem channelHalf (n : Nat) : Statement (.channelHalf n) := event rfl
theorem channelOffline (n : Nat) : Statement (.channelOffline n) := event rfl
theorem queueTailLatch (q : Nat) : Statement (.queueTailLatch q) := event rfl
theorem teamPlace (die : Nat) : Statement (.teamPlace die) := event rfl
theorem teamHandoff (die : Nat) : Statement (.teamHandoff die) := event rfl
theorem taskStart (core : Nat) : Statement (.taskStart core) := event rfl
theorem groupEnd (g : Nat) : Statement (.groupEnd g) := event rfl
theorem engineCommandStart (n : Nat) : Statement (.engineCommandStart n) := event rfl
theorem mtaskStart (n : Nat) : Statement (.mtaskStart n) := event rfl
theorem blockClose (n tg : Nat) : Statement (.blockClose n tg) := event rfl
theorem epilogue (n : Nat) : Statement (.epilogue n) := event rfl
theorem engineCommandComplete (n : Nat) : Statement (.engineCommandComplete n) := event rfl
theorem groupHeld (g : Nat) : Statement (.groupHeld g) := event rfl
theorem preemptSave (dom : Nat) : Statement (.preemptSave dom) := event rfl
theorem drainLimitExpiry (dom : Nat) : Statement (.drainLimitExpiry dom) := event rfl
theorem teamRestore (die : Nat) : Statement (.teamRestore die) := event rfl
theorem moveWalkEnd (dom die : Nat) : Statement (.moveWalkEnd dom die) := event rfl
theorem chunkCopy (dom die : Nat) : Statement (.chunkCopy dom die) := event rfl
theorem chunkReturn (dom die : Nat) : Statement (.chunkReturn dom die) := event rfl
theorem migrationCommit (dom die : Nat) : Statement (.migrationCommit dom die) := event rfl
theorem locationLost (dom die : Nat) (source : Bool) : Statement (.locationLost dom die source) := event rfl
theorem cairnEpoch (dom : Nat) : Statement (.cairnEpoch dom) := event rfl
theorem seedStripe (dom : Nat) : Statement (.seedStripe dom) := event rfl
theorem rebuildStripe (dom : Nat) (inputs : List StripeInput) : Statement (.rebuildStripe dom inputs) := event rfl
theorem coldReset (x : BootInput) : Statement (.coldReset x) := event rfl
theorem hotReset (x : BootInput) : Statement (.hotReset x) := event rfl
theorem flrDomain (dom : Nat) : Statement (.flrDomain dom) := event rfl
theorem flrManagement : Statement .flrManagement := event rfl
theorem droopSag (core k : Nat) : Statement (.droopSag core k) := event rfl
theorem droopHoldExpiry (core : Nat) : Statement (.droopHoldExpiry core) := event rfl
theorem thermalTrip : Statement .thermalTrip := event rfl
theorem thermalWarn (temp : Byte) : Statement (.thermalWarn temp) := event rfl
theorem clock (v : Word) : Statement (.clock v) := event rfl
theorem clockPointReached : Statement .clockPointReached := event rfl
theorem gate (v : Word) : Statement (.gate v) := event rfl
theorem ungate (v : Word) : Statement (.ungate v) := event rfl
theorem selfref (v : Word) : Statement (.selfref v) := event rfl
theorem selfrefEntry (dev : Nat) : Statement (.selfrefEntry dev) := event rfl
theorem idle (v : Word) : Statement (.idle v) := event rfl
theorem pwrStatWrite (v : Word) : Statement (.pwrStatWrite v) := event rfl
theorem intStatWrite (win : Nat) (v : Word) : Statement (.intStatWrite win v) := event rfl
theorem lnkCfgWrite (v : Word) : Statement (.lnkCfgWrite v) := event rfl
theorem registerWrite (win off size : Nat) (v : DWord) : Statement (.registerWrite win off size v) := event rfl
theorem report (win : Nat) (v : Word) : Statement (.report win v) := event rfl
theorem getcert (win : Nat) (v : Word) : Statement (.getcert win v) := event rfl
theorem domcfg (win : Nat) (v : Word) : Statement (.domcfg win v) := event rfl
theorem domoff (win : Nat) (v : Word) : Statement (.domoff win v) := event rfl
theorem xltInvSpace (dom : Nat) (v : Word) : Statement (.xltInvSpace dom v) := event rfl
theorem xltInvRange (dom : Nat) (v : Word) : Statement (.xltInvRange dom v) := event rfl
theorem xltInvHandles (dom : Nat) (v : Word) : Statement (.xltInvHandles dom v) := event rfl
theorem xltInvDone (dom : Nat) : Statement (.xltInvDone dom) := event rfl
theorem toHost (dom : Nat) (v : Word) : Statement (.toHost dom v) := event rfl
theorem toHostDone (dom : Nat) : Statement (.toHostDone dom) := event rfl
theorem toDevice (dom : Nat) (v : Word) : Statement (.toDevice dom v) := event rfl
theorem qfeLoadStart (dom : Nat) (v : Word) : Statement (.qfeLoadStart dom v) := event rfl
theorem qfeStop (dom : Nat) (v : Word) : Statement (.qfeStop dom v) := event rfl
theorem peerSync (dom : Nat) (v : Word) : Statement (.peerSync dom v) := event rfl
theorem peerSyncDone (dom : Nat) : Statement (.peerSyncDone dom) := event rfl
theorem fbBaseWrite (dom : Nat) (v : DWord) : Statement (.fbBaseWrite dom v) := event rfl
theorem fbDepthWrite (dom : Nat) (v : Word) : Statement (.fbDepthWrite dom v) := event rfl
theorem fbStatWrite (dom : Nat) (v : Word) : Statement (.fbStatWrite dom v) := event rfl
theorem replayAll (dom : Nat) (v : Word) : Statement (.replayAll dom v) := event rfl
theorem replayPage (dom : Nat) (v : Word) : Statement (.replayPage dom v) := event rfl
theorem endPage (dom : Nat) (v : Word) : Statement (.endPage dom v) := event rfl
theorem endSpace (dom : Nat) (v : Word) : Statement (.endSpace dom v) := event rfl
theorem replayDone (dom : Nat) : Statement (.replayDone dom) := event rfl
theorem preempt (dom : Nat) (v : Word) : Statement (.preempt dom v) := event rfl
theorem resume (dom : Nat) (v : Word) : Statement (.resume dom v) := event rfl
theorem move (dom die : Nat) (v : Word) : Statement (.move dom die v) := event rfl
theorem abort (dom die : Nat) (v : Word) : Statement (.abort dom die v) := event rfl
theorem join (dom : Nat) (v : Word) : Statement (.join dom v) := event rfl
theorem leave (dom : Nat) (v : Word) : Statement (.leave dom v) := event rfl
theorem lose (dom : Nat) (v : Word) : Statement (.lose dom v) := event rfl
theorem setcut (dom : Nat) (v : Word) : Statement (.setcut dom v) := event rfl
theorem rebuild (dom : Nat) (v : Word) : Statement (.rebuild dom v) := event rfl
theorem repair (dom : Nat) (v : Word) : Statement (.repair dom v) := event rfl
theorem storeLeavesCore (g n : Nat) : Statement (.storeLeavesCore g n) := event rfl
theorem uncorrectableError (e : ErrorSite) : Statement (.uncorrectableError e) := event rfl
theorem cxlPortDown (port : Nat) (gone : Option Nat) : Statement (.cxlPortDown port gone) := event rfl
theorem cxlPortUp (port : Nat) : Statement (.cxlPortUp port) := event rfl
theorem refreshPostponementLimit (n : Nat) : Statement (.refreshPostponementLimit n) := event rfl

end Sys2Proof.Laws.ChainBit
end

