-- ==== Sys2Proof/Tests/Slice0.lean ====
section
/-! SUPPORT. Tests: ill-formed terms, words decoded bit by bit from the spec's encodings, single steps, and for each statement
states and operands that meet its hypotheses. Every expected value is taken from the spec's rules. -/

namespace Sys2Proof.Tests

open Sys2Proof Sys2Proof.Machine

set_option Elab.async false
set_option maxRecDepth 20000

/-! ### Ill-formed terms, one for each check of R53 that a term can fail -/

theorem test_rejects_pairs : rejectOf (.add64 (.v 1) (.v 0) (.v 2)) = some .oddPair ∧ rejectOf (.shl64 (.v 2) (.v 1) (.v 2)) = some .oddPair ∧
    rejectOf (.ldcD (.s 3) .lit false 0) = some .oddPair ∧ rejectOf (.srd (.v 1) .time) = some .oddPair ∧
    rejectOf (.rldW (.v 0) (.v 3) false 0) = some .oddPair ∧ (Instr.add64 (.v 1) (.v 0) (.v 2)).wellFormed = false := by decide

theorem test_rejects_quads : rejectOf (.ldQ (.v 2) (.v 0) false 0) = some .quadAlign ∧ rejectOf (.stQ (.v 6) (.v 0) false 0) = some .quadAlign ∧
    rejectOf (.atomD (.v 2) (.v 0) .cas 0) = some .quadAlign ∧ rejectOf (.stQ .lit (.v 0) false 0) = some .quadLit := by decide

theorem test_rejects_sources : rejectOf (.mad .nul (.v 0) (.v 1)) = some .sourceDest ∧ rejectOf (.sel (.q 2) (.v 0) (.v 1)) = some .sourceDest ∧
    rejectOf (.atomW .nul (.v 0) .addI 0) = some .sourceDest ∧ rejectOf (.redW (.v 0) (.v 2) .xchg 0) = some .badAop ∧
    rejectOf (.cvt (.v 0) (.v 2) .f32 .f32) = some .equalTypes := by decide

theorem test_rejects_operands : rejectOf (.movih .nul 5) = some .needsRegister ∧ rejectOf (.pclr (.q 0) .lit) = some .needsRegister ∧
    rejectOf (.swr (.v 0) .lane) = some .readOnlySr ∧ rejectOf (.callr (.q 0)) = some .jumpOperand ∧ rejectOf (.jr (.v 3)) = some .oddPair ∧
    rejectOf (.trap (.q 0)) = some .trapQueue ∧ rejectOf (.hnarrow (.v 0) 0) = some .handleDest := by decide

theorem test_rejects_engine : rejectOf (.xcopy true false 0 1) = some .fxField ∧ rejectOf (.xcopy true true 0 1) = none ∧
    rejectOf (.xstat 0 1 3) = some .unassignedFunction := by decide

/-! ### Words that are ILLEGAL, each by its name -/

/-- NOP with D = 1; INTU function 0x10; SYS function 0x07; B with A = v1; CVT of F32 from F32; ADD64 into v1 (R47, R48, R53). -/
theorem test_illegal_functions : decode 0x00010000#32 = .error .fixedField ∧ decode 0x1F000010#32 = .error .unassignedFunction ∧
    decode 0x7F000007#32 = .error .unassignedFunction ∧ decode 0x70010000#32 = .error .fixedField ∧
    decode 0x3B000244#32 = .error .equalTypes ∧ decode 0x15010002#32 = .error .oddPair := by decide

/-- RCLOSE with type S32; ATOM.W with AOP 15; FENCE with scope 7; BAR of kind 3; CACHE operation 6; CALLR of a port (R48 to R52). -/
theorem test_illegal_fields : decode 0x5D000000#32 = .error .closeType ∧ decode 0x590002F0#32 = .error .badAop ∧
    decode 0x63000007#32 = .error .fenceScope ∧ decode 0x7D000030#32 = .error .barKind ∧
    decode 0x64060000#32 = .error .cacheOp ∧ decode 0x79007000#32 = .error .jumpOperand := by decide

/-- The packets of the spec's own example kernel, word for word: FADD v2, v2, 1.5 with its chain bit, ADD s5, s5, s7, BNZ s5, top, EXIT. -/
theorem test_decode_example : decode 0xA002027F#32 = .ok (true, .fadd (.v 2) (.v 2) .lit) ∧
    decode 0x01858587#32 = .ok (false, .add (.s 5) (.s 5) (.s 7)) ∧ decode 0x7285FFFE#32 = .ok (false, .bnz (.s 5) 0xFFFE#16) ∧
    decode 0x7B000000#32 = .ok (false, .exit) ∧ decode 0#32 = .ok (false, .nop) := by decide

/-- Words the spec prints beside their assembly (R50, R110, R270). -/
theorem test_decode_printed_words : decode 0x3B050245#32 = .ok (false, .cvt (.v 5) (.v 2) .f32 .f64) ∧
    decode 0x3C060704#32 = .ok (false, .cvtz (.v 6) (.v 7) .s32 .f32) ∧ decode 0x3B83894B#32 = .ok (false, .cvt (.s 3) (.s 9) .f32 .e2m1) ∧
    decode 0x6300001B#32 = .ok (false, .fence false .sc .device) ∧ decode 0x63000034#32 = .ok (false, .fence true .acqrel .pod) ∧
    decode 0x49840018#32 = .ok (false, .srd (.s 4) .time) ∧ decode 0x4A008328#32 = .ok (false, .swr (.s 3) .prio) := by decide

theorem test_decode_integer_1 :
    decode 0x00000000#32 = .ok (false, .nop) ∧
    decode 0x0188867F#32 = .ok (false, .add (.s 8) (.s 6) .lit) ∧
    decode 0x026C7F06#32 = .ok (false, .sub (.v 108) .lit (.v 6)) ∧
    decode 0x03FC737E#32 = .ok (false, .mul (.s 124) (.q 3) (.q 14)) ∧
    decode 0x04046AFE#32 = .ok (false, .mulh (.v 4) (.v 106) (.s 126)) ∧
    decode 0x0588028A#32 = .ok (false, .mulhu (.s 8) (.v 2) (.s 10)) ∧
    decode 0x066C867F#32 = .ok (false, .mad (.v 108) (.s 6) .lit) ∧
    decode 0x07FC7F06#32 = .ok (false, .and (.s 124) .lit (.v 6)) ∧
    decode 0x0804737E#32 = .ok (false, .or (.v 4) (.q 3) (.q 14)) ∧
    decode 0x09886AFE#32 = .ok (false, .xor (.s 8) (.v 106) (.s 126)) ∧
    decode 0x0A6C028A#32 = .ok (false, .shl (.v 108) (.v 2) (.s 10)) ∧
    decode 0x0BFC867F#32 = .ok (false, .shr (.s 124) (.s 6) .lit) := by decide +kernel

theorem test_decode_integer_2 :
    decode 0x0C047F06#32 = .ok (false, .sar (.v 4) .lit (.v 6)) ∧
    decode 0x0D88737E#32 = .ok (false, .min (.s 8) (.q 3) (.q 14)) ∧
    decode 0x0E6C6AFE#32 = .ok (false, .max (.v 108) (.v 106) (.s 126)) ∧
    decode 0x0FFC028A#32 = .ok (false, .minu (.s 124) (.v 2) (.s 10)) ∧
    decode 0x1004867F#32 = .ok (false, .maxu (.v 4) (.s 6) .lit) ∧
    decode 0x11887F06#32 = .ok (false, .slt (.s 8) .lit (.v 6)) ∧
    decode 0x126C737E#32 = .ok (false, .sltu (.v 108) (.q 3) (.q 14)) ∧
    decode 0x13FC6AFE#32 = .ok (false, .seq (.s 124) (.v 106) (.s 126)) ∧
    decode 0x1404028A#32 = .ok (false, .sel (.v 4) (.v 2) (.s 10)) ∧
    decode 0x1588867F#32 = .ok (false, .add64 (.s 8) (.s 6) .lit) ∧
    decode 0x166C7F06#32 = .ok (false, .sub64 (.v 108) .lit (.v 6)) ∧
    decode 0x17FC737E#32 = .ok (false, .mul64 (.s 124) (.q 3) (.q 14)) := by decide +kernel

theorem test_decode_integer_3 :
    decode 0x18046AFE#32 = .ok (false, .shl64 (.v 4) (.v 106) (.s 126)) ∧
    decode 0x1988028A#32 = .ok (false, .shr64 (.s 8) (.v 2) (.s 10)) ∧
    decode 0x1A6C867F#32 = .ok (false, .sar64 (.v 108) (.s 6) .lit) ∧
    decode 0x1BFC7F06#32 = .ok (false, .slt64 (.s 124) .lit (.v 6)) ∧
    decode 0x1C04737E#32 = .ok (false, .sltu64 (.v 4) (.q 3) (.q 14)) ∧
    decode 0x1D886AFE#32 = .ok (false, .madwu (.s 8) (.v 106) (.s 126)) ∧
    decode 0x1E6C028A#32 = .ok (false, .addwu (.v 108) (.v 2) (.s 10)) ∧
    decode 0x1FFC8600#32 = .ok (false, .mov (.s 124) (.s 6)) ∧
    decode 0x1F047F01#32 = .ok (false, .not (.v 4) .lit) ∧
    decode 0x1F887302#32 = .ok (false, .neg (.s 8) (.q 3)) ∧
    decode 0x1F6C6A03#32 = .ok (false, .abs (.v 108) (.v 106)) ∧
    decode 0x1FFC0204#32 = .ok (false, .clz (.s 124) (.v 2)) := by decide +kernel

theorem test_decode_integer_4 :
    decode 0x1F048605#32 = .ok (false, .ctz (.v 4) (.s 6)) ∧
    decode 0x1F887F06#32 = .ok (false, .popc (.s 8) .lit) ∧
    decode 0x1F6C7307#32 = .ok (false, .brev (.v 108) (.q 3)) ∧
    decode 0x1FFC6A08#32 = .ok (false, .bswap (.s 124) (.v 106)) ∧
    decode 0x1F040209#32 = .ok (false, .sextb (.v 4) (.v 2)) ∧
    decode 0x1F88860A#32 = .ok (false, .sexth (.s 8) (.s 6)) ∧
    decode 0x1F6C7F0B#32 = .ok (false, .zextb (.v 108) .lit) ∧
    decode 0x1FFC730C#32 = .ok (false, .zexth (.s 124) (.q 3)) ∧
    decode 0x1F046A0D#32 = .ok (false, .tcnt (.v 4) (.v 106)) ∧
    decode 0x1F88020E#32 = .ok (false, .mov64 (.s 8) (.v 2)) ∧
    decode 0x1F6C860F#32 = .ok (false, .neg64 (.v 108) (.s 6)) := by decide +kernel

theorem test_decode_fp32_1 :
    decode 0x20FC7F06#32 = .ok (false, .fadd (.s 124) .lit (.v 6)) ∧
    decode 0x2104737E#32 = .ok (false, .fsub (.v 4) (.q 3) (.q 14)) ∧
    decode 0x22886AFE#32 = .ok (false, .fmul (.s 8) (.v 106) (.s 126)) ∧
    decode 0x236C028A#32 = .ok (false, .ffma (.v 108) (.v 2) (.s 10)) ∧
    decode 0x24FC867F#32 = .ok (false, .fmin (.s 124) (.s 6) .lit) ∧
    decode 0x25047F06#32 = .ok (false, .fmax (.v 4) .lit (.v 6)) ∧
    decode 0x2688737E#32 = .ok (false, .fslt (.s 8) (.q 3) (.q 14)) ∧
    decode 0x276C6AFE#32 = .ok (false, .fsle (.v 108) (.v 106) (.s 126)) ∧
    decode 0x28FC028A#32 = .ok (false, .fseq (.s 124) (.v 2) (.s 10)) ∧
    decode 0x2904867F#32 = .ok (false, .fsun (.v 4) (.s 6) .lit) ∧
    decode 0x2A887F00#32 = .ok (false, .fneg (.s 8) .lit) ∧
    decode 0x2A6C7301#32 = .ok (false, .fabs (.v 108) (.q 3)) := by decide +kernel

theorem test_decode_fp32_2 :
    decode 0x2AFC6A02#32 = .ok (false, .fsqrt (.s 124) (.v 106)) ∧
    decode 0x2A040203#32 = .ok (false, .frcp (.v 4) (.v 2)) ∧
    decode 0x2A888604#32 = .ok (false, .frsq (.s 8) (.s 6)) ∧
    decode 0x2A6C7F05#32 = .ok (false, .fexp2 (.v 108) .lit) ∧
    decode 0x2AFC7306#32 = .ok (false, .flog2 (.s 124) (.q 3)) ∧
    decode 0x2A046A07#32 = .ok (false, .fsin (.v 4) (.v 106)) ∧
    decode 0x2A880208#32 = .ok (false, .fcos (.s 8) (.v 2)) ∧
    decode 0x2A6C8609#32 = .ok (false, .frndn (.v 108) (.s 6)) ∧
    decode 0x2AFC7F0A#32 = .ok (false, .frndz (.s 124) .lit) ∧
    decode 0x2A04730B#32 = .ok (false, .frndp (.v 4) (.q 3)) ∧
    decode 0x2A886A0C#32 = .ok (false, .frndm (.s 8) (.v 106)) ∧
    decode 0x2A6C020D#32 = .ok (false, .fclass (.v 108) (.v 2)) := by decide +kernel

theorem test_decode_fp64_packed_convert_1 :
    decode 0x2BFC867F#32 = .ok (false, .dadd (.s 124) (.s 6) .lit) ∧
    decode 0x2C047F06#32 = .ok (false, .dsub (.v 4) .lit (.v 6)) ∧
    decode 0x2D88737E#32 = .ok (false, .dmul (.s 8) (.q 3) (.q 14)) ∧
    decode 0x2E6C6AFE#32 = .ok (false, .dfma (.v 108) (.v 106) (.s 126)) ∧
    decode 0x2FFC028A#32 = .ok (false, .dmin (.s 124) (.v 2) (.s 10)) ∧
    decode 0x3004867F#32 = .ok (false, .dmax (.v 4) (.s 6) .lit) ∧
    decode 0x31887F06#32 = .ok (false, .dslt (.s 8) .lit (.v 6)) ∧
    decode 0x326C737E#32 = .ok (false, .dsle (.v 108) (.q 3) (.q 14)) ∧
    decode 0x33FC6AFE#32 = .ok (false, .dseq (.s 124) (.v 106) (.s 126)) ∧
    decode 0x34040200#32 = .ok (false, .dneg (.v 4) (.v 2)) ∧
    decode 0x34888601#32 = .ok (false, .dabs (.s 8) (.s 6)) ∧
    decode 0x346C7F02#32 = .ok (false, .dsqrt (.v 108) .lit) := by decide +kernel

theorem test_decode_fp64_packed_convert_2 :
    decode 0x34FC7303#32 = .ok (false, .drcp (.s 124) (.q 3)) ∧
    decode 0x34046A04#32 = .ok (false, .drsq (.v 4) (.v 106)) ∧
    decode 0x34880205#32 = .ok (false, .drndn (.s 8) (.v 2)) ∧
    decode 0x346C8606#32 = .ok (false, .drndz (.v 108) (.s 6)) ∧
    decode 0x34FC7F07#32 = .ok (false, .drndp (.s 124) .lit) ∧
    decode 0x34047308#32 = .ok (false, .drndm (.v 4) (.q 3)) ∧
    decode 0x34886A09#32 = .ok (false, .dclass (.s 8) (.v 106)) ∧
    decode 0x356C028A#32 = .ok (false, .hadd2 (.v 108) (.v 2) (.s 10)) ∧
    decode 0x36FC867F#32 = .ok (false, .hmul2 (.s 124) (.s 6) .lit) ∧
    decode 0x37047F06#32 = .ok (false, .hfma2 (.v 4) .lit (.v 6)) ∧
    decode 0x3888737E#32 = .ok (false, .badd2 (.s 8) (.q 3) (.q 14)) ∧
    decode 0x396C6AFE#32 = .ok (false, .bmul2 (.v 108) (.v 106) (.s 126)) := by decide +kernel

theorem test_decode_fp64_packed_convert_3 :
    decode 0x3AFC028A#32 = .ok (false, .bfma2 (.s 124) (.v 2) (.s 10)) ∧
    decode 0x3B04862B#32 = .ok (false, .cvt (.v 4) (.s 6) .s64 .e2m1) ∧
    decode 0x3C887F45#32 = .ok (false, .cvtz (.s 8) .lit .f32 .f64) := by decide +kernel

theorem test_decode_lane_1 :
    decode 0x3D6C737E#32 = .ok (false, .shfl (.v 108) (.q 3) (.q 14)) ∧
    decode 0x3EFC6AFE#32 = .ok (false, .shflx (.s 124) (.v 106) (.s 126)) ∧
    decode 0x3F04028A#32 = .ok (false, .shflu (.v 4) (.v 2) (.s 10)) ∧
    decode 0x4088867F#32 = .ok (false, .shfld (.s 8) (.s 6) .lit) ∧
    decode 0x416C7F06#32 = .ok (false, .lsegi (.v 108) .lit (.v 6)) ∧
    decode 0x42FC737E#32 = .ok (false, .lsegf (.s 124) (.q 3) (.q 14)) ∧
    decode 0x43046AFE#32 = .ok (false, .lsegd (.v 4) (.v 106) (.s 126)) ∧
    decode 0x44880200#32 = .ok (false, .lscani (.s 8) (.v 2)) ∧
    decode 0x446C8601#32 = .ok (false, .lscanf (.v 108) (.s 6)) ∧
    decode 0x44FC7F02#32 = .ok (false, .lscand (.s 124) .lit) ∧
    decode 0x44047303#32 = .ok (false, .lredi (.v 4) (.q 3)) ∧
    decode 0x44886A04#32 = .ok (false, .lredf (.s 8) (.v 106)) := by decide +kernel

theorem test_decode_lane_2 :
    decode 0x446C0205#32 = .ok (false, .lredd (.v 108) (.v 2)) ∧
    decode 0x44FC8606#32 = .ok (false, .lmini (.s 124) (.s 6)) ∧
    decode 0x44047F07#32 = .ok (false, .lmaxi (.v 4) .lit) ∧
    decode 0x44887308#32 = .ok (false, .lany (.s 8) (.q 3)) ∧
    decode 0x446C6A09#32 = .ok (false, .lall (.v 108) (.v 106)) ∧
    decode 0x44FC020A#32 = .ok (false, .lcount (.s 124) (.v 2)) ∧
    decode 0x4404860B#32 = .ok (false, .lrank (.v 4) (.s 6)) ∧
    decode 0x45887F06#32 = .ok (false, .lballot (.s 8) .lit (.v 6)) ∧
    decode 0x466C737E#32 = .ok (false, .rdlane (.v 108) (.q 3) (.q 14)) := by decide +kernel

theorem test_decode_immediate_special :
    decode 0x47FC8123#32 = .ok (false, .movi (.s 124) 0x8123#16) ∧
    decode 0x48048123#32 = .ok (false, .movih (.v 4) 0x8123#16) ∧
    decode 0x49880018#32 = .ok (false, .srd (.s 8) .time) ∧
    decode 0x4A007F32#32 = .ok (false, .swr .lit .xpc) := by decide +kernel

theorem test_decode_memory_1 :
    decode 0x4BFC73D5#32 = .ok (false, .ldB (.s 124) (.q 3) true 0x55) ∧
    decode 0x4C046A55#32 = .ok (false, .ldBu (.v 4) (.v 106) false 0x55) ∧
    decode 0x4D8802D5#32 = .ok (false, .ldH (.s 8) (.v 2) true 0x55) ∧
    decode 0x4E6C8655#32 = .ok (false, .ldHu (.v 108) (.s 6) false 0x55) ∧
    decode 0x4FFC7FD5#32 = .ok (false, .ldW (.s 124) .lit true 0x55) ∧
    decode 0x50047355#32 = .ok (false, .ldD (.v 4) (.q 3) false 0x55) ∧
    decode 0x51886AD5#32 = .ok (false, .ldQ (.s 8) (.v 106) true 0x55) ∧
    decode 0x526C0255#32 = .ok (false, .stB (.v 108) (.v 2) false 0x55) ∧
    decode 0x53FC86D5#32 = .ok (false, .stH (.s 124) (.s 6) true 0x55) ∧
    decode 0x54047F55#32 = .ok (false, .stW (.v 4) .lit false 0x55) ∧
    decode 0x558873D5#32 = .ok (false, .stD (.s 8) (.q 3) true 0x55) ∧
    decode 0x566C6A55#32 = .ok (false, .stQ (.v 108) (.v 106) false 0x55) := by decide +kernel

theorem test_decode_memory_2 :
    decode 0x57FC02D5#32 = .ok (false, .ldcW (.s 124) (.v 2) true 0x55) ∧
    decode 0x58048655#32 = .ok (false, .ldcD (.v 4) (.s 6) false 0x55) ∧
    decode 0x59887F0B#32 = .ok (false, .atomW (.s 8) .lit .addI 0xB) ∧
    decode 0x5A6C730B#32 = .ok (false, .atomD (.v 108) (.q 3) .addI 0xB) ∧
    decode 0x5BFC6A0B#32 = .ok (false, .redW (.s 124) (.v 106) .addI 0xB) ∧
    decode 0x5C04020B#32 = .ok (false, .redD (.v 4) (.v 2) .addI 0xB) ∧
    decode 0x5D0486D5#32 = .ok (false, .rcloseF32 (.s 6) true 0x55) ∧
    decode 0x5D050255#32 = .ok (false, .rcloseF64 (.v 2) false 0x55) ∧
    decode 0x5EFC86D5#32 = .ok (false, .rldW (.s 124) (.s 6) true 0x55) ∧
    decode 0x5F040255#32 = .ok (false, .rldD (.v 4) (.v 2) false 0x55) ∧
    decode 0x608886D5#32 = .ok (false, .rstW (.s 8) (.s 6) true 0x55) ∧
    decode 0x616C0255#32 = .ok (false, .rstD (.v 108) (.v 2) false 0x55) := by decide +kernel

theorem test_decode_memory_3 :
    decode 0x62FC863B#32 = .ok (false, .ratom (.s 124) (.s 6) .maxS 0xB) ∧
    decode 0x63000036#32 = .ok (false, .fence true .acqrel .survivable) ∧
    decode 0x64006AD5#32 = .ok (false, .cacheWb (.v 106) true 0x55) ∧
    decode 0x64010255#32 = .ok (false, .cacheWbinv (.v 2) false 0x55) ∧
    decode 0x640286D5#32 = .ok (false, .cacheInv (.s 6) true 0x55) ∧
    decode 0x64030000#32 = .ok (false, .cacheCinv) ∧
    decode 0x640473D5#32 = .ok (false, .cacheIinv (.q 3) true 0x55) ∧
    decode 0x64050000#32 = .ok (false, .cacheFetchb) ∧
    decode 0x65FC02D5#32 = .ok (false, .waitcEq (.s 124) (.v 2) true 0x55) ∧
    decode 0x66048655#32 = .ok (false, .waitcNe (.v 4) (.s 6) false 0x55) ∧
    decode 0x67887FD5#32 = .ok (false, .waitcGe (.s 8) .lit true 0x55) := by decide +kernel

theorem test_decode_engine :
    decode 0x68C5B000#32 = .ok (false, .xcopy true true 5 6) ∧
    decode 0x69D5B000#32 = .ok (false, .xgather true true true 5 6) ∧
    decode 0x6AD5B000#32 = .ok (false, .xscatter true true true 5 6) ∧
    decode 0x6BC5B000#32 = .ok (false, .xencTerm true true 5 6) ∧
    decode 0x6BC5B001#32 = .ok (false, .xencBlock true true 5 6) ∧
    decode 0x6CC5B000#32 = .ok (false, .xdecTerm true true 5 6) ∧
    decode 0x6CC5B001#32 = .ok (false, .xdecBlock true true 5 6) ∧
    decode 0x6DC5B000#32 = .ok (false, .mtask true true 5 6) ∧
    decode 0x6DC5B001#32 = .ok (false, .mtaskStream true true 5 6) ∧
    decode 0x6E85B001#32 = .ok (false, .mbound 5 6 true) ∧
    decode 0x6F85B002#32 = .ok (false, .xstat 5 6 2) := by decide +kernel

theorem test_decode_control_1 :
    decode 0x7000FF01#32 = .ok (false, .b 0xFF01#16) ∧
    decode 0x7102FF01#32 = .ok (false, .bz (.v 2) 0xFF01#16) ∧
    decode 0x7286FF01#32 = .ok (false, .bnz (.s 6) 0xFF01#16) ∧
    decode 0x737FFF01#32 = .ok (false, .bltz .lit 0xFF01#16) ∧
    decode 0x7473FF01#32 = .ok (false, .bgez (.q 3) 0xFF01#16) ∧
    decode 0x7500FF01#32 = .ok (false, .bS 0xFF01#16) ∧
    decode 0x7602FF01#32 = .ok (false, .bzS (.v 2) 0xFF01#16) ∧
    decode 0x7786FF01#32 = .ok (false, .bnzS (.s 6) 0xFF01#16) ∧
    decode 0x78FEDCBA#32 = .ok (false, .call 0xFEDCBA#24) ∧
    decode 0x79000200#32 = .ok (false, .callr (.v 2)) ∧
    decode 0x79008601#32 = .ok (false, .jr (.s 6)) ∧
    decode 0x7A000000#32 = .ok (false, .ret) := by decide +kernel

theorem test_decode_control_2 :
    decode 0x7B000000#32 = .ok (false, .exit) ∧
    decode 0x7C8D8123#32 = .ok (false, .yield 17 5 0x8123#16) ∧
    decode 0x7D000009#32 = .ok (false, .bar 9) ∧
    decode 0x7D000019#32 = .ok (false, .barArr 9) ∧
    decode 0x7D000029#32 = .ok (false, .barWait 9) ∧
    decode 0x7E4DB000#32 = .ok (false, .spawn true true 5 6) ∧
    decode 0x7F007F00#32 = .ok (false, .trap .lit) ∧
    decode 0x7F000001#32 = .ok (false, .bkpt) ∧
    decode 0x7F000002#32 = .ok (false, .xret) ∧
    decode 0x7F88B003#32 = .ok (false, .hnarrow (.s 8) 6) ∧
    decode 0x7FC88604#32 = .ok (false, .hquery 9 (.s 6)) ∧
    decode 0x7F047F05#32 = .ok (false, .ptest (.v 4) .lit) := by decide +kernel

theorem test_decode_control_3 :
    decode 0x7F887306#32 = .ok (false, .pclr (.s 8) (.q 3)) := by decide +kernel

/-! ### A small machine -/

/-- A handle entry. -/
def handle (base len space perm esize : Nat) : HEntry :=
  { bytes := handleBytes true base len space perm 0 false esize, poison := false }

/-- Handles 0 to 8 of launch 0, cached in core 0: one of each space, and the whole local memory of its team. -/
def handles : List (Nat × HEntry) :=
  [(0, handle 0x30000 0x1000 0 0x17 0), (1, handle 0 0x100 1 7 0), (2, handle 0x30000 0x100 2 1 0), (3, handle 0 0x1000 3 7 0),
   (4, handle 0x31000 0x400 4 7 40), (5, handle 0x32000 0x100 5 3 0), (6, handle benchVa 0x1000 6 9 0), (7, handle 0x40000 0x4000 7 3 0), (8, handle 0 0x1000 1 7 0)]

/-- Queue ports: q0 a vector port with one entry, its ring at offset 0x800, q1 a uniform port that is full. -/
def ports : List (Nat × Chan) :=
  [(0, { vector := true, words := 32, ofs := 0x800, head := 0, tags := [List.replicate 32 false] }),
   (1, { vector := false, words := 1, ofs := 0x7C0, head := 0, tags := List.replicate 16 [false] })]

/-- The team of the small machine: 64 bytes of link stack in each lane, 4 KiB of local memory, one tile. -/
def smallTeam : Team :=
  { benchTeam with len := 0x1000, tiles := [0], chans := ports, hdr := { KHeader.blank with stackB := 64, locB := 0x1000 } }

/-- Uniform register n holds n for n = 1 to 7. -/
def smallGroup : Group := benchGroup.sput 1 ((List.range 7).map (fun k => Reg.of (BitVec.ofNat 32 (k + 1))))

/-- Group 0 about to issue a word in lanes 0 and 1, virtual addresses below 1 GiB mapped, no handle table in memory. -/
def here : State :=
  let s := State.reset.bench 0
  { s with
    agenda := [], groups := [(0, smallGroup)], teams := [(0, smallTeam)]
    launches := [(0, { benchLaunch with htab := 0x20000, hcnt := 9, stackH := 7, stack := handle 0x40000 0x4000 7 3 0 })]
    cores := [(0, { Core.clear with hcache := handles })]
    ix := { slot := 0, lanes := [0, 1], pc := 0x10000, word := 0, lit := 5, chain := false } }

/-- `here` with lane registers, all lanes the same. -/
def hereV (n : Nat) (ws : List Word) : State :=
  here.modCur (fun g => { g with lanes := g.lanes.map (fun x => x.vput n (ws.map Reg.of)) })

/-- The instruction answers a next state that passes a test. -/
def runs (i : Instr) (s : State) (f : State → Bool) : Bool :=
  match exec i s with
  | .next t => f t
  | _ => false

theorem runs_elim (i : Instr) (s : State) (f : State → Bool) (h : runs i s f = true) : ∃ t, exec i s = .next t ∧ f t = true := by
  unfold runs at h
  split at h
  · exact ⟨_, by assumption, h⟩
  · exact absurd h (by decide)

/-! ### Single steps: one instruction each, values worked out by hand from the rules -/

/-- Word n of lane l after an instruction, with its tag. -/
def gives (i : Instr) (s : State) (l n : Nat) (w : Word) (p : Bool) : Bool :=
  runs i s (fun t => ((t.cur.lane l).vget n) == { bits := w, poison := p })

/-- R94: modulo 2^32; the high half of a product of two minus ones. -/
theorem test_add_wraps : gives (.add (.v 2) (.v 0) (.v 1)) (hereV 0 [0xFFFFFFFF, 2]) 1 2 1 false = true := by decide +kernel
theorem test_mulh_signs : gives (.mulh (.v 2) (.v 0) (.v 1)) (hereV 0 [0xFFFFFFFF, 0xFFFFFFFF]) 0 2 0 false = true := by decide +kernel
theorem test_mulhu : gives (.mulhu (.v 2) (.v 0) (.v 1)) (hereV 0 [0xFFFFFFFF, 0xFFFFFFFF]) 0 2 0xFFFFFFFE false = true := by decide +kernel

/-- R94: every bit of the count takes part, so a shift by 0x100 gives 0, or copies of the sign. -/
theorem test_shl_counts : gives (.shl (.v 2) (.v 0) (.v 1)) (hereV 0 [1, 0x100]) 0 2 0 false = true := by decide +kernel
theorem test_sar_counts : gives (.sar (.v 2) (.v 0) (.v 1)) (hereV 0 [0x80000000, 32]) 0 2 0xFFFFFFFF false = true := by decide +kernel

/-- R95: SEL with a = 0 keeps d, and the unselected poisoned word does not poison it. -/
theorem test_sel_ignores_the_unselected : gives (.sel (.v 2) (.v 0) (.v 1))
    ((hereV 0 [0, 0, 7]).modCur (fun g => g.modLanes [0] (fun _ x => x.vset 1 { bits := 3, poison := true }))) 0 2 7 false = true := by decide +kernel

/-- R90: sources are read before any destination is written, so ADD64 w2, w2, w2 doubles w2. -/
theorem test_add64_doubles : runs (.add64 (.v 2) (.v 2) (.v 2)) (hereV 2 [0x80000000, 1])
    (fun t => ((t.cur.lane 0).vget 2).bits == 0 && ((t.cur.lane 0).vget 3).bits == 3) = true := by decide +kernel

/-- R91: a uniform operation happens once for the class, of two lanes. -/
theorem test_uniform_once : runs (.add (.s 5) (.s 5) (.s 1)) here (fun t => (t.cur.sget 5).bits == 6) = true := by decide +kernel

/-- Lanes outside the class keep their words (R90). -/
theorem test_other_lanes_keep : runs (.mov (.v 2) .lit) here (fun t => ((t.cur.lane 1).vget 2).bits == 5 && ((t.cur.lane 2).vget 2).bits == 0) = true := by
  decide +kernel

/-- 1.0 + 1.5 = 2.5; 1 / 3 rounded to nearest; the minimum of the zeros is −0 (R101, R104, R107). -/
theorem test_fadd : gives (.fadd (.v 2) (.v 0) (.v 1)) (hereV 0 [0x3F800000, 0x3FC00000]) 0 2 0x40200000 false = true := by decide +kernel
theorem test_frcp : gives (.frcp (.v 2) (.v 0)) (hereV 0 [0x40400000]) 0 2 0x3EAAAAAB false = true := by decide +kernel
theorem test_fmin_zeros : gives (.fmin (.v 2) (.v 0) (.v 1)) (hereV 0 [0, 0x80000000]) 0 2 0x80000000 false = true := by decide +kernel

/-- The square root of 4.0 is 2.0, in a pair (R107, R108). -/
theorem test_dsqrt : runs (.dsqrt (.v 2) (.v 0)) (hereV 0 [0, 0x40100000])
    (fun t => ((t.cur.lane 0).vget 2).bits == 0 && ((t.cur.lane 0).vget 3).bits == 0x40000000) = true := by decide +kernel

/-- The largest E4M3 code is 448 (R66); CVTZ cuts −2.7 to −2 (R110). -/
theorem test_cvt_e4m3 : gives (.cvt (.v 2) (.v 0) .f32 .e4m3) (hereV 0 [0x7E]) 0 2 0x43E00000 false = true := by decide +kernel
theorem test_cvtz : gives (.cvtz (.v 2) (.v 0) .s32 .f32) (hereV 0 [0xC02CCCCD]) 0 2 0xFFFFFFFE false = true := by decide +kernel

/-- Lane 1 reads lane 0 of the class; the sum up to and with lane 1 (R112, R115). -/
theorem test_shfl : gives (.shfl (.v 2) (.v 0) (.v 1)) ((hereV 1 [0]).modCur (fun g => g.modLanes [0] (fun _ x => x.vset 0 (Reg.of 9)))) 1 2 9 false = true := by
  decide +kernel
theorem test_lscani : gives (.lscani (.v 2) (.v 0)) (hereV 0 [7]) 1 2 14 false = true := by decide +kernel

/-- The immediate above the old low half (R100); the lane's own number (R271). -/
theorem test_movih : gives (.movih (.v 0) 0x1234#16) (hereV 0 [0xABCD5678]) 0 0 0x12345678 false = true := by decide +kernel
theorem test_srd_lane : gives (.srd (.v 2) .lane) here 1 2 1 false = true := by decide +kernel

/-- A store through a LOCAL handle reaches the core's memory: the low half of the word, little-endian (R161, R193). -/
theorem test_store_local : runs (.stH (.v 0) (.v 1) false 1) (hereV 0 [0xFFFFABCD, 16])
    (fun t => t.locByte 0 16 == 0xCD && t.locByte 0 17 == 0xAB && t.locByte 0 18 == 0) = true := by decide +kernel

/-- R222: at equal depth the lower program counter is the higher key; a greater depth is higher whatever the counter. -/
theorem test_issuing_class :
    let at_ (d : BitVec 16) (p : DWord) : Lane := { smallGroup.lane 0 with depth := d, pc := p }
    here.issuingClass { smallGroup with lanes := [at_ 0 0x10010, at_ 0 0x10000, at_ 0 0x10010, at_ 0 0x10000] } = [1, 3] ∧
    here.issuingClass { smallGroup with lanes := [at_ 0 0x10000, at_ 1 0x10020, at_ 1 0x10030] } = [1] := by decide +kernel

/-- The best of several is the greatest, and the first of equals. -/
theorem test_best : bestBy (fun a b => decide (a < b)) [3, 7, 5] = some 7 ∧
    bestBy (fun a b : Nat × Nat => decide (a.1 < b.1)) [(2, 0), (2, 1)] = some (2, 0) := by decide +kernel
/-- BZ taken by both lanes goes two instruction slots back from slot 0: past a packet's literal word (R30, R258). -/
theorem test_branch : runs (.bz (.v 0) 0xFFFE#16) here (fun t => ((t.cur.lane 0).pc == 0xFFF4) && ((t.cur.lane 1).pc == 0xFFF4)) = true := by decide +kernel
theorem test_branch_falls : runs (.bnz (.v 0) 0xFFFE#16) here (fun t => (t.cur.lane 0).pc == 0x10004) = true := by decide +kernel

/-- EXIT ends the class's lanes and no others (R264). -/
theorem test_exit : runs .exit here (fun t => (t.cur.lane 0).exited && (t.cur.lane 1).exited && !(t.cur.lane 2).exited) = true := by decide +kernel

/-- Poison is tested without being raised, and cleared (R315, R316). -/
theorem test_ptest : runs (.ptest (.v 2) (.v 0)) (here.modCur (fun g => g.modLanes [0] (fun _ x => x.vset 0 { bits := 3, poison := true })))
    (fun t => ((t.cur.lane 0).vget 2) == Reg.of 1 && ((t.cur.lane 1).vget 2) == Reg.of 0) = true := by decide +kernel

/-- A step from reset with a word placed fetches and runs it: MOVI v1, 5. -/
theorem test_step_runs_the_word : (match step (State.reset.withFetchWord 32 0x47010005) with
    | .next t => ((t.groups.headD (0, smallGroup)).2.lane 31).vget 1 == Reg.of 5 && ((t.groups.headD (0, smallGroup)).2.lane 31).pc == 0x10004
    | _ => false) = true := by decide +kernel

/-- The spec's own values: TCNT of 0x5555 is 8 and of 0xFFFF is 1 (R98); ABS of the least number is itself (R97); FRNDN of −0.25 is −0 (R109);
MOVI v1, 0x8000 loads 0xFFFF8000 (R99). -/
theorem test_tcnt : gives (.tcnt (.v 2) (.v 0)) (hereV 0 [0x5555]) 0 2 8 false = true ∧ gives (.tcnt (.v 2) (.v 0)) (hereV 0 [0xFFFF]) 0 2 1 false = true := by
  decide +kernel
theorem test_abs : gives (.abs (.v 2) (.v 0)) (hereV 0 [0x80000000]) 0 2 0x80000000 false = true := by decide +kernel
theorem test_frndn : gives (.frndn (.v 2) (.v 0)) (hereV 0 [0xBE800000]) 0 2 0x80000000 false = true := by decide +kernel
theorem test_movi : gives (.movi (.v 1) 0x8000#16) here 0 1 0xFFFF8000 false = true := by decide +kernel

/-- A fused product that rounds once: (1 + 2^-23)^2 − 1 − 2^-22 = 2^-46, which the product rounded first would lose (R103). -/
theorem test_ffma : gives (.ffma (.v 2) (.v 0) (.v 1)) (hereV 0 [0x3F800001, 0x3F800001, 0xBF800002]) 0 2 0x28800000 false = true := by decide +kernel

/-- RED.W of 4 at local address 16 adds to the word there once for each lane (R191, R198). -/
theorem test_red_local : runs (.redW (.v 0) (.v 1) .addI 1) ((hereV 0 [4, 16]).modCore 0 (fun c => { c with loc := putBytes c.loc 16 [9] }))
    (fun t => t.locByte 0 16 == 17 && t.locByte 0 17 == 0) = true := by decide +kernel

/-- A misaligned halfword access to local memory has no effect and (it traps MISALIGN, R189). -/
theorem test_misaligned_store : runs (.stH (.v 0) (.v 1) false 1) (hereV 0 [0xFFFFABCD, 17]) (fun t => t.locByte 0 17 == 0 && t.locByte 0 18 == 0) = true := by
  decide +kernel

/-! ### Witnesses: arithmetic -/

/-- The operands of some instructions are ready in one state. -/
def allReady (s : State) (us : List Uses) : Bool := !s.stopped && us.all (fun u => (s.heldBy u).isNone)

theorem ready_of_allReady (s : State) (us : List Uses) (h : allReady s us = true) : ∀ u ∈ us, s.Ready u := by
  intro u hu
  simp only [allReady, Bool.and_eq_true, List.all_eq_true, Option.isNone_iff_eq_none, Bool.not_eq_true'] at h
  exact ⟨h.1, h.2 u hu⟩

theorem witness_IntegerWords : ∀ u ∈ [usesWord2 (.v 2) (.v 0) .lit, usesWord2 (.s 8) (.s 1) .lit, usesWord2 .nul (.q 0) .lit, usesWord3 (.v 7) (.v 0) (.s 127),
    { srcs := [], dst := .s 127, words := 1, uniform := [], noUni := false },
    { srcs := [(dstSrc (.v 7), .word)], dst := .v 7, words := 1, uniform := [], noUni := false }], here.Ready u :=
  ready_of_allReady _ _ (by decide +kernel)

theorem witness_IntegerPairs : ∀ u ∈ [use2 (.v 6) 2 (.v 0) .pair (.s 2) .pair, use2 (.v 6) 2 (.v 0) .pair (.v 7) .word,
    use2 (.v 7) 1 (.v 0) .pair .lit .pair, use3 (.v 6) 2 (.v 7) .word .lit .word .pair, use1 (.s 126) 2 (.s 2) .pair, usesWord1 (.v 7) (.q 0)],
    here.Ready u :=
  ready_of_allReady _ _ (by decide +kernel)

theorem witness_FloatInstructions : ∀ u ∈ [usesWord2 (.v 2) (.v 0) .lit, usesWord3 (.v 7) (.v 0) (.s 127), use2 (.v 6) 2 (.v 0) .dbl (.s 2) .dbl,
    use3 (.v 6) 2 (.v 0) .dbl (.v 2) .dbl .dbl, use2 (.v 7) 1 (.v 0) .dbl (.v 2) .dbl, usesWord1 (.v 7) .lit, use1 (.s 126) 2 (.s 2) .dbl,
    use1 (.v 7) 1 (.v 6) .dbl], here.Ready u :=
  ready_of_allReady _ _ (by decide +kernel)

/-- Codes of every kind: a NaN of each kind, infinities, zeros, a negative and a subnormal value, an integral power and a power of two. -/
theorem witness_FloatInstructions_values : 0xFFC00000 < 2 ^ (Fmt.f32.signBit + 1) ∧
    ((Fmt.f32.decode 0x7F800001).isSnan = true ∧ (Fmt.f32.decode 0xFFC00000).isNan = true ∧ (Fmt.f32.decode 0xFFC00000).isSnan = false) ∧
    ((Fmt.f32.decode 0xFF800000).isInf = true ∧ (Fmt.f32.decode 0x80000000).isZero = true ∧ (Fmt.f32.decode 1).isFin = true) ∧
    (fpExp2 0x40400000 = (0x41000000, 0#5) ∧ fpLog2 0x41000000 = (0x40400000, 0#5) ∧ fpRound Fmt.f32 .up 0xBF000000 = (0x80000000, 0#5)) := by
  decide +kernel

theorem witness_PackedAndConversions : ∀ u ∈ [use2 (.v 2) 1 (.v 0) .half .lit .half, use3 (.v 7) 1 (.v 0) .half (.s 2) .half .half,
    use2 (.v 2) 1 (.v 0) .bhalf .lit .bhalf, use3 (.v 7) 1 (.v 0) .bhalf (.s 2) .bhalf .bhalf,
    use1 (.v 6) (cvtWords .f64) (.v 7) (cvtPos .s32), use1 (.v 7) (cvtWords .e2m1) (.v 6) (cvtPos .f64)], here.Ready u :=
  ready_of_allReady _ _ (by decide +kernel)

/-- A NaN to an integer, 448 and one past it to E4M3, and the least byte to F32 (R78, R79). -/
theorem witness_PackedAndConversions_values : (tyValue .f32 0x7FC00000).isNan = true ∧ convert .ne .s32 .f32 0x7FC00000 = (0, Flags.nv) ∧
    convert .ne .e4m3 .f32 0x43E00000 = (0x7E, 0#5) ∧ convert .ne .e4m3 .f32 0x44000000 = (0x7E, Flags.ofl ||| Flags.nx) ∧
    convert .ne .f32 .s8 0x80 = (0xC3000000, 0#5) := by
  decide +kernel

/-- A weight, a scale and two values for each kind of format (R71, R74, R153, R154): finite, zero scale, NaN scale; a block with a value,
an infinity, or a scale that overflows. -/
theorem witness_PackedAndConversions_blocks : (wfValue 3 5).isFin = true ∧ (scaleIsNan 0x800000 = false ∧ scaleIsZero 0x800000 = false) ∧
    decodeWeight 3 5 0x800000 = .fin false 196608 (-15) ∧ (scaleIsZero 5 = true ∧ decodeWeight 4 200 5 = .fin false 0 0) ∧
    decodeWeight 1 0x7D 0x800000 = .nan true ∧ scaleIsNan 0xFF0000 = true ∧
    quantBlock 5 [.fin false 14 0, .fin true 3 0] = (0x800000, [7, 0xE], Flags.nx) ∧
    quantBlock 5 [.inf true, .fin true 3 0] = (0xFF0000, [0, 0], Flags.nv) ∧
    quantBlock 5 [.fin false 1 140, .fin true 3 0] = (0xFF0000, [0, 0], Flags.ofl ||| Flags.nx) ∧
    moveElem .e3m2 .e3m2 0xC1 = (1, 0#5) ∧ moveElem .f32 .s8 0x80 = (0xC3000000, 0#5) ∧
    ({ scale := 0x800000, elems := [] } : RowRead).value (-3) = .fin true 196608 (-15) := by
  decide +kernel

/-- The exponent of the first block above: 14 and -3 fit 7 x 2^1 and not 7 (R153). -/
theorem witness_PackedAndConversions_exponent : isScaleExp (wfMax 5) [.fin false 14 0, .fin true 3 0] 1 := by
  refine ⟨by norm_num, ?_, .inr ⟨.fin false 14 0, by simp, ?_⟩⟩
  · intro x hx
    simp only [List.mem_cons, List.not_mem_nil, or_false] at hx
    obtain rfl | rfl := hx <;> simp [FVal.rat, wfMax] <;> norm_num
  · simp [FVal.rat, wfMax]; norm_num

theorem witness_LaneOperations : ∀ u ∈ [{ usesWord2 (.v 2) (.v 0) .lit with noUni := true },
    { use2 (.v 6) 2 (.v 0) .dbl (.v 7) .word with noUni := true }, { usesWord1 (.s 8) (.v 0) with uniform := [] },
    { use1 (.v 6) 2 (.v 4) .dbl with uniform := [] }, { usesWord2 (.s 8) (.v 0) .lit with uniform := [.lit] }], here.Ready u :=
  ready_of_allReady _ _ (by decide +kernel)

/-- The greatest value of FP16 is reached at 65519 and passed at 65520 (R63, R77, R78). -/
theorem witness_FloatRounding : (Fmt.f16 ∈ allFormats ∧ Fmt.e2m1 ∈ allFormats) ∧ (0 < 65519 ∧ roundFin Fmt.f16 .ne false 65519 0 = (0x7BFF, Flags.nx)) ∧
    roundFin Fmt.f16 .ne true 65520 0 = (0xFC00, Flags.ofl ||| Flags.nx) ∧ roundFin Fmt.f32 .ne false 1 (-149) = (1, 0#5) ∧
    roundFin Fmt.f64 .ne false 1 0 = (0x3FF0000000000000, 0#5) ∧ roundFin Fmt.bf16 .ne false 257 0 = (0x4380, Flags.nx) ∧
    roundFin Fmt.e2m1 .ne false 9 0 = (7, Flags.ofl ||| Flags.nx) ∧ roundFin Fmt.f32 .ne false 1 (-150) = (0, Flags.uf ||| Flags.nx) ∧
    roundFin Fmt.f16 .z true 65519 0 = (0xFBFF, Flags.nx) := by
  refine ⟨by simp [allFormats, ieeeFormats], ?_⟩
  decide +kernel

theorem witness_FloatExactOperations : Fmt.f32 ∈ ieeeFormats ∧ (Fmt.f32.decode 0x3F800000).isFin = true ∧ (Fmt.f32.decode 0xBF800000).isFin = true ∧
    (Fmt.f32.decode 0).isFin = true ∧ fpAdd Fmt.f32 0x3F800000 0xBF800000 = (0, 0#5) ∧ fpMul Fmt.f32 0x80000000 0x3F800000 = (0x80000000, 0#5) ∧
    (40, 312, 149) ∈ [(40, 312, 149), (272, 2168, 1074)] ∧ imageAdd 40 0 (Fmt.f32.decode 1) = 1 ∧
    imageAdd 40 0 (Fmt.f32.decode 0x80000001) = 2 ^ 312 - 1 ∧ imageAdd 40 5 (.inf true) = 5 + 2 ^ 312 * 4 ∧
    imageClose 40 (2 ^ 312 - 1) Fmt.f32 = (0x80000001, 0#5) ∧ imageClose 40 (2 ^ 312 * 6) Fmt.f32 = (Fmt.f32.nan, Flags.nv) := by
  refine ⟨by simp [ieeeFormats], ?_⟩
  decide +kernel

/-- Two products with the step and the scale, a NaN weight, a value times a tag, an infinity times a zero tag, and one value rescaled from
3 to 1.5 times (R127, R129, R131). -/
theorem witness_FloatExactOperations_tasks : contribution 4 0x800000 0x7F0000 [3, -1] [2, 0xFF] = (0x402C000000000000, 0#5) ∧
    contribution 1 0x800000 0x7F0000 [3] [0x7C] = (Fmt.f64.nan, 0#5) ∧ (Fmt.f64.decode 0x3FF0000000000000).isFin = true ∧
    roundVal Fmt.f32 (tagged 0x3FF0000000000000 0x800000) = (0x40000000, 0#5) ∧
    ((Fmt.f64.decode 0x7FF0000000000000).isInf = true ∧ roundVal Fmt.e4m3 (tagged 0x7FF0000000000000 0) = (0x7F, Flags.nv)) ∧
    (scaleIsZero 0x808000 = false ∧ scaleIsNan 0x808000 = false ∧ scaleIsZero 0x7F8000 = false ∧ scaleIsNan 0x7F8000 = false) ∧
    rescaled 0x3FF0000000000000#64 0x808000 0x7F8000 = (0x4000000000000000, 0#5) := by
  decide +kernel

/-- One pair of codes for each clause: a NaN, opposite infinities, an infinity with itself, infinity times zero, infinity times one. -/
theorem witness_FloatSpecial : Fmt.f32 ∈ ieeeFormats ∧ (Fmt.f32.decode 0x7F800001).isSnan = true ∧
    ((Fmt.f32.decode 0x7F800000).isInf = true ∧ (Fmt.f32.decode 0xFF800000).isInf = true ∧
      (Fmt.f32.decode 0x7F800000).neg? ≠ (Fmt.f32.decode 0xFF800000).neg? ∧ (Fmt.f32.decode 0x7F800000).isNan = false) ∧
    ((Fmt.f32.decode 0x80000000).isZero = true ∧ (Fmt.f32.decode 0x80000000).isNan = false) ∧
    ((Fmt.f32.decode 0x3F800000).isZero = false ∧ (Fmt.f32.decode 0x3F800000).isInf = false) ∧
    (fpFma Fmt.f32 0x7F800000 0x3F800000 0xFF800000 = (Fmt.f32.nan, Flags.nv) ∧ fpFma Fmt.f32 0x7F800000 0 0x7FC00000 = (Fmt.f32.nan, Flags.nv) ∧
      fpFma Fmt.f32 0x3F800000 0x3F800000 0xFF800000 = (0xFF800000, 0#5) ∧ fpSub Fmt.f32 0x3F800000 0x7F800000 = (0xFF800000, 0#5)) := by
  refine ⟨by simp [ieeeFormats], ?_⟩
  decide +kernel

theorem witness_FloatOrder : Fmt.f64 ∈ ieeeFormats ∧ ((Fmt.f64.decode 0xFFF8000000000000).isNan = true ∧ (Fmt.f64.decode 0).isNan = false) ∧
    ((Fmt.f64.decode 0x8000000000000000).isZero = true ∧ (Fmt.f64.decode 0).isZero = true ∧
      (Fmt.f64.decode 0x8000000000000000).neg? = true ∧ (Fmt.f64.decode 0).neg? = false) ∧
    Fmt.f64.decode 0x3FF0000000000000 = .fin false 0x10000000000000 (-52) ∧ Fmt.f64.decode 0x7FF0000000000000 = .inf false := by
  refine ⟨by simp [ieeeFormats], ?_⟩
  decide +kernel

theorem witness_FloatOrder_equal : (Fmt.f64.decode 0x3FF0000000000000).isNan = false ∧
    fpMinMax Fmt.f64 true 0x3FF0000000000000 0x3FF0000000000000 = (0x3FF0000000000000, 0#5) := by
  decide +kernel

theorem witness_FloatOrder_below : (Fmt.f64.decode 0).ext < (Fmt.f64.decode 0x7FF0000000000000).ext := by
  have h : Fmt.f64.decode 0x7FF0000000000000 = .inf false := by decide +kernel
  have g : Fmt.f64.decode 0 = .fin false 0 (-1074) := by decide +kernel
  rw [h, g]
  simp only [FVal.ext, FVal.rat]
  exact WithBot.coe_lt_coe.mpr (WithTop.coe_lt_top _)

/-- Operands of the special clauses: -0, -4, an infinity of each sign, a NaN. -/
theorem witness_FloatRoots_special : (Fmt.f32.decode 0x80000000).isZero = true ∧ (Fmt.f32.decode 0xC0800000).isFin = true ∧
    ((Fmt.f32.decode 0x7F800000).isInf = true ∧ (Fmt.f32.decode 0xFF800000).neg? = true) ∧ (Fmt.f32.decode 0x7F800001).isNan = true ∧
    fpSqrt Fmt.f32 0x80000000 = (0x80000000, 0#5) ∧ fpRcp Fmt.f32 0xC0800000 = (0xBE800000, 0#5) := by
  decide +kernel

theorem witness_FloatRoots : Fmt.f32 ∈ [Fmt.f32, Fmt.f64] ∧ (Fmt.f32.decode 0x40800000).isFin = true ∧ 0 < (Fmt.f32.decode 0x40800000).rat := by
  refine ⟨by simp, by decide +kernel, ?_⟩
  have h : Fmt.f32.decode 0x40800000 = .fin false 0x800000 (-21) := by decide +kernel
  rw [h]
  norm_num [FVal.rat]

/-! ### Witnesses: operands -/

theorem issues_here : here.Issues := by
  refine ⟨by decide +kernel, by decide +kernel, by decide +kernel, by decide +kernel⟩

theorem witness_OperandWords : ∀ u ∈ [use2 (.v 6) 2 (.v 0) .pair .lit .pair, use2 (.q 0) 1 (.s 127) .word (.q 0) .word,
    { srcs := [(.q 1, .pair), (.q 1, .quad), (.q 0, .word)], dst := .nul, words := 0, uniform := [], noUni := false }], here.Ready u :=
  ready_of_allReady _ _ (by decide +kernel)

/-- A literal in each position: sign-extended, converted, and in both halves. -/
theorem witness_OperandWords_literals : ∀ u ∈ [use2 (.v 6) 2 .lit .dbl .lit .pair, use2 (.v 6) 1 .lit .half .lit .bhalf], here.Ready u :=
  ready_of_allReady _ _ (by decide +kernel)

/-- No lane sleeps at a WAITC. -/
def awake (s : State) : Bool :=
  s.groups.all (fun e => e.2.lanes.all (fun x => match x.sleep with
    | .waitc _ => false
    | _ => true)) && s.saved.isEmpty

theorem unwatched_of {s : State} (h : awake s = true) : s.Unwatched := by
  simp only [awake, Bool.and_eq_true, List.isEmpty_iff] at h
  refine ⟨fun e he x hx w hw => ?_, fun k hk => ?_⟩
  · have := List.all_eq_true.mp (List.all_eq_true.mp h.1 e he) x hx
    rw [hw] at this
    simp at this
  · rw [h.2] at hk
    exact absurd hk List.not_mem_nil

/-- The channels of the issuing team are as wide as they say. -/
def wide (s : State) : Bool := (List.range 15).all (fun n => match (s.team s.cur.team).chan? n with
  | some c => c.words == if c.vector then s.cur.width else 1
  | none => true)

theorem pushable_of {s : State} {u : Uses} (h : wide s = true) (g : awake s = true) : s.Pushable u := by
  have gw := unwatched_of g
  refine fun n _ => ⟨fun c hc => ?_, fun e he x hx w hw => absurd hw (gw.1 e he x hx w), fun k hk g' hg w hw => absurd hw (gw.2 k hk g' hg w)⟩
  have := List.all_eq_true.mp h n.val (List.mem_range.mpr n.isLt)
  rw [hc] at this
  simpa using this

/-- Two words for each lane. -/
def twoZeros (_ : Nat) : Res := { words := [Reg.zero, Reg.zero], flags := 0#5 }

/-- A vector, a uniform, a port and no destination. -/
theorem witness_ResultWrites : here.Issues ∧ (∀ u ∈ [use1 (.v 6) 2 .lit .pair, use1 (.s 126) 2 .lit .pair, use1 (.q 0) 2 .lit .pair,
    use1 .nul 2 .lit .pair], here.Ready u) ∧ dstIsVec smallTeam (.s 126) = false ∧
    (∀ k : Nat, (twoZeros k).words.length = 2) ∧
    (smallTeam.chan? 0).isSome = true ∧ here.Pushable (use1 (.q 0) 2 .lit .pair) ∧ ∀ k, sget false (here.core 0).locPoison k = false := by
  exact ⟨issues_here, ready_of_allReady _ _ (by decide +kernel), by decide +kernel, fun _ => rfl, by decide +kernel,
    pushable_of (by decide +kernel) (by decide +kernel), fun _ => rfl⟩

theorem witness_ArithmeticFrame : arithmeticUses (.add (.v 2) (.v 0) .lit) = some (usesWord2 (.v 2) (.v 0) .lit) ∧ here.Issues ∧
    here.Ready (usesWord2 (.v 2) (.v 0) .lit) ∧ here.Pushable (usesWord2 (.v 2) (.v 0) .lit) ∧
    ∃ t, exec (.add (.v 2) (.v 0) .lit) here = .next t := by
  refine ⟨rfl, issues_here, ready_of_allReady _ [_] (by decide +kernel) _ (List.mem_singleton.mpr rfl),
    pushable_of (by decide +kernel) (by decide +kernel), ?_⟩
  obtain ⟨t, h, _⟩ := runs_elim (.add (.v 2) (.v 0) .lit) here (fun _ => true) (by decide +kernel)
  exact ⟨t, h⟩

/-- MBOUND that has moved its class on. -/
theorem witness_ArithmeticFrame_blocks : blockWrites (.mbound 5 1 false) = some (.s 5, 1) ∧
    (∃ t, exec (.mbound 5 1 false) here = .next t ∧ ([0, 1].all (fun l => (t.cur.lane l).pc == nextPc here.ix.pc)) = true) ∧
    here.Pushable { srcs := [], dst := .s 5, words := 1, uniform := [], noUni := false } :=
  ⟨rfl, runs_elim (.mbound 5 1 false) here (fun t => [0, 1].all (fun l => (t.cur.lane l).pc == nextPc here.ix.pc)) (by decide +kernel),
    pushable_of (by decide +kernel) (by decide +kernel)⟩

/-! ### Witnesses: decode stops, special registers, poison -/

/-- The first register past the declared ones, port 14, an unbound port, an empty port, a full one, and none of these. -/
theorem witness_OperandsNotReady : here.stopped = false ∧ arithmeticUses (.mov (.v 7) .lit) = some (usesWord1 (.v 7) .lit) ∧
    (7 + 1 ≤ here.cur.nregs ∧ ¬ 8 + 1 ≤ here.cur.nregs) ∧
    ((here.team here.cur.team).chan? 2 = none ∧ ((here.team here.cur.team).chan? 0).isSome = true) ∧
    ((here.portEntries 0).length < popCount [(.q 0, .word), (.q 0, .word)] 0 ∧ ¬ (here.portEntries 0).length < popCount [(.q 0, .word)] 0) ∧
    (16 < (here.portEntries 1).length - popCount [(.lit, .word)] 1 + 1 ∧ ¬ 16 < (here.portEntries 1).length - popCount [(.q 1, .word)] 1 + 1) ∧
    here.Ready (usesWord1 (.q 1) (.q 1)) := by
  refine ⟨by decide +kernel, rfl, by decide +kernel, by decide +kernel, by decide +kernel, by decide +kernel, ?_⟩
  exact ready_of_allReady _ [_] (by decide +kernel) _ (List.mem_singleton.mpr rfl)

/-- A uniform source without poison, with poison, and a vector source. -/
theorem witness_SpecialRegisters :
    (∀ u ∈ [{ srcs := [], dst := .v 6, words := 2, uniform := [], noUni := false }, { srcs := [], dst := .v 7, words := 1, uniform := [], noUni := true },
      { srcs := [(.s 1, .word)], dst := .nul, words := 0, uniform := [.s 1], noUni := false }], here.Ready u) ∧ SReg.prio ∈ writableSregs ∧
    srcIsVec (here.team here.cur.team) (.v 0) = true ∧ srcIsVec (here.team here.cur.team) (.s 1) = false ∧
    ((here.srcWords (here.take 0 [(.s 1, .word)]).1 0).headD []).any (fun w => w.poison) = false ∧
    (let s := here.modCur (fun g => g.sset 1 { bits := 1, poison := true })
     s.stopped = false ∧ ((s.srcWords (s.take 0 [(.s 1, .word)]).1 0).headD []).any (fun w => w.poison) = true) := by
  refine ⟨ready_of_allReady _ _ (by decide +kernel), ?_⟩
  decide +kernel

theorem witness_PoisonInstructionsAndNop : here.Ready (usesWord1 (.v 7) (.v 0)) ∧ here.stopped = false :=
  ⟨ready_of_allReady _ [_] (by decide +kernel) _ (List.mem_singleton.mpr rfl), by decide +kernel⟩

/-! ### Witnesses: memory instructions -/

/-- An access passes its checks, and what it leaves passes a test. -/
def goes (c : CheckedAccess) (f : Passed → State → Bool) : Bool :=
  match c with
  | .go p t => f p t
  | .stop _ => false

theorem passes_of_goes {s : State} {m : MemUse} {b : Bool} {more : HEntry → Nat → List Reg → Spot → LaneFate} {f : Passed → State → Bool}
    (hs : s.stopped = false) (h : goes (s.checked m b more) f = true) : ∃ p t, s.Passes m b more p t ∧ f p t = true := by
  unfold goes at h
  split at h
  · rename_i p t hc
    exact ⟨p, t, ⟨hs, hc⟩, h⟩
  · exact absurd h (by decide)

/-- A load from each kind of space: local, constant, code, global (no own write pending), and a store to local and to global. -/
theorem witness_LoadsAndStoresComplete :
    (∃ p t, here.Passes (loadUse (.v 7) (.v 0) false 1 4 [0, 1, 4, 5, 6, 7]) false noMore p t ∧ (p.entry.space == 1) = true) ∧
    (∃ p t, here.Passes (loadUse (.v 6) (.v 0) false 2 8 [2]) false noMore p t ∧
      (p.entry.space == 2 && p.entry.policy != 4 && !t.fillHeld 0 false (nub (p.spots.map (fun q => q.start / 128)))) = true) ∧
    (∃ p t, here.Passes (loadUse (.v 4) (.v 0) false 6 16 [0, 1, 4, 5, 6, 7]) false noMore p t ∧
      (p.entry.space == 6 && p.entry.policy != 4 && !t.fillHeld 0 true (nub (p.spots.map (fun q => q.start / 128)))) = true) ∧
    (∃ p t, (hereV 0 [0xFFF]).Passes (loadUse (.v 7) (.v 0) false 0 1 [0, 1, 4, 5, 6, 7]) false noMore p t ∧
      (p.entry.space == 0 && !t.waitsOnOwn p.spots) = true) ∧
    (∃ p t, (hereV 0 [0xF0]).Passes (storeUse (.v 4) (.v 0) false 1 16) true noMore p t ∧
      (p.entry.space == 1 && p.spots.all (fun q => decide ((p.data q.lane).length * 4 ≥ 16))) = true) ∧
    (∃ p t, here.Passes (storeUse .lit .lit true 0 1) true noMore p t ∧
      (p.entry.space == 0 && decide (t.cur.storeQ.length < 64) && p.spots.all (fun q => decide ((p.data q.lane).length * 4 ≥ 1))) = true) := by
  refine ⟨?_, ?_, ?_, ?_, ?_, ?_⟩ <;> exact passes_of_goes (by decide +kernel) (by decide +kernel)

theorem witness_AtomicsComplete :
    (∃ p t, here.Passes (atomicUse (.v 6) (.v 0) .cas 1 4 true) true noMore p t ∧ (p.entry.space == 1) = true) ∧
    (∃ p t, (hereV 0 [0xFF8]).Passes (atomicUse (.s 6) .lit .xor 0 8 true) true noMore p t ∨
      (hereV 0 [0xFF8]).Passes (atomicUse (.v 6) (.v 0) .xor 0 8 true) true noMore p t ∧ (p.entry.space == 0) = true) ∧
    (∃ p t, here.Passes (atomicUse (.v 7) (.v 0) .addX 4 4 false) true noMore p t ∧ (p.entry.space == 4 && decide (t.cur.storeQ.length < 64)) = true) ∧
    (∃ p t, here.Passes (atomicUse (.v 7) (.v 0) .incWrap 1 4 false) true noMore p t ∧ (p.entry.space == 1) = true) ∧
    (∃ p t, (hereV 0 [0, 40]).Passes (closeUse (.v 0) false 4) false ((hereV 0 [0, 40]).cellCheck (closeUse (.v 0) false 4).ask 8) p t ∧
      true = true) := by
  refine ⟨?_, ?_, ?_, ?_, ?_⟩
  · exact passes_of_goes (by decide +kernel) (by decide +kernel)
  · obtain ⟨p, t, h⟩ := passes_of_goes (s := hereV 0 [0xFF8]) (m := atomicUse (.v 6) (.v 0) .xor 0 8 true) (b := true) (more := noMore)
      (f := fun p _ => p.entry.space == 0) (by decide +kernel) (by decide +kernel)
    exact ⟨p, t, .inr h⟩
  · exact passes_of_goes (by decide +kernel) (by decide +kernel)
  · exact passes_of_goes (by decide +kernel) (by decide +kernel)
  · exact passes_of_goes (f := fun _ _ => true) (by decide +kernel) (by decide +kernel)

/-- A module that is part of a pod of two, its plane up, its lanes' pairs naming module 1. -/
def podV : State := { hereV 0 [8, 1] with lnkLock := true, podM1 := 1, uaUp := 0xFFFF }

theorem witness_RemoteAccessesComplete :
    (∃ p t, podV.Passes (rldUse (.v 6) (.v 0) false 3 8) false podV.issuerCheck p t ∧
      (!t.peerFull p) = true) ∧
    (∃ p t, podV.Passes (rstUse (.v 7) (.v 0) false 3 4) true noMore p t ∧
      (!t.peerFull p && p.spots.all (fun q => t.issuerReason (t.groupDom t.cur) (p.peer q.lane) == 0)) = true) ∧
    (∃ p t, podV.Passes (ratomUse (.v 6) (.v 0) .cas 3) true podV.issuerCheck p t ∧
      (!t.peerFull p) = true) := by
  refine ⟨?_, ?_, ?_⟩ <;> exact passes_of_goes (by decide +kernel) (by decide +kernel)

theorem witness_CacheFunctionsComplete : here.stopped = false ∧
    (∃ p t, here.Passes { ask := cacheAsk (.v 0) false 0, data := none, dst := .nul, words := 0 } false noMore p t ∧
      (!t.storesPending (nub ((p.spots.filter (fun q => !q.loc)).map (fun q => q.start / 128)))) = true) := by
  refine ⟨by decide +kernel, passes_of_goes (by decide +kernel) (by decide +kernel)⟩

/-- The watched words are 0: a comparand of 0 meets EQ, a comparand of 5 does not. -/
theorem witness_WaitcCompletes :
    (∃ p t, here.Passes (waitUse (.v 1) (.v 0) false 1) false here.watchCheck p t ∧
      (here.ix.lanes.all (fun k => decide (k < 256)) && p.spots.all (fun q => q.loc && t.watched (.loc 0 q.start) == ((p.data q.lane).headD Reg.zero).bits && !t.placePoison (.loc 0 q.start))) = true) ∧
    (∃ p t, here.Passes (waitUse .lit (.v 0) false 0) false here.watchCheck p t ∧
      (p.spots.all (fun q => !q.loc && t.watched (.phys q.start) != ((p.data q.lane).headD Reg.zero).bits && here.ix.lanes.contains q.lane &&
        !t.lineReplicating (q.start / 128))
        && t.pendingWrites t.ix.slot == []) = true) := by
  refine ⟨?_, ?_⟩ <;> exact passes_of_goes (by decide +kernel) (by decide +kernel)

/-- A poisoned index, the index 4096, a poisoned entry, a space the instruction does not accept, an odd register through a WIDE handle,
a missing permission; and what all share. -/
theorem witness_HandleChecks : here.checkedUses (.ldW (.v 7) (.v 1) false 1) = some (loadUse (.v 7) (.v 1) false 1 4 [0, 1, 4, 5, 6, 7], false, noMore) ∧
    here.checkedUses (.rcloseF64 (.v 0) false 4) = some (closeUse (.v 0) false 4, false, here.cellCheck (closeUse (.v 0) false 4).ask 8) ∧
    (here.modCur (fun g => g.sset 1 { bits := 1, poison := true })).MemReady (loadUse (.v 7) (.v 1) false 1 4 [0, 1, 4, 5, 6, 7]) ∧
    (here.modCur (fun g => g.sset 1 (Reg.of 4096))).MemReady (loadUse (.v 7) (.v 1) false 1 4 [0, 1, 4, 5, 6, 7]) ∧
    (∀ e ∈ [{ handle 0 0x100 1 7 0 with poison := true }, handle 0 0x100 3 7 0, handle 0 0x100 8 7 0,
        { bytes := handleBytes true 0x30000 0x100 0 7 0 true 0, poison := false }, handle 0 0x100 0 6 0],
      ((here.modCur (fun g => g.sset 1 (Reg.of 4095))).keepHandle 0 0 4095 e).MemReady (loadUse (.v 7) (.v 1) false 1 4 [0, 1, 4, 5, 6, 7]) ∧
      ((here.modCur (fun g => g.sset 1 (Reg.of 4095))).keepHandle 0 0 4095 e).lookup (.group 0 0x10000 0) 0 0 4095 = .entry e) ∧
    (handle 0 0x100 8 7 0).valid = false ∧ (handle 0 0x100 3 7 0).space ∉ [0, 1, 4, 5, 6, 7] ∧ srcOddReg (.v 1) = true ∧
    (handle 0 0x100 0 6 0).perm &&& 1 ≠ 1 := by
  refine ⟨rfl, rfl, ?_, ?_, ?_, by decide +kernel⟩
  · unfold State.MemReady State.Ready; decide +kernel
  · unfold State.MemReady State.Ready; decide +kernel
  · unfold State.MemReady State.Ready; decide +kernel

/-- Offsets of a 4-byte access to a 256-byte handle at its edges: -1, 252, 253, 2, and data that is poisoned. -/
theorem witness_LaneChecks :
    let x := memAsk 2 (.v 0) true 4 [2] 1 .read
    let e := handle 0x30000 0x100 2 1 0
    e.space = 2 ∧ x.pairA = false ∧ x.aop = none ∧ x.disp = true ∧
    ({ here with ix := { here.ix with lit := 0xFFFFFFFF } } : State).ix.lit.toInt < 0 ∧
    (252 + x.size ≤ e.length ∧ e.base + 252 + x.size ≤ 2 ^ 57 ∧ (e.base + 252) % x.align = 0) ∧
    (¬ 253 + x.size ≤ e.length) ∧ (e.base + 2) % x.align ≠ 0 := by
  decide +kernel

/-- The offsets at the edges of the other spaces: a team's allocation of 4 KiB, a lane's own 64 bytes of stack, an exact image of
40 bytes, a remote window; what each space takes of an atomic; and a host word that no lock reaches. -/
theorem witness_LaneChecks_spaces :
    let k := atomAsk (.v 0) .addX 4 4
    let pass (x : Ask) (e : HEntry) (o : Word) : Bool := match here.checkLane x e 1 [Reg.of o] false with
      | .ok _ => true
      | _ => false
    let traps (x : Ask) (e : HEntry) (o : Word) : Bool := match here.checkLane x e 1 [Reg.of o] false with
      | .trap _ => true
      | _ => false
    (pass (memAsk 8 (.v 0) false 4 [1] 1 .read) (handle 0 0x2000 1 7 0) 0xFFC = true ∧
      traps (memAsk 8 (.v 0) false 4 [1] 1 .read) (handle 0 0x2000 1 7 0) 0x1000 = true) ∧
    (pass (memAsk 7 (.v 0) false 4 [7] 1 .read) (handle 0x40000 0x4000 7 3 0) 60 = true ∧
      traps (memAsk 7 (.v 0) false 4 [7] 1 .read) (handle 0x40000 0x4000 7 3 0) 64 = true) ∧
    (pass k (handle 0x31000 0x400 4 7 40) 960 = true ∧ traps k (handle 0x31000 0x400 4 7 40) 4 = true ∧ traps k (handle 0x31000 0x400 0 7 0) 0 = true) ∧
    pass (remoteAsk 3 (.v 0) false 8 1) (handle 0 0x1000 3 7 0) 0xFF8 = true ∧
    (traps (atomAsk (.v 0) .addI 4 4) (handle 0x31000 0x400 4 7 40) 0 = true) := by
  decide +kernel

/-- The third word of the small packet's data page is missing: lane 1 waits; lane 1 alone is outside the handle: it traps. -/
def skewed (a b : Word) : State := here.modCur (fun g => g.modLanes [0, 1] (fun l x => x.vset 0 (Reg.of (if l = 0 then a else b))))

theorem witness_AccessIsPrecise :
    let m := loadUse (.v 7) (.v 0) false 0 4 [0, 1, 4, 5, 6, 7]
    let e := handle 0x30000 0x1000 0 0x17 0
    (skewed 0 0xFFD).checkedUses (.ldW (.v 7) (.v 0) false 0) = some (m, false, noMore) ∧ (skewed 0 0xFFD).MemReady m ∧
    (skewed 0 0xFFD).openHandle m.ask ((skewed 0 0xFFD).uniformAccess m) = .ok 0 e ∧
    (∃ tr, (skewed 0 0xFFD).checkLane m.ask e 1 [Reg.of 0xFFD] false = .trap tr) ∧
    (∀ tr, (skewed 0 0xFFD).checkLane m.ask e 0 [Reg.of 0] false ≠ .trap tr) := by
  refine ⟨rfl, ?_, by decide +kernel, ?_, ?_⟩
  · unfold State.MemReady State.Ready; decide +kernel
  · exact ⟨{ cause := 0x03, xval := 0xFFD, pc := 0x10000, lane := 1, xaddr := 0x30FFD }, by decide +kernel⟩
  · intro tr h
    have g : (match (skewed 0 0xFFD).checkLane (memAsk 0 (.v 0) false 4 [0, 1, 4, 5, 6, 7] 1 .read) (handle 0x30000 0x1000 0 0x17 0) 0 [Reg.of 0] false with
      | .trap _ => true
      | _ => false) = false := by decide +kernel
    have h' : (skewed 0 0xFFD).checkLane (memAsk 0 (.v 0) false 4 [0, 1, 4, 5, 6, 7] 1 .read) (handle 0x30000 0x1000 0 0x17 0) 0 [Reg.of 0] false = .trap tr := h
    rw [h'] at g
    simp at g

/-- The mapping of the data page is gone (its leaf, and the cached translations): lane 0 waits for the page. -/
theorem witness_AccessIsPrecise_waits :
    let s : State := { here with mem := [] }
    ∃ va lv c, s.checkLane (loadUse (.v 7) (.v 0) false 0 4 [0, 1, 4, 5, 6, 7]).ask (handle 0x30000 0x1000 0 0x17 0) 0 [Reg.of 0] false = .wait va lv c := by
  exact ⟨0x30000, 0, 0x08, by decide +kernel⟩

theorem uncounted_here : here.Uncounted := by
  intro e he
  have h : here.doms.all (fun e => !e.2.crnOn) = true := by decide +kernel
  simpa using List.all_eq_true.mp h e he

/-- A load from LOCAL, a reduction on LOCAL, and a store to GLOBAL. -/
theorem witness_MemoryFrames : (∀ hit, State.reset.poisonedWatches hit = []) ∧ here.Issues ∧ here.Uncounted ∧ here.Unwatched ∧
    (∃ p t, here.checked (loadUse (.v 7) (.v 0) false 1 4 [0, 1, 4, 5, 6, 7]) false noMore = .go p t) ∧
    (∃ p t, here.checked (atomicUse (.v 7) (.v 0) .addI 1 4 false) true noMore = .go p t) ∧
    (∃ p t, here.checked (storeUse (.v 7) (.v 0) false 0 4) true noMore = .go p t) ∧
    here.Pushable ((loadUse (.q 0) (.v 0) false 1 4 [0, 1, 4, 5, 6, 7]).uses .word) ∧
    [((0 : Nat), ([1, 2] : List Byte)), (2, [3])].getLast? = some (2, [3]) ∧
    (∃ s', exec (.ldW (.v 7) (.v 0) false 1) here = .next s') ∧ (∃ s', exec (.redW (.v 7) (.v 0) .addI 1) here = .next s') ∧
    ∃ s', exec (.stW (.v 7) (.v 0) false 0) here = .next s' := by
  have go (m : MemUse) (b : Bool) (h : goes (here.checked m b noMore) (fun _ _ => true) = true) : ∃ p t, here.checked m b noMore = .go p t := by
    obtain ⟨p, t, hp, _⟩ := passes_of_goes (by decide +kernel) h
    exact ⟨p, t, hp.2⟩
  have ends (i : Instr) (h : runs i here (fun _ => true) = true) : ∃ t, exec i here = .next t := by
    obtain ⟨t, ht, _⟩ := runs_elim i here (fun _ => true) h
    exact ⟨t, ht⟩
  exact ⟨fun _ => rfl, issues_here, uncounted_here, unwatched_of (by decide +kernel), go _ _ (by decide +kernel), go _ _ (by decide +kernel),
    go _ _ (by decide +kernel), pushable_of (by decide +kernel) (by decide +kernel), rfl, ends _ (by decide +kernel), ends _ (by decide +kernel),
    ends _ (by decide +kernel)⟩

/-! ### Witnesses: control -/

/-- The entries of a stack access are all there. -/
def okSpots (c : ClassFate) (f : List Spot → Bool) : Bool :=
  match c with
  | .ok spots => f spots
  | _ => false

theorem stackOk_of {s : State} {k : AccessKind} {off : Lane → Nat} {e : HEntry} {f : List Spot → Bool}
    (ho : s.openStack k = .ok (s.launch (s.team s.cur.team).lid).stackH e)
    (h : okSpots (classFate (s.ix.lanes.map (fun l => s.stackSpot k e l (off (s.cur.lane l))))) f = true) :
    ∃ spots, s.StackOk k off spots e ∧ f spots = true := by
  unfold okSpots at h
  split at h
  · rename_i spots hc
    exact ⟨spots, ⟨ho, hc⟩, h⟩
  · exact absurd h (by decide)

/-- `here` with its lanes' stacks at a depth and a pointer. -/
def hereAt (depth : BitVec 16) (lsp : DWord) : State :=
  here.modCur (fun g => { g with lanes := g.lanes.map (fun x => { x with depth := depth, lsp := lsp }) })

/-- The STACK handle of `here`. -/
def stackHandle : HEntry := handle 0x40000 0x4000 7 3 0

/-- Conditions without poison, and a poisoned one in the second lane alone. -/
theorem witness_BranchesComplete : here.stopped = false ∧ here.Ready (jumpUse (.v 0) .word) ∧
    (∀ l ∈ here.ix.lanes, (((here.srcWords (here.take 0 [(.v 0, .word)]).1 l).headD []).headD Reg.zero).poison = false) ∧
    (let s := here.modCur (fun g => g.modLanes [1] (fun _ x => x.vset 0 { bits := 0, poison := true }))
     1 < s.ix.lanes.length ∧ (((s.srcWords (s.take 0 [(.v 0, .word)]).1 1).headD []).headD Reg.zero).poison = true ∧
       (((s.srcWords (s.take 0 [(.v 0, .word)]).1 0).headD []).headD Reg.zero).poison = false ∧ s.heldBy (jumpUse (.v 0) .word) = none) := by
  refine ⟨by decide +kernel, ready_of_allReady _ [_] (by decide +kernel) _ (List.mem_singleton.mpr rfl), by decide +kernel, by decide +kernel⟩

/-- The last entry that fits: pointer 56 of 64 bytes, depth 65,534. A pair of v0 and v1 names the literal word's left neighbour. -/
theorem witness_CallsComplete :
    (∀ l ∈ (hereAt 65534 56).ix.lanes, ((hereAt 65534 56).cur.lane l).depth ≠ BitVec.allOnes 16 ∧
      ((hereAt 65534 56).cur.lane l).lsp.toNat + 8 ≤ ((hereAt 65534 56).team (hereAt 65534 56).cur.team).hdr.stackB) ∧
    (∃ spots, (hereAt 65534 56).StackOk .write (fun x => x.lsp.toNat) spots stackHandle ∧ (spots.length == 2) = true) ∧
    (hereAt 65534 56).cur.storeQ.length < 64 ∧ (hereV 0 [0x10008, 0]).heldBy (jumpUse (.v 0) .pair) = none ∧
    (∀ l ∈ [0, 1], (wordsVal (gotWords (hereV 0 [0x10008, 0]).cur 5 .pair (.reg (.v 0)) l)).toNat % 4 = 0 ∧
      (wordsVal (gotWords (hereV 0 [0x10008, 0]).cur 5 .pair (.reg (.v 0)) l)).toNat % 16 ≠ 12) := by
  refine ⟨by decide +kernel, stackOk_of (by decide +kernel) (by decide +kernel), by decide +kernel, by decide +kernel, by decide +kernel⟩

/-- Depth 65,535 in lane 1 alone; a pointer of 57; depth 0; a pair that is poisoned in lane 1, one that names a packet's literal
word, and a legal one; an sr.xpc of 2. -/
theorem witness_StackTraps :
    (let s := here.modCur (fun g => g.modLanes [1] (fun _ x => { x with depth := BitVec.allOnes 16 }))
     1 ∈ s.ix.lanes ∧ s.ix.lanes.find? (fun k => (s.cur.lane k).depth == BitVec.allOnes 16) = some 1) ∧
    (let s := hereAt 1 57
     (∀ k ∈ s.ix.lanes, (s.cur.lane k).depth ≠ BitVec.allOnes 16) ∧
       s.ix.lanes.find? (fun k => decide ((s.team s.cur.team).hdr.stackB < (s.cur.lane k).lsp.toNat + 8)) = some 0) ∧
    here.ix.lanes.find? (fun k => (here.cur.lane k).depth == 0) = some 0 ∧
    (let s := (hereV 0 [0x10008, 0]).modCur (fun g => g.modLanes [1] (fun _ x => x.vset 1 { bits := 0, poison := true }))
     s.heldBy (jumpUse (.v 0) .pair) = none ∧
       s.ix.lanes.find? (fun k => (gotWords s.cur s.ix.lit .pair (.reg (.v 0)) k).any (fun w => w.poison)) = some 1) ∧
    (let s := hereV 0 [0x1000C, 0]
     s.heldBy (jumpUse (.v 0) .pair) = none ∧ (∀ k ∈ s.ix.lanes, (gotWords s.cur s.ix.lit .pair (.reg (.v 0)) k).any (fun w => w.poison) = false) ∧
       (wordsVal (gotWords s.cur s.ix.lit .pair (.reg (.v 0)) 0)).toNat % 16 = 12) ∧
    (let s := hereV 0 [0x10008, 0]
     ∀ k ∈ s.ix.lanes, (gotWords s.cur s.ix.lit .pair (.reg (.v 0)) k).any (fun w => w.poison) = false ∧
       (wordsVal (gotWords s.cur s.ix.lit .pair (.reg (.v 0)) k)).toNat % 16 = 8) ∧
    ((2 : Nat) % 4 ≠ 0 ∧ (hereAt 1 8).lowest = 0 ∧ ∀ k ∈ (hereAt 1 8).ix.lanes, ((hereAt 1 8).cur.lane k).depth ≠ 0) := by
  decide +kernel

theorem witness_JumpsAndReturnsComplete :
    (∀ l ∈ (hereAt 1 8).ix.lanes, ((hereAt 1 8).cur.lane l).depth ≠ 0) ∧
    (∃ spots, (hereAt 1 8).StackOk .read (fun x => x.lsp.toNat - 8) spots stackHandle ∧
      (spots.all (fun p => p.at_.all (fun q => !mustWait ((hereAt 1 8).pendingWrites 0) p.lane q))) = true) ∧
    ((hereAt 1 8).cur.xpc.toNat % 4 = 0 ∧ (hereAt 1 8).cur.xpc.toNat % 16 ≠ 12) ∧
    (hereV 0 [0x10000, 0]).heldBy (jumpUse (.v 0) .pair) = none := by
  refine ⟨by decide +kernel, stackOk_of (by decide +kernel) (by decide +kernel), by decide +kernel, by decide +kernel⟩

/-- Every lane of the team has arrived at barrier 15, or has exited. -/
def arrivedAll : State :=
  here.modCur (fun g => { g with lanes := g.lanes.zipIdx.map (fun x =>
    if x.2 = 0 then { x.1 with exited := true } else { x.1 with arrived := 0x8000#16, sleep := .barWait 15 }) })

/-- A counter at its threshold, above it, and a barrier that is full and one that is not. -/
theorem witness_ExitYieldBarriers : here.stopped = false ∧ here.cur.kget 7 ≤ 0 ∧
    (0 < (here.modCur (fun g => { g with k := [(7, 1)] })).cur.kget 7) ∧
    ((∀ g ∈ (arrivedAll.groups.filter (fun e => e.2.team == 0)).map (fun e => e.2), ∀ x ∈ g.lanes, x.exited = true ∨ x.arrived.getLsbD 15 = true) ∧
     (∃ g ∈ (arrivedAll.groups.filter (fun e => e.2.team == 0)).map (fun e => e.2), ∃ x ∈ g.lanes, x.arrived.getLsbD 15 = true)) ∧
    (mget? arrivedAll.groups 0).isSome = true ∧ (arrivedAll.group 0).team = 0 ∧ ((arrivedAll.group 0).lane 1).sleep = .barWait 15 ∧
    ¬ (∃ g ∈ (here.groups.filter (fun e => e.2.team == 0)).map (fun e => e.2), ∃ x ∈ g.lanes, x.arrived.getLsbD 15 = true) ∧
    (∀ e ∈ arrivedAll.groups, e.2.team = 0 →
      (∀ w ∈ (arrivedAll.group e.1).storeQ, sget 0 (arrivedAll.group e.1).arrSeq 15 ≤ w.id) ∧
      (∀ w ∈ arrivedAll.flight, w.slot = e.1 → sget 0 (arrivedAll.group e.1).arrSeq 15 ≤ w.id) ∧
      ∀ a ∈ arrivedAll.acks, a.slot = e.1 → sget 0 (arrivedAll.group e.1).arrSeq 15 ≤ a.id) := by
  decide +kernel

/-- `here` in a launch with a vector. -/
def hereVec : State := { here with launches := [(0, { here.launch 0 with vector := some 0x10010 })] }

theorem witness_TrapEntry : hereVec.Issues ∧ (hereVec.launch (hereVec.team hereVec.cur.team).lid).vector = some 0x10010 ∧
    (∀ l ∈ hereVec.ix.lanes, (hereVec.cur.lane l).depth ≠ BitVec.allOnes 16 ∧
      (hereVec.cur.lane l).lsp.toNat + 8 ≤ (hereVec.team hereVec.cur.team).hdr.stackB) ∧
    (∃ spots, hereVec.StackOk .write (fun x => x.lsp.toNat) spots stackHandle ∧ (spots.length == 2) = true) ∧ 2 ∉ hereVec.ix.lanes ∧
    hereVec.cur.storeQ.length < 64 := by
  refine ⟨⟨by decide +kernel, by decide +kernel, by decide +kernel, by decide +kernel⟩, by decide +kernel, by decide +kernel,
    stackOk_of (by decide +kernel) (by decide +kernel), by decide +kernel⟩

theorem witness_TrapEndsGroup : here.Issues ∧ (here.launch (here.team here.cur.team).lid).vector = none ∧
    (∃ l ∈ (hereAt 0 57).ix.lanes, ((hereAt 0 57).team (hereAt 0 57).cur.team).hdr.stackB < ((hereAt 0 57).cur.lane l).lsp.toNat + 8) ∧
    (mget? here.launches 0).isSome = true ∧ (here.launch 0).fail = none := by
  refine ⟨issues_here, ?_⟩
  decide +kernel

theorem witness_SoftwareTraps : here.Ready (jumpUse (.v 0) .word) ∧
    (((here.srcWords (here.take 0 [(.v 0, .word)]).1 0).headD []).headD Reg.zero).poison = false ∧
    (let s := here.modCur (fun g => g.modLanes [0] (fun _ x => x.vset 0 { bits := 0, poison := true }))
     s.heldBy (jumpUse (.v 0) .word) = none ∧ (((s.srcWords (s.take 0 [(.v 0, .word)]).1 0).headD []).headD Reg.zero).poison = true) := by
  refine ⟨ready_of_allReady _ [_] (by decide +kernel) _ (List.mem_singleton.mpr rfl), ?_⟩
  decide +kernel

/-- A fence of the vector pipes' accesses numbered 1. -/
def aFence (kind : FenceKind) (sc : Scope) (since : Option Nat) (heard : Heard) : FenceWait :=
  { eng := false, kind := kind, scope := sc, seq := 1, since := since, heard := heard }

/-- A class asleep at a fence, at device time 17. -/
def fenced (kind : FenceKind) (sc : Scope) (since : Option Nat) (heard : Heard := Heard.none) : State :=
  { here.modCur (fun g => g.modLanes [0, 1] (fun _ x => { x with sleep := .fence (aFence kind sc since heard) })) with time := 17 }

/-- A line no rope covers that lane 0 wrote. -/
def wroteLine : State := here.modCur (fun g => { g with written := [{ lane := 0, line := 0x800600, va := 0x30000, prot := true }] })

theorem witness_Fences : here.unsurvivable here.ix.slot here.ix.lanes = none ∧ (wroteLine.unsurvivable 0 [0, 1]).isSome = true ∧
    ((fenced .rel .pod none).group 0).fences.find? (fun e => e.1.contains 1) = some ([0, 1], aFence .rel .pod none Heard.none) ∧
    ((fenced .rel .pod none).remote = [] ∧ ((fenced .rel .pod none).group 0).horPod < (fenced .rel .pod none).dieTime 0 ∧
      (fenced .rel .pod none).flight = [] ∧ (fenced .rel .pod none).acks = [] ∧ ((fenced .rel .pod none).group 0).storeQ = []) ∧
    (1 + 16 ≤ (fenced .sc .die (some 1)).time ∧ ((fenced .sc .die (some 1)).group 0).horDie < (fenced .sc .die (some 1)).dieTime 0) ∧
    ¬ (((fenced .rel .die none).modGroup 0 (fun g => { g with horDie := 17 })).group 0).horDie < (fenced .rel .die none).dieTime 0 ∧
    ¬ ({ Heard.none with all := 17 } : Heard).all < (fenced .rel .device none { Heard.none with all := 17 }).dieTime 0 := by
  decide +kernel

/-! ### Witnesses: engine commands, tasks, handles -/

/-- A tensor descriptor of F32 elements (R215). -/
def desc (h rank base : Nat) (ext str : List Nat) : List Byte :=
  leBytes 2 h ++ leBytes 1 4 ++ leBytes 1 rank ++ leBytes 4 0 ++ leBytes 8 base ++ ext.flatMap (leBytes 4) ++ str.flatMap (leBytes 4) ++ leBytes 8 0

/-- `here` with four descriptors in its local memory, and words in s8 to s15. -/
def hereP (ws : List Word) : State :=
  (here.putLocal 0 [(0, desc 0 1 0 [4, 1, 1, 1, 1] [4, 0, 0, 0, 0]), (64, desc 8 1 0x100 [4, 1, 1, 1, 1] [4, 0, 0, 0, 0]),
    (128, desc 0 2 0 [4, 2, 1, 1, 1] [4, 16, 0, 0, 0]), (192, desc 8 2 0x200 [4, 3, 1, 1, 1] [4, 16, 0, 0, 0])]).modCur
    (fun g => g.sput 8 (ws.map Reg.of))

/-- One accepted parameter block for each command. -/
def copyWords : List Word := [0x00800000, 0, 64, 0, 0, 0, 0, 0]
def gatherWords : List Word := [0x00800010, 128, 192, 0x800, 3, 0xFFFFFFFF, 0, 0]
def encTermWords : List Word := [0x00000848, 0, 128, 0, 16, 32, 1, 0]
def encBlockWords : List Word := [0x00000845, 0, 4, 16, 0x00800001, 0x100, 1, 1]
def decTermWords : List Word := [0x00500040, 0, 0, 128, 32, 1, 0, 0]
def decBlockWords : List Word := [0x00800045, 16, 0x00800001, 0x100, 0, 4, 1, 1]
def taskWords : List Word := [0x00800800, 0, 0x100, 0x200, 0x00010001, 0, 0, 0x00000380]
def streamWords : List Word := [0x00800000, 0, 0x100, 0x200, 0x00010001, 0, 0, 0x00000380]

/-- A check of a copy command passes. -/
def copyOk (r : Except Checked CopyOk) : Bool :=
  match r with
  | .ok _ => true
  | .error _ => false

/-- A check of another command passes. -/
def engineOk (r : Checked) : Bool :=
  match r with
  | .ok _ => true
  | _ => false

theorem copyOk_elim {r : Except Checked CopyOk} (h : copyOk r = true) : ∃ c, r = .ok c := by
  cases r with
  | ok c => exact ⟨c, rfl⟩
  | error e => simp [copyOk] at h

theorem engineOk_elim {r : Checked} (h : engineOk r = true) : ∃ es, r = .ok es := by
  cases r with
  | ok es => exact ⟨es, rfl⟩
  | _ => simp [engineOk] at h

theorem witness_EngineCommandsAccepted : (hereP copyWords).Issues ∧ (hereP copyWords).EngineFree 7 true false ∧ (hereP taskWords).EngineFree 7 true true ∧
    (∃ c, (hereP copyWords).copyCheck ((hereP copyWords).params 1) = .ok c) ∧
    (∃ c, (hereP gatherWords).gatherCheck 1 2 ((hereP gatherWords).params 1) = .ok c) ∧
    (∃ c, (hereP gatherWords).gatherCheck 2 1 ((hereP gatherWords).params 1) = .ok c) := by
  refine ⟨⟨by decide +kernel, by decide +kernel, by decide +kernel, by decide +kernel⟩, ?_, ?_, copyOk_elim (by decide +kernel),
    copyOk_elim (by decide +kernel), copyOk_elim (by decide +kernel)⟩ <;> · unfold State.EngineFree; decide +kernel

theorem witness_EngineCommandsAccepted_checks :
    (∃ es, (hereP encTermWords).engineCheck ((hereP encTermWords).params 1) (encTermChecks ((hereP encTermWords).params 1))
      (encTermExtents ((hereP encTermWords).params 1)) = .ok es) ∧
    (∃ es, (hereP encBlockWords).engineCheck ((hereP encBlockWords).params 1) (encBlockChecks ((hereP encBlockWords).params 1))
      (encBlockExtents ((hereP encBlockWords).params 1)) = .ok es) ∧
    (∃ es, (hereP decTermWords).engineCheck ((hereP decTermWords).params 1) (decTermChecks ((hereP decTermWords).params 1))
      (decTermExtents ((hereP decTermWords).params 1)) = .ok es) ∧
    (∃ es, (hereP decBlockWords).engineCheck ((hereP decBlockWords).params 1) (decBlockChecks ((hereP decBlockWords).params 1))
      (decBlockExtents ((hereP decBlockWords).params 1)) = .ok es) ∧
    (∃ es, (hereP taskWords).engineCheck ((hereP taskWords).params 1) (taskChecks false 1 ((hereP taskWords).params 1))
      (taskExtents ((hereP taskWords).params 1)) = .ok es) ∧
    (∃ es, (hereP streamWords).engineCheck ((hereP streamWords).params 1) (taskChecks true 1 ((hereP streamWords).params 1))
      (taskExtents ((hereP streamWords).params 1)) = .ok es) := by
  refine ⟨?_, ?_, ?_, ?_, ?_, ?_⟩ <;> exact engineOk_elim (by decide +kernel)

/-- The first failing field: W1 of a copy that is no multiple of 64, W7 of a task whose group code is 5; and a poisoned W1. -/
theorem witness_EngineFieldTraps : here.stopped = false ∧ here.drained here.cur = false ∧
    (copyFields ([0x00800000, 32, 64, 1, 0, 0, 0, 0].map Reg.of)).find? (fun x => x.2) = some (1, true) ∧
    (copyFields (copyWords.map Reg.of)).find? (fun x => x.2) = none ∧
    (taskChecks false 1 ([0x00800800, 0, 0x100, 0x200, 0x00010001, 0, 0, 0x0000A000].map Reg.of)).fields.find? (fun x => x.2) = some (7, true) ∧
    (let s := (hereP copyWords).modCur (fun g => g.sset 9 { bits := 0, poison := true })
     ((s.params 1).getD 1 Reg.zero).poison = true ∧ ((s.params 1).getD 0 Reg.zero).poison = false ∧ 1 < (s.params 1).length) := by
  decide +kernel

/-- A write that ends. -/
def writesOk (r : TWrite) : Bool :=
  match r with
  | .ok _ => true
  | _ => false

theorem writes_of {r : TWrite} (h : writesOk r = true) : ∃ t, r = .ok t := by
  cases r with
  | ok t => exact ⟨t, rfl⟩
  | _ => simp [writesOk] at h

/-- The state a write leaves. -/
def written (s : State) (r : TWrite) : State :=
  match r with
  | .ok t => t
  | _ => s

/-- A full task queue in a launch whose overflow ring has 16 places, all free. -/
def fullQueue : State :=
  let q : QTask := { lid := 0, khdr := 0, arga := 0, x := 0, y := 0, z := 0, seq := 0, need := 0,
                     join := { spawner := 0, ctr := 0, record := false, ord := 0, ring := false } }
  let s := here.modCore 0 (fun c => { c with tasks := List.replicate 64 q })
  { s with launches := [(0, { here.launch 0 with ovfn := 16, area := 0x50000 })] }

theorem witness_SpawnCompletes_ring : 64 ≤ (fullQueue.core 0).tasks.length ∧ (fullQueue.launch 0).ringTail - (fullQueue.launch 0).ringHead < (fullQueue.launch 0).ovfn ∧
    (∃ u, fullQueue.tWrite fullQueue.me 0 0 0 (0x50000 + 64) (ringEntry (fullQueue.newTask (fullQueue.params 15) false 7 true) 0) = .ok u) ∧
    ∃ v, (written fullQueue (fullQueue.tWrite fullQueue.me 0 0 0 (0x50000 + 64) (ringEntry (fullQueue.newTask (fullQueue.params 15) false 7 true) 0))).tWrite
      fullQueue.me 0 0 0 (0x50000 + 8) (leBytes 8 1) = .ok v :=
  ⟨by decide +kernel, by decide +kernel, writes_of (by decide +kernel), writes_of (by decide +kernel)⟩

/-- A task queue with room, with one place left, and a full one. -/
theorem witness_SpawnCompletes : here.Issues ∧ here.drained here.cur = false ∧ (∀ j < 7, (here.cur.sget (8 * 15 + j)).poison = false) ∧
    (∀ j < 7, (here.cur.sget (8 * 15 + j)).bits.toNat = 0) ∧ here.cur.kget 7 ≠ 255 ∧ here.cur.q14.tags.length + here.cur.q14res + 4 ≤ 16 ∧
    (here.core 0).tasks.length < 64 ∧
    (let q : QTask := { lid := 0, khdr := 0, arga := 0, x := 0, y := 0, z := 0, seq := 0, need := 0,
                        join := { spawner := 0, ctr := 0, record := false, ord := 0, ring := false } }
     let s := here.modCore 0 (fun c => { c with tasks := List.replicate 64 q })
     64 ≤ (s.core 0).tasks.length ∧ (s.launch 0).ovfn ≤ (s.launch 0).ringTail - (s.launch 0).ringHead) := by
  refine ⟨issues_here, ?_⟩
  decide +kernel

theorem witness_BoundAndStatus : here.stopped = false ∧ here.drained here.cur = false := by decide +kernel

/-- Two rows of three elements, of at most two terms: counted below the bound, and what slack saves (R123 to R125). -/
theorem witness_BoundAndStatus_cycles : (∀ r ∈ [[2, 0, 1], [0, 2, 1]], ∀ x ∈ r, x ≤ 2) ∧ (∀ r ∈ [[2, 0, 1], [0, 2, 1]], r.length = 3) ∧
    groupCycles 0 3 [[2, 0, 1], [0, 2, 1]] = 7 ∧ groupCycles 1 3 [[2, 0, 1], [0, 2, 1]] = 5 ∧
    countedCycles 0 3 8 [[2, 0, 1], [0, 2, 1]] = 31 := by
  decide +kernel

/-- Deriving handle 9 from handle 0, as long as the parent, at the end of its range; and the table page that takes it. -/
theorem witness_HandleInstructions :
    (let s := (hereP [0x00090000, 0xFFF, 0, 1, 0, 0x1F, 0, 0])
     (∀ j < 8, (s.cur.sget (8 * 1 + j)).poison = false) ∧ narrowBad (s.params 1) = none ∧
      s.lookup s.me 0 0 0 = .entry (handle 0x30000 0x1000 0 0x17 0) ∧ (s.launch 0).hcnt ≤ 9 ∧
      0xFFF + 1 ≤ (handle 0x30000 0x1000 0 0x17 0).length ∧ (handle 0x30000 0x1000 0 0x17 0).perm.testBit 4 = true ∧
      s.reach s.me 0 0 0 (.kind .write) true (piecesOf (0x20000 + 32 * 9) 32) = .ok ∧ s.tHolds 0 0 0 (0x20000 + 32 * 9) 32 .write = false) ∧
    here.Ready { srcs := [(.s 0, .word)], dst := .s (Fin.ofNat 128 (8 * 15)), words := 8, uniform := [.s 0], noUni := false } ∧
    (here.modCur (fun g => g.sset 0 (Reg.of 4096))).Ready
      { srcs := [(.s 0, .word)], dst := .s (Fin.ofNat 128 (8 * 15)), words := 8, uniform := [.s 0], noUni := false } ∧
    here.lookup here.me 0 0 0 = .entry (handle 0x30000 0x1000 0 0x17 0) := by
  unfold State.Ready
  decide +kernel

/-! ### Witnesses: steps of the module -/

theorem plain_of {s : State} (h : s.doms.all (fun e => e.2.mig0.move.isNone && e.2.mig1.move.isNone && e.2.rope.state == 0) = true)
    (g : s.Unwatched) : s.Plain := by
  refine ⟨fun e he => ?_, g⟩
  have := List.all_eq_true.mp h e he
  simpa [and_assoc] using this

theorem plain_here : here.Plain := plain_of (by decide +kernel) (unwatched_of (by decide +kernel))

/-- A word's store on its way, and an acknowledgement. -/
def aStore : HomeWrite :=
  { id := 3, slot := 0, spans := [(0x40030000, 4)], ops := [{ lane := 0, act := .store 0x40030000 [1, 2, 3, 4] }], ret := none,
    dom := 0, space := 0, va := 0x30000, prot := false, repl := false, stage := .fresh }
def anAck : Ack := { id := 3, slot := 0, lines := [0x800600], same := 8, all := 8, seq := 0 }

/-- An atomic at the greatest operands of its width, on device memory; on host memory one that the bridge sends on as an AtomicOp
or splits, and one that it splits always, its locked read done. -/
def anAtomic : HomeWrite :=
  { aStore with ret := some 4, ops := [{ lane := 0, act := .atomic .incWrap 0x40030000 4 0xFFFFFFFF 0xFFFFFFFF }] }
def aHostAtomic (aop : Aop) (stage : WriteStage) : HomeWrite :=
  { anAtomic with spans := [(2 ^ 51, 4)], ops := [{ lane := 0, act := .atomic aop (2 ^ 51) 4 1 0 }], stage := stage }

theorem witness_WritesReachTheirHomes :
    ((here.modGroup 0 (fun g => { g with storeQ := [aStore] })).group 0).storeQ = [] ++ aStore :: [] ∧
    (let s : State := { here with flight := [aStore] }
     s.flight.find? (fun x => x.id == 3) = some aStore ∧ aStore.repl = false ∧ aStore.stage = .fresh ∧
       (linesOf aStore.spans).any s.lineHeld = false ∧ (linesOf aStore.spans).any s.lineReplicating = false ∧ s.lostPage aStore = false ∧
       ∀ x ∈ s.flight, x.slot = 0 → x.id < 3 → spansMeet aStore.spans x.spans = false) ∧
    ({ here with flight := [aStore] } : State).Plain ∧ here.Uncounted ∧ (0xFFFFFFFF#64).toNat < 2 ^ (8 * 4) ∧ anAtomic.ops.length = 1 ∧
    (isHost (2 ^ 51) = true ∧ Aop.addI ∈ [Aop.addI, .xchg, .cas] ∧ Aop.maxS ∉ [Aop.addI, .xchg, .cas] ∧
      (aHostAtomic .maxS (.locked [0, 0, 0, 0])).stage = .locked [0, 0, 0, 0]) ∧
    (let s : State := { here with acks := [anAck] }
     s.acks.find? (fun x => x.id == 3) = some anAck ∧ (mget? s.groups 0).isSome = true ∧ s.answersBefore 0 0 anAck.lines false = false) ∧
    here.Plain ∧ here.ready = true ∧ here.assigned 0x40030000 = true ∧ isHost 0x40030000 = false ∧
    (linesOf [(2 ^ 51, max 4 4)]).any ({ here with time := 9 } : State).holdsHost = false := by
  refine ⟨by decide +kernel, by decide +kernel, plain_of (by decide +kernel) (unwatched_of (by decide +kernel)), uncounted_here, by decide +kernel,
    by decide +kernel, by decide +kernel, ?_, plain_here, by decide +kernel, by decide +kernel, by decide +kernel, by decide +kernel⟩
  simp only [State.answersBefore]
  decide +kernel

/-- An outstanding load of one word that lacks its sector. -/
def aLoad : LoadOp :=
  { kind := .load (.v 7) 4 false, uniform := false, policy := 0, cached := true, rdc := false, repl := [], sc := 0, lanes := [0, 1],
    access := [{ lane := 0, pa := 0x40030000, size := 4, own := [none, none, none, none] }], missing := [0x2001800], lines := [], values := [],
    waiting := [], flags := 0, refusals := [], popped := [] }

/-- A line as memory holds it, and a copy of it. -/
def aLine : Line := { bytes := List.replicate 128 0, poison := List.replicate 4 false }
def aCopy : Copy := { secs := [0x2001800], data := aLine, ends := 32, grant := 0 }

/-- `here` with an outstanding access, its number 6. -/
def hereL (op : LoadOp) : State := here.modGroup 0 (fun g => { g with loads := [(6, op)] })

/-- Leases at their bounds, a copy at its lease's end and one tick before it, lines of device and of host memory. -/
theorem witness_FillsAndLeases :
    (mget? ((hereL aLoad).group 0).loads 6 = some aLoad ∧ 0x2001800 ∈ aLoad.missing ∧ 0x2001800 / 4 = 0x800600 ∧
      (∀ f ∈ (hereL aLoad).fills, f.line ≠ 0x800600) ∧ (hereL aLoad).lineHeld 0x800600 = false) ∧ (hereL aLoad).Plain ∧ here.Uncounted ∧
    (32 ≤ 4096 ∧ isHost (128 * 0x800600) = false) ∧ isHost (2 ^ 51) = true ∧
    (let f : Fill := { core := 0, line := 0x800600, secs := [0x2001800], data := aLine, ends := 32, grant := 0, asks := [(0, 6)], keep := true, far := false, seq := 0 }
     let s : State := { hereL aLoad with fills := [f] }
     s.fills[0]? = some f ∧ f.asks.Nodup ∧ mget? (s.group 0).loads 6 = some aLoad ∧ s.answersBefore 0 0 [0x800600] false = false ∧
       s.unacked 0 0x800600 = false ∧ (s.core 0).l1.length < 2048) ∧
    (let s := (here.modCore 0 (fun c => { c with l1 := [(0x800600, aCopy)] }))
     s.copyAt (.l1 0) 0x800600 = some aCopy ∧ s.dieTime 0 < aCopy.ends ∧ aCopy.ends ≤ ({ s with time := 32 } : State).dieTime 0) ∧
    (let s : State := { here with leases := [(0x800600, 5, 6)] }
     mget? s.leases 0x800600 = some (5, 6) ∧ mget? s.dirty (lineOf (s.locate (128 * 0x800600))) = none) ∧
    (let s : State := { here with dirty := [(0x800600, aLine)] }
     mget? s.dirty 0x800600 = some aLine ∧ s.backHeld 0x800600 = false ∧ ∀ d < 8, (s.dom d).crnOn = false) ∧
    (let s : State := { here with snoops := [(2 ^ 44, 0)], leases := [(2 ^ 44, 5, 6)] }
     s.snoops[0]? = some (2 ^ 44, 0) ∧ s.dieTime 0 ≤ max (s.leaseOf (2 ^ 44)).1 (s.leaseOf (2 ^ 44)).2 + 8 ∧
       max (s.leaseOf (2 ^ 44)).1 (s.leaseOf (2 ^ 44)).2 + 8 < ({ s with time := 15 } : State).dieTime 0) := by
  refine ⟨by decide +kernel, plain_of (by decide +kernel) (unwatched_of (by decide +kernel)), uncounted_here, by decide +kernel, by decide +kernel, ?_,
    by decide +kernel, by decide +kernel, by decide +kernel, by decide +kernel⟩
  simp only [State.answersBefore]
  decide +kernel

/-- An outstanding access of each kind with its answers there. -/
def answered (k : LoadKind) : LoadOp := { aLoad with kind := k, missing := [], lines := [(0x2001800, aLine)], values := [(0, [Reg.zero])] }

/-- A monitor of a local word. -/
def aWatch : Watch := { place := .loc 0 0, va := 0, d := 0, cond := .ge, latched := false, token := 1, popped := [] }

theorem witness_AccessesReturn :
    (∀ k ∈ [LoadKind.load (.v 7) 2 true, .load (.v 4) 16 false, .atom (.v 7) 4 false, .remote (.v 7) 4, .close [] [], .ret, .xret 0],
      ((hereL (answered k)).group 0).loads.find? (fun e => (hereL (answered k)).loadReady 0 e.2) = some (6, answered k)) ∧
    (let op : LoadOp := { answered (.remote (.v 7) 4) with refusals := [(256, 2, 3, 0), (300, 2, 3, 0)] }
     (256, 2, 3, 0) ∈ op.refusals ∧ ∀ r ∈ op.refusals, r ≠ (256, 2, 3, 0) → 256 < r.1) ∧
    (∀ l ∈ (answered .ret).lanes, ((answered .ret).entry l).2 = false ∧ ((answered .ret).entry l).1.toNat % 4 = 0 ∧ ((answered .ret).entry l).1.toNat % 16 ≠ 12) ∧
    (let op : LoadOp := { answered .ret with access := [{ lane := 0, pa := 0x40030000, size := 8, own := List.replicate 8 (some 2) }], lanes := [0] }
     (op.entry 0).2 = false ∧ (op.entry 0).1.toNat % 4 = 2) ∧
    (let op : LoadOp := { answered .ret with access := [{ lane := 0, pa := 0x40030000, size := 8, own := List.replicate 8 none }], lanes := [0]
                                             lines := [(0x2001800, { aLine with poison := [true, false, false, false] })] }
     op.lanes.find? (fun l => (op.entry l).2) = some 0) ∧
    (let s := here.modCur (fun g => g.modLanes [0] (fun _ x => { x with sleep := .waitc aWatch }))
     (mget? s.groups 0).isSome = true ∧ ((s.group 0).lane 0).sleep = .waitc aWatch ∧ 0 < (s.group 0).lanes.length ∧ s.placePoison aWatch.place = false ∧
       (s.watched aWatch.place - aWatch.d).msb = false ∧ s.watched aWatch.place ≠ 1) := by
  decide +kernel

theorem witness_AccessesReturn_frame : (hereL (answered (.load (.q 0) 4 false))).Pushable { srcs := [], dst := .q 0, words := 1, uniform := [], noUni := false } :=
  pushable_of (by decide +kernel) (by decide +kernel)

/-- `here` about to take a deferred trap, with every lane parked, ended, and in a drain. -/
theorem witness_GroupSteps :
    (let s := here.modGroup 0 (fun g => { g with deferred := [{ cause := 0x07, xval := 0, xaddr := 0 }] })
     (s.group 0).deferred ≠ [] ∧ s.mayIssue 0 = true ∧ ((s.group 0).lane ((s.issuingClass (s.group 0)).headD 0)).chain = false ∧
       ((s.group 0).lane ((s.issuingClass (s.group 0)).headD 0)).enters = none ∧ s.waits = []) ∧
    (let s := here.modGroup 0 (fun g => { g with lanes := g.lanes.map (fun x => { x with parked := true }) })
     (s.group 0).held = false ∧ ∀ l ∈ (s.group 0).lanes, s.counts (s.group 0) l = false) ∧
    (here.ready? 0 = true ∧ here.cycleOf 0 < (here.group 0).ready + 1024 ∧
      (here.group 0).ready + 1024 ≤ ({ here with cycles := 80 * 1024 } : State).cycleOf 0) ∧
    (let s : State := { here.modGroup 0 (fun g => { g with lanes := g.lanes.map (fun x => { x with exited := true }) }) with time := 1 }
     (mget? s.groups 0).isSome = true ∧ s.mayEnd 0 (s.group 0) = true ∧ (s.team 0).task = none ∧ (s.team 0).hdr.ngrp = (s.team 0).done.length + 1) ∧
    (let s := here.modDom 0 (fun d => { d with drain := some { space := 0, since := 0, resume := false }, drainLimit := 10 })
     s.mayHold 0 (s.group 0) = true ∧ (s.dom 0).drainLimit ≠ 0 ∧ s.time < 0 + (s.dom 0).drainLimit.toNat ∧
       0 + (s.dom 0).drainLimit.toNat ≤ ({ s with time := 10 } : State).time) ∧
    (∀ lid ∈ here.servedOrder 0, ∀ k ∈ here.saved, k.lid ≠ lid) ∧ mget? here.doms 0 ≠ none := by
  refine ⟨by decide +kernel, by decide +kernel, by decide +kernel, by decide +kernel, by decide +kernel, by decide +kernel, by decide +kernel⟩

/-- The next state of a step, or the state itself. -/
def after (i : Instr) (s : State) : State :=
  match exec i s with
  | .next t => t
  | _ => s

/-- A kernel header of one group without arguments, entered at its own first word (R60). -/
def headerBytes : List Byte :=
  leBytes 4 0x564B4844 ++ leBytes 2 1 ++ [0, 1, 1, 0, 0, 0] ++ leBytes 4 64 ++ leBytes 4 64 ++ List.replicate 108 0

/-- A launch of two teams, none of them started. -/
def twoTeams : Launch := { here.launch 0 with gx := 2, next := 0, hdr := { KHeader.blank with locB := 64, stackB := 64 } }

/-- `here` with that launch and the header at address 0x10100. -/
def launching : State := (({ here with launches := [(0, twoTeams)] } : State).place 0x40010100 headerBytes)

/-- A task of that header in core 1's task queue, its spawner's release complete at time 1. -/
def aTask : QTask :=
  { lid := 0, khdr := 0x10100, arga := 0, x := 0, y := 0, z := 0, seq := 0, need := 0,
    join := { spawner := 0, ctr := 0, record := false, ord := 0, ring := false } }
def spawning : State := ({ launching with time := 1 } : State).modCore 1 (fun c => { c with tasks := [aTask] })

/-- A queue of 2 records at 0x30000, its tail at 0x31000, its head stored at 0x31008. -/
def aQueue : HostQueue :=
  { dom := 0, entry := 0, ring := 0x30000, tailA := 0x31000, headA := 0x31008, space := 0, log2n := 1, h := 0, taken := 0, goal := 0, running := true }
def queueing (goal taken : Nat) : State :=
  ({ here with queues := [(0, { aQueue with goal := goal, taken := taken })] } : State).place 0x40031000 (leBytes 4 2)

/-- A bounded test of an option. -/
theorem some_of_isSome {α : Type} {x : Option α} (h : x.isSome = true) : ∃ a, x = some a := Option.isSome_iff_exists.mp h

/-- A task start that is over. -/
def isOver (t : TaskTry) : Bool :=
  match t with
  | .over _ => true
  | _ => false

theorem over_of {t : TaskTry} (h : isOver t = true) : ∃ u, t = .over u := by
  unfold isOver at h
  split at h
  · exact ⟨_, rfl⟩
  · exact absurd h (by decide)

/-- A record that was taken. -/
def isDone (t : Taking) : Bool :=
  match t with
  | .done _ => true
  | _ => false

theorem done_of {t : Taking} (h : isDone t = true) : ∃ u, t = .done u := by
  cases t with
  | done u => exact ⟨u, rfl⟩
  | _ => simp [isDone] at h

/-- A read of bytes without poison that passes a test. -/
def readsOk (r : TRead) (f : State → List Byte → Bool) : Bool :=
  match r with
  | .ok u bs p => !p && f u bs
  | _ => false

theorem reads_of {r : TRead} {f : State → List Byte → Bool} (h : readsOk r f = true) : ∃ u bs, r = .ok u bs false ∧ f u bs = true := by
  cases r with
  | ok u bs p => cases p <;> simp_all [readsOk]
  | _ => simp [readsOk] at h

theorem witness_WorkStarts :
    (launching.servedOrder 0 = [0] ∧ (launching.launch 0).ringInfo = [] ∧ (launching.launch 0).hdr.narg = 0 ∧ launching.teamsOpen 0 = true ∧
      launching.agentWaits (.teamStart 0) = false) ∧ (∃ r, launching.choose 0 0 (launching.launch 0).hdr = some r) ∧
    (smallTeam.slots.Nodup ∧ smallTeam.slots.length = smallTeam.hdr.ngrp ∧ 0 < smallTeam.hdr.ngrp ∧ (List.replicate 64 (Reg.of 1)).length ≤ 64) ∧
    ((spawning.core 1).tasks = aTask :: [] ∧ spawning.taskReleased aTask = true ∧ (spawning.core 1).gated = false ∧
      spawning.agentWaits (.taskStart 1) = false) ∧
    (∃ t, spawning.tryTask (.taskStart 1) (1 / 72) 1 aTask (fun h => spawning.fits 1 h) = .over t) := by
  refine ⟨by decide +kernel, some_of_isSome (by decide +kernel), by decide +kernel, by decide +kernel, over_of (by decide +kernel)⟩

/-- A tail two records ahead in a queue of two; a record to take; a head to store. -/
theorem witness_WorkStarts_queues :
    (∃ u bs, (queueing 0 0).tRead (.queue 0) 0 0 0 0x31000 4 = .ok u bs false ∧ (decide ((leNat bs + 2 ^ 32 - 0) % 2 ^ 32 = 2)) = true) ∧
    (∃ u bs, (queueing 2 0).tRead (.queue 0) 0 0 0 (0x30000 + 64 * (0 % 2 ^ 1)) 64 = .ok u bs false ∧
      (isDone (u.takeRecord (.queue 0) 0 0 0 bs false)) = true) ∧
    (∃ t, (queueing 2 1).tStore (.queue 0) 0 0 0 0x31008 (leBytes 4 1) = .ok t) ∧ (queueing 2 1).agentWaits (.queue 0) = false := by
  refine ⟨reads_of (f := fun _ bs => decide ((leNat bs + 2 ^ 32 - 0) % 2 ^ 32 = 2)) (by decide +kernel),
    reads_of (f := fun u bs => isDone (u.takeRecord (.queue 0) 0 0 0 bs false)) (by decide +kernel), writes_of (by decide +kernel), by decide +kernel⟩

/-! ### Witnesses: peers -/

/-- Window 0 of domain 0 covers the data page of space 0, with R, W and A; module 1's domain 0 is admitted to it. -/
def targeted : State :=
  ((podV.modDom 0 (fun d => { d with wintab := 0x40100000, admtab := 0x40200000 })).place 0x40100000
    (leBytes 8 (0x30000 + 2 ^ 63) ++ leBytes 8 0x1000 ++ leBytes 2 0 ++ [7, 0] ++ leBytes 4 0 ++ leBytes 8 0)).place (0x40200000 + 32 * 8) [1]

/-- A read by module 1 of the window's last word, one past its end, of a window that is not there, and from a module that is not admitted. -/
def aRead : PeerReq :=
  { srcModule := 1, srcDomain := 0, epoch := 0, id := 5, window := 0, offset := 0xFFC, op := .read 4, poison := false }
def theWindow : Window := { base := 0x30000, length := 0x1000, space := 0, perm := 7, exact := false, esize := 0 }

/-- A wait or a refusal of a page. -/
def reachFails (r : Reach) : Bool :=
  match r with
  | .failed _ _ => true
  | _ => false

theorem plain_targeted : targeted.Plain := plain_of (by decide +kernel) (unwatched_of (by decide +kernel))

theorem witness_PeerSteps :
    (targeted.recordsOf 1 0).find? (fun x => x.id == 5) = none ∧ mget? targeted.peerWait (peerKey aRead) = none ∧
    (let x : PeerRecord := { id := 5, status := 0, value := 7, poison := false, remaining := 2, prot := false }
     let s : State := { targeted with sources := [(1, { epoch := 0, records := [x] })] }
     (s.recordsOf 1 0).find? (fun x => x.id == 5) = some x) ∧ targeted.Plain ∧ targeted.Uncounted ∧ (linesOf [(0x40030FFC, 4)]).any targeted.lineHeld = false ∧
    targeted.admits aRead = true ∧ targeted.admits { aRead with srcModule := 2 } = false ∧
    targeted.windowAt aRead = some theWindow ∧ targeted.windowAt { aRead with window := 1 } = none ∧
    windowReason theWindow aRead = 0 ∧ windowReason theWindow { aRead with offset := 0xFFD } = 2 ∧
    targeted.reach (.peer (peerKey aRead)) 0 0 0 (.kind .read) false (piecesOf 0x30FFC 4) = .ok ∧ piecesOf 0x30FFC 4 = [(0x30FFC, 4)] ∧
    (let s := (targeted.place 0x40002000 (leBytes 8 (0x4000001F + 2 ^ 52)))
     reachFails (s.reach (.peer (peerKey aRead)) 0 0 0 (.kind .read) false (piecesOf 0x30FFC 4)) = true) := by
  have u : targeted.Uncounted := by
    intro e he
    have h : targeted.doms.all (fun e => !e.2.crnOn) = true := by decide +kernel
    simpa using List.all_eq_true.mp h e he
  refine ⟨by decide +kernel, by decide +kernel, by decide +kernel, plain_targeted, u, by decide +kernel, ?_⟩
  decide +kernel

/-- An outstanding request of lane 0 to module 1 that has been sent once: a load that the group waits for as its access 6, or a store. -/
def aRequest (waits : Bool) : OutReq :=
  { target := 1, id := 9, kind := .access 0 [0] 0 8 (.read 4) (if waits then some 6 else none), plane := 0, sends := 1, sentAt := 0, sent := true, seq := 0 }

/-- `podV` with that request, and the group waiting for it. -/
def asking (waits : Bool) : State :=
  ({ podV with remote := [aRequest waits], planes := 1 } : State).modGroup 0 (fun g =>
    { g with loads := [(6, { aLoad with kind := .remote (.v 7) 4, missing := [], waiting := [0] })] })

theorem witness_PeerSteps_answers :
    (asking true).findReq 1 9 = some (aRequest true) ∧ (mget? ((asking true).group 0).loads 6).isSome = true ∧ (asking false).findReq 1 9 = some (aRequest false) ∧
    (∀ x ∈ (asking true).remote, x.sent = true) ∧ (asking true).remote = [aRequest true] ∧
    ((mget? (asking false).groups 0).isSome = true ∧ (∀ e ∈ ((asking false).group 0).fences, e.2.podWide = false) ∧ ((asking false).group 0).trapped = false) ∧
    (1 < (asking true).planeCount ∧ ∀ x ∈ (asking true).remote, x.plane ≠ 1) ∧
    ((asking true).time < 0 + 16384 ∧ 0 + 16384 ≤ ({ asking true with time := 16384 } : State).time) ∧ (aRequest true).sends < 4 ∧
    ({ asking true with planeDown := [0] } : State).planeFrom 0 1 = some 1 := by
  decide +kernel

/-! ### Witnesses: engines -/

/-- A copy command accepted, its number 0; one whose source page is lost. -/
def copying : State := after (.xcopy false false 0 1) (hereP copyWords)
def lostCopy : State := ({ copying with tlb := [] } : State).place 0x40002000 (leBytes 8 (0x4000001F + 2 ^ 52))

/-- The one command of a state. -/
def theCmd (s : State) : Cmd := (s.cmds.headD (0, { slot := 0, team := 0, lid := 0, core := 0, op := .xcopy, ctr := 0, ord := 0, record := false, notrap := false, nullIdx := false, w := [], handles := [], descs := [], reads := [], writes := [], fence := 0, phase := .queued, status := 0, failAt := 0, idxRec := none, flags := 0, words := [], wvt := 0, lane0 := 0, rows := [], nextBlk := [] })).2

/-- Work that fails with a status, work that is done and can be written. -/
def workFails (r : ERead EDone) (status : Nat) : Bool :=
  match r with
  | .stop (.fail st _) => st == status
  | _ => false
def workDone (s : State) (n : Nat) (c : Cmd) (r : ERead EDone) : Bool :=
  match r with
  | .got d ls => (match (s.fetched c ls).enginePut n c d.puts with
    | .ok _ => true
    | .error _ => false)
  | .stop _ => false

/-- A term row is encoded into local memory, then a task over it is accepted, started, and its block closed. -/
def rowDone : State := after (.engineCommandComplete 0) ({ after (.engineCommandStart 0) (after (.xencTerm false false 0 1)
    (hereP [0x00000848, 0, 128, 0, 16, 1, 1, 0])) with time := 100 } : State)
def tasking (epi : Bool) : State :=
  after (.mtask false false 0 1) (rowDone.modCur (fun g => g.sput 8
    ([0x00800800, 0, 0x100, 0x200, 0x00010001, if epi then 0x00810001 else 0, 0x300, 0x00000380].map Reg.of)))

def folding (epi : Bool) : State := after (.mtaskStart 1) (tasking epi)
def folded (epi : Bool) : State := after (.blockClose 1 0) (folding epi)

/-- A result that is one. -/
def isOk {ε α : Type} (r : Except ε α) : Bool :=
  match r with
  | .ok _ => true
  | .error _ => false

theorem ok_of {ε α : Type} {r : Except ε α} (h : isOk r = true) : ∃ a, r = .ok a := by
  cases r with
  | ok a => exact ⟨a, rfl⟩
  | error _ => simp [isOk] at h

/-- A read that has got its value. -/
def isGot {α : Type} (r : ERead α) : Bool :=
  match r with
  | .got _ _ => true
  | .stop _ => false

theorem got_of {α : Type} {r : ERead α} (h : isGot r = true) : ∃ a ls, r = .got a ls := by
  cases r with
  | got a ls => exact ⟨a, ls, rfl⟩
  | stop _ => simp [isGot] at h

theorem uncounted_of {s : State} (h : s.doms.all (fun e => !e.2.crnOn) = true) : s.Uncounted := by
  intro e he
  simpa using List.all_eq_true.mp h e he

theorem witness_EngineSteps : copying.Unwatched ∧ copying.Uncounted ∧ mget? copying.cmds 0 = some (theCmd copying) ∧ copying.mayStart 0 (theCmd copying) = true ∧
    workDone copying 0 (theCmd copying) (copying.work 0 (theCmd copying)) = true ∧
    (lostCopy.mayStart 0 (theCmd lostCopy) = true ∧ workFails (lostCopy.work 0 (theCmd lostCopy)) 7 = true) := by
  refine ⟨unwatched_of (by decide +kernel), uncounted_of (by decide +kernel), ?_⟩
  decide +kernel

/-- The command of each encoder and decoder, accepted over a state. -/
def encodingTerm : State := after (.xencTerm false false 0 1) (hereP encTermWords)
def encodingBlock : State := after (.xencBlock false false 0 1) (hereP encBlockWords)
def decodingBlock : State := after (.xdecBlock false false 0 1) (hereP decBlockWords)
def decodingTerm : State :=
  after (.xdecTerm false false 0 1) (rowDone.modCur (fun g => g.sput 8 ([0x00800840, 0, 0x200, 8, 1, 1, 0, 0].map Reg.of)))

theorem witness_EngineSteps_work :
    (isGot (encodingTerm.work 0 (theCmd encodingTerm)) = true ∧ (theCmd encodingTerm).op = .xencTerm ∧ (theCmd encodingTerm).word 6 = 1) ∧
    (isGot (encodingBlock.work 0 (theCmd encodingBlock)) = true ∧ (theCmd encodingBlock).op = .xencBlock ∧ (theCmd encodingBlock).word 6 = 1) ∧
    (isGot (decodingBlock.work 0 (theCmd decodingBlock)) = true ∧ (theCmd decodingBlock).op = .xdecBlock ∧ (theCmd decodingBlock).word 6 = 1) ∧
    (isGot (decodingTerm.work 1 (theCmd decodingTerm)) = true ∧ (theCmd decodingTerm).op = .xdecTerm ∧ (theCmd decodingTerm).word 5 = 1) := by
  decide +kernel

/-- A row of 7 and -1, encoded with cap 1, and its bytes read back (R73, R118 to R120). -/
theorem witness_EngineSteps_rows : naf 7 = [(3, false), (0, true)] ∧ cutToT 7 1 = 8 ∧
    (encodeRow [.fin false 7 12, .fin true 1 12] 1).q = [32768, -4096] ∧
    (let x : Encoded := { scale := 0x7F0000, q := [8, -1], flags := 0#5 }
     x.q ≠ [] ∧ worstRow x.q.length 1 < 2 ^ 32 ∧ (∀ q ∈ x.q, |q| ≤ 32768 ∧ (naf q).length ≤ 1) ∧ scaleIsNan x.scale = false ∧
       readRow (rowHead ((x.bytes 1).take 16)) (((x.bytes 1).drop 16).take 6) = some { scale := 0x7F0000, elems := [(8, 1), (-1, 1)] }) := by
  decide +kernel

/-- A row with values under one scale, prepared for another, kept under a zero scale, and cleared (R129). -/
theorem witness_EngineSteps_prepare :
    (let c := (Core.clear.accSet (accKey (1, 2) 3) (0x3FF0000000000000#64, true)).tagSet (tagKey (1, 2)) 0x800000
     (1, 2).2 < 128 ∧ ((c.prepare true (1, 2) 0x7F0000).1.accGet (accKey (1, 2) 3) = (0x4000000000000000#64, true)) ∧
       c.prepare true (1, 2) 0 = (c, 0#5) ∧ (c.prepare false (1, 2) 0x7F0000).1.accGet (accKey (1, 2) 3) = (0#64, false) ∧
       (c.fold (accKey (1, 2) 3) 0x3FF0000000000000).1.accGet (accKey (1, 2) 3) = (0x4000000000000000#64, true)) := by
  decide +kernel

theorem witness_EngineSteps_tasks : (tasking true).Unwatched ∧ (tasking true).Uncounted ∧ mget? (tasking true).cmds 1 = some (theCmd (tasking true)) ∧
    (tasking true).taskMayStart 1 (theCmd (tasking true)) = true ∧
    (∃ rows ls, (tasking true).readTermRows 1 (theCmd (tasking true)) ((theCmd (tasking true)).handle 0)
      (fun h => h.k == (theCmd (tasking true)).taskK && decide (h.t ≤ taskT ((theCmd (tasking true)).word 7)))
      ((theCmd (tasking true)).word 1) (theCmd (tasking true)).taskM = .got rows ls) := by
  refine ⟨unwatched_of (by decide +kernel), uncounted_of (by decide +kernel), by decide +kernel, by decide +kernel, got_of (by decide +kernel)⟩

theorem witness_EngineSteps_blocks : (folding true).Unwatched ∧ (folding true).Uncounted ∧ (theCmd (folding true)).mayClose 0 = true ∧ (folding true).agentWaits (.cmd 1) = false ∧
    (∃ ws wl, (folding true).readStride 1 (theCmd (folding true)) ((theCmd (folding true)).handle 1) 16 1 0x100 1 = .got ws wl) ∧
    (∃ sb sl, (folding true).engineRead 1 (theCmd (folding true)) ((theCmd (folding true)).handle 1) 0x200 4 = .got sb sl) ∧
    ((theCmd (folded true)).phase = .folding ∧ (theCmd (folded true)).inLanes = false ∧ (theCmd (folded true)).taskEpi ≠ 0 ∧
      (folded true).agentWaits (.cmd 1) = false) ∧
    (∃ r, (folded true).enginePut 1 (theCmd (folded true)) ((folded true).epiDone (theCmd (folded true))).puts = .ok r) ∧
    ((theCmd (folded false)).phase = .finishing ∧ (mget? (folded false).groups (theCmd (folded false)).slot).isSome = true ∧
      (theCmd (folded false)).wvt < (folded false).dieTime 0) ∧
    (let s := after (.engineCommandStart 0) copying
     (theCmd s).phase = .finishing ∧ s.dieTime 0 ≤ (theCmd s).wvt) := by
  refine ⟨unwatched_of (by decide +kernel), uncounted_of (by decide +kernel), by decide +kernel, by decide +kernel, got_of (by decide +kernel),
    got_of (by decide +kernel), by decide +kernel, ok_of (by decide +kernel), by decide +kernel, by decide +kernel⟩

/-! ### Witnesses: registers and commands -/

/-- The last clock point, a named core without work, a marked device without traffic, each command's word. -/
theorem witness_PowerSteps :
    let s : State := { State.reset with pwrCores := 1, pwrHbm := 0x80, selfWant := 0x800000, channels := [] }
    s.stopped = false ∧ s.pwrBusy = false ∧ ((0x10000004#32).extractLsb' 28 4).toNat = 1 ∧ ((0x10000004#32).extractLsb' 0 3).toNat < 5 ∧
    (((0x20000000#32).extractLsb' 28 4).toNat = 2 ∧ ((0x30000000#32).extractLsb' 28 4).toNat = 3 ∧ ((0x40000000#32).extractLsb' 28 4).toNat = 4 ∧
      ((0x50000000#32).extractLsb' 28 4).toNat = 5) ∧
    (s.pwrCores.getLsbD 0 = true ∧ (s.core 0).tasks = [] ∧ ∀ e ∈ s.groups, e.1 / 144 ≠ 0) ∧
    (s.selfWant.getLsbD 23 = true ∧ s.deviceQuiet 23 = true) ∧ s.mayIdle = true ∧ here.mayIdle = false ∧
    ({ s with pwrBusy := true } : State).pwrBusy = true ∧
    (let t := s.modCore 143 (fun c => { c with stretch := 4, sagEnds := some 0 })
     (t.core 143).sagEnds = some 0 ∧ ({ t with time := 999 } : State).time < 0 + 1000 ∧ 0 + 1000 ≤ ({ t with time := 1000 } : State).time) ∧
    (s.warn ≤ 95#8 ∧ 94#8 < s.warn ∧ s.hot = false ∧ ({ s with hot := true } : State).hot = true) ∧
    ((s.channel 319).state = 0 ∧ (s.channel 319).state < 2) ∧
    (let t : State := { s with cxl0 := { s.cxl0 with sizes := [64, 128] } }
     deviceAt (t.cxl 0).sizes 0 64 = 1 ∧ deviceAt (t.cxl 0).sizes 0 63 = 0) := by
  decide +kernel

/-- Domain 0 on; a sound LNK_CFG at the pod's last module; commands heard, and one in progress with every wait answered, or one still open. -/
theorem witness_RegisterSteps :
    let w : FaultWait := { agent := .group 0 0x10000 0, die := 0, dom := 0, space := 0, page := 3, cause := 8, fate := .retry }
    let busy : State := { here.modDom 0 (fun d => { d with fbBusy := true }) with waits := [w] }
    (here.dom 0).active = true ∧ here.ready = true ∧ (0x0110, 8) ∈ plainRegisters ∧ here.lnkLock = false ∧ podV.lnkLock = true ∧
    (0x00010004#32).extractLsb' 16 10 ≤ (0x00010004#32).extractLsb' 2 10 ∧ (here.dom 0).fbBusy = false ∧
    (∀ op ∈ [1, 2, 3, 4], ((BitVec.ofNat 32 (op * 2 ^ 29)).extractLsb' 29 3).toNat = op) ∧
    ((busy.dom 0).fbBusy = true ∧ ∃ x ∈ busy.waits, x.dom = 0 ∧ x.fate ≠ .pending) ∧
    (∀ x ∈ ({ busy with waits := [{ w with fate := .pending }] } : State).waits, x.dom = 0 → x.fate = .pending) := by
  decide +kernel

/-- `here` with registers of domain 0 set. -/
def hereD (f : Domain → Domain) : State := here.modDom 0 f

/-- Aligned and misaligned ranges; a space that is quiet and one that is not; a leaf to hand over; a queue entry that is sound, one that is not. -/
theorem witness_CommandSteps :
    let v1 : Word := 0x40000000
    let v2 : Word := 0x80000000
    let v3 : Word := 0xC0000000
    ((v1.extractLsb' 30 2).toNat = 1 ∧ (v2.extractLsb' 30 2).toNat = 2 ∧ (v3.extractLsb' 30 2).toNat = 3) ∧
    ((here.dom 0).active = true ∧ (here.dom 0).invBusy = none ∧ (here.dom 0).ownBusy = none ∧ (here.dom 0).invAddr.toNat % 65536 = 0 ∧
      (hereD (fun d => { d with invLen := 32 })).doms ≠ [] ∧ ((hereD (fun d => { d with invLen := 32 })).dom 0).invLen.toNat % 32 = 0 ∧
      ((hereD (fun d => { d with invLen := 32 })).dom 0).invLen.toNat % 65536 ≠ 0 ∧ ((hereD (fun d => { d with invLen := 31 })).dom 0).invLen.toNat % 32 ≠ 0) ∧
    0 ∈ here.tablesOver 0 0 0x20000 32 ∧
    (here.spaceQuiet 0 0 9 = true ∧ here.rewalk 0 0 0 (2 ^ 57) = none ∧ ({ here with flight := [aStore] } : State).spaceQuiet 0 0 9 = false ∧
      here.domainDone 0 9 = true ∧ ({ here with flight := [aStore] } : State).domainDone 0 9 = false) ∧
    ((hereD (fun d => { d with ownLen := 32 })).ownLeaves 0 0 = none ∧
      (hereD (fun d => { d with ownLen := 65536 })).ownLeaves 0 0 = some [(0x40002000, 0x4000001F)]) ∧
    ((0 : Nat) + 4104 < ({ here with time := 4105 } : State).time ∧ 4104 < ({ here with time := 4105 } : State).dieTime 0 ∧
      4104 < ({ here with time := 4105 } : State).dieTime 1 ∧ ¬ 0 + 4104 < here.time) ∧
    ((hereD (fun d => { d with qcnt0 := 0 })).dom 0).queueEntry 0 = none ∧ (here.dom 0).queueEntry 4095 = some (32 * 4095) ∧
    here.homePoisonIn (32 * 4095) 32 = false ∧ queueOf 0 (32 * 4095) (here.homeBytes (32 * 4095) 32) = none ∧
    (queueOf 0 (32 * 4095) (leBytes 8 0x30000 ++ leBytes 8 0x31000 ++ leBytes 8 0x31008 ++ leBytes 2 0 ++ [16, 1] ++ leBytes 4 0)).isSome = true ∧
    mget? (queueing 0 0).queues 0 = some aQueue ∧ (0x00000001#32).getLsbD 0 = true ∧
    (((hereD (fun d => { d with peerSync := true })).dom 0).peerSync = true ∧ ∀ e ∈ here.peerWait, e.2.window / 256 ≠ 0) ∧
    ((here.dom 0).preState ≠ 1 ∧ (here.dom 0).drain = none ∧ ¬ ∃ k ∈ here.saved, k.dom = 0 ∧ k.space = 0) ∧
    ((hereD (fun d => { d with drain := some { space := 0, since := 0, resume := false } })).dom 0).drain ≠ none ∧
    (((here.dom 0).mig 1).busy = false ∧ (((hereD (fun d => { d with mig1 := { d.mig1 with state := 1 } })).dom 0).mig 1).state = 1) ∧
    (((hereD (fun d => { d with mig1 := { d.mig1 with state := 1, abort := true } })).dom 0).mig 1).abort = true := by
  decide +kernel

/-! ### Witnesses: saves, page moves, ropes, the Seoft controller -/

/-- Domain 0 alone, its one team's group held in a drain. -/
def drained (len : Nat) : State :=
  { (hereD (fun d => { d with drain := some { space := 0, since := 0, resume := false }, saveLen := BitVec.ofNat 64 len, saveBase := 0x50000000 })).modGroup 0
      (fun g => { g with held := true, lanes := g.lanes.take 1, nregs := 0 }) with teams := [(0, benchTeam)] }

/-- A move of the 1 GiB page of space 0, when its walk starts; and under way, at a place and a cursor. -/
def walking : State := hereD (fun d => { d with mig0 := { d.mig0 with walk := some 0, va := 0, dst := 0x80000000 } })
def aMove : Move :=
  { space := 0, va := 0, src := 0x40000000, dst := 0x80000000, size := 0x40000000, leafPa := 0x10000, written := [], lost := [], lossKind := 0, committed := none, off := [] }
def moving (state cursor : Nat) : State :=
  { hereD (fun d => { d with mig0 := { d.mig0 with state := state, cursor := cursor, move := some aMove } }) with groups := [] }

/-- A walk that ends on a leaf. -/
def leafOf (w : Walk) : Option (Nat × Nat × Nat) :=
  match w with
  | .leaf a level e => some (a, level, e)
  | .bad _ => none
  | .held => none

theorem witness_SavesAndMoves :
    (here.stopped = false ∧ here.doms = [(0, here.dom 0)] ∧ (here.dom 0).rope.state = 0 ∧ ((here.dom 0).mig (1 - 0)).move = none) ∧ here.Unwatched ∧
    ((drained 0).allHeld 0 0 = true ∧ ((drained 0).dom 0).drain = some { space := 0, since := 0, resume := false } ∧
      ((drained 0).dom 0).saveLen.toNat < [0].foldl (fun n t => n + ((drained 0).teamArea t 0).length) (64 + 128 * 1) ∧
      [0].foldl (fun n t => n + ((drained 0x100000).teamArea t 0).length) (64 + 128 * 1) ≤ ((drained 0x100000).dom 0).saveLen.toNat ∧
      (drained 0).domHoldsRange 0 0x50000000 0x100000 = true) ∧
    (((walking.dom 0).mig 0).walk = some 0 ∧ walking.agentWaits (.moveWalk 0 0) = false ∧ walking.endedCause (.moveWalk 0 0) 0 0 0 = none ∧
      leafOf (walking.walk 0 0 0) = some (0x40002000, 2, 0x4000001F) ∧ walking.moveCode 0 0 0 0x80000000 0x4000001F (levelSize 2) = 0 ∧
      walking.moveCode 0 0 0 0x40000000 0x4000001F (levelSize 2) ≠ 0 ∧ leafOf (({ walking with mem := [] } : State).walk 0 0 0) = none) := by
  refine ⟨by decide +kernel, unwatched_of (by decide +kernel), ?_, ?_⟩
  · decide +kernel
  · decide +kernel

/-- The first and the last chunk; a return above, at and below the first; a copied move about to commit; an epoch that is over. -/
theorem witness_SavesAndMoves_chunks :
    (((moving 1 0).dom 0).mig 0).move = some aMove ∧ aMove.src % 4096 = 0 ∧ aMove.dst % 4096 = 0 ∧ aMove.size % 4096 = 0 ∧
    overlap (aMove.src, aMove.size) (aMove.dst, aMove.size) = false ∧
    ((((moving 1 0).dom 0).mig 0).state = 1 ∧ 0x3FFFF < aMove.size / 4096 ∧ (moving 1 0x3FFFF).dirty = []) ∧
    (1 < 2 ∧ aMove.size / 4096 ≤ aMove.size / 4096 ∧ 1 ∉ aMove.written) ∧ ((((moving 3 0).dom 0).mig 0).cursor = 0 ∧ (((moving 3 0).dom 0).mig 0).map = 0) ∧
    (((moving 2 0).dirty = [] ∧ aMove.leafPa + 8 ≤ aMove.src)) ∧ (moving 1 0).groups = [] ∧
    ((moving 1 0).mayLose aMove aMove.src aMove.size = true ∧ (moving 3 0).mayLose aMove aMove.dst aMove.size = true) ∧
    ((moving 1 0).brokenAt aMove aMove.src aMove.size = false ∧ (moving 1 0).brokenAt aMove aMove.dst aMove.size = false) ∧
    (1 ≤ aMove.size / 4096 ∧ (((moving 3 1).dom 0).mig 0).cursor = 1) ∧
    (let x : Move := { aMove with committed := some 9 }
     x.committed = some 9 ∧ (moving 2 0).spaceQuiet 0 0 9 = true ∧ ({ moving 2 0 with flight := [aStore] } : State).spaceQuiet 0 0 9 = false) ∧
    (let s := hereD (fun d => { d with crnOn := true, crnCount := 1, crnBase := 0x50000000 })
     ((s.dom 0).mig 0).move = none ∧ (s.dom 0).crnOn = true ∧ (s.dom 0).crnNext ≤ s.time ∧ 0 < (s.dom 0).crnCount.toNat ∧ s.domHolds 0 0x50000000 = true) := by
  decide +kernel

/-- A rope descriptor (R342): two data positions and one holder, 128 KiB from address 0, this member at position `self`. -/
def ropeBytes (self : Nat) (second : Nat) : List Byte :=
  [2, 1, BitVec.ofNat 8 self, 0] ++ leBytes 4 7 ++ leBytes 8 0 ++ leBytes 8 0x20000 ++ leBytes 2 0 ++ leBytes 6 0 ++
    (if self < 16 then leBytes 16 0 else leBytes 8 0x60000000 ++ leBytes 8 0x70000000) ++ leBytes 16 0 ++ leBytes 4 0x80000000 ++
    leBytes 4 (0x80000000 + second) ++ List.replicate 56 0 ++ leBytes 4 0x80000002 ++ List.replicate 124 0

/-- The descriptor as a member keeps it. -/
def ropeDesc (self : Nat) : RopeDesc :=
  { bytes := ropeBytes self 1, k := 2, m := 1, self := self, ropeId := 7, pvbase := 0, plen := 0x20000, pspace := 0,
    parbase := if self < 16 then 0 else 0x60000000, logbase := if self < 16 then 0 else 0x70000000,
    members := (List.range 19).foldl (fun l p => sset 0 l p (leNat (((ropeBytes self 1).drop (64 + 4 * p)).take 4))) [] }

/-- `here` with domain 0 a member of that rope in a state, a descriptor in memory. -/
def roped (self state : Nat) (f : Rope → Rope) : State :=
  (hereD (fun d => { d with rope := f { d.rope with descPa := 0x50000000, desc := some (ropeDesc self), state := state } })).place 0x50000000 (ropeBytes self 1)

theorem witness_RopeSteps :
    here.stopped = false ∧ (here.dom 0).active = true ∧ (ropeDesc 0).k ≤ 16 ∧ (ropeDesc 0).m ≤ 3 ∧ (here.dom 0).rope.busy = .none ∧
    (∀ op ∈ [1, 2, 3, 4, 5, 6], ((BitVec.ofNat 32 (op * 2 ^ 28 + 16)).extractLsb' 28 4).toNat = op ∧ ((BitVec.ofNat 32 (op * 2 ^ 28 + 16)).extractLsb' 0 5).toNat = 16) ∧
    ((here.dom 0).rope.state = 0 ∧ here.ropeDescAt 0 = none ∧ (here.dom 0).rope.desc = none) ∧
    (roped 0 0 id).ropeDescAt 0 = some (ropeDesc 0) ∧ ((roped 0 2 id).dom 0).rope.state ≠ 0 ∧ ((roped 16 2 id).dom 0).rope.desc = some (ropeDesc 16) ∧
    ((1 < 2) ∧ ¬ (2 < 2 ∨ (16 ≤ 2 ∧ 2 < 17)) ∧ (16 ≤ 16 ∧ 16 < 16 + (ropeDesc 0).m) ∧ ¬ (17 < 2 ∨ (16 ≤ 17 ∧ 17 < 17))) ∧
    (let r := ((roped 16 2 (fun r => { r with arg := 3, retired := [(1, 4)] })).dom 0).rope
     r.arg.toNat < sget 0 r.retired 1 ∧ sget 0 r.retired 0 ≤ r.arg.toNat) ∧
    (sameButMember (ropeBytes 0 1) (ropeBytes 0 3) 1 = true ∧ ((roped 0 3 (fun r => { r with lost := 2 })).dom 0).rope.lost.getLsbD 1 = true ∧
      ((roped 0 3 (fun r => { r with lost := 2 })).dom 0).rope.lost.getLsbD 16 = false) := by
  decide +kernel

theorem witness_RopeSteps_stripes :
    (let r := ((roped 0 1 (fun r => { r with busy := .seeding, frames := [(0, 0x4000)] })).dom 0).rope
     r.busy = .seeding ∧ r.cur + 1 < (ropeDesc 0).stripes ∧ r.lineOf r.cur = some (512 * 0x4000) ∧ r.roomFor 1 = true) ∧
    (let s := roped 1 5 (fun r => { r with busy := .rebuilding })
     let xs : List StripeInput := [{ position := 0, line := aLine }, { position := 16, line := aLine }]
     (s.dom 0).rope.busy = .rebuilding ∧ s.inputsWait (s.dom 0).rope (ropeDesc 1) = false ∧
       (ropeDesc 1).k ≤ (s.inputsOf (s.dom 0).rope (ropeDesc 1) xs).length ∧ (s.inputsOf (s.dom 0).rope (ropeDesc 1) (xs.take 1)).length < (ropeDesc 1).k) ∧
    (roped 1 5 (fun r => { r with busy := .rebuilding })).Unwatched ∧
    ((roped 0 2 id).deltasOpen 0 (1024 - 1) 16 = false ∧ 1024 - 1 < (ropeDesc 0).stripes) ∧
    (let x : Delta := { module := 1, domain := 0, ropeId := 7, source := 1, seq := 5, stripe := 1023, retire := 0, line := aLine }
     let r := ((roped 16 2 (fun r => { r with seqs := [(1, 4)] })).dom 0).rope
     x.ropeId = (ropeDesc 16).ropeId ∧ x.source < (ropeDesc 16).k ∧ x.stripe < (ropeDesc 16).stripes ∧ r.lost.getLsbD 1 = false ∧
       x.module = (ropeDesc 16).module x.source ∧ x.domain = (ropeDesc 16).domain x.source ∧ 2 ≠ (ropeDesc 16).module 1 ∧ mget? r.seqs 1 = some 4 ∧ r.early = [] ∧ x.seq = 4 + 1 ∧ 4 ≤ 4 ∧ 4 + 1 < 6) ∧
    (mget? ((roped 16 1 id).dom 0).rope.seqs 0 = none ∧ ((roped 16 1 id).dom 0).rope.state ≠ 0 ∧ ((roped 16 1 id).dom 0).rope.early = []) ∧
    (mget? here.dirty (lineOf (here.locate (128 * 0x800600))) = none ∧ here.holdersOpen 0 = false ∧ (roped 0 2 (fun r => { r with frames := [(0, 0x4000)] })).covers (512 * 0x4000) = true ∧
      (roped 0 1 (fun r => { r with busy := .seeding, frames := [(0, 0x4000)] })).covers (512 * 0x4000) = false) := by
  refine ⟨by decide +kernel, by decide +kernel, unwatched_of (by decide +kernel), by decide +kernel, by decide +kernel, by decide +kernel, by decide +kernel⟩

/-- A configuration block of domain 1 with core 143 and HBM stack 7 (R277). -/
def block : List Byte :=
  [1, 0] ++ leBytes 2 0 ++ leBytes 2 0 ++ leBytes 2 0 ++ leBytes 2 0 ++ leBytes 2 0 ++ leBytes 2 0 ++ [1, 0x80] ++ leBytes 2 0 ++ [0] ++ leBytes 5 0 ++
    leBytes 24 (2 ^ 143) ++ leBytes 8 0x7000000000 ++ leBytes 8 0 ++ leBytes 8 0x7000100000 ++ leBytes 8 0x7000200000 ++ leBytes 48 0

/-- `here` with that block at the mailbox's buffer, and domain 0 without those resources. -/
def mailing (bs : List Byte) : State :=
  { (hereD (fun d => { d with hbm := 0x7F, cores := 1 })).place 0x40010080 bs with mailbox := [(0, { buf := 0x40010080, code := 0, done := false })] }

theorem witness_SeoftAndResets :
    (∀ op ∈ [1, 2, 3, 4], ((BitVec.ofNat 32 (op * 2 ^ 24 + 1)).extractLsb' 24 8).toNat = op ∧ ((BitVec.ofNat 32 (op * 2 ^ 24 + 1)).extractLsb' 0 3).toNat = 1) ∧
    ((mailing block).dom (1 - 1)).active = true ∧ (mailing block).bufferOk 0 0x40010080 30496 = true ∧ (mailing block).bufferOk 0 0x40010081 30496 = false ∧
    (mailing block).homePoisonIn 0x40010080 128 = false ∧
    ((mailing block).homeBytes 0x40010080 128 = block ∧ ((mailing block).dom 1).active = false ∧ ((mailing block).dom 0).active = true ∧
      blockOk block 1 = true ∧ blockOk block 0 = false) ∧
    ((∀ e ∈ (mailing block).doms, e.2.active = true → (domainOf block).conflicts e.2 = false) ∧
      (∃ e ∈ here.doms, e.2.active = true ∧ (domainOf block).conflicts e.2 = true)) ∧
    (((mailing block).setDomain 1 (domainOf block)).tablesOk 1 (domainOf block) = true ∧
      ((mailing block).setDomain 1 { domainOf block with astab := 0x40000000 }).tablesOk 1 { domainOf block with astab := 0x40000000 } = false) ∧
    (State.reset.groups = [] ∧ State.reset.launches = [] ∧ State.reset.peerWait = [] ∧ (State.reset.dom 0).active = true) ∧
    (mget? here.launches 0).isSome = true ∧ (here.launch 0).dom = 0 := by
  decide +kernel

theorem witness_SeoftAndResets_plain : (mailing block).Plain ∧ here.Unwatched :=
  ⟨plain_of (by decide +kernel) (unwatched_of (by decide +kernel)), unwatched_of (by decide +kernel)⟩

/-- A clean and a dirty line with an error, a record in q14, the last sector of local memory, a queued command. -/
theorem witness_SeoftAndResets_sites : (let s : State := { here with dirty := [(0x800600, aLine)] }
     s.assigned (128 * 0x800600) = true ∧ mget? s.dirty 0x800600 = some aLine ∧ mget? here.dirty 0x800600 = none) ∧
    (let s := here.modGroup 0 (fun g => { g with q14 := { g.q14 with tags := [[false]] } })
     (s.group 0).q14.tags[0]? = some [false]) ∧
    (32 * 49151 + 32 ≤ 1572864) ∧ (mget? copying.cmds 0).isSome = true ∧ (theCmd copying).phase ≠ .finishing := by
  decide +kernel

/-- A module whose images are missing does not boot. -/
theorem witness_SeoftAndResets_boot : (bootImages [] [] [] 4 [] []).2.2 ≠ none := by decide +kernel

/-! ### Witnesses: the whole machine -/

theorem witness_EncodingRoundTrip : (Instr.atomD (.v 108) (.q 14) .cas 15).wellFormed = true ∧
    encode (.atomD (.v 108) (.q 14) .cas 15) = some 0x5A6C7ECF#32 ∧ decode 0xDA6C7ECF#32 = .ok (true, .atomD (.v 108) (.q 14) .cas 15) := by
  decide +kernel

/-- The reset state about to fetch SUB v5, v0, lit. -/
def benchSub : State := State.reset.withFetchWord 32 0x0205007F

/-- A packet that was found. -/
def foundWord (f : Fetched) : Option (List Word) :=
  match f with
  | .ok p _ => some p.words
  | _ => none

theorem witness_StepRunsDecoded : benchSub.stopped = false ∧
    (let r : State := { benchSub.readied with agenda := [] }
     benchSub.agenda = [.issue 0 0 false] ∧ r.issuer 0 0 = some 0 ∧ (r.group 0).deferred = [] ∧
      ((r.group 0).lane ((r.issuingClass (r.group 0)).headD 0)).enters = none ∧
      foundWord (r.fetch 0 (r.issuingClass (r.group 0)) false) = some [0x0205007F, 0, 0, 0] ∧
      decode 0x0205007F#32 = .ok (false, .sub (.v 5) (.v 0) .lit) ∧
      inCode (r.launch 0).code (((r.group 0).lane 0).pc.toNat / 16 * 16 + 12) 4 = true ∧
      r.paOf 2 0 0 0x10000 (.kind .fetch) false % 16 = 0 ∧ mget? (r.core 0).icache (0x40010000 / 128) = none ∧ r.repairs (0x40010000 / 128) = false) := by
  decide +kernel

/-- The module's own course: with an empty agenda and nothing due, group 0 issues; and the second word of a cycle whose first, an
LD of the same group, was chained. -/
def secondNow : State :=
  { benchSub with agenda := [.second 0 0], first := some { core := 0, part := 0, slot := 0, pipe := .m, word := 0x4F140000, chained := true } }

theorem witness_StepRunsDecoded_own : (here.agenda = [] ∧ here.readied.idle = false ∧ here.readied.nextIssue = some (0, 0) ∧
      here.readied.issuer 0 0 = some 0 ∧ here.readied.first = none ∧ here.readied.dueSteps.all (fun f => (here.readied.changedBy f).isNone) = true) ∧
    (let r : State := { secondNow.readied with agenda := [] }
     r.idle = false ∧ r.first = secondNow.first ∧ r.first.bind r.secondIssuer = some 0) := by
  decide +kernel

theorem next_of {s : State} (h : (match step s with
    | .next _ => true
    | _ => false) = true) : ∃ t, step s = .next t := by
  split at h
  · exact ⟨_, by assumption⟩
  · exact absurd h (by decide)

theorem witness_MemoryStaysCanonical : benchSub.memWf ∧ (∃ t, step benchSub = .next t) :=
  ⟨⟨by decide +kernel, by decide +kernel⟩, next_of (by decide +kernel)⟩

theorem witness_EveryRowCompletes : here.stopped = false ∧ ({ here with stopped := true } : State).stopped = true ∧
    isReset (.hotReset { images := [], cxl0 := [], cxl1 := [], channels := [], uaUp := 0, cxlUp := 0 }) = true ∧ isReset .nop = false := by
  decide +kernel

theorem witness_DomainsChangeOnlyByCommand : changesDomains (.preempt 0 0x40000000) = false ∧ runs (.preempt 0 0x40000000) here (fun _ => true) = true := by
  decide +kernel

/-! ### Witnesses: further clauses -/

/-- A list with a NaN, one with infinities of both signs, one with an infinity alone. -/
theorem witness_FloatSpecial_lists : Fmt.f32 ∈ ieeeFormats ∧ exactSum Fmt.f32 [0x7F800001, 0] = (0x7FC00000, Flags.nv) ∧
    exactSum Fmt.f32 [0x7F800000, 0xFF800000] = (0x7FC00000, Flags.nv) ∧ exactSum Fmt.f32 [0x7FC00000, 0] = (0x7FC00000, 0#5) ∧
    (Fmt.f32.decode 0x7F800001).isSnan = true ∧ ((Fmt.f32.decode 0x7F800000).isInf = true ∧ (Fmt.f32.decode 0x7F800000).neg? = false) ∧
    (∀ k ∈ [0x7F800000, 0], (Fmt.f32.decode k).isNan = false ∧ ¬ ((Fmt.f32.decode k).isInf = true ∧ (Fmt.f32.decode k).neg? = true)) := by
  refine ⟨by simp [ieeeFormats], ?_⟩
  decide +kernel

/-- 1.5 is no integer and no power of two. -/
theorem witness_FloatRoots_functions : (Fmt.f32.decode 0x3FC00000).isFin = true ∧ (∀ n : Int, (Fmt.f32.decode 0x3FC00000).rat ≠ n) ∧
    0 < (Fmt.f32.decode 0x3FC00000).rat ∧ ∀ n : Int, (Fmt.f32.decode 0x3FC00000).rat ≠ (2 : ℚ) ^ n := by
  have h : Fmt.f32.decode 0x3FC00000 = .fin false 0xC00000 (-23) := by decide +kernel
  have v : (FVal.fin false 0xC00000 (-23)).rat = 3 / 2 := by norm_num [FVal.rat]
  rw [h, v]
  refine ⟨rfl, fun n e => ?_, by norm_num, fun n e => ?_⟩
  · have g : (3 : ℚ) = ((2 * n : Int) : ℚ) := by push_cast; linarith
    have : (3 : Int) = 2 * n := by exact_mod_cast g
    omega
  · rcases lt_or_ge n 1 with k | k
    · have g : (2 : ℚ) ^ n ≤ 2 ^ (0 : Int) := zpow_le_zpow_right₀ (by norm_num) (by omega)
      rw [← e, zpow_zero] at g
      norm_num at g
    · have g : (2 : ℚ) ^ (1 : Int) ≤ 2 ^ n := zpow_le_zpow_right₀ (by norm_num) k
      rw [← e, zpow_one] at g
      norm_num at g

/-- A module without a member of a rope mends nothing. -/
theorem unrepaired_of {s : State} (h : s.doms.all (fun e => e.2.rope.state == 0) = true) : s.Unrepaired := by
  intro n
  have g : s.protectedAt n = none := by
    unfold State.protectedAt
    rw [List.findSome?_eq_none_iff]
    intro e he
    have k : e.2.rope.state = 0 := by simpa using List.all_eq_true.mp h e he
    simp [k]
  simp [State.repairs, g]

theorem witness_unrepaired : here.Unrepaired ∧ hereVec.Unrepaired ∧ benchSub.Unrepaired :=
  ⟨unrepaired_of (by decide +kernel), unrepaired_of (by decide +kernel), unrepaired_of (by decide +kernel)⟩

/-- A class at a fence of system scope with a dirty host line. -/
def systemWide : State := { fenced .rel .system none with dirty := [(2 ^ 44, aLine), (0x800600, aLine)] }

/-- A class at a survivable fence; what its lane 0 wrote. -/
def surviving (written : List Written) : State := (fenced .rel .survivable none).modGroup 0 (fun g => { g with written := written })

/-- A write of lane 0 to a line, protected or not. -/
def wrote (line : Nat) (prot : Bool) : Written := { lane := 0, line := line, va := 0x30000, prot := prot }

/-- A flush of lane 0 that has been sent. -/
def aFlush : OutReq :=
  { target := 1, id := 9, kind := .flush 0 0 [(0, 8)], plane := 0, sends := 1, sentAt := 0, sent := true, seq := 0 }

/-- Domain 0 runs as data position 0 of a rope, and lane 0 wrote its first line. -/
def surviveRope : State :=
  (surviving [wrote 0x800000 true]).modDom 0 (fun d => { d with rope := { d.rope with desc := some (ropeDesc 0), state := 2, frames := [(0, 0x4000)] } })

theorem witness_Fences_wide :
    (systemWide.group 0).fences.find? (fun e => e.1.contains 0) = some ([0, 1], aFence .rel .system none Heard.none) ∧
    (systemWide.remote = [] ∧ (systemWide.group 0).horPod < systemWide.dieTime 0 ∧ isHost (128 * 2 ^ 44) = true ∧ isHost (128 * 0x800600) = false) ∧
    ((surviving [wrote 0x800600 true]).unsurvivable 0 [0, 1]).isSome = true ∧
    ((surviving [wrote 0x800600 false]).unsurvivable 0 [0, 1] = none ∧ (surviving [wrote 0x800600 false]).dirty = [] ∧
      ((surviving [wrote 0x800600 false]).group 0).peered = []) ∧
    (let s : State := { surviving [wrote 0x800600 false] with dirty := [(0x800600, aLine)] }
     s.locate (128 * 0x800600) = 128 * 0x800600 ∧ s.protectedAt 0x800600 = none ∧ s.homeOf (128 * 0x800600) = 128 * 0x800600 ∧
       ∀ e ∈ s.doms, e.2.crnOn = false ∧ e.2.mig0.move = none ∧ e.2.mig1.move = none) ∧
    (surviveRope.unsurvivable 0 [0, 1] = none ∧ surviveRope.protectedAt 0x800000 = some (0, 0) ∧
      (surviveRope.dom 0).rope.lost.getLsbD 16 = false) ∧
    aFlush.sent = true := by
  decide +kernel

/-- A refused RST that finds its lanes at a fence of pod scope. -/
theorem witness_Fences_peer :
    let s := (asking false).modGroup 0 (fun g => g.modLanes [0, 1] (fun _ x => { x with sleep := .fence (aFence .rel .pod none Heard.none) }))
    s.findReq 1 9 = some (aRequest false) ∧ (s.group 0).fences = [([0, 1], aFence .rel .pod none Heard.none)] ∧ s.stopped = false := by
  decide +kernel

/-- `hereP` with entry 0 of the cached handles another one. -/
def narrowing (ws : List Word) (e : HEntry) : State := (hereP ws).keepHandle 0 0 0 e

/-- HNARROW's checks fail one by one: a poisoned word, a reserved bit of P0, P5, P6 and P7 and a policy of 5; a parent that is poisoned,
not VALID, of space CODE, without the narrow permission; an index inside the table; a range past the parent's end; an image that
begins in the middle of another; and a table page whose fault was ended. -/
theorem witness_HandleInstructions_checks :
    (((hereP copyWords).modCur (fun g => g.sset 15 { bits := 0, poison := true })).cur.sget (8 * 1 + 7)).poison = true ∧
    (∀ x ∈ [({ handle 0x30000 0x1000 0 0x17 0 with poison := true } : HEntry), { bytes := List.replicate 32 0, poison := false },
        handle 0x30000 0x1000 6 0x17 0, handle 0x30000 0x1000 0 7 0, handle 0x30000 0x1000 4 0x17 40],
      (narrowing [0x00090000, 0xFFF, 0, 1, 0, 0x1F, 0, 0] x).lookup (narrowing [0x00090000, 0xFFF, 0, 1, 0, 0x1F, 0, 0] x).me 0 0 0 = .entry x) ∧
    (HEntry.valid { bytes := List.replicate 32 0, poison := false } = false ∧ (handle 0x30000 0x1000 6 0x17 0).space = 6 ∧
      (handle 0x30000 0x1000 0 7 0).perm.testBit 4 = false) ∧ ¬ (here.launch 0).hcnt ≤ 8 ∧ ¬ (0xFFF + 2 ≤ (handle 0x30000 0x1000 0 0x17 0).length) ∧
    ((handle 0x30000 0x1000 4 0x17 40).space = 4 ∧ ¬ (0xFFF % 8 = 0)) ∧
    (let s : State := { hereP [0x00090000, 0xFFF, 0, 1, 0, 0x1F, 0, 0] with
       mem := [], tlb := [], waits := [{ agent := here.me, die := 0, dom := 0, space := 0, page := 2, cause := 8, fate := .ended }] }
     reachFails (s.reach s.me 0 0 0 (.kind .write) true (piecesOf (0x20000 + 32 * 9) 32)) = true) := by
  decide +kernel

theorem witness_HandleInstructions_reserved :
    narrowReserved (fun j => if j = 0 then 2 ^ 28 else 0) 0 ∧ narrowReserved (fun j => if j = 0 then 2 ^ 12 else 0) 0 ∧
    narrowReserved (fun j => if j = 5 then 2 ^ 13 else 0) 5 ∧ narrowReserved (fun j => if j = 5 then 2 ^ 11 else 0) 5 ∧
    narrowReserved (fun j => if j = 5 then 5 * 2 ^ 8 else 0) 5 ∧ narrowReserved (fun j => if j = 6 then 1 else 0) 6 ∧
    narrowReserved (fun j => if j = 7 then 1 else 0) 7 ∧ ∀ j < 8, ¬ narrowReserved (fun j => if j = 5 then 4 * 2 ^ 8 + 0x1F else 0) j := by
  refine ⟨?_, ?_, ?_, ?_, ?_, ?_, ?_, ?_⟩ <;> · unfold narrowReserved; decide

/-- A write that may be performed now, fresh. -/
def isFresh (w : HomeWrite) : Bool :=
  let s : State := { here with flight := [w] }
  w.stage == .fresh && !(linesOf w.spans).any s.lineHeld && !(linesOf w.spans).any s.lineReplicating && !s.lostPage w &&
    s.flight.find? (fun x => x.id == w.id) == some w

/-- The stores of two lanes to overlapping bytes, two lanes' atomics on one word, an addition to an image and the read of one. -/
theorem witness_WritesReachTheirHomes_parts :
    isFresh { aStore with spans := [(0x40030000, 4), (0x40030002, 4)], ops := [(0, 0x40030000, ([1, 2, 3, 4] : List Byte)), (1, 0x40030002, [5, 6, 7, 8])].map (fun x =>
      { lane := x.1, act := .store x.2.1 x.2.2 }) } = true ∧
    laidOver (fun _ => 0) [(0x40030000, [1, 2, 3, 4]), (0x40030002, [5, 6, 7, 8])] 0x40030002 = 5 ∧
    isFresh { aStore with ops := [((0 : Nat), 0x40030000, 7, 0), (1, 0x40030000, 8, 0)].map (fun x =>
      { lane := x.1, act := .atomic .addI x.2.1 4 (BitVec.ofNat 64 x.2.2.1) (BitVec.ofNat 64 x.2.2.2) }) } = true ∧
    (atomicRun .addI 4 [(0, 0x40030000, 7, 0), (1, 0x40030000, 8, 0)] (fun _ => 0)).1 = [(0, 0), (1, 7)] ∧
    (atomicRun .addI 4 [(0, 0x40030000, 7, 0), (1, 0x40030000, 8, 0)] (fun _ => 0)).2 0x40030000 = 15 ∧
    isFresh { aStore with spans := [(0x40030000, 40)], ops := [{ lane := 0, act := .addX [(0x40030000, 40)] 40 0x3F800000 false }] } = true ∧
    isFresh { aStore with spans := [(0x40030000, 272)], ret := some 4, ops := [{ lane := 0, act := .close [(0x40030000, 272)] 272 true }] } = true ∧
    isFresh { aStore with repl := true } = true ∧ isHost 0x40030000 = false := by
  decide +kernel

/-- A close whose second lane's image holds the first lane's cell; a monitor whose word a replica has not caught up with. -/
theorem witness_AccessesReturn_order :
    (let later : List Sent := [{ lane := 1, at_ := [(0x40030000, 40)], va := 0x30000, prot := false, repl := false, act := .close [(0x40030000, 40)] 40 false }]
     let op := answered (.close [(0, 0x40030000, 0x30000, 0)] later)
     ((hereL op).group 0).loads.find? (fun e => (hereL op).loadReady 0 e.2) = some (6, op) ∧ later ≠ []) ∧
    (let s : State := { here with flight := [{ aStore with stage := .replicating [(0x800600, aLine)] }] }
     s.replicating (.phys 0x40030000) = true ∧ s.replicating (.loc 0 0) = false) := by
  decide +kernel

/-- Lanes that may be chosen; a lane between the words of a chain keeps the others out. -/
theorem witness_IssuingClassIsHighest : here.mayBeChosen (here.group 0) ((here.group 0).lane 0) ∧ here.candidates (here.group 0) ≠ [] ∧
    (let s := here.modGroup 0 (fun g => g.modLanes [1] (fun _ x => { x with chain := true }))
     s.candidates (s.group 0) = [1]) := by
  have h : ((here.group 0).lane 0).exited = false ∧ ((here.group 0).lane 0).parked = false ∧ ((here.group 0).lane 0).sleep = .awake := by
    decide +kernel
  exact ⟨⟨h.1, h.2.1, by rw [h.2.2]; trivial⟩, by decide +kernel, by decide +kernel⟩

/-- `here` with nothing resident and a saved team that a resumption may place, its area at 0x50000000. -/
def aSaved : SavedTeam :=
  { dom := 0, space := 0, lid := 0, area := 0x50000000, chans := [],
    groups := [{ slot := 5, stack := none, q14 := Group.blank.q14, sleeps := [], written := [], peered := [] }] }
def resuming : State :=
  { hereD (fun d => { d with drain := some { space := 0, since := 0, resume := true } }) with groups := [], teams := [], saved := [aSaved] }
def aFit : Fit := { core := 0, base := 0, tiles := [], slots := [0] }

/-- The next saved team has its place, nothing holds its area back, and no word of it is poisoned. -/
theorem witness_GroupSteps_restore :
    let l := resuming.launch 0
    (resuming.servedOrder 0 = [0] ∧ l.ringInfo = [] ∧ resuming.savedNext 0 = some aSaved ∧ resuming.agentWaits (.teamStart 0) = false ∧
      resuming.choose l.dom l.die l.hdr = some (false, aFit) ∧ aFit.slots.length = aSaved.groups.length) ∧
    (resuming.rangeHeld aSaved.area (aSaved.endsAt l.hdr 0 - aSaved.area) = false ∧ resuming.savedBad aSaved l.hdr 0 = false) ∧
    (∃ t0, resuming.moveStacks (.teamStart 0) (aFit.core / 72) aSaved aFit = .ok t0) ∧
    (let t0 := written resuming (resuming.moveStacks (.teamStart 0) (aFit.core / 72) aSaved aFit)
     t0.launch 0 = l ∧ t0.poisonIn (aSaved.tilesAt l.hdr) (aSaved.endsAt l.hdr 0 - aSaved.tilesAt l.hdr) = false ∧
       t0.doms.all (fun e => e.2.mig0.move.isNone && e.2.mig1.move.isNone && e.2.rope.state == 0) = true ∧
       t0.groups = [] ∧ ∀ k ∈ t0.saved, ∀ g ∈ k.groups, g.sleeps = []) := by
  refine ⟨by decide +kernel, by decide +kernel, writes_of (by decide +kernel), by decide +kernel⟩

/-- The tables of a request are free. -/
theorem witness_PeerSteps_tables : ∀ n ∈ targeted.peerTables aRead, targeted.lineHeld n = false ∧ targeted.repairs n = false := by
  decide +kernel

/-- The hottest reading that runs on, the one that trips; one device of two gone, and the last one. -/
theorem witness_PowerSteps_events : (109#8).toNat < 110 ∧ 110 ≤ (110#8).toNat ∧
    (let c : CxlPort := { (State.reset.cxl 0) with sizes := [64, 128] }
     (∃ i < c.sizes.length, i ∉ c.gone ∧ some 0 ≠ some i) ∧ ¬ ∃ i < ({ c with gone := [0] } : CxlPort).sizes.length,
       i ∉ ({ c with gone := [0] } : CxlPort).gone ∧ some 1 ≠ some i) := by
  decide +kernel

/-- A leaf and a queue entry that no home holds back, with no load waiting. -/
theorem witness_CommandSteps_free : here.ownWrites = [] ∧ here.rangeHeld 0x40002000 8 = false ∧ here.rangeHeld (32 * 4095) 32 = false ∧
    (here.dom 0).qcWait = none := by
  decide +kernel

/-- `moving`, beside another domain, with chunks written at the destination. -/
def movingBeside (state cursor : Nat) : State :=
  let s := moving state cursor
  { s with doms := s.doms.map (fun e => (e.1, { e.2 with mig0 := { e.2.mig0 with move := some { aMove with written := [0, 5] } } })) ++ [(1, Domain.off)] }

theorem witness_SavesAndMoves_beside : ((movingBeside 3 3).doms.map Prod.fst).Nodup ∧
    (∀ e ∈ (movingBeside 3 3).doms, e.2.rope.state = 0 ∧ (e.2.mig (1 - 0)).move = none ∧ (e.1 ≠ 0 → (e.2.mig 0).move = none)) ∧
    (((movingBeside 3 3).dom 0).mig 0).move = some { aMove with written := [0, 5] } ∧
    ([0, 5].filter (fun j => decide (j < 3)) ≠ []) ∧ 3 ≤ aMove.size / 4096 ∧ (movingBeside 3 3).mayLose aMove aMove.dst aMove.size = true ∧
    ((movingBeside 3 3).ownWrites = [] ∧ (movingBeside 3 3).rangeHeld aMove.leafPa 8 = false ∧ aMove.leafPa + 8 ≤ aMove.src) ∧
    (drained 0x100000).rangeHeld 0x50000000 0x100000 = false ∧ walking.walkWaits 0 0 0 (fun _ => none) = false ∧
    (here.flight = [] ∧ here.peerLocks = []) := by
  decide +kernel

/-- Repairs of the page of frame 0x4000: accepted, of another frame, past the range; its last stripe with inputs enough, and too few. -/
theorem witness_RopeSteps_repair :
    (let s := roped 0 2 (fun r => { r with frames := [(0, 0x4000)] })
     s.endedCause (.rope 0) 0 0 0 = none ∧ s.walkWaits 0 0 0 (fun _ => none) = false ∧ leafOf (s.walk 0 0 0) = some (0x40002000, 2, 0x4000001F) ∧
       (entryAddr 0x4000001F + 0 % levelSize 2) / 65536 = 0x4000 ∧ mget? (s.dom 0).rope.frames 0 = some 0x4000 ∧ (0x20000 : Nat) % 65536 = 0) ∧
    (let s := roped 0 2 (fun r => { r with busy := .repairing 0 0x4000, cur := 511 })
     let xs : List StripeInput := [{ position := 1, line := aLine }, { position := 16, line := aLine }]
     s.inputsWait (s.dom 0).rope (ropeDesc 0) = false ∧ (ropeDesc 0).k ≤ (s.inputsOf (s.dom 0).rope (ropeDesc 0) xs).length ∧
       (s.inputsOf (s.dom 0).rope (ropeDesc 0) []).length < (ropeDesc 0).k ∧ mget? s.dirty (lineOf (s.locate (128 * (512 * 0x4000 + 511)))) = none) ∧
    (roped 0 2 id).Unwatched := by
  refine ⟨by decide +kernel, by decide +kernel, unwatched_of (by decide +kernel)⟩

end Sys2Proof.Tests
end

/-! ## Memory stays canonical (R10, R312)

Memory and its tags are written by few functions, and the laws of memory say of each of those that it keeps the canonical form. Every
other function of the machine is made of them and of updates of other fields. So each function has one lemma, in the order of
the model: it keeps the form. They are read from the inside out: `h.healAll.wakeLines` is the form of
`(s.healAll lines).wakeLines lines'`, from that of `s`. -/

namespace Sys2Proof.Machine

/-! ### Shapes of states -/

theorem State.memWf.ite {c : Prop} [Decidable c] {a b : State} (ha : a.memWf) (hb : b.memWf) : (if c then a else b).memWf := by
  split
  · exact ha
  · exact hb

theorem State.memWf.foldl {α : Type} {f : State → α → State} {l : List α} {s : State} (h : s.memWf)
    (hf : ∀ b a, b.memWf → (f b a).memWf) : (l.foldl f s).memWf :=
  foldl_keeps State.memWf f hf l s h

theorem State.memWf_elim {α : Type} (o : Option α) {s : State} {f : α → State} (h : s.memWf) (hf : ∀ a, (f a).memWf) :
    (o.elim s f).memWf := by
  cases o
  · exact h
  · exact hf _

theorem State.memWf.snd {α : Type} {x : α × State} {a t} (h : x.2.memWf) (e : x = (a, t)) : t.memWf := by
  subst e
  exact h

theorem State.memWf.withAgenda {s : State} (h : s.memWf) {x} : ({ s with agenda := x } : State).memWf := h
theorem State.memWf.withDirty {s : State} (h : s.memWf) {x} : ({ s with dirty := x } : State).memWf := h
theorem State.memWf.withGroups {s : State} (h : s.memWf) {x} : ({ s with groups := x } : State).memWf := h
theorem State.memWf.withSources {s : State} (h : s.memWf) {x} : ({ s with sources := x } : State).memWf := h
theorem State.memWf.withFills {s : State} (h : s.memWf) {x} : ({ s with fills := x } : State).memWf := h
theorem State.memWf.withFaults {s : State} (h : s.memWf) {p w} : ({ s with pending := p, waits := w } : State).memWf := h

/-! ### Outcomes

The form of whatever state an outcome carries, and from it that of the state of each of its cases. -/

/-- The state a T940 read leaves is in canonical form. -/
def TRead.memWf : TRead → Prop
  | .ok s _ _ => s.memWf
  | .wait s => s.memWf
  | .failed => True

/-- The state a T940 write leaves is in canonical form. -/
def TWrite.memWf : TWrite → Prop
  | .ok s => s.memWf
  | .wait s => s.memWf
  | .failed => True

/-- The state an agent's step leaves is in canonical form. -/
def Taking.memWf : Taking → Prop
  | .done s => s.memWf
  | .wait s => s.memWf

/-- The state an attempt to start a task leaves is in canonical form. -/
def TaskTry.memWf : TaskTry → Prop
  | .no => True
  | .wait s => s.memWf
  | .over s => s.memWf

/-- The state that reading an argument block leaves is in canonical form. -/
def Args.memWf : Args → Prop
  | .ok s _ => s.memWf
  | .wait s => s.memWf
  | .failed => True

/-- The state that reading link stacks leaves is in canonical form. -/
def Stacks.memWf : Stacks → Prop
  | .ok s _ => s.memWf
  | .wait s => s.memWf
  | .failed => True

/-- The state the checks of an access leave is in canonical form. -/
def CheckedAccess.memWf : CheckedAccess → Prop
  | .go _ s => s.memWf
  | .stop s => s.memWf

/-- The state an issue comes to is in canonical form. -/
def Issued.memWf : Issued → Prop
  | .deferred _ => True
  | .run _ s => s.memWf
  | .done s => s.memWf

/-- A state, if there is one, is in canonical form. -/
def optMemWf : Option State → Prop
  | some s => s.memWf
  | none => True

/-- The next state, if there is one, is in canonical form. -/
def evMemWf : Ev → Prop
  | .next s => s.memWf
  | _ => True

section
variable {t : State}

theorem TRead.memWf.ok {x : TRead} {bs p} (h : x.memWf) (e : x = .ok t bs p) : t.memWf := by rwa [e] at h
theorem TRead.memWf.wait {x : TRead} (h : x.memWf) (e : x = .wait t) : t.memWf := by rwa [e] at h
theorem TWrite.memWf.ok {x : TWrite} (h : x.memWf) (e : x = .ok t) : t.memWf := by rwa [e] at h
theorem TWrite.memWf.wait {x : TWrite} (h : x.memWf) (e : x = .wait t) : t.memWf := by rwa [e] at h
theorem Taking.memWf.done {x : Taking} (h : x.memWf) (e : x = .done t) : t.memWf := by rwa [e] at h
theorem Taking.memWf.wait {x : Taking} (h : x.memWf) (e : x = .wait t) : t.memWf := by rwa [e] at h
theorem TaskTry.memWf.wait {x : TaskTry} (h : x.memWf) (e : x = .wait t) : t.memWf := by rwa [e] at h
theorem TaskTry.memWf.over {x : TaskTry} (h : x.memWf) (e : x = .over t) : t.memWf := by rwa [e] at h
theorem Args.memWf.ok {x : Args} {ws} (h : x.memWf) (e : x = .ok t ws) : t.memWf := by rwa [e] at h
theorem Args.memWf.wait {x : Args} (h : x.memWf) (e : x = .wait t) : t.memWf := by rwa [e] at h
theorem Stacks.memWf.ok {x : Stacks} {bs} (h : x.memWf) (e : x = .ok t bs) : t.memWf := by rwa [e] at h
theorem Stacks.memWf.wait {x : Stacks} (h : x.memWf) (e : x = .wait t) : t.memWf := by rwa [e] at h
theorem CheckedAccess.memWf.go {x : CheckedAccess} {p} (h : x.memWf) (e : x = .go p t) : t.memWf := by rwa [e] at h
theorem CheckedAccess.memWf.stop {x : CheckedAccess} (h : x.memWf) (e : x = .stop t) : t.memWf := by rwa [e] at h
theorem Issued.memWf.run {x : Issued} {i} (h : x.memWf) (e : x = .run i t) : t.memWf := by rwa [e] at h
theorem Issued.memWf.done {x : Issued} (h : x.memWf) (e : x = .done t) : t.memWf := by rwa [e] at h
theorem optMemWf.some {x : Option State} (h : optMemWf x) (e : x = Option.some t) : t.memWf := by rwa [e] at h
theorem evMemWf.next {x : Ev} (h : evMemWf x) (e : x = .next t) : t.memWf := by rwa [e] at h

end

theorem evMemWf.runs {s t : State} (h : t.memWf) : evMemWf (s.runs t) := by
  unfold State.runs
  split
  · exact trivial
  · exact h

theorem State.memWf_getD {o : Option State} {s : State} (ho : optMemWf o) (h : s.memWf) : (o.getD s).memWf := by
  cases o
  · exact h
  · exact ho

theorem optMemWf.or {x y : Option State} (hx : optMemWf x) (hy : optMemWf y) : optMemWf (x.or y) := by
  cases x
  · exact hy
  · exact hx

/-! ### Registers -/

theorem State.memWf.modCur {s : State} (h : s.memWf) {f} : (s.modCur f).memWf := h
theorem State.memWf.sendPosted {s : State} (h : s.memWf) : s.sendPosted.memWf := .ite h h
theorem State.memWf.tick {s : State} (h : s.memWf) {n} : (s.tick n).memWf := .sendPosted h
theorem State.memWf.orFlags {s : State} (h : s.memWf) {f} : (s.orFlags f).memWf := h
theorem State.memWf.message {s : State} (h : s.memWf) {win vector need} : (s.message win vector need).memWf := .ite h h

theorem State.memWf.interruptAfter {s : State} (h : s.memWf) {win vector need} : (s.interruptAfter win vector need).memWf := by
  unfold State.interruptAfter
  split
  · split
    · exact h
    · refine .message ?_
      exact h
  · dsimp only
    split
    · exact h
    · refine .message ?_
      exact h

theorem State.memWf.interrupt {s : State} (h : s.memWf) {win vector} : (s.interrupt win vector).memWf := h.interruptAfter

/-! ### Memory -/

theorem State.memWf.modCxl {s : State} (h : s.memWf) {p f} : (s.modCxl p f).memWf := .ite h h
theorem State.memWf.modMig {s : State} (h : s.memWf) {dom die f} : (s.modMig dom die f).memWf := h
theorem State.memWf.noteWrite {s : State} (h : s.memWf) {pa} : (s.noteWrite pa).memWf := .ite h h

theorem State.memWf.wake {s : State} (h : s.memWf) {pa} : (s.wake pa).memWf := by
  unfold State.wake
  split
  · exact .ite h h
  · exact h

theorem State.memWf.writeLoc {s : State} (h : s.memWf) {core off bs} : (s.writeLoc core off bs).memWf := h
theorem State.memWf.setLocPoison {s : State} (h : s.memWf) {core sector p} : (s.setLocPoison core sector p).memWf := h

/-! ### Operands -/

theorem State.memWf.setPort {s : State} (h : s.memWf) {slot port c} : (s.setPort slot port c).memWf :=
  .ite (State.memWf_modGroup _ _ _ h) (State.memWf_modTeam _ _ _ h)

theorem State.memWf.popPort {s : State} (h : s.memWf) {slot port n} : (s.popPort slot port n).2.memWf := by
  unfold State.popPort
  dsimp only
  split
  · exact h
  · exact h.setPort

theorem State.memWf.take {s : State} (h : s.memWf) {slot srcs} : (s.take slot srcs).2.memWf := by
  induction srcs generalizing s with
  | nil => exact h
  | cons e rest ih =>
    obtain ⟨x, pos⟩ := e
    cases x with
    | q n => exact ih h.popPort
    | _ => exact ih h

/-! ### Requests to other modules -/

theorem State.memWf.post {s : State} (h : s.memWf) {target k held} : (s.post target k held).memWf := h
theorem State.memWf.transmit {s : State} (h : s.memWf) {r plane} : (s.transmit r plane).memWf := h
theorem State.memWf.dropReq {s : State} (h : s.memWf) {target id} : (s.dropReq target id).memWf := h

/-! ### Protected pages and the T940's own writes -/

theorem State.memWf.askStripe {s : State} (h : s.memWf) {d stripe ps} : (s.askStripe d stripe ps).memWf := h

theorem State.memWf.healAll {s : State} (h : s.memWf) {lines} : (s.healAll lines).memWf := by
  unfold State.healAll
  dsimp only
  split
  · exact h
  · refine .foldl ?_ fun _ _ hb => ?_
    · exact h
    · exact State.memWf_heal _ _ hb

theorem State.memWf.sendDeltas {s : State} (h : s.memWf) {dom stripe diff} : (s.sendDeltas dom stripe diff).memWf := by
  unfold State.sendDeltas
  dsimp only
  split
  · exact h
  · exact (State.memWf_modDom _ _ _ h).foldl fun _ _ hb => hb.post

theorem State.memWf.oldLine {s : State} (h : s.memWf) {line old} : (s.oldLine line old).2.memWf := by
  unfold State.oldLine
  split
  · exact State.memWf_decodedLine _ _ _ _ h
  · exact h

theorem State.memWf.ownWrite {s : State} (h : s.memWf) {w} : (s.ownWrite w).memWf := .ite h (State.memWf_writeClean _ _ _ h)
theorem State.memWf.ownPut {s : State} (h : s.memWf) {pa bs} : (s.ownPut pa bs).memWf := h.ownWrite

theorem State.memWf.ownStepOf {s : State} (h : s.memWf) {before ws} : (s.ownStepOf before ws).memWf := by
  induction ws generalizing before with
  | nil => exact h
  | cons w t ih =>
    unfold State.ownStepOf
    split
    · exact ih
    · exact State.memWf_writeClean _ _ _ h

theorem State.memWf.countFrame {s : State} (h : s.memWf) {dom pa} : (s.countFrame dom pa).memWf := .ite h.ownWrite h
theorem State.memWf.touchTier {s : State} (h : s.memWf) {pa} : (s.touchTier pa).memWf := h.wake.foldl fun _ _ hb => hb.countFrame

theorem State.memWf.wakeLines {s : State} (h : s.memWf) {lines} : (s.wakeLines lines).memWf :=
  h.foldl fun _ _ hb => State.memWf_elim _ hb (fun _ => hb.wake)

theorem State.memWf.readTier {s : State} (h : s.memWf) {lines} : (s.readTier lines).memWf :=
  h.foldl fun _ _ hb => State.memWf_elim _ hb (fun _ => hb.touchTier)

theorem State.memWf.writeBack {s : State} (h : s.memWf) {line} : (s.writeBack line).memWf := by
  unfold State.writeBack
  split
  · exact h
  · dsimp only
    split
    · split
      · refine .sendDeltas (.oldLine (.noteWrite (.touchTier ?_)))
        exact h
      · refine .noteWrite (.touchTier ?_)
        exact h
    · refine .noteWrite (.touchTier ?_)
      exact h

/-! ### Translation -/

theorem State.memWf.keepPath {s : State} (h : s.memWf) {die dom space va} : (s.keepPath die dom space va).memWf :=
  h.wakeLines.foldl fun _ _ hb => .ite hb hb

theorem State.memWf.keepLeaf {s : State} (h : s.memWf) {via dom space va size leaf} : (s.keepLeaf via dom space va size leaf).memWf :=
  h.foldl fun _ _ hb => .ite hb hb

theorem State.memWf.touch {s : State} (h : s.memWf) {via dom space va need t940} : (s.touch via dom space va need t940).memWf := by
  unfold State.touch
  split
  · exact h.keepLeaf
  · split
    · exact h
    · split
      · exact h.keepPath.keepLeaf
      · exact h
  · exact h
  · exact h

theorem State.memWf.dropKey {s : State} (h : s.memWf) {dom count} : (s.dropKey dom count).memWf := (State.memWf_modDom _ _ _ h).interrupt

theorem State.memWf.enterKey {s : State} (h : s.memWf) {die dom space va kind level cause} :
    (s.enterKey die dom space va kind level cause).memWf := by
  unfold State.enterKey
  dsimp only
  split
  · exact h
  · split
    · exact h.dropKey
    · split
      · refine .dropKey ?_
        exact h
      · refine .interruptAfter (State.memWf_modDom _ _ _ ?_)
        split
        · refine .ownPut ?_
          exact h
        · exact h

theorem State.memWf.enterFault {s : State} (h : s.memWf) {agent via dom space va k t940 level cause} :
    (s.enterFault agent via dom space va k t940 level cause).memWf := by
  unfold State.enterFault
  dsimp only
  exact .ite h.touch.enterKey h.touch.enterKey

theorem State.memWf.clearGroup {s : State} (h : s.memWf) {slot} : (s.clearGroup slot).memWf := h
theorem State.memWf.clearWaits {s : State} (h : s.memWf) {a} : (s.clearWaits a).memWf := h

theorem State.memWf.tRead {s : State} (h : s.memWf) {agent die dom space va n} : (s.tRead agent die dom space va n).memWf := by
  unfold State.tRead
  split
  · split
    · exact h
    · dsimp only
      exact h.healAll.wakeLines
  · exact h
  · exact h.enterFault
  · exact trivial

theorem State.memWf.tPut {s : State} (h : s.memWf) {die dom space at_ bs} : (s.tPut die dom space at_ bs).memWf := by
  induction at_ generalizing s bs with
  | nil => exact h
  | cons _ _ ih => exact ih (State.memWf_writeClean _ _ _ h)

theorem State.memWf.tWrite {s : State} (h : s.memWf) {agent die dom space va bs} : (s.tWrite agent die dom space va bs).memWf := by
  unfold State.tWrite
  split
  · split
    · exact h
    · exact h.tPut
  · exact h
  · exact h.enterFault
  · exact trivial

theorem State.memWf.keepHandle {s : State} (h : s.memWf) {core lid i e} : (s.keepHandle core lid i e).memWf := h

theorem State.memWf.keepEntry {s : State} (h : s.memWf) {slot lid i e} : (s.keepEntry slot lid i e).memWf :=
  .keepHandle (.touch (.ite h h.healAll.wakeLines))

theorem State.memWf.killLaunch {s : State} (h : s.memWf) {lid t} : (s.killLaunch lid t).memWf := h

/-! ### Checks of an access -/

theorem State.memWf.waitLanes {s : State} (h : s.memWf) {need faults} : (s.waitLanes need faults).memWf :=
  h.foldl fun _ _ hb => hb.enterFault

theorem State.memWf.waitTable {s : State} (h : s.memWf) {k va level cause} : (s.waitTable k va level cause).memWf := h.enterFault

theorem State.memWf.settleSpots {s : State} (h : s.memWf) {need spots} : (s.settleSpots need spots).memWf :=
  .clearWaits (h.foldl fun _ _ hb => .ite hb (hb.foldl fun _ _ hc => hc.touch))

theorem State.memWf.sendAs {s : State} (h : s.memWf) {slot ret ws} : (s.sendAs slot ret ws).memWf := h
theorem State.memWf.send {s : State} (h : s.memWf) {ret ws} : (s.send ret ws).memWf := h

/-! ### Outstanding accesses -/

theorem State.memWf.keepServed {s : State} (h : s.memWf) {core line c} : (s.keepServed core line c).memWf :=
  .ite h (State.memWf_modCore _ _ _ h)

theorem State.memWf.outstand {s : State} (h : s.memWf) {op} : (s.outstand op).memWf := h

theorem State.memWf.startLoad {s : State} (h : s.memWf) {kind popped uniform space policy spots} :
    (s.startLoad kind popped uniform space policy spots).memWf :=
  .outstand (.foldl (.ite (State.memWf_modCore _ _ _ h) h) fun _ _ hb => hb.keepServed)

/-! ### Traps, sleeps and local memory -/

theorem State.memWf.moveTo {s : State} (h : s.memWf) {a} : (s.moveTo a).memWf := h
theorem State.memWf.advance {s : State} (h : s.memWf) : s.advance.memWf := h
theorem State.memWf.sleepAs {s : State} (h : s.memWf) {why} : (s.sleepAs why).memWf := h

theorem State.memWf.sleepOn {s : State} (h : s.memWf) {port u} : (s.sleepOn port u).memWf := by
  unfold State.sleepOn
  split
  · exact h.sleepAs
  · dsimp only
    exact h

theorem State.memWf.barrierCheck {s : State} (h : s.memWf) {team n} : (s.barrierCheck team n).memWf := by
  unfold State.barrierCheck
  dsimp only
  split <;> exact h

theorem State.memWf.barriersCheck {s : State} (h : s.memWf) {team} : (s.barriersCheck team).memWf := h.foldl fun _ _ hb => hb.barrierCheck
theorem State.memWf.settleStack {s : State} (h : s.memWf) {k hx e spots} : (s.settleStack k hx e spots).memWf := h.keepEntry.settleSpots
theorem State.memWf.sendReturns {s : State} (h : s.memWf) {spots ret} : (s.sendReturns spots ret).memWf := h

theorem State.memWf.endGroup {s : State} (h : s.memWf) : s.endGroup.memWf :=
  ((State.memWf_modLaunch _ _ _ (State.memWf_modTeam _ _ _ h.modCur)).barriersCheck).clearGroup

theorem State.memWf.recordTrap {s : State} (h : s.memWf) {t} : (s.recordTrap t).memWf := h
theorem State.memWf.tableLost {s : State} (h : s.memWf) : s.tableLost.memWf := h

theorem State.memWf.enterVector {s : State} (h : s.memWf) {pc} : (s.enterVector pc).memWf := by
  unfold State.enterVector
  dsimp only
  split
  · exact h.endGroup
  · split
    · exact h.endGroup
    · split
      · exact h.sleepAs.waitTable
      · exact h.sleepAs
      · split
        · exact h.endGroup
        · exact h.sleepAs
        · exact h.sleepAs.waitLanes
        · exact .ite h.sleepAs h.settleStack.clearWaits.sendReturns.modCur
      · exact h.tableLost
      · exact h.endGroup

theorem State.memWf.takeTrap {s : State} (h : s.memWf) {t} : (s.takeTrap t).memWf := h.recordTrap.enterVector
theorem State.memWf.trapAt {s : State} (h : s.memWf) {cause xval xaddr} : (s.trapAt cause xval xaddr).memWf := h.takeTrap
theorem State.memWf.decodeTrap {s : State} (h : s.memWf) {cause} : (s.decodeTrap cause).memWf := h.trapAt

theorem State.memWf.trapAsleep {s : State} (h : s.memWf) {slot lanes t} : (s.trapAsleep slot lanes t).memWf := by
  unfold State.trapAsleep
  dsimp only
  refine .takeTrap ?_
  exact h

theorem State.memWf.xret {s : State} (h : s.memWf) : s.xret.memWf := by
  unfold State.xret
  dsimp only
  split
  · exact h.takeTrap
  · split
    · split
      · exact h.takeTrap
      · exact h
      · exact h.waitLanes
      · exact .ite h.trapAt h.settleStack.startLoad
    · exact h.trapAt
    · exact h.waitTable
    · exact h
    · exact h.tableLost

theorem State.memWf.finishXret {s : State} (h : s.memWf) {to_} : (s.finishXret to_).memWf := h

theorem State.memWf.putBack {s : State} (h : s.memWf) {slot es} : (s.putBack slot es).memWf := by
  unfold State.putBack
  refine .foldl ?_ fun _ _ hb => ?_
  · exact h
  · dsimp only
    split
    · exact hb
    · exact .setPort (hb.foldl fun _ _ hb => hb.writeLoc)

theorem State.memWf.notify {s : State} (h : s.memWf) {hit} : (s.notify hit).memWf := by
  unfold State.notify
  dsimp only
  refine .foldl ?_ fun _ _ hb => ?_
  · exact h
  · exact hb.putBack.trapAsleep

theorem State.memWf.notifyPhys {s : State} (h : s.memWf) {pa n} : (s.notifyPhys pa n).memWf := h.notify
theorem State.memWf.notifyLocal {s : State} (h : s.memWf) {core off n} : (s.notifyLocal core off n).memWf := h.notify

theorem State.memWf.putLocalAs {s : State} (h : s.memWf) {core ws} : (s.putLocalAs core ws).memWf := by
  unfold State.putLocalAs
  refine .foldl (h.foldl fun _ _ hb => .notifyLocal ?_) fun _ _ hb => hb.setLocPoison
  exact .ite (.foldl hb.writeLoc fun _ _ hc => hc.setLocPoison) hb.writeLoc

theorem State.memWf.putLocal {s : State} (h : s.memWf) {core ws} : (s.putLocal core ws).memWf := h.putLocalAs

theorem State.memWf.pushEntry {s : State} (h : s.memWf) {slot port ws} : (s.pushEntry slot port ws).memWf := by
  unfold State.pushEntry
  dsimp only
  split
  · exact h
  · exact h.putLocalAs.setPort

theorem State.memWf.writeDst {s : State} (h : s.memWf) {slot d words res} : (s.writeDst slot d words res).memWf := by
  unfold State.writeDst
  dsimp only
  split
  · exact h
  · exact State.memWf_modGroup _ _ _ h
  · exact State.memWf_modGroup _ _ _ h
  · split
    · exact h
    · exact h.foldl fun _ _ hb => hb.pushEntry

theorem State.memWf.withOperands {s : State} (h : s.memWf) {u go} (hgo : ∀ gots t, t.memWf → (go gots t).memWf) :
    (s.withOperands u go).memWf := by
  unfold State.withOperands
  split
  · exact h.decodeTrap
  · exact h.sleepOn
  · exact hgo _ _ h.take

theorem State.memWf.retire {s : State} (h : s.memWf) {u rs} : (s.retire u rs).memWf := h.writeDst.orFlags.advance

theorem State.memWf.alu {s : State} (h : s.memWf) {u f} : (s.alu u f).memWf :=
  h.withOperands (fun _ _ ht => ht.retire)

theorem State.memWf.cross {s : State} (h : s.memWf) {u f} : (s.cross u f).memWf :=
  h.withOperands (fun _ _ ht => ht.retire)

/-! ### Integer instructions -/

theorem State.memWf.word2 {s : State} (h : s.memWf) {d a b f} : evMemWf (s.word2 d a b f) := .runs h.alu
theorem State.memWf.pair2 {s : State} (h : s.memWf) {d a b f} : evMemWf (s.pair2 d a b f) := .runs h.alu
theorem State.memWf.shift2 {s : State} (h : s.memWf) {d a b f} : evMemWf (s.shift2 d a b f) := .runs h.alu
theorem State.memWf.test2 {s : State} (h : s.memWf) {d a b f} : evMemWf (s.test2 d a b f) := .runs h.alu
theorem State.memWf.wide3 {s : State} (h : s.memWf) {d a b f} : evMemWf (s.wide3 d a b f) := .runs h.alu
theorem State.memWf.word1 {s : State} (h : s.memWf) {d a f} : evMemWf (s.word1 d a f) := .runs h.alu
theorem State.memWf.pair1 {s : State} (h : s.memWf) {d a f} : evMemWf (s.pair1 d a f) := .runs h.alu

/-! ### Scheduling -/

theorem State.memWf.aged {s : State} (h : s.memWf) {ok} : (s.aged ok).memWf := h

/-! ### Control flow -/

theorem State.memWf.trapLane {s : State} (h : s.memWf) {cause lane xval xaddr} : (s.trapLane cause lane xval xaddr).memWf := h.takeTrap
theorem State.memWf.autoPark {s : State} (h : s.memWf) {took} : (s.autoPark took).memWf := .ite h.modCur h

theorem State.memWf.branchOn {s : State} (h : s.memWf) {spin off cond test} : (s.branchOn spin off cond test).memWf := by
  unfold State.branchOn
  split
  · exact h.trapLane
  · exact .ite h.modCur.autoPark h.modCur

theorem State.memWf.branchAs {s : State} (h : s.memWf) {spin a off test} : evMemWf (s.branchAs spin a off test) := by
  unfold State.branchAs
  dsimp only
  refine .runs (h.withOperands fun p t ht => ?_)
  exact .ite h.branchOn ht.branchOn

theorem State.memWf.branchAlways {s : State} (h : s.memWf) {spin off} : evMemWf (s.branchAlways spin off) := .runs h.branchOn

theorem State.memWf.callTo {s : State} (h : s.memWf) {t} : (s.callTo t).memWf := by
  unfold State.callTo
  dsimp only
  split
  · exact h.trapLane
  · split
    · exact h.trapLane
    · split
      · split
        · exact h.clearWaits.takeTrap
        · exact h
        · exact h.waitLanes
        · exact .ite h h.settleStack.sendReturns.modCur
      · exact h.trapAt
      · exact h.waitTable
      · exact h
      · exact h.tableLost

theorem State.memWf.jumpAs {s : State} (h : s.memWf) {a go} (hgo : ∀ x, (go x).memWf) : evMemWf (s.jumpAs a go) := by
  unfold State.jumpAs
  refine .runs (h.withOperands fun _ _ _ => ?_)
  split
  · exact h.trapLane
  · dsimp only
    split
    · exact h.trapLane
    · exact hgo _

theorem memWf_execRet {s : State} (h : s.memWf) : evMemWf (execRet s) := by
  unfold execRet
  refine .runs ?_
  split
  · exact h.trapLane
  · split
    · split
      · exact h.clearWaits.takeTrap
      · exact h
      · exact h.waitLanes
      · exact .ite h h.settleStack.startLoad
    · exact h.trapAt
    · exact h.waitTable
    · exact h
    · exact h.tableLost

theorem State.memWf.finishRet {s : State} (h : s.memWf) {entry} : (s.finishRet entry).memWf := by
  unfold State.finishRet
  split
  · exact h.trapLane
  · split
    · exact h.trapLane
    · exact h.modCur

theorem memWf_execYield {s : State} (h : s.memWf) {t k i} : evMemWf (execYield t k i s) := by
  unfold execYield
  dsimp only
  exact .runs (.ite h.moveTo h.sleepAs)

theorem State.memWf.arriveAt {s : State} (h : s.memWf) {n waits} : (s.arriveAt n waits).memWf := h.modCur.barrierCheck

theorem memWf_execTrap {s : State} (h : s.memWf) {a} : evMemWf (execTrap a s) := by
  unfold execTrap
  dsimp only
  refine .runs (h.withOperands fun p t ht => ?_)
  exact .ite h.trapAt h.takeTrap

/-! ### Handles -/

theorem State.memWf.dropHandle {s : State} (h : s.memWf) {lid i} : (s.dropHandle lid i).memWf := h

theorem State.memWf.narrow {s : State} (h : s.memWf) {d ps parent p} : (s.narrow d ps parent p).memWf := by
  unfold State.narrow
  dsimp only
  split
  · exact h.trapAt
  · split
    · exact h.trapAt
    · split
      · exact h.trapAt
      · split
        · exact h.trapAt
        · split
          · exact h.trapAt
          · split
            · exact h.trapAt
            · split
              · exact h
              · exact h.waitTable
              · exact h.clearWaits.trapAt
              · exact .ite h h.tPut.dropHandle.clearWaits.writeDst.advance

theorem memWf_execHnarrow {s : State} (h : s.memWf) {d a} : evMemWf (execHnarrow d a s) := by
  unfold execHnarrow
  dsimp only
  refine .runs ?_
  split
  · exact h.trapAt
  · split
    · exact h.trapAt
    · split
      · exact h.waitTable
      · exact h
      · exact h.tableLost
      · exact h.narrow

theorem memWf_execHquery {s : State} (h : s.memWf) {d a} : evMemWf (execHquery d a s) := by
  unfold execHquery
  dsimp only
  refine .runs (h.withOperands fun p t ht => ?_)
  split
  · exact h.trapAt
  · split
    · exact ht.retire
    · split
      · exact h.waitTable
      · exact h
      · exact h.tableLost
      · exact .ite h.clearWaits.trapAt ht.keepEntry.clearWaits.retire

/-! ### Engine commands -/

theorem State.memWf.keepAll {s : State} (h : s.memWf) {us es} : (s.keepAll us es).memWf := h.foldl fun _ _ hb => hb.keepEntry
theorem State.memWf.accept {s : State} (h : s.memWf) {o ps t} : (s.accept o ps t).memWf := h

theorem State.memWf.engineAs {s : State} (h : s.memWf) {o a term c extents go} : evMemWf (s.engineAs o a term c extents go) := by
  unfold State.engineAs
  dsimp only
  refine .runs ?_
  split
  · exact h
  · split
    · exact h.clearWaits.trapAt
    · exact h.waitTable
    · exact h
    · exact h.tableLost
    · exact .ite h h.keepAll.clearWaits.accept

theorem State.memWf.putHomeAs {s : State} (h : s.memWf) {clears ws} : (s.putHomeAs clears ws).memWf := by
  unfold State.putHomeAs
  dsimp only
  refine .foldl ?_ fun _ _ hb => ?_
  · refine .foldl ?_ fun _ _ hb => ?_
    · exact h.healAll
    · refine .notifyPhys ?_
      split
      · exact State.memWf_poisonRange _ _ _ (State.memWf_writeHome _ _ _ hb)
      · exact State.memWf_writeHome _ _ _ hb
  · exact State.memWf_settlePoison _ _ _ hb

theorem State.memWf.putHome {s : State} (h : s.memWf) {ws} : (s.putHome ws).memWf := h.putHomeAs
theorem State.memWf.touchPuts {s : State} (h : s.memWf) {c puts} : (s.touchPuts c puts).memWf := h.foldl fun _ _ hb => hb.touch

theorem State.memWf.enginePut {s : State} (h : s.memWf) {n c puts r} (e : s.enginePut n c puts = .ok r) : r.1.memWf := by
  unfold State.enginePut at e
  cases hp : s.placePuts n c (puts.filter (fun p => !p.bytes.isEmpty)) with
  | error x => rw [hp] at e; cases e
  | ok ps =>
    rw [hp] at e
    cases e
    exact h.putLocalAs.putHomeAs.touchPuts

theorem State.memWf.engineWait {s : State} (h : s.memWf) {n c va level cause k} : (s.engineWait n c va level cause k).memWf :=
  h.enterFault

theorem State.memWf.engineEnd {s : State} (h : s.memWf) {n f} : (s.engineEnd n f).memWf := h
theorem State.memWf.engineFail {s : State} (h : s.memWf) {n status va} : (s.engineFail n status va).memWf := h

theorem State.memWf.engineStop {s : State} (h : s.memWf) {n c x} : (s.engineStop n c x).memWf := by
  unfold State.engineStop
  split
  · exact h.engineWait
  · exact h.engineFail
  · exact h
  · exact h.healAll

theorem State.memWf.fetched {s : State} (h : s.memWf) {c ls} : (s.fetched c ls).memWf := h.healAll.readTier.foldl fun _ _ hb => hb.touch

theorem State.memWf.engineApply {s : State} (h : s.memWf) {n c r} : (s.engineApply n c r).memWf := by
  unfold State.engineApply
  split
  · exact h.engineStop
  · split
    · exact h.engineStop
    · exact (h.fetched.enginePut ‹_›).engineEnd

theorem State.memWf.pushRecord {s : State} (h : s.memWf) {slot ws} : (s.pushRecord slot ws).memWf := h.foldl fun _ _ hb => hb.pushEntry

theorem memWf_execEngineCommandComplete {s : State} (h : s.memWf) {n} : evMemWf (execEngineCommandComplete n s) := by
  unfold execEngineCommandComplete
  refine .runs ?_
  split
  · exact h
  · split
    · dsimp only
      refine State.memWf_modGroup _ _ _ ?_
      split
      · refine .pushRecord ?_
        exact h
      · exact h
    · exact h

theorem memWf_execMbound {s : State} (h : s.memWf) {d a m} : evMemWf (execMbound d a m s) := by
  unfold execMbound
  dsimp only
  exact .runs (.ite h h.modCur.advance)

/-! ### Copies -/

theorem State.memWf.copyAs {s : State} (h : s.memWf) {o a check ranges} : evMemWf (s.copyAs o a check ranges) := by
  unfold State.copyAs
  dsimp only
  refine .runs ?_
  split
  · exact h
  · split
    · exact h.clearWaits.trapAt
    · exact h.waitTable
    · exact h
    · exact h.tableLost
    · exact .ite h h.keepAll.clearWaits.accept

theorem memWf_execEngineCommandStart {s : State} (h : s.memWf) {n} : evMemWf (execEngineCommandStart n s) := by
  unfold execEngineCommandStart
  refine .runs ?_
  split
  · exact h
  · exact .ite h.engineApply h

/-! ### Lane operations -/

theorem State.memWf.shuffleAs {s : State} (h : s.memWf) {d a b find} : evMemWf (s.shuffleAs d a b find) := .runs h.cross
theorem State.memWf.segAs {s : State} (h : s.memWf) {d a b k} : evMemWf (s.segAs d a b k) := .runs h.cross
theorem State.memWf.lunAs {s : State} (h : s.memWf) {d a k f} : evMemWf (s.lunAs d a k f) := .runs h.cross

/-! ### Matrix tasks -/

theorem State.memWf.spoilRows {s : State} (h : s.memWf) {c} : (s.spoilRows c).memWf := h
theorem State.memWf.startTask {s : State} (h : s.memWf) {n c rows} : (s.startTask n c rows).memWf := h
theorem State.memWf.taskFail {s : State} (h : s.memWf) {n c status va} : (s.taskFail n c status va).memWf := h.spoilRows.engineFail

theorem State.memWf.taskStop {s : State} (h : s.memWf) {n c x} : (s.taskStop n c x).memWf := by
  unfold State.taskStop
  split
  · exact h.taskFail
  · exact h.engineStop

theorem memWf_execMtaskStart {s : State} (h : s.memWf) {n} : evMemWf (execMtaskStart n s) := by
  unfold execMtaskStart
  refine .runs ?_
  split
  · exact h
  · split
    · exact h
    · split
      · exact h.taskStop
      · exact h.fetched.startTask

theorem memWf_execBlockClose {s : State} (h : s.memWf) {n tg} : evMemWf (execBlockClose n tg s) := by
  unfold execBlockClose
  refine .runs ?_
  split
  · exact h
  · dsimp only
    split
    · exact h
    · split
      · exact h.taskStop
      · exact (State.memWf_modCmd _ _ _ (State.memWf_modCore _ _ _ h.fetched)).clearWaits

theorem memWf_execEpilogue {s : State} (h : s.memWf) {n} : evMemWf (execEpilogue n s) := by
  unfold execEpilogue
  refine .runs ?_
  split
  · exact h
  · exact .ite h.engineApply h

/-! ### Memory instructions -/

theorem State.memWf.settled {t : State} (h : t.memWf) {s x hx e spots} : (t.settled s x hx e spots).memWf := h.keepEntry.settleSpots

theorem State.memWf.checked {s : State} (h : s.memWf) {m trapsOnData more} : (s.checked m trapsOnData more).memWf := by
  unfold State.checked
  dsimp only
  split
  · exact h.decodeTrap
  · exact h.sleepOn
  · split
    · exact h.clearWaits.trapAt
    · exact h.waitTable
    · exact h
    · exact h.tableLost
    · split
      · exact h.clearWaits.takeTrap
      · exact h
      · exact h.waitLanes
      · exact h.take.settled

theorem State.memWf.access {s : State} (h : s.memWf) {m b more go} (hgo : ∀ p t, t.memWf → (go p t).memWf) :
    (s.access m b more go).memWf := by
  unfold State.access
  split
  · exact hgo _ _ (h.checked.go ‹_›)
  · exact h.checked.stop ‹_›

theorem State.memWf.deliver {s : State} (h : s.memWf) {d words rs} : (s.deliver d words rs).memWf := h.writeDst.advance

theorem State.memWf.keepLines {s : State} (h : s.memWf) {core code lines} : (s.keepLines core code lines).memWf :=
  h.readTier.foldl fun _ _ hb => State.memWf_modCore _ _ _ hb

theorem State.memWf.loadGo {old s : State} (ho : old.memWf) (h : s.memWf) {d size signed p} : (old.loadGo d size signed p s).memWf := by
  unfold State.loadGo
  dsimp only
  split
  · exact h.deliver
  · split
    · split
      · exact ho
      · exact h.healAll.keepLines.deliver
    · split
      · split
        · exact ho
        · exact h.healAll.keepLines.deliver
      · split
        · exact ho
        · exact h.startLoad.advance

theorem State.memWf.loadAs {s : State} (h : s.memWf) {d a l h4 size signed spaces} : evMemWf (s.loadAs d a l h4 size signed spaces) :=
  .runs (h.access fun _ _ ht => .loadGo h ht)

theorem State.memWf.storeGo {old s : State} (ho : old.memWf) (h : s.memWf) {size p} : (old.storeGo size p s).memWf := by
  unfold State.storeGo
  dsimp only
  split
  · exact h.putLocal.advance
  · split
    · exact ho
    · exact h.send.advance

theorem State.memWf.storeAs {s : State} (h : s.memWf) {d a l h4 size} : evMemWf (s.storeAs d a l h4 size) :=
  .runs (h.access fun _ _ ht => .storeGo h ht)

theorem State.memWf.localAtoms {s : State} (h : s.memWf) {core n aop data spots} : (s.localAtoms core n aop data spots).2.memWf := by
  induction spots generalizing s with
  | nil => exact h
  | cons _ _ ih => exact ih h.writeLoc.notifyLocal

theorem State.memWf.startReturn {s : State} (h : s.memWf) {kind popped p} : (s.startReturn kind popped p).memWf := h
theorem State.memWf.ask {s : State} (h : s.memWf) {ws kind popped p} : (s.ask ws kind popped p).memWf := h

theorem State.memWf.atomGo {old s : State} (ho : old.memWf) (h : s.memWf) {dst n aop p} : (old.atomGo dst n aop p s).memWf := by
  unfold State.atomGo
  dsimp only
  split
  · split
    · exact h.localAtoms.deliver
    · exact h.localAtoms.advance
  · split
    · exact ho
    · split
      · exact h.ask.advance
      · exact h.send.advance

theorem State.memWf.atomAs {s : State} (h : s.memWf) {d a p h4 n} : evMemWf (s.atomAs d a p h4 n) :=
  .runs (h.access fun _ _ ht => .atomGo h ht)

theorem State.memWf.redAs {s : State} (h : s.memWf) {d a p h4 n} : evMemWf (s.redAs d a p h4 n) :=
  .runs (h.access fun _ _ ht => .atomGo h ht)

theorem State.memWf.closeAs {s : State} (h : s.memWf) {a l h4 n} : evMemWf (s.closeAs a l h4 n) := by
  unfold State.closeAs
  exact .runs (h.access fun _ _ ht => ht)

theorem State.memWf.cacheAs {s : State} (h : s.memWf) {a l h4 go} (hgo : ∀ x t, t.memWf → (go x t).memWf) :
    evMemWf (s.cacheAs a l h4 go) :=
  .runs (h.access fun _ _ ht => hgo _ _ ht)

theorem State.memWf.hostBack {s : State} (h : s.memWf) {lines} : (s.hostBack lines).memWf := h
theorem State.memWf.dropL1 {s : State} (h : s.memWf) {core lines} : (s.dropL1 core lines).memWf := h

theorem memWf_execCacheWb {s : State} (h : s.memWf) {a l h4} : evMemWf (execCacheWb a l h4 s) := by
  refine h.cacheAs fun _ _ ht => ?_
  split
  · exact h
  · exact ht.hostBack.advance

theorem memWf_execCacheWbinv {s : State} (h : s.memWf) {a l h4} : evMemWf (execCacheWbinv a l h4 s) := by
  refine h.cacheAs fun _ _ ht => ?_
  split
  · exact h
  · exact ht.hostBack.dropL1.advance

theorem memWf_execCacheInv {s : State} (h : s.memWf) {a l h4} : evMemWf (execCacheInv a l h4 s) :=
  h.cacheAs fun _ _ ht => ht.dropL1.advance

theorem memWf_execCacheIinv {s : State} (h : s.memWf) {a l h4} : evMemWf (execCacheIinv a l h4 s) :=
  h.cacheAs fun _ _ ht => (State.memWf_modCore _ _ _ ht).advance

theorem State.memWf.waitGo {old s : State} (ho : old.memWf) (h : s.memWf) {cond p} : (old.waitGo cond p s).memWf := by
  unfold State.waitGo
  dsimp only
  split
  · exact ho
  · split <;> exact h

theorem State.memWf.waitAs {s : State} (h : s.memWf) {d a l h4 cond} : evMemWf (s.waitAs d a l h4 cond) :=
  .runs (h.access fun _ _ ht => .waitGo h ht)

/-! ### Homes and copies -/

theorem State.memWf.endIdle {s : State} (h : s.memWf) : s.endIdle.memWf := h

theorem memWf_execStoreLeavesCore {s : State} (h : s.memWf) {g n} : evMemWf (execStoreLeavesCore g n s) := by
  unfold execStoreLeavesCore
  refine .runs ?_
  split
  · exact h
  · exact State.memWf_of_eq s _ h rfl rfl

theorem State.memWf.layPieces {s : State} (h : s.memWf) {at_ bs} : (s.layPieces at_ bs).memWf := by
  induction at_ generalizing s bs with
  | nil => exact h
  | cons _ _ ih => exact ih (State.memWf_writeHome _ _ _ h)

theorem State.memWf.notifyPieces {s : State} (h : s.memWf) {at_} : (s.notifyPieces at_).memWf := h.foldl fun _ _ hb => hb.notifyPhys
theorem State.memWf.putPieces {s : State} (h : s.memWf) {at_ bs} : (s.putPieces at_ bs).memWf := h.layPieces.notifyPieces

theorem State.memWf.tStore {s : State} (h : s.memWf) {agent die dom space va bs} : (s.tStore agent die dom space va bs).memWf := by
  unfold State.tStore
  split
  · refine .foldl ?_ fun _ _ hb => ?_
    · exact h.tWrite.ok ‹_›
    · exact hb.notifyPhys
  · exact h.tWrite

theorem State.memWf.putHost {s : State} (h : s.memWf) {pa bs} : (s.putHost pa bs).memWf :=
  State.memWf_put _ _ _ h.hostBack

theorem State.memWf.performAct {s : State} (h : s.memWf) {read a} : (s.performAct read a).s.memWf := by
  cases a with
  | store pa bs => exact (State.memWf_writeHome _ _ _ h).notifyPhys
  | atomic aop pa n d swap =>
    refine State.memWf.notifyPhys ?_
    split
    · dsimp only
      split <;> exact h.putHost
    · exact State.memWf_writeHome _ _ _ h
  | addX at_ esize d double => exact h.putPieces.hostBack
  | close at_ esize double => exact h
  | cell pa bs p =>
    refine State.memWf.notifyPhys ?_
    split
    · exact State.memWf_poisonRange _ _ _ (State.memWf_writeHome _ _ _ h)
    · exact State.memWf_writeHome _ _ _ h

theorem State.memWf.performOps {s : State} (h : s.memWf) {ops} : (s.performOps ops).1.memWf := by
  induction ops generalizing s with
  | nil => exact h
  | cons _ _ ih => exact ih h.performAct

theorem State.memWf.returnTo {s : State} (h : s.memWf) {w rs f} : (s.returnTo w rs f).memWf :=
  State.memWf_elim _ h (fun _ => State.memWf_modGroup _ _ _ h)

theorem State.memWf.landed {s : State} (h : s.memWf) {w} : (s.landed w).memWf := h
theorem State.memWf.modFlight {s : State} (h : s.memWf) {n f} : (s.modFlight n f).memWf := h
theorem State.memWf.sendAck {s : State} (h : s.memWf) {w} : (s.sendAck w).memWf := h
theorem State.memWf.asClass {s : State} (h : s.memWf) {slot lanes} : (s.asClass slot lanes).memWf := h
theorem State.memWf.dropLoad {s : State} (h : s.memWf) {slot n} : (s.dropLoad slot n).memWf := h

theorem State.memWf.loseLoad {s : State} (h : s.memWf) {slot n lane va} : (s.loseLoad slot n lane va).memWf := by
  unfold State.loseLoad
  split
  · exact h
  · dsimp only
    refine .trapAsleep (.putBack ?_)
    exact h

theorem State.memWf.loseWrite {s : State} (h : s.memWf) {w} : (s.loseWrite w).memWf := by
  unfold State.loseWrite
  split
  · exact h.loseLoad
  · exact State.memWf_modGroup _ _ _ h.landed.sendAck

theorem State.memWf.applied {s : State} (h : s.memWf) {w old} : (s.applied w old).memWf := by
  unfold State.applied
  split
  · exact h.landed
  · split
    · dsimp only
      exact h
    · exact h.landed.sendAck

theorem State.memWf.perform {s : State} (h : s.memWf) {w} : (s.perform w).memWf := by
  unfold State.perform
  dsimp only
  refine .applied (.returnTo ?_)
  split
  · exact .performOps (.readTier (h.healAll.foldl fun _ _ hb => hb.wake))
  · refine .foldl ?_ fun _ _ hb => ?_
    · exact .performOps (.readTier (h.healAll.foldl fun _ _ hb => hb.wake))
    · exact State.memWf_settlePoison _ _ _ hb

theorem State.memWf.performSplit {s : State} (h : s.memWf) {w o rest read} : (s.performSplit w o rest read).memWf := by
  have ht : ((sectorsOf w.spans).foldl (fun acc k => acc.settlePoison k false) (s.performAct read o.act).s).memWf :=
    .foldl h.performAct fun _ _ hb => State.memWf_settlePoison _ _ _ hb
  unfold State.performSplit
  dsimp only
  split
  · exact ht.returnTo.applied
  · exact ht.returnTo.modFlight

theorem State.memWf.writeStep {s : State} (h : s.memWf) {w} : (s.writeStep w).memWf := by
  unfold State.writeStep
  split
  · exact h.landed.sendAck.notify
  · split
    · exact h.performSplit
    · exact h.applied
  · split
    · exact h.loseWrite
    · split
      · exact .ite h.modFlight h.perform
      · exact h.perform

theorem memWf_execHomeWritePerform {s : State} (h : s.memWf) {n} : evMemWf (execHomeWritePerform n s) := by
  unfold execHomeWritePerform
  refine .runs ?_
  split
  · exact h
  · exact .ite h.writeStep h

theorem memWf_execWriteAck {s : State} (h : s.memWf) {n} : evMemWf (execWriteAck n s) := by
  unfold execWriteAck
  refine .runs ?_
  split
  · exact h
  · split
    · exact h
    · dsimp only
      refine .barriersCheck ?_
      exact h

theorem State.memWf.answerFill {s : State} (h : s.memWf) {core line lease p secs asks} :
    (s.answerFill core line lease p secs asks).memWf := by
  have ht := State.memWf_homeLine s line h
  unfold State.answerFill
  dsimp only
  split <;> exact ht

theorem memWf_execHomeFill {s : State} (h : s.memWf) {core line lease} : evMemWf (execHomeFill core line lease s) := by
  unfold execHomeFill
  refine .runs ?_
  split
  · exact h
  · exact .ite h h.readTier.answerFill

theorem State.memWf.specFill {s : State} (h : s.memWf) {slot hx off lease} : (s.specFill slot hx off lease).memWf := by
  unfold State.specFill
  dsimp only
  split
  · exact h
  · split
    · exact h
    · split
      · exact h
      · exact .ite h h.wakeLines.answerFill

theorem State.memWf.fillL1 {s : State} (h : s.memWf) {f} : (s.fillL1 f).memWf := h
theorem State.memWf.fillRdc {s : State} (h : s.memWf) {f} : (s.fillRdc f).memWf := .ite h (.ite h (.ite h h))

theorem memWf_execCacheFillArrival {s : State} (h : s.memWf) {n} : evMemWf (execCacheFillArrival n s) := by
  unfold execCacheFillArrival
  refine .runs ?_
  split
  · exact h
  · split
    · exact h
    · refine .withFills (.fillL1 (.fillRdc ?_))
      exact .foldl h fun _ _ hb => State.memWf_modGroup _ _ _ hb

theorem State.memWf.dropCopyAt {s : State} (h : s.memWf) {c line} : (s.dropCopyAt c line).memWf := by
  unfold State.dropCopyAt
  split
  · exact h.dropL1
  · exact .ite h h

theorem memWf_execLeaseExpiry {s : State} (h : s.memWf) {c line} : evMemWf (execLeaseExpiry c line s) := by
  unfold execLeaseExpiry
  refine .runs ?_
  split
  · exact h
  · exact .ite h.dropCopyAt h

theorem memWf_execL2Evict {s : State} (h : s.memWf) {line} : evMemWf (execL2Evict line s) := by
  unfold execL2Evict
  refine .runs ?_
  split
  · exact h
  · split
    · exact h
    · split
      · exact h

theorem State.memWf.trimSlice {s : State} (h : s.memWf) {k} : (s.trimSlice k).memWf := h.foldl fun _ _ hb => .ite hb.hostBack hb.writeBack
theorem State.memWf.trimSlices {s : State} (h : s.memWf) : s.trimSlices.memWf := .ite h (h.foldl fun _ _ hb => hb.trimSlice)

theorem State.memWf.closeEnd {s : State} (h : s.memWf) {slot n op cells later} : (s.closeEnd slot n op cells later).memWf := by
  unfold State.closeEnd
  dsimp only
  split
  · exact h.sendAs.orFlags
  · exact (State.memWf_modGroup _ _ _ h.sendAs).sendAs

theorem State.memWf.loadEnd {s : State} (h : s.memWf) {slot n op} : (s.loadEnd slot n op).memWf := by
  unfold State.loadEnd
  dsimp only
  split
  · exact h.asClass.dropLoad.writeDst
  · exact h.asClass.dropLoad.writeDst
  · exact h.asClass.dropLoad.closeEnd
  · split
    · exact h.asClass.dropLoad.putBack.takeTrap
    · exact h.asClass.dropLoad.writeDst.advance
  · exact h.asClass.dropLoad.finishRet
  · exact h.asClass.dropLoad.finishXret

theorem memWf_execLoadReturn {s : State} (h : s.memWf) {g} : evMemWf (execLoadReturn g s) := by
  unfold execLoadReturn
  refine .runs ?_
  split
  · exact h
  · exact h.loadEnd

theorem memWf_execMonitorRetest {s : State} (h : s.memWf) {g} : evMemWf (execMonitorRetest g s) := by
  unfold execMonitorRetest
  refine .runs ?_
  split
  · exact h
  · exact h.notify

theorem memWf_execHostSnoopReply {s : State} (h : s.memWf) {n} : evMemWf (execHostSnoopReply n s) := by
  unfold execHostSnoopReply
  refine .runs ?_
  split
  · exact h
  · split
    · exact .ite h h

theorem State.memWf.hostWrite {s : State} (h : s.memWf) {a} : (s.hostWrite a).memWf := h.putHomeAs

theorem memWf_execHostMemAccess {s : State} (h : s.memWf) {a} : evMemWf (execHostMemAccess a s) := by
  unfold execHostMemAccess
  dsimp only
  exact .runs (.ite h.endIdle (.ite h.endIdle.healAll.readTier (.ite h.endIdle h.endIdle.hostWrite)))

theorem State.memWf.countError {s : State} (h : s.memWf) {pa} : (s.countError pa).memWf := by
  unfold State.countError
  split <;> exact h

theorem State.memWf.spoilSector {s : State} (h : s.memWf) {sector} : (s.spoilSector sector).memWf :=
  (State.memWf_setPoison _ _ _ h).notifyPhys

theorem State.memWf.spoilAtom {s : State} (h : s.memWf) {pa} : (s.spoilAtom pa).memWf := by
  unfold State.spoilAtom
  dsimp only
  split
  · exact h
  · exact h.spoilSector.spoilSector

theorem memWf_execUncorrectableError {s : State} (h : s.memWf) {e} : evMemWf (execUncorrectableError e s) := by
  unfold execUncorrectableError
  refine .runs ?_
  split
  · exact .ite h.countError.spoilAtom h
  · exact .ite h.spoilSector h
  · exact h.dropCopyAt
  · exact State.memWf_modCore _ _ _ h
  · exact State.memWf_modCore _ _ _ h
  · exact .ite h.setLocPoison.notifyLocal h
  · exact State.memWf_modCore _ _ _ h
  · exact .ite (State.memWf_modGroup _ _ _ h) h
  · exact .ite (State.memWf_modGroup _ _ _ h) h
  · exact State.memWf_modTeam _ _ _ h
  · exact State.memWf_modGroup _ _ _ h
  · split
    · exact .ite h (.ite h.taskFail h.engineFail)
    · exact h

/-! ### Remote accesses -/

theorem State.memWf.postAccess {s : State} (h : s.memWf) {target k} : (s.postAccess target k).memWf := h

theorem State.memWf.postAll {s : State} (h : s.memWf) {p parts op n} : (s.postAll p parts op n).memWf := by
  unfold State.postAll
  refine .foldl ?_ fun _ _ hb => ?_
  · exact h
  · split
    · exact hb
    · exact hb.postAccess

theorem State.memWf.stayAt {s : State} (h : s.memWf) : s.stayAt.memWf := h

theorem State.memWf.rldAs {s : State} (h : s.memWf) {d a l h4 size} : evMemWf (s.rldAs d a l h4 size) := by
  unfold State.rldAs
  refine .runs (h.access fun _ _ ht => ?_)
  split
  · exact h
  · exact .stayAt (.postAll ht.startReturn)

theorem State.memWf.rstGo {old s : State} (ho : old.memWf) (h : s.memWf) {size p} : (old.rstGo size p s).memWf := by
  unfold State.rstGo
  dsimp only
  split
  · exact ho
  · exact .advance (h.foldl fun _ _ hb => .ite hb.modCur hb.postAccess)

theorem State.memWf.rstAs {s : State} (h : s.memWf) {d a l h4 size} : evMemWf (s.rstAs d a l h4 size) :=
  .runs (h.access fun _ _ ht => .rstGo h ht)

theorem memWf_execRatom {s : State} (h : s.memWf) {d a p h4} : evMemWf (execRatom d a p h4 s) := by
  unfold execRatom
  refine .runs (h.access fun _ _ ht => ?_)
  split
  · exact h
  · exact .stayAt (.postAll ht.startReturn)

theorem State.memWf.raisePod {s : State} (h : s.memWf) {slot seq remaining} : (s.raisePod slot seq remaining).memWf := h

theorem State.memWf.refuseWrite {s : State} (h : s.memWf) {slot by_ reason peer off} :
    (s.refuseWrite slot by_ reason peer off).memWf := by
  unfold State.refuseWrite
  dsimp only
  split
  · exact h.trapAsleep
  · exact .ite h (State.memWf_modGroup _ _ _ h)

theorem State.memWf.refuse {s : State} (h : s.memWf) {r reason} : (s.refuse r reason).memWf := by
  unfold State.refuse
  split
  · exact State.memWf_modGroup _ _ _ h.dropReq
  · exact h.dropReq.refuseWrite
  · exact h.dropReq.refuseWrite
  · exact h

theorem State.memWf.releaseFrom {s : State} (h : s.memWf) {before rs} : (s.releaseFrom before rs).memWf := by
  induction rs generalizing s before with
  | nil => exact h
  | cons r t ih =>
    unfold State.releaseFrom
    dsimp only
    split
    · refine ih ?_
      split
      · exact h.transmit
      · exact h
    · split
      · exact ih h.refuse
      · exact ih h

theorem State.memWf.releaseHeld {s : State} (h : s.memWf) : s.releaseHeld.memWf := h.releaseFrom

theorem State.memWf.notePeered {s : State} (h : s.memWf) {slot lanes prot target window off} :
    (s.notePeered slot lanes prot target window off).memWf :=
  .ite (State.memWf_modGroup _ _ _ h) h

theorem State.memWf.acknowledge {s : State} (h : s.memWf) {r a} : (s.acknowledge r a).memWf := by
  unfold State.acknowledge
  dsimp only
  split
  · refine State.memWf_elim _ ?_ (fun a => ?_)
    · split
      · exact h.dropReq
      · exact h.dropReq.raisePod.notePeered
    · refine State.memWf_modGroup _ _ _ ?_
      split
      · exact h.dropReq
      · exact h.dropReq.raisePod.notePeered
  · exact State.memWf_modDom _ _ _ h.dropReq
  · exact h.dropReq

theorem memWf_execPeerAnswer {s : State} (h : s.memWf) {a} : evMemWf (execPeerAnswer a s) := by
  unfold execPeerAnswer
  refine .runs ?_
  split
  · exact h
  · exact .ite h.acknowledge.releaseHeld (.ite h h.refuse.releaseHeld)

theorem memWf_execRstRefusal {s : State} (h : s.memWf) {a} : evMemWf (execRstRefusal a s) := by
  unfold execRstRefusal
  refine .runs ?_
  split
  · exact h
  · exact .ite h.refuse.releaseHeld h

theorem State.memWf.resend {s : State} (h : s.memWf) {r} : (s.resend r).memWf := by
  unfold State.resend
  split
  · exact .ite h.transmit h.refuse
  · exact h.refuse

theorem State.memWf.failPlane {s : State} (h : s.memWf) {plane} : (s.failPlane plane).memWf :=
  .releaseHeld (.foldl h fun _ _ hb => hb.resend)

theorem memWf_execPlaneFail {s : State} (h : s.memWf) {plane} : evMemWf (execPlaneFail plane s) := by
  unfold execPlaneFail
  refine .runs ?_
  split
  · refine .failPlane (.interrupt ?_)
    exact h
  · exact h

theorem State.memWf.portLink {s : State} (h : s.memWf) {port up} : (s.portLink port up).memWf := by
  unfold State.portLink
  split
  · exact h
  · split
    · dsimp only
      refine .releaseHeld (.interrupt ?_)
      exact h
    · dsimp only
      refine .releaseHeld ?_
      refine .foldl ?_ fun _ _ hb => ?_
      · refine .interrupt ?_
        exact h
      · exact hb.resend

theorem memWf_execPlaneTimeout {s : State} (h : s.memWf) {n} : evMemWf (execPlaneTimeout n s) := by
  unfold execPlaneTimeout
  refine .runs ?_
  split
  · exact h
  · exact .ite h.failPlane h

theorem memWf_execPlaneRetrain {s : State} (h : s.memWf) {plane} : evMemWf (execPlaneRetrain plane s) := by
  unfold execPlaneRetrain
  refine .runs ?_
  split
  · dsimp only
    refine .releaseHeld (.interrupt ?_)
    exact h
  · exact h

/-! ### Fences -/

theorem memWf_execFence {s : State} (h : s.memWf) {eng k sc} : evMemWf (execFence eng k sc s) := by
  unfold execFence
  refine .runs ?_
  split
  · exact h.advance
  · split
    · exact h.takeTrap
    · dsimp only
      exact h

theorem State.memWf.forceBack {s : State} (h : s.memWf) {slot lanes} : (s.forceBack slot lanes).memWf :=
  .foldl (State.memWf_modGroup _ _ _ (h.foldl fun _ _ hb => .ite hb (.ite hb.hostBack hb.writeBack))) fun _ _ hb => hb.post

theorem State.memWf.fenceDone {s : State} (h : s.memWf) {slot lanes f} : (s.fenceDone slot lanes f).memWf := h
theorem State.memWf.allHostBack {s : State} (h : s.memWf) : s.allHostBack.memWf := h

theorem State.memWf.scWait {s : State} (h : s.memWf) {slot lanes f} : (s.scWait slot lanes f).memWf := by
  unfold State.scWait
  split
  · split
    · exact State.memWf_modGroup _ _ _ h
    · exact .ite h.fenceDone h
  · exact h.fenceDone

theorem State.memWf.fenceStep {s : State} (h : s.memWf) {slot lanes f} : (s.fenceStep slot lanes f).memWf := by
  unfold State.fenceStep
  split
  · exact h
  · split
    · exact h.scWait
    · dsimp only
      split
      · exact h.allHostBack.scWait
      · split
        · exact h.allHostBack.trapAsleep
        · exact .ite h.allHostBack.forceBack.releaseHeld.scWait h.allHostBack.forceBack.releaseHeld

theorem memWf_execFenceComplete {s : State} (h : s.memWf) {g l} : evMemWf (execFenceComplete g l s) := by
  unfold execFenceComplete
  refine .runs ?_
  split
  · exact h
  · exact h.fenceStep

/-! ### Floating-point instructions -/

theorem State.memWf.flt2 {s : State} (h : s.memWf) {d a b f} : evMemWf (s.flt2 d a b f) := .runs h.alu
theorem State.memWf.fltCmp {s : State} (h : s.memWf) {d a b c} : evMemWf (s.fltCmp d a b c) := .runs h.alu
theorem State.memWf.flt1 {s : State} (h : s.memWf) {d a f} : evMemWf (s.flt1 d a f) := .runs h.alu
theorem State.memWf.dbl2 {s : State} (h : s.memWf) {d a b f} : evMemWf (s.dbl2 d a b f) := .runs h.alu
theorem State.memWf.dblCmp {s : State} (h : s.memWf) {d a b c} : evMemWf (s.dblCmp d a b c) := .runs h.alu
theorem State.memWf.dbl1 {s : State} (h : s.memWf) {d a f} : evMemWf (s.dbl1 d a f) := .runs h.alu
theorem State.memWf.packed2 {s : State} (h : s.memWf) {d a b p f} : evMemWf (s.packed2 d a b p f) := .runs h.alu
theorem State.memWf.packed3 {s : State} (h : s.memWf) {d a b p f} : evMemWf (s.packed3 d a b p f) := .runs h.alu
theorem State.memWf.cvtAs {s : State} (h : s.memWf) {mode d a x y} : evMemWf (s.cvtAs mode d a x y) := .runs h.alu

/-! ### Fetch and issue -/

theorem State.memWf.prefetch {s : State} (h : s.memWf) {slot lane pc} : (s.prefetch slot lane pc).memWf := by
  unfold State.prefetch
  dsimp only
  split
  · exact h
  · split
    · exact .ite h (State.memWf_modGroup _ _ _ h.keepLines)
    · exact h

/-- A state that keeps the line an issue fetched. -/
theorem State.memWf.keepFetched {s : State} (h : s.memWf) {core} {line : Option Nat} :
    (line.elim s (fun n => (s.healAll (s.unkept core true [n])).keepLines core true [n])).memWf :=
  State.memWf_elim _ h (fun _ => h.healAll.keepLines)

theorem State.memWf.latch {s : State} (h : s.memWf) {slot lanes p line chain ends second} :
    (s.latch slot lanes p line chain ends second).memWf := by
  have ht : (if second then s else s.tick 1).memWf := .ite h h.tick
  have hl := ht.keepFetched (core := coreOfSlot slot) (line := line)
  exact hl

theorem State.memWf.faced {s : State} (h : s.memWf) {slot lanes word} : (s.faced slot lanes word).memWf := h.tick

theorem State.memWf.issueGroup {s : State} (h : s.memWf) {slot held second} : (s.issueGroup slot held second).memWf := by
  unfold State.issueGroup
  dsimp only
  split
  · exact h.faced.enterVector
  · split
    · exact trivial
    · split
      · exact h.faced.clearWaits.trapAt
      · exact h.tick.enterFault
      · exact h
      · split
        · exact h.faced.decodeTrap
        · split
          · exact h.faced.trapAt
          · exact h.latch.touch

/-! ### Spawned tasks -/

theorem State.memWf.spawned {s : State} (h : s.memWf) {a record k status} : (s.spawned a record k status).memWf := h.modCur.modCur.advance

theorem State.memWf.spawnRing {s : State} (h : s.memWf) {a ps record k} : (s.spawnRing a ps record k).memWf := by
  unfold State.spawnRing
  dsimp only
  split
  · exact h.tWrite.wait ‹_›
  · exact h.tableLost
  · split
    · split
      · exact h.tWrite.wait ‹_›
      · exact h
    · exact h.tableLost
    · exact (State.memWf_modLaunch _ _ _ (((h.tWrite.ok ‹_›).tWrite.ok ‹_›).clearWaits)).spawned

theorem memWf_execSpawn {s : State} (h : s.memWf) {record stall k a} : evMemWf (execSpawn record stall k a s) := by
  unfold execSpawn
  dsimp only
  refine .runs ?_
  split
  · exact h
  · split
    · exact h.trapAt
    · split
      · exact h.trapAt
      · split
        · exact h
        · exact .ite ((State.memWf_modCore _ _ _ h).spawned) (.ite h.spawnRing (.ite h h.spawned))

/-! ### Requests from other modules -/

theorem State.memWf.arrived {s : State} (h : s.memWf) {r} : (s.arrived r).memWf := h
theorem State.memWf.reply {s : State} (h : s.memWf) {r a} : (s.reply r a).memWf := h
theorem State.memWf.refusePeer {s : State} (h : s.memWf) {r reason} : (s.refusePeer r reason).memWf := h

theorem State.memWf.replyKept {s : State} (h : s.memWf) {r a} : (s.replyKept r a).memWf :=
  h.reply.withSources

theorem State.memWf.layPeer {s : State} (h : s.memWf) {r at_ bs} : (s.layPeer r at_ bs).memWf := by
  unfold State.layPeer
  dsimp only
  refine .notifyPieces ?_
  split
  · refine .foldl ?_ fun _ _ hb => ?_
    · exact h.layPieces.foldl fun _ _ hb => State.memWf_settlePoison _ _ _ hb
    · exact State.memWf_poisonRange _ _ _ hb
  · exact h.layPieces.foldl fun _ _ hb => State.memWf_settlePoison _ _ _ hb

theorem State.memWf.answerWrite {s : State} (h : s.memWf) {r at_ old p prot} : (s.answerWrite r at_ old p prot).memWf := h.replyKept

theorem State.memWf.hostAtomic {s : State} (h : s.memWf) {r at_ esize old p prot} : (s.hostAtomic r at_ esize old p prot).memWf := by
  unfold State.hostAtomic
  split
  · dsimp only
    refine .answerWrite ?_
    refine .foldl ?_ fun _ _ hb => ?_
    · exact h
    · exact hb.putHost.notifyPhys
  · exact h

theorem State.memWf.endLock {s : State} (h : s.memWf) {r k} : (s.endLock r k).memWf := by
  unfold State.endLock
  dsimp only
  refine .answerWrite (.hostBack (.layPeer ?_))
  exact h

theorem State.memWf.performPeer {s : State} (h : s.memWf) {r w} : (s.performPeer r w).memWf := by
  unfold State.performPeer
  dsimp only
  split
  · exact .replyKept (.readTier (h.healAll.foldl fun _ _ hb => hb.wake))
  · exact .answerWrite (.layPeer (.readTier (h.healAll.foldl fun _ _ hb => hb.wake)))
  · split
    · exact .hostAtomic (.readTier (h.healAll.foldl fun _ _ hb => hb.wake))
    · exact .answerWrite (.layPeer (.readTier (h.healAll.foldl fun _ _ hb => hb.wake)))

theorem State.memWf.keepWaiting {s : State} (h : s.memWf) {r} : (s.keepWaiting r).memWf := h

theorem State.memWf.servePeer {s : State} (h : s.memWf) {r} : (s.servePeer r).memWf := by
  unfold State.servePeer
  dsimp only
  split
  · exact h.healAll.keepWaiting
  · split
    · exact h.healAll.refusePeer
    · split
      · exact h.healAll.refusePeer
      · split
        · exact h.healAll.refusePeer
        · split
          · exact h.healAll.refusePeer
          · exact h.healAll.keepWaiting
          · exact h.healAll.keepWaiting.enterFault
          · split
            · exact h.healAll.refusePeer
            · exact .ite h.healAll.keepWaiting (.performPeer (h.healAll.foldl fun _ _ hb => hb.touch))

theorem State.memWf.peerAgain {s : State} (h : s.memWf) {r} : (s.peerAgain r).memWf := by
  unfold State.peerAgain
  split
  · exact h.endLock
  · exact .ite h h.servePeer

theorem memWf_execPeerRequest {s : State} (h : s.memWf) {r} : evMemWf (execPeerRequest r s) := by
  unfold execPeerRequest
  dsimp only
  refine .runs ?_
  split
  · exact h.endIdle
  · exact .ite h.endIdle.arrived.peerAgain h.endIdle.arrived.servePeer

/-! ### Starts and ends of work -/

theorem State.memWf.readStacks {s : State} (h : s.memWf) {agent die l slot lanes} : (s.readStacks agent die l slot lanes).memWf := by
  induction lanes generalizing s with
  | nil => exact h
  | cons lane t ih =>
    unfold State.readStacks
    dsimp only
    split
    · exact h.tRead.wait ‹_›
    · exact trivial
    · have hu := ih (h.tRead.ok ‹_›)
      split
      · exact hu.ok ‹_›
      · exact hu

theorem State.memWf.keepStack {s : State} (h : s.memWf) {lid slot bs} : (s.keepStack lid slot bs).memWf := h

theorem State.memWf.stash {s : State} (h : s.memWf) {agent die lid slots} : (s.stash agent die lid slots).memWf := by
  induction slots generalizing s with
  | nil => exact h
  | cons slot t ih =>
    unfold State.stash
    dsimp only
    split
    · exact ih h
    · split
      · exact h.readStacks.wait ‹_›
      · exact trivial
      · exact ih (h.readStacks.ok ‹_›).keepStack

theorem State.memWf.readArgs {s : State} (h : s.memWf) {agent die l va n} : (s.readArgs agent die l va n).memWf := by
  unfold State.readArgs
  split
  · exact h
  · split
    · exact h.tRead.ok ‹_›
    · exact h.tRead.wait ‹_›
    · exact trivial

theorem State.memWf.install {s : State} (h : s.memWf) {t groups} : (s.install t groups).memWf := h
theorem State.memWf.startTeam {s : State} (h : s.memWf) {t args} : (s.startTeam t args).memWf := h

theorem State.memWf.joinTask {s : State} (h : s.memWf) {j core status} : (s.joinTask j core status).memWf :=
  State.memWf_modGroup _ _ _ (.ite h.pushRecord h)

theorem State.memWf.tryTask {s : State} (h : s.memWf) {agent die core q room} : (s.tryTask agent die core q room).memWf := by
  unfold State.tryTask
  dsimp only
  split
  · exact h.tRead.wait ‹_›
  · exact h.clearWaits.joinTask
  · split
    · exact h.clearWaits.joinTask
    · split
      · exact h.clearWaits.joinTask
      · split
        · exact (h.tRead.ok ‹_›).readArgs.wait ‹_›
        · exact h.clearWaits.joinTask
        · split
          · exact trivial
          · split
            · exact ((h.tRead.ok ‹_›).readArgs.ok ‹_›).stash.wait ‹_›
            · exact ((h.tRead.ok ‹_›).readArgs.ok ‹_›).killLaunch
            · exact ((((h.tRead.ok ‹_›).readArgs.ok ‹_›).stash.ok ‹_›).clearWaits).startTeam

theorem memWf_execTaskStart {s : State} (h : s.memWf) {core} : evMemWf (execTaskStart core s) := by
  unfold execTaskStart
  refine .runs ?_
  split
  · exact h
  · split
    · exact h
    · split
      · exact h
      · exact h.tryTask.wait ‹_›
      · exact State.memWf_modCore _ _ _ (h.tryTask.over ‹_›)

theorem State.memWf.hostBackAll {s : State} (h : s.memWf) {slot} : (s.hostBackAll slot).memWf := h

theorem State.memWf.endTeam {s : State} (h : s.memWf) {tid} : (s.endTeam tid).memWf := by
  unfold State.endTeam
  dsimp only
  split
  · exact h
  · split
    · exact h
    · refine .joinTask ?_
      exact h

theorem State.memWf.gateCheck {s : State} (h : s.memWf) {core} : (s.gateCheck core).memWf := .ite (State.memWf_modCore _ _ _ h) h

theorem memWf_execGroupEnd {s : State} (h : s.memWf) {g} : evMemWf (execGroupEnd g s) := by
  unfold execGroupEnd
  refine .runs ?_
  split
  · exact h
  · split
    · exact h
    · dsimp only
      refine .gateCheck (.endTeam (.barriersCheck (State.memWf_modTeam _ _ _ (.clearGroup (.withGroups ?_)))))
      split
      · exact State.memWf_modLaunch _ _ _ (State.memWf_modTeam _ _ _ h.hostBackAll)
      · exact h.hostBackAll

/-! ### Launches and queues -/

theorem State.memWf.addLaunch {s : State} (h : s.memWf) {l} : (s.addLaunch l).memWf := h
theorem State.memWf.killedAtOnce {s : State} (h : s.memWf) {l} : (s.killedAtOnce l).memWf := h

theorem State.memWf.clearDerived {s : State} (h : s.memWf) {die dom space htab hcnt} : (s.clearDerived die dom space htab hcnt).memWf :=
  h.foldl fun _ _ hb => .ite hb.tPut hb

theorem State.memWf.acceptLaunch {s : State} (h : s.memWf) {agent l} : (s.acceptLaunch agent l).memWf := by
  unfold State.acceptLaunch
  dsimp only
  split
  · exact h
  · exact h.enterFault
  · exact h.killedAtOnce
  · split
    · exact h
    · split
      · exact h.tWrite.wait ‹_›
      · exact h.killedAtOnce
      · refine .addLaunch ?_
        exact (h.tWrite.ok ‹_›).clearDerived

theorem State.memWf.takeHeader {s : State} (h : s.memWf) {agent l} : (s.takeHeader agent l).memWf := by
  unfold State.takeHeader
  split
  · exact h.tRead.wait ‹_›
  · exact h.addLaunch
  · split
    · exact (h.tRead.ok ‹_›).addLaunch
    · split
      · exact (h.tRead.ok ‹_›).addLaunch
      · split
        · exact (h.tRead.ok ‹_›).addLaunch
        · exact (h.tRead.ok ‹_›).acceptLaunch

theorem State.memWf.takeRecord {s : State} (h : s.memWf) {agent dom space die bs poison} :
    (s.takeRecord agent dom space die bs poison).memWf := by
  unfold State.takeRecord
  dsimp only
  split
  · exact h.addLaunch
  · split
    · exact h.addLaunch
    · split
      · exact h.tRead.wait ‹_›
      · exact h.addLaunch
      · split
        · exact (h.tRead.ok ‹_›).tRead.wait ‹_›
        · exact (h.tRead.ok ‹_›).addLaunch
        · split
          · exact ((h.tRead.ok ‹_›).tRead.ok ‹_›).takeHeader
          · exact ((h.tRead.ok ‹_›).tRead.ok ‹_›).addLaunch

theorem State.memWf.loadQueue {s : State} (h : s.memWf) {dom v} : (s.loadQueue dom v).memWf := by
  unfold State.loadQueue
  dsimp only
  split
  · exact State.memWf_modDom _ _ _ h
  · split
    · exact State.memWf_modDom _ _ _ h
    · split
      · exact State.memWf_modDom _ _ _ h
      · refine State.memWf_modDom _ _ _ (.clearWaits ?_)
        exact h

theorem State.memWf.loadAgain {s : State} (h : s.memWf) {dom} : (s.loadAgain dom).memWf := State.memWf_elim _ h (fun _ => h.loadQueue)

theorem memWf_execQfeLoadStart {s : State} (h : s.memWf) {dom v} : evMemWf (execQfeLoadStart dom v s) := by
  unfold execQfeLoadStart
  dsimp only
  exact .runs (.ite h h.loadQueue)

theorem memWf_execQfeStop {s : State} (h : s.memWf) {dom v} : evMemWf (execQfeStop dom v s) := by
  unfold execQfeStop
  dsimp only
  refine .runs ?_
  split
  · exact h
  · split
    · exact State.memWf_modDom _ _ _ h
    · refine .clearWaits ?_
      exact h

theorem State.memWf.stopQueue {s : State} (h : s.memWf) {q stat} : (s.stopQueue q stat).memWf := by
  unfold State.stopQueue
  split
  · exact h
  · dsimp only
    split
    · exact h
    · refine .interruptAfter (.clearWaits ?_)
      exact h.ownWrite

theorem State.memWf.queueStep {s : State} (h : s.memWf) {q x r} (e : s.queueStep q x = some r) : r.memWf := by
  unfold State.queueStep at e
  dsimp only at e
  split at e
  · split at e
    · cases e
      exact h.tRead.wait ‹_›
    · cases e
      exact h.stopQueue
    · have ht := h.tRead.ok ‹_›
      split at e
      · cases e
        exact ht.stopQueue
      · split at e
        · cases e
        · split at e <;> cases e
          · exact ht.stopQueue
          · exact ht
  · split at e
    · split at e
      · cases e
        exact h.tRead.wait ‹_›
      · cases e
        exact h.stopQueue
      · have ht := h.tRead.ok ‹_›
        split at e <;> cases e
        · have hu := ht.takeRecord.wait ‹_›
          exact hu
        · have hu := ht.takeRecord.done ‹_›
          exact hu
    · split at e <;> cases e
      · exact h.tStore.wait ‹_›
      · exact h.stopQueue
      · have ht := h.tStore.ok ‹_›
        exact ht

theorem memWf_execQueueTailLatch {s : State} (h : s.memWf) {q} : evMemWf (execQueueTailLatch q s) := by
  unfold execQueueTailLatch
  refine .runs ?_
  split
  · exact h
  · split
    · exact h
    · split
      · exact h.clearWaits
      · have hr := h.queueStep ‹_›
        exact State.memWf.endIdle hr
      · have hr := h.queueStep ‹_›
        exact hr

theorem State.memWf.servedNow {s : State} (h : s.memWf) {lid} : (s.servedNow lid).memWf := h

theorem State.memWf.placeTeam {s : State} (h : s.memWf) {lid hand} : optMemWf (s.placeTeam lid hand) := by
  unfold State.placeTeam
  dsimp only
  split
  · exact trivial
  · split
    · exact trivial
    · split
      · exact trivial
      · split
        · exact h.readArgs.wait ‹_›
        · exact h.killLaunch
        · exact (State.memWf_modLaunch _ _ _ (((h.readArgs.ok ‹_›).clearWaits).startTeam)).servedNow

theorem State.memWf.startRing {s : State} (h : s.memWf) {ag lid q} : optMemWf (s.startRing ag lid q) := by
  unfold State.startRing
  dsimp only
  split
  · exact trivial
  · exact h.tryTask.wait ‹_›
  · split
    · split
      · exact h.tWrite.wait ‹_›
      · exact trivial
    · exact h.killLaunch
    · exact (State.memWf_modLaunch _ _ _ (((h.tryTask.over ‹_›).tWrite.ok ‹_›).clearWaits)).servedNow

theorem State.memWf.placeRing {s : State} (h : s.memWf) {lid} : optMemWf (s.placeRing lid) := by
  unfold State.placeRing
  dsimp only
  split
  · exact trivial
  · split
    · exact trivial
    · split
      · split
        · exact trivial
        · exact h.tRead.wait ‹_›
      · exact h.killLaunch
      · split
        · exact (h.tRead.ok ‹_›).killLaunch
        · exact (h.tRead.ok ‹_›).startRing

theorem State.memWf.finishLaunch {s : State} (h : s.memWf) {lid} : optMemWf (s.finishLaunch lid) := by
  unfold State.finishLaunch
  dsimp only
  split
  · exact trivial
  · split
    · exact h.tStore.wait ‹_›
    · exact h
    · have ht := h.tStore.ok ‹_›
      exact ht

theorem State.memWf.placeOne {s : State} (h : s.memWf) {lid} : optMemWf (s.placeOne lid) := by
  unfold State.placeOne
  refine optMemWf.or h.finishLaunch (optMemWf.or h.placeRing ?_)
  split
  · exact h.placeTeam
  · exact trivial

theorem State.memWf.placeNext {s : State} (h : s.memWf) {hand lid} : optMemWf (s.placeNext hand lid) := by
  unfold State.placeNext
  split
  · split
    · exact h.placeTeam
    · exact trivial
  · exact h.placeOne

theorem State.memWf.placeFrom {s : State} (h : s.memWf) {hand lids} : optMemWf (s.placeFrom hand lids) := by
  induction lids with
  | nil => exact trivial
  | cons lid t ih =>
    unfold State.placeFrom
    split
    · exact h.placeNext.some ‹_›
    · split
      · exact trivial
      · exact ih

theorem memWf_execTeamPlace {s : State} (h : s.memWf) {die} : evMemWf (execTeamPlace die s) := by
  unfold execTeamPlace
  exact .runs (State.memWf_getD h.placeFrom h)

theorem memWf_execTeamHandoff {s : State} (h : s.memWf) {die} : evMemWf (execTeamHandoff die s) := by
  unfold execTeamHandoff
  exact .runs (State.memWf_getD h.placeFrom h)

theorem memWf_execTakeDeferredTrap {s : State} (h : s.memWf) {g} : evMemWf (execTakeDeferredTrap g s) := by
  unfold execTakeDeferredTrap
  dsimp only
  refine .runs ?_
  split
  · exact h
  · exact .ite h (((State.memWf_modGroup _ _ _ h).asClass).takeTrap)

/-! ### Pre-emption -/

theorem memWf_execPreempt {s : State} (h : s.memWf) {dom v} : evMemWf (execPreempt dom v s) := by
  unfold execPreempt
  dsimp only
  exact .runs (.ite h (State.memWf_modDom _ _ _ h))

theorem memWf_execGroupHeld {s : State} (h : s.memWf) {g} : evMemWf (execGroupHeld g s) := by
  unfold execGroupHeld
  refine .runs ?_
  split
  · exact h
  · exact .ite (State.memWf_modGroup _ _ _ h) h

theorem State.memWf.holding {s : State} (h : s.memWf) : s.holding.memWf := h
theorem State.memWf.notDrained {s : State} (h : s.memWf) {dom space} : (s.notDrained dom space).memWf := h

theorem memWf_execDrainLimitExpiry {s : State} (h : s.memWf) {dom} : evMemWf (execDrainLimitExpiry dom s) := by
  unfold execDrainLimitExpiry
  dsimp only
  refine .runs ?_
  split
  · exact h
  · exact .ite h h.notDrained

theorem State.memWf.tagImage {s : State} (h : s.memWf) {t at_} : (s.tagImage t at_).memWf :=
  h.foldl fun _ _ hb => .ite (State.memWf_setPoison _ _ _ hb) hb

theorem State.memWf.saveTeams {s : State} (h : s.memWf) {dom space launches tids at_} :
    (s.saveTeams dom space launches tids at_).1.memWf := by
  induction tids generalizing s at_ with
  | nil => exact h
  | cons _ _ ih => exact ih (State.memWf.tagImage (State.memWf_writeClean _ _ _ h))

theorem memWf_execPreemptSave {s : State} (h : s.memWf) {dom} : evMemWf (execPreemptSave dom s) := by
  have kept : ∀ (t : State) (a b c d), t.memWf → ({ t with saved := a, groups := b, waits := c, teams := d } : State).memWf :=
    fun _ _ _ _ _ ht => ht
  unfold execPreemptSave
  refine .runs ?_
  split
  · exact h
  · dsimp only
    split
    · exact h
    · split
      · exact h.notDrained
      · split
        · exact h
        · exact kept _ _ _ _ _ (State.memWf_modDom _ _ _ (State.memWf.saveTeams (State.memWf_writeClean _ _ _ h)))

theorem memWf_execResume {s : State} (h : s.memWf) {dom v} : evMemWf (execResume dom v s) := by
  unfold execResume
  dsimp only
  refine .runs ?_
  split
  · exact h
  · split
    · exact .ite h h.notDrained
    · exact State.memWf_modDom _ _ _ h

theorem State.memWf.restoreLocal {s : State} (h : s.memWf) {core base len at_} : (s.restoreLocal core base len at_).memWf :=
  h.writeLoc.foldl fun _ _ hb => hb.setLocPoison

theorem State.memWf.putTags {s : State} (h : s.memWf) {die dom space va tags} : (s.putTags die dom space va tags).memWf :=
  h.foldl fun _ _ hb => State.memWf_poisonRange _ _ _ hb

theorem State.memWf.writeStacks {s : State} (h : s.memWf) {agent die l slot bs lane} :
    (s.writeStacks agent die l slot bs lane).memWf := by
  induction bs generalizing s lane with
  | nil => exact h
  | cons _ _ ih =>
    unfold State.writeStacks
    dsimp only
    split
    · exact ih (h.tWrite.ok ‹_›).putTags
    · exact h.tWrite

theorem State.memWf.writeAllStacks {s : State} (h : s.memWf) {agent die l gs} :
    (s.writeAllStacks agent die l gs).memWf := by
  induction gs generalizing s with
  | nil => exact h
  | cons _ _ ih =>
    unfold State.writeAllStacks
    split
    · exact ih (h.writeStacks.ok ‹_›)
    · exact h.writeStacks

theorem State.memWf.moveStacks {s : State} (h : s.memWf) {agent die k f} : (s.moveStacks agent die k f).memWf := by
  unfold State.moveStacks
  split
  · exact (h.stash.ok ‹_›).writeAllStacks
  · exact h.stash

theorem State.memWf.restoreTeam {s : State} (h : s.memWf) {k f} : (s.restoreTeam k f).memWf :=
  (State.memWf_modCore _ _ _ h.restoreLocal).install

theorem State.memWf.resumed {s : State} (h : s.memWf) : s.resumed.memWf := h
theorem State.memWf.restored {s : State} (h : s.memWf) {k} : (s.restored k).memWf := h
theorem State.memWf.lookAgain {s : State} (h : s.memWf) {slots} : (s.lookAgain slots).memWf := h.notify

theorem memWf_execTeamRestore {s : State} (h : s.memWf) {die} : evMemWf (execTeamRestore die s) := by
  unfold execTeamRestore
  refine .runs ?_
  split
  · exact h.resumed
  · dsimp only
    split
    · exact h
    · split
      · exact h.killLaunch.resumed
      · split
        · exact h.moveStacks.wait ‹_›
        · exact h.killLaunch.resumed
        · exact (h.moveStacks.ok ‹_›).clearWaits.restoreTeam.restored.servedNow.lookAgain

/-! ### Invalidation and hand-over -/

theorem State.memWf.imageDelta {s : State} (h : s.memWf) {dom stripe line enters} : (s.imageDelta dom stripe line enters).memWf := by
  unfold State.imageDelta
  split
  · exact h
  · split
    · exact h.sendDeltas
    · split
      · exact (State.memWf.snd h.oldLine ‹_›).sendDeltas

theorem State.memWf.unframe {s : State} (h : s.memWf) {dom step f} : (s.unframe dom step f).memWf := by
  unfold State.unframe
  exact State.memWf_modDom _ _ _ (.foldl (h.foldl fun _ _ hb => hb.writeBack) fun _ _ hb => hb.imageDelta)

theorem State.memWf.reframe {s : State} (h : s.memWf) {dom step f} : (s.reframe dom step f).memWf :=
  (State.memWf_modDom _ _ _ h).foldl fun _ _ hb => hb.imageDelta

theorem State.memWf.rewalk {s : State} (h : s.memWf) {dom space lo len} : optMemWf (s.rewalk dom space lo len) := by
  unfold State.rewalk
  cases s.changedStep dom space lo len with
  | none => exact trivial
  | some k =>
    refine State.memWf.ite h ?_
    split
    · exact h.unframe
    · exact h.reframe

theorem State.memWf.dropLeaves {s : State} (h : s.memWf) {dom space lo len} : (s.dropLeaves dom space lo len).memWf := h
theorem State.memWf.invalidate {s : State} (h : s.memWf) {dom space lo len} : (s.invalidate dom space lo len).memWf := h

theorem memWf_execXltInvRange {s : State} (h : s.memWf) {dom v} : evMemWf (execXltInvRange dom v s) := by
  unfold execXltInvRange
  dsimp only
  exact .runs (.ite h (.ite (State.memWf_modDom _ _ _ h) h.invalidate))

theorem State.memWf.killWhole {s : State} (h : s.memWf) {lid} : (s.killWhole lid).memWf := h

theorem State.memWf.clearFor {s : State} (h : s.memWf) {lid} : (s.clearFor lid).memWf := by
  unfold State.clearFor
  dsimp only
  split
  · exact h
  · exact h.enterFault
  · exact h.clearWaits.killWhole
  · exact h.clearDerived.clearWaits

theorem State.memWf.dropTables {s : State} (h : s.memWf) {lids} : (s.dropTables lids).memWf := h

theorem State.memWf.clearTables {s : State} (h : s.memWf) {lids} : (s.clearTables lids).memWf :=
  .dropTables (h.foldl fun _ _ hb => hb.clearFor)

theorem memWf_execXltInvHandles {s : State} (h : s.memWf) {dom v} : evMemWf (execXltInvHandles dom v s) := by
  unfold execXltInvHandles
  dsimp only
  exact .runs (.ite h (.ite (State.memWf_modDom _ _ _ h) ((State.memWf_modDom _ _ _ h).clearTables)))

theorem State.memWf.invStep {s : State} (h : s.memWf) {dom space lo len seq} : (s.invStep dom space lo len seq).1.memWf := by
  unfold State.invStep
  split
  · dsimp only
    split
    · exact h
    · exact h.clearTables
  · split
    · exact h
    · split
      · exact h.rewalk.some ‹_›
      · exact h

theorem memWf_execXltInvDone {s : State} (h : s.memWf) {dom} : evMemWf (execXltInvDone dom s) := by
  unfold execXltInvDone
  refine .runs ?_
  split
  · exact h
  · exact .ite (State.memWf_modDom _ _ _ (.ite h.invStep h.invStep.dropLeaves)) h.invStep

theorem State.memWf.storeOwn {s : State} (h : s.memWf) {ls own} : (s.storeOwn ls own).memWf :=
  h.foldl fun _ _ hb => .ite hb.ownWrite hb.putHome

theorem memWf_execToHost {s : State} (h : s.memWf) {dom v} : evMemWf (execToHost dom v s) := by
  unfold execToHost
  dsimp only
  refine .runs ?_
  split
  · exact h
  · split
    · exact State.memWf_modDom _ _ _ h
    · exact State.memWf_modDom _ _ _ h.storeOwn.dropLeaves

theorem memWf_execToHostDone {s : State} (h : s.memWf) {dom} : evMemWf (execToHostDone dom s) := by
  unfold execToHostDone
  refine .runs ?_
  split
  · exact h
  · dsimp only
    split
    · exact h.invStep
    · split
      · exact State.memWf_modDom _ _ _ h.invStep
      · exact .ite (State.memWf_modDom _ _ _ h.invStep.allHostBack) h.invStep

theorem memWf_execToDevice {s : State} (h : s.memWf) {dom v} : evMemWf (execToDevice dom v s) := by
  unfold execToDevice
  refine .runs ?_
  split
  · exact h
  · split
    · exact State.memWf_modDom _ _ _ h
    · exact State.memWf_modDom _ _ _ h.storeOwn

theorem memWf_execFbStatWrite {s : State} (h : s.memWf) {dom v} : evMemWf (execFbStatWrite dom v s) :=
  .runs (.ite h (.ite (State.memWf_modDom _ _ _ h) (State.memWf_modDom _ _ _ h)))

theorem State.memWf.replay {s : State} (h : s.memWf) {dom all fate space page} : (s.replay dom all fate space page).memWf := h

/-! ### Moves -/

theorem State.memWf.refuseMove {s : State} (h : s.memWf) {dom die code} : (s.refuseMove dom die code).memWf := h

theorem memWf_execMoveWalkEnd {s : State} (h : s.memWf) {dom die} : evMemWf (execMoveWalkEnd dom die s) := by
  unfold execMoveWalkEnd
  dsimp only
  refine .runs ?_
  split
  · exact h
  · split
    · exact h
    · split
      · exact h.refuseMove
      · split
        · exact h.refuseMove
        · split
          · exact h
          · split
            · exact h
            · exact h.enterFault
            · exact .ite h.refuseMove h.clearWaits.modMig

theorem memWf_execAbort {s : State} (h : s.memWf) {dom die v} : evMemWf (execAbort dom die v s) := by
  unfold execAbort
  dsimp only
  refine .runs ?_
  split
  · exact h
  · split
    · refine .modMig ?_
      exact h
    · refine .modMig ?_
      exact h

theorem State.memWf.loseAccess {s : State} (h : s.memWf) {x slot} : (s.loseAccess x slot).memWf := by
  unfold State.loseAccess
  refine .foldl ?_ fun _ _ hb => ?_
  · exact h
  · split
    · exact hb
    · exact hb.loseLoad

theorem State.memWf.poisonRaw {s : State} (h : s.memWf) {pa n} : (s.poisonRaw pa n).memWf :=
  h.foldl fun _ _ hb => State.memWf_setPoison _ _ _ hb

theorem State.memWf.markLost {s : State} (h : s.memWf) {dom x} : (s.markLost dom x).memWf :=
  .ite h (.foldl (.notifyPhys (.foldl (.dropLeaves (.ite h.ownWrite h.putHome)) fun _ _ hb => hb.poisonRaw)) fun _ _ hb => hb.loseAccess)

theorem State.memWf.loseLocation {s : State} (h : s.memWf) {dom die x source} : (s.loseLocation dom die x source).memWf :=
  h.modMig.markLost

theorem memWf_execLocationLost {s : State} (h : s.memWf) {dom die source} : evMemWf (execLocationLost dom die source s) := by
  unfold execLocationLost
  dsimp only
  refine .runs ?_
  split
  · exact h
  · exact .ite h h.loseLocation

theorem State.memWf.turnOn {s : State} (h : s.memWf) {die dom} : (s.turnOn die dom).memWf := h
theorem State.memWf.backAll {s : State} (h : s.memWf) {lines} : (s.backAll lines).memWf := h.foldl fun _ _ hb => .ite hb hb.writeBack
theorem State.memWf.wakeBoth {s : State} (h : s.memWf) {from_ to_} : (s.wakeBoth from_ to_).memWf := h.wake.wake

theorem State.memWf.copyChunk {s : State} (h : s.memWf) {x j to_} : (s.copyChunk x j to_).memWf :=
  h.foldl fun _ _ hb => (State.memWf_putLine _ _ _ (State.memWf_homeLine _ _ hb)).wakeBoth

theorem State.memWf.bringBack {s : State} (h : s.memWf) {x j} : (s.bringBack x j).memWf := by
  unfold State.bringBack
  refine .foldl ?_ fun _ _ hb => ?_
  · exact h
  · dsimp only
    split <;> exact (State.memWf_putLine _ _ _ (State.memWf_homeLine _ _ hb)).wakeBoth

theorem memWf_execChunkCopy {s : State} (h : s.memWf) {dom die} : evMemWf (execChunkCopy dom die s) := by
  unfold execChunkCopy
  dsimp only
  refine .runs ?_
  split
  · exact h
  · split
    · exact h
    · split
      · exact h.loseLocation
      · exact .ite h.backAll.turnOn h.backAll.turnOn.copyChunk.modMig

theorem State.memWf.endMove {s : State} (h : s.memWf) {dom die x state code} : (s.endMove dom die x state code).memWf :=
  .interruptAfter (.modMig (.ite h (.ite h.ownPut h.putHome)))

theorem State.memWf.endReturn {s : State} (h : s.memWf) {dom die x} : (s.endReturn dom die x).memWf := .ite h.endMove h.endMove

theorem State.memWf.loseChunk {s : State} (h : s.memWf) {dom die x j} : (s.loseChunk dom die x j).memWf := by
  unfold State.loseChunk
  dsimp only
  refine .markLost (.modMig ?_)
  exact h

theorem State.memWf.switched {s : State} (h : s.memWf) {dom die j} : (s.switched dom die j).memWf := by
  unfold State.switched
  dsimp only
  split
  · exact .ite h.modMig.endReturn h.modMig
  · exact h.modMig

theorem memWf_execChunkReturn {s : State} (h : s.memWf) {dom die} : evMemWf (execChunkReturn dom die s) := by
  unfold execChunkReturn
  dsimp only
  refine .runs ?_
  split
  · exact h
  · split
    · exact h
    · split
      · exact h.endReturn
      · split
        · exact h.loseLocation
        · exact .ite h.turnOn.switched (.ite h.turnOn.loseChunk.switched h.turnOn.bringBack.switched)

theorem State.memWf.forward {s : State} (h : s.memWf) {x} : (s.forward x).memWf := h
theorem State.memWf.passLeases {s : State} (h : s.memWf) {x} : (s.passLeases x).memWf := h.foldl fun _ _ hb => .ite hb hb
theorem State.memWf.moveFrames {s : State} (h : s.memWf) {x} : (s.moveFrames x).memWf := h
theorem State.memWf.dropSourceDirty {s : State} (h : s.memWf) {x} : (s.dropSourceDirty x).memWf := h
theorem State.memWf.dropLanded {s : State} (h : s.memWf) {x} : (s.dropLanded x).memWf := h

theorem State.memWf.commit {s : State} (h : s.memWf) {dom die x} : (s.commit dom die x).memWf := by
  have hd : (((s.dropSourceDirty x).passLeases x).dropLanded x).memWf := h.dropSourceDirty.passLeases.dropLanded
  have kept : ∀ (c : Prop) [Decidable c] (t : State) (r), t.memWf → (if c then t else { t with rdc := r }).memWf := by
    intro c _ t r ht
    split <;> exact ht
  refine kept _ _ _ (.forward (.modMig (.moveFrames (.dropLeaves ?_))))
  split
  · exact hd.ownWrite
  · exact hd.putHome

theorem memWf_execMigrationCommit {s : State} (h : s.memWf) {dom die} : evMemWf (execMigrationCommit dom die s) := by
  unfold execMigrationCommit
  dsimp only
  refine .runs ?_
  split
  · exact h
  · exact .ite h (.ite (.ite h.endMove h) (.ite h.backAll.commit h.backAll))

theorem memWf_execCairnEpoch {s : State} (h : s.memWf) {dom} : evMemWf (execCairnEpoch dom s) := by
  unfold execCairnEpoch
  dsimp only
  exact .runs (.ite h (State.memWf_modDom _ _ _ (h.foldl fun _ _ hb => .ite hb hb.ownPut)))

/-! ### Register windows -/

theorem State.memWf.writeDomain {s : State} (h : s.memWf) {win off size v} : (s.writeDomain win off size v).memWf :=
  .ite h (.ite h (.ite (State.memWf_modDom _ _ _ h) (State.memWf_modDom _ _ _ h)))

theorem State.memWf.writeManagement {s : State} (h : s.memWf) {off size v} : (s.writeManagement off size v).memWf := by
  unfold State.writeManagement
  dsimp only
  split
  · exact h
  · exact h
  · exact h
  · exact h
  · exact h
  · exact h
  · exact .ite h h
  · exact h

theorem memWf_execLnkCfgWrite {s : State} (h : s.memWf) {v} : evMemWf (execLnkCfgWrite v s) := by
  unfold execLnkCfgWrite
  dsimp only
  exact .runs (.ite h h)

/-! ### Ropes -/

theorem State.memWf.modRope {s : State} (h : s.memWf) {dom f} : (s.modRope dom f).memWf := h
theorem State.memWf.ropeDone {s : State} (h : s.memWf) {dom code} : (s.ropeDone dom code).memWf := h.modRope.interrupt
theorem State.memWf.ropeWrote {s : State} (h : s.memWf) {dom code} : (s.ropeWrote dom code).memWf := h.modRope.interruptAfter
theorem State.memWf.learnRebuilt {s : State} (h : s.memWf) {dom pos} : (s.learnRebuilt dom pos).memWf := .ite h h.modRope.interrupt

theorem State.memWf.tellRestored {s : State} (h : s.memWf) {dom r d} : (s.tellRestored dom r d).memWf := by
  unfold State.tellRestored
  dsimp only
  refine .foldl ?_ fun _ _ hb => ?_
  · exact h
  · split
    · exact .ite hb.learnRebuilt hb
    · exact hb

theorem State.memWf.ropeFinished {s : State} (h : s.memWf) {dom d rebuilt} : (s.ropeFinished dom d rebuilt).memWf :=
  .ropeWrote (.modRope (.ite h.tellRestored.modRope h))

theorem State.memWf.askNext {s : State} (h : s.memWf) {dom} : (s.askNext dom).memWf := by
  unfold State.askNext
  dsimp only
  split
  · exact h.askStripe
  · exact h

theorem memWf_execJoin {s : State} (h : s.memWf) {dom v} : evMemWf (execJoin dom v s) := by
  unfold execJoin
  dsimp only
  refine .runs ?_
  split
  · exact h
  · split
    · exact h.ropeDone
    · split
      · exact h.ropeDone
      · split
        · refine .askNext (.modRope ?_)
          split
          · exact h
          · refine State.memWf_initHolder _ _ ?_
            exact h
        · refine .modRope ?_
          split
          · exact h
          · refine State.memWf_initHolder _ _ ?_
            exact h

theorem memWf_execSeedStripe {s : State} (h : s.memWf) {dom} : evMemWf (execSeedStripe dom s) := by
  unfold execSeedStripe
  dsimp only
  refine .runs ?_
  split
  · exact h
  · split
    · exact h
    · split
      · exact h.modRope.ropeFinished
      · split
        · exact .ite h (.ite h.sendDeltas.modRope.ropeFinished h.sendDeltas.modRope)
        · exact .ite h.modRope.ropeFinished h.modRope

theorem State.memWf.xorParity {s : State} (h : s.memWf) {pa x} : (s.xorParity pa x).memWf :=
  (State.memWf_writeHome _ _ _ h).foldl fun _ _ hb => .ite (State.memWf_poisonRange _ _ _ hb) hb

theorem State.memWf.ackDelta {s : State} (h : s.memWf) {d x} : (s.ackDelta d x).memWf := h

theorem State.memWf.applyDelta {s : State} (h : s.memWf) {dom d x} : (s.applyDelta dom d x).memWf :=
  .ackDelta (.modRope (.ite h h.xorParity))

theorem State.memWf.drainDeltas {s : State} (h : s.memWf) {dom d source n} : (s.drainDeltas dom d source n).memWf := by
  induction n generalizing s with
  | zero => exact h
  | succ n ih =>
    unfold State.drainDeltas
    dsimp only
    split
    · exact h
    · split
      · exact h
      · exact ih (State.memWf.modRope h).applyDelta

theorem memWf_execDeltaApply {s : State} (h : s.memWf) {dom x} : evMemWf (execDeltaApply dom x s) := by
  unfold execDeltaApply
  dsimp only
  refine .runs ?_
  split
  · exact h
  · exact .ite h (.ite h.ackDelta h.modRope.drainDeltas)

theorem memWf_execRebuildStartMarker {s : State} (h : s.memWf) {dom pos s0} : evMemWf (execRebuildStartMarker dom pos s0 s) := by
  unfold execRebuildStartMarker
  dsimp only
  refine .runs ?_
  split
  · exact h
  · split
    · exact h
    · split
      · exact h
      · refine .drainDeltas (.modRope ?_)
        exact h

theorem State.memWf.placeLine {s : State} (h : s.memWf) {at_ x} : (s.placeLine at_ x).memWf :=
  (State.memWf.withDirty (State.memWf_putLine _ _ _ h)).notifyPhys

theorem State.memWf.tooFew {s : State} (h : s.memWf) {dom r d} : (s.tooFew dom r d).memWf := by
  unfold State.tooFew
  dsimp only
  refine .ropeWrote (.modRope ?_)
  refine .foldl ?_ fun _ _ hb => ?_
  · exact h
  · split
    · exact State.memWf_poisonRange _ _ _ hb
    · exact hb

theorem State.memWf.rebuildOne {s : State} (h : s.memWf) {dom r d xs} : (s.rebuildOne dom r d xs).memWf := by
  unfold State.rebuildOne
  split
  · exact h.tooFew
  · dsimp only
    split
    · refine .ropeFinished (.modRope ?_)
      split
      · refine .placeLine ?_
        exact h
      · exact h
    · refine .askNext (.modRope ?_)
      split
      · refine .placeLine ?_
        exact h
      · exact h

theorem State.memWf.mendLine {s : State} (h : s.memWf) {at_ y} : (s.mendLine at_ y).memWf := by
  unfold State.mendLine
  split
  · exact (State.memWf.withDirty (State.memWf_putLine _ _ _ h)).notifyPhys
  · exact h.placeLine

theorem State.memWf.repairOne {s : State} (h : s.memWf) {dom r d va frame xs} : (s.repairOne dom r d va frame xs).memWf := by
  unfold State.repairOne
  split
  · exact .ite h.ropeDone h.ropeWrote
  · dsimp only
    split
    · refine .ropeWrote (.modRope (.mendLine ?_))
      exact h
    · refine .askNext (.modRope (.mendLine ?_))
      exact h

theorem State.memWf.repairWalk {s : State} (h : s.memWf) {dom r d va} : (s.repairWalk dom r d va).memWf := by
  unfold State.repairWalk
  dsimp only
  split
  · exact h.clearWaits.ropeDone
  · split
    · exact h.modRope
    · split
      · exact h
      · exact h.modRope.enterFault
      · exact .ite h.clearWaits.modRope.askNext h.clearWaits.ropeDone

theorem memWf_execRebuildStripe {s : State} (h : s.memWf) {dom inputs} : evMemWf (execRebuildStripe dom inputs s) := by
  unfold execRebuildStripe
  dsimp only
  refine .runs ?_
  split
  · exact h
  · split
    · exact .ite h h.rebuildOne
    · exact .ite h h.repairOne
    · exact .ite h h.repairWalk
    · exact h

theorem memWf_execRepairInputRequest {s : State} (h : s.memWf) {dom stripe from_} :
    evMemWf (execRepairInputRequest dom stripe from_ s) := by
  unfold execRepairInputRequest
  dsimp only
  refine .runs ?_
  split
  · exact h
  · split
    · exact h
    · split
      · split
        · exact h.modRope
        · exact h
      · exact .ite h h

theorem State.memWf.thaw {s : State} (h : s.memWf) {dom stripe} : (s.thaw dom stripe).memWf := h

theorem memWf_execSurvivableFlush {s : State} (h : s.memWf) {dom lines} : evMemWf (execSurvivableFlush dom lines s) := by
  unfold execSurvivableFlush
  dsimp only
  refine .runs ?_
  split
  · refine .foldl ?_ fun _ _ hb => ?_
    · exact h
    · exact .ite hb hb.writeBack
  · exact h.foldl fun _ _ hb => .ite hb hb.writeBack

theorem State.memWf.leaveRope {s : State} (h : s.memWf) {dom} : (s.leaveRope dom).memWf := h

theorem memWf_execLose {s : State} (h : s.memWf) {dom v} : evMemWf (execLose dom v s) := by
  unfold execLose
  dsimp only
  refine .runs ?_
  split
  · exact h
  · split
    · exact h.ropeDone
    · split
      · exact h.ropeDone
      · refine .ropeDone (.modRope ?_)
        exact h

theorem memWf_execSetcut {s : State} (h : s.memWf) {dom v} : evMemWf (execSetcut dom v s) := by
  unfold execSetcut
  dsimp only
  refine .runs ?_
  split
  · exact h
  · split
    · exact h.ropeDone
    · split
      · exact h.ropeDone
      · split
        · exact h.ropeDone
        · exact .ite h.ropeDone (.ropeWrote (.modRope (h.foldl fun _ _ hb => hb.xorParity)))

theorem State.memWf.installReplacement {s : State} (h : s.memWf) {dom d p} : (s.installReplacement dom d p).memWf :=
  .ite h.modRope.post h.modRope

theorem memWf_execRebuild {s : State} (h : s.memWf) {dom v} : evMemWf (execRebuild dom v s) := by
  unfold execRebuild
  dsimp only
  refine .runs ?_
  split
  · exact h
  · split
    · exact h.ropeDone
    · split
      · exact h.ropeDone
      · exact .ite h.ropeDone (.ite h.ropeDone h.installReplacement.ropeDone)

theorem memWf_execRepair {s : State} (h : s.memWf) {dom v} : evMemWf (execRepair dom v s) := by
  unfold execRepair
  dsimp only
  refine .runs ?_
  split
  · exact h
  · split
    · exact h.ropeDone
    · exact .ite h.repairWalk h.ropeDone

/-! ### Seoft -/

theorem State.memWf.mailWrote {s : State} (h : s.memWf) {win code spans} : (s.mailWrote win code spans).memWf := by
  unfold State.mailWrote
  dsimp only
  refine .interruptAfter ?_
  exact h

theorem State.memWf.mailDone {s : State} (h : s.memWf) {win code} : (s.mailDone win code).memWf := h.mailWrote

theorem memWf_execReport {s : State} (h : s.memWf) {win v} : evMemWf (execReport win v s) := by
  unfold execReport
  dsimp only
  exact .runs (.ite h (.ite h.mailDone (.ite h.mailDone h.putHome.mailWrote)))

theorem memWf_execGetcert {s : State} (h : s.memWf) {win v} : evMemWf (execGetcert win v s) := by
  unfold execGetcert
  dsimp only
  exact .runs (.ite h (.ite h.mailDone h.putHome.mailWrote))

theorem memWf_execDomcfg {s : State} (h : s.memWf) {win v} : evMemWf (execDomcfg win v s) := by
  unfold execDomcfg
  dsimp only
  refine .runs ?_
  split
  · exact h
  · split
    · exact h.mailDone
    · split
      · exact h.mailDone
      · split
        · exact h.mailDone
        · split
          · exact h.mailDone
          · split
            · exact h.mailDone
            · split
              · exact h.mailDone
              · refine .mailDone ?_
                exact h

theorem State.memWf.drainSlot {s : State} (h : s.memWf) {slot} : (s.drainSlot slot).memWf :=
  (State.memWf_modGroup _ _ _ h).foldl fun _ _ hb => hb.perform

theorem State.memWf.endLaunch {s : State} (h : s.memWf) {lid} : (s.endLaunch lid).memWf := by
  have hk := h.killWhole (lid := lid)
  unfold State.endLaunch
  dsimp only
  split
  · have ht := hk.tStore.ok ‹_›
    exact ht
  · exact hk

theorem State.memWf.endWork {s : State} (h : s.memWf) {dom} : (s.endWork dom).memWf := by
  unfold State.endWork
  dsimp only
  refine .foldl ?_ fun _ _ hb => ?_
  · exact .foldl h fun _ _ hb => hb.drainSlot
  · exact hb.endLaunch

theorem State.memWf.endBlocks {s : State} (h : s.memWf) {dom} : (s.endBlocks dom).memWf := by
  have hr : ((s.peerWait.filter (fun e => peerDom e.2 == dom)).foldl (fun acc e => acc.refusePeer e.2 1) s).memWf :=
    .foldl h fun _ _ hb => hb.refusePeer
  exact hr.modMig.modMig.leaveRope.withFaults

theorem State.memWf.freeDomain {s : State} (h : s.memWf) {dom} : (s.freeDomain dom).memWf := by
  unfold State.freeDomain
  dsimp only
  split
  · refine State.memWf_zeroMem _ _ ?_
    exact h
  · exact h

theorem memWf_execDomoff {s : State} (h : s.memWf) {win v} : evMemWf (execDomoff win v s) := by
  unfold execDomoff
  dsimp only
  exact .runs (.ite h (.ite h.mailDone (.ite h.mailDone h.endWork.endBlocks.freeDomain.mailDone)))

/-! ### Power and resets -/

theorem memWf_execClock {s : State} (h : s.memWf) {v} : evMemWf (execClock v s) := by
  unfold execClock
  dsimp only
  exact .runs (.ite h h)

theorem memWf_execGate {s : State} (h : s.memWf) {v} : evMemWf (execGate v s) :=
  .runs (.ite (h.foldl fun _ _ hb => (State.memWf_modCore _ _ _ hb).gateCheck) h)

theorem memWf_execUngate {s : State} (h : s.memWf) {v} : evMemWf (execUngate v s) := by
  unfold execUngate
  refine .runs ?_
  split
  · dsimp only
    refine .foldl ?_ fun _ _ hb => ?_
    · exact h
    · exact State.memWf_modCore _ _ _ hb
  · exact h

theorem memWf_execDroopSag {s : State} (h : s.memWf) {core k} : evMemWf (execDroopSag core k s) := by
  unfold execDroopSag
  refine .runs ?_
  split
  · dsimp only
    exact h
  · exact h

theorem memWf_execDroopHoldExpiry {s : State} (h : s.memWf) {core} : evMemWf (execDroopHoldExpiry core s) := by
  unfold execDroopHoldExpiry
  refine .runs ?_
  split
  · exact .ite (State.memWf_modCore _ _ _ h) h
  · exact h

theorem State.memWf.degrade {s : State} (h : s.memWf) {n st} : (s.degrade n st).memWf := by
  unfold State.degrade
  refine .interrupt ?_
  exact h

theorem State.memWf.correct {s : State} (h : s.memWf) {n} : (s.correct n).memWf := .ite h h
theorem State.memWf.trip {s : State} (h : s.memWf) : s.trip.memWf := State.memWf_nonVolatile _ h

theorem memWf_execThermalWarn {s : State} (h : s.memWf) {temp} : evMemWf (execThermalWarn temp s) := by
  unfold execThermalWarn
  dsimp only
  refine .runs ?_
  split
  · exact h.trip
  · split
    · refine .interrupt ?_
      exact h
    · exact h

theorem State.memWf.bringUp {s : State} (h : s.memWf) {x} : (s.bringUp x).memWf := by
  unfold State.bringUp
  split
  · dsimp only
    split <;> exact State.memWf_nonVolatile _ h

theorem memWf_execFlrDomain {s : State} (h : s.memWf) {dom} : evMemWf (execFlrDomain dom s) := by
  unfold execFlrDomain
  refine .runs ?_
  split
  · exact h
  · dsimp only
    refine .foldl ?_ fun _ _ hb => ?_
    · refine .foldl ?_ fun _ _ hb => ?_
      · exact h
      · exact hb.killWhole
    · exact hb.clearWaits

/-! ### Special registers -/

theorem memWf_execSrd {s : State} (h : s.memWf) {d r} : evMemWf (execSrd d r s) := by
  unfold execSrd
  dsimp only
  refine .runs (h.withOperands fun p t ht => ?_)
  exact ht.retire

theorem memWf_execSwr {s : State} (h : s.memWf) {a r} : evMemWf (execSwr a r s) := by
  unfold execSwr
  dsimp only
  split
  · exact .runs h.decodeTrap
  · refine .runs ?_
    refine h.withOperands fun p t ht => ?_
    exact .ite h.trapAt ht.modCur.advance

/-! ### Before a turn -/

theorem State.memWf.readied {s : State} (h : s.memWf) : s.readied.memWf := by
  unfold State.readied
  dsimp only
  refine .aged (.holding ?_)
  exact h.trimSlices

/-! ### Every row of the opcode table -/

theorem exec_memWf {s : State} (h : s.memWf) (i : Instr) : evMemWf (exec i s) := by
  cases i with
  | nop => exact .runs h.advance
  | add | sub | mul | mulh | mulhu | and | or | xor | shl | shr | sar | min | max | minu | maxu | slt | sltu | seq => exact h.word2
  | mad | sel | ffma | fclass | dfma | dclass | movi | movih | ptest | pclr => exact .runs h.alu
  | add64 | sub64 | mul64 => exact h.pair2
  | shl64 | shr64 | sar64 => exact h.shift2
  | slt64 | sltu64 => exact h.test2
  | madwu | addwu => exact h.wide3
  | mov | not | neg | abs | clz | ctz | popc | brev | bswap | sextb | sexth | zextb | zexth | tcnt => exact h.word1
  | mov64 | neg64 => exact h.pair1
  | fadd | fsub | fmul | fmin | fmax => exact h.flt2
  | fslt | fsle | fseq | fsun => exact h.fltCmp
  | fneg | fabs | fsqrt | frcp | frsq | fexp2 | flog2 | fsin | fcos | frndn | frndz | frndp | frndm => exact h.flt1
  | dadd | dsub | dmul | dmin | dmax => exact h.dbl2
  | dslt | dsle | dseq => exact h.dblCmp
  | dneg | dabs | dsqrt | drcp | drsq | drndn | drndz | drndp | drndm => exact h.dbl1
  | hadd2 | hmul2 | badd2 | bmul2 => exact h.packed2
  | hfma2 | bfma2 => exact h.packed3
  | cvt | cvtz => exact h.cvtAs
  | shfl | shflx | shflu | shfld => exact h.shuffleAs
  | lsegi | lsegf | lsegd => exact h.segAs
  | lscani | lscanf | lscand | lredi | lredf | lredd | lmini | lmaxi | lany | lall | lcount | lrank => exact h.lunAs
  | lballot | rdlane => exact .runs h.cross
  | srd => exact memWf_execSrd h
  | swr => exact memWf_execSwr h
  | ldB | ldBu | ldH | ldHu | ldW | ldD | ldQ | ldcW | ldcD => exact h.loadAs
  | stB | stH | stW | stD | stQ => exact h.storeAs
  | atomW | atomD => exact h.atomAs
  | redW | redD => exact h.redAs
  | rcloseF32 | rcloseF64 => exact h.closeAs
  | rldW | rldD => exact h.rldAs
  | rstW | rstD => exact h.rstAs
  | ratom => exact memWf_execRatom h
  | fence => exact memWf_execFence h
  | cacheWb => exact memWf_execCacheWb h
  | cacheWbinv => exact memWf_execCacheWbinv h
  | cacheInv => exact memWf_execCacheInv h
  | cacheCinv => exact .runs ((State.memWf_modCore _ _ _ h).advance)
  | cacheIinv => exact memWf_execCacheIinv h
  | cacheFetchb => exact .runs h.modCur.advance
  | waitcEq | waitcNe | waitcGe => exact h.waitAs
  | xcopy | xgather | xscatter => exact h.copyAs
  | xencTerm | xencBlock | xdecTerm | xdecBlock | mtask | mtaskStream => exact h.engineAs
  | mbound => exact memWf_execMbound h
  | xstat => exact .runs (.ite h h.modCur.modCur.advance)
  | b | bS => exact h.branchAlways
  | bz | bnz | bltz | bgez | bzS | bnzS => exact h.branchAs
  | call => exact .runs h.callTo
  | callr => exact h.jumpAs fun _ => h.callTo
  | jr => exact h.jumpAs fun _ => h.modCur.autoPark
  | ret => exact memWf_execRet h
  | exit => exact .runs h.modCur.barriersCheck
  | yield => exact memWf_execYield h
  | bar | barArr => exact .runs h.arriveAt
  | barWait => exact .runs h.modCur
  | spawn => exact memWf_execSpawn h
  | trap => exact memWf_execTrap h
  | bkpt => exact .runs h.takeTrap
  | xret => exact .runs h.xret
  | hnarrow => exact memWf_execHnarrow h
  | hquery => exact memWf_execHquery h
  | unpark => exact .runs (State.memWf_modGroup _ _ _ h)
  | priorityAgeBoost => exact .runs (.ite (State.memWf_modGroup _ _ _ h) h)
  | takeDeferredTrap => exact memWf_execTakeDeferredTrap h
  | loadReturn => exact memWf_execLoadReturn h
  | fenceComplete => exact memWf_execFenceComplete h
  | homeWritePerform => exact memWf_execHomeWritePerform h
  | monitorRetest => exact memWf_execMonitorRetest h
  | writeAck => exact memWf_execWriteAck h
  | homeFill => exact memWf_execHomeFill h
  | repairInputRequest => exact memWf_execRepairInputRequest h
  | cacheFillArrival => exact memWf_execCacheFillArrival h
  | leaseExpiry => exact memWf_execLeaseExpiry h
  | l2Evict => exact memWf_execL2Evict h
  | l2Writeback => exact .runs (.ite h (.ite h.hostBack h.writeBack))
  | hostSnoop => exact .runs (.ite h.endIdle h)
  | hostSnoopReply => exact memWf_execHostSnoopReply h
  | hostMemAccess => exact memWf_execHostMemAccess h
  | peerRequest => exact memWf_execPeerRequest h
  | peerAnswer => exact memWf_execPeerAnswer h
  | rstRefusal => exact memWf_execRstRefusal h
  | planeFail => exact memWf_execPlaneFail h
  | planeTimeout => exact memWf_execPlaneTimeout h
  | planeRetrain => exact memWf_execPlaneRetrain h
  | deltaApply => exact memWf_execDeltaApply h
  | survivableFlush => exact memWf_execSurvivableFlush h
  | rebuildStartMarker => exact memWf_execRebuildStartMarker h
  | channelHalf => exact .runs (.ite h.degrade h)
  | channelOffline => exact .runs (.ite h.degrade.notify h)
  | queueTailLatch => exact memWf_execQueueTailLatch h
  | teamPlace => exact memWf_execTeamPlace h
  | teamHandoff => exact memWf_execTeamHandoff h
  | taskStart => exact memWf_execTaskStart h
  | groupEnd => exact memWf_execGroupEnd h
  | engineCommandStart => exact memWf_execEngineCommandStart h
  | mtaskStart => exact memWf_execMtaskStart h
  | blockClose => exact memWf_execBlockClose h
  | epilogue => exact memWf_execEpilogue h
  | engineCommandComplete => exact memWf_execEngineCommandComplete h
  | groupHeld => exact memWf_execGroupHeld h
  | preemptSave => exact memWf_execPreemptSave h
  | drainLimitExpiry => exact memWf_execDrainLimitExpiry h
  | teamRestore => exact memWf_execTeamRestore h
  | moveWalkEnd => exact memWf_execMoveWalkEnd h
  | chunkCopy => exact memWf_execChunkCopy h
  | chunkReturn => exact memWf_execChunkReturn h
  | migrationCommit => exact memWf_execMigrationCommit h
  | locationLost => exact memWf_execLocationLost h
  | cairnEpoch => exact memWf_execCairnEpoch h
  | seedStripe => exact memWf_execSeedStripe h
  | rebuildStripe => exact memWf_execRebuildStripe h
  | coldReset | hotReset => exact h.bringUp
  | flrDomain => exact memWf_execFlrDomain h
  | flrManagement | pwrStatWrite | refreshPostponementLimit => exact .runs h
  | droopSag => exact memWf_execDroopSag h
  | droopHoldExpiry => exact memWf_execDroopHoldExpiry h
  | thermalTrip => exact .runs h.trip
  | thermalWarn => exact memWf_execThermalWarn h
  | clock => exact memWf_execClock h
  | clockPointReached | selfref | selfrefEntry | idle => exact .runs (.ite h h)
  | gate => exact memWf_execGate h
  | ungate => exact memWf_execUngate h
  | intStatWrite => exact .runs (.ite h (.ite h h))
  | lnkCfgWrite => exact memWf_execLnkCfgWrite h
  | registerWrite => exact .runs (.ite h (.ite h.writeManagement h.writeDomain))
  | report => exact memWf_execReport h
  | getcert => exact memWf_execGetcert h
  | domcfg => exact memWf_execDomcfg h
  | domoff => exact memWf_execDomoff h
  | xltInvSpace => exact .runs (.ite h h.invalidate)
  | xltInvRange => exact memWf_execXltInvRange h
  | xltInvHandles => exact memWf_execXltInvHandles h
  | xltInvDone => exact memWf_execXltInvDone h
  | toHost => exact memWf_execToHost h
  | toHostDone => exact memWf_execToHostDone h
  | toDevice => exact memWf_execToDevice h
  | qfeLoadStart => exact memWf_execQfeLoadStart h
  | qfeStop => exact memWf_execQfeStop h
  | peerSync | fbBaseWrite | fbDepthWrite | replayDone => exact .runs (.ite (State.memWf_modDom _ _ _ h) h)
  | peerSyncDone => exact .runs (.ite h (.ite (State.memWf_modDom _ _ _ h) h))
  | fbStatWrite => exact memWf_execFbStatWrite h
  | replayAll | replayPage | endPage | endSpace => exact .runs (.ite h.replay h)
  | preempt => exact memWf_execPreempt h
  | resume => exact memWf_execResume h
  | move => exact .runs (.ite h h.modMig)
  | abort => exact memWf_execAbort h
  | join => exact memWf_execJoin h
  | leave => exact .runs (.ite h (.ite h.ropeDone h.leaveRope.ropeDone))
  | lose => exact memWf_execLose h
  | setcut => exact memWf_execSetcut h
  | rebuild => exact memWf_execRebuild h
  | repair => exact memWf_execRepair h
  | storeLeavesCore => exact memWf_execStoreLeavesCore h
  | uncorrectableError => exact memWf_execUncorrectableError h
  | cxlPortDown => exact .runs (.ite h.modCxl.interrupt.notify h)
  | cxlPortUp => exact .runs (.ite h.modCxl.interrupt h)

/-! ### Turns -/

theorem State.memWf.event {s : State} (h : s.memWf) {i} : evMemWf (s.event i) := by
  unfold State.event
  split
  · exact .runs h
  · exact exec_memWf h i

theorem State.memWf.issueFrom {s : State} (h : s.memWf) {slot held second} : evMemWf (s.issueFrom slot held second) := by
  unfold State.issueFrom
  split
  · exact exec_memWf h _
  · have hx := exec_memWf (h.issueGroup.run ‹_›)
    split
    · exact .ite (.ite h h.tick) ((hx _).next ‹_›)
    · exact hx _
  · exact .runs (h.issueGroup.done ‹_›)

theorem State.memWf.issueOn {s : State} (h : s.memWf) {core part held} : evMemWf (s.issueOn core part held) := by
  unfold State.issueOn
  split
  · exact trivial
  · split
    · exact h
    · exact h.issueFrom

theorem State.memWf.issueSecond {s : State} (h : s.memWf) {core part} : evMemWf (s.issueSecond core part) := by
  unfold State.issueSecond
  split
  · exact .runs h
  · split
    · exact trivial
    · split
      · exact .runs h
      · split
        · exact .runs h
        · exact h.issueFrom

theorem State.memWf.turn {s : State} (h : s.memWf) (t : Turn) : evMemWf (s.turn t) := by
  cases t with
  | event i => exact h.event
  | elapse n => exact .runs h.tick
  | issue core part held => exact h.issueOn
  | dropCopy c line => exact .runs h.dropCopyAt
  | dropConst | dropCode | dropHandle => exact .runs (State.memWf_modCore _ _ _ h)
  | dropLeaf | dropWalk => exact .runs h
  | specFill slot hx off lease => exact .runs h.specFill
  | prefetch slot lane pc => exact .runs h.prefetch
  | second core part => exact h.issueSecond
  | corrected channel => exact .runs h.correct
  | thaw dom stripe => exact .runs h.thaw
  | rebuilt dom pos => exact .runs h.learnRebuilt
  | ownWrite => exact .runs h.ownStepOf
  | portLink port up => exact .runs h.portLink

/-! ### The module's own course -/

/-- Every step of a list keeps the form. -/
def AllKeepMemWf (l : List (State → Ev)) : Prop := ∀ f ∈ l, ∀ s : State, s.memWf → evMemWf (f s)

theorem AllKeepMemWf.nil : AllKeepMemWf [] := by
  intro f hf
  cases hf

theorem AllKeepMemWf.cons {f : State → Ev} {l} (hf : ∀ s : State, s.memWf → evMemWf (f s)) (hl : AllKeepMemWf l) :
    AllKeepMemWf (f :: l) :=
  List.forall_mem_cons.mpr ⟨hf, hl⟩

theorem AllKeepMemWf.append {l m} (hl : AllKeepMemWf l) (hm : AllKeepMemWf m) : AllKeepMemWf (l ++ m) :=
  List.forall_mem_append.mpr ⟨hl, hm⟩

theorem AllKeepMemWf.map {α : Type} {l : List α} {f : α → State → Ev} (hf : ∀ a, ∀ s : State, s.memWf → evMemWf (f a s)) :
    AllKeepMemWf (l.map f) :=
  List.forall_mem_map.mpr fun a _ => hf a

theorem AllKeepMemWf.flatMap {α : Type} {l : List α} {f : α → List (State → Ev)} (hf : ∀ a, AllKeepMemWf (f a)) :
    AllKeepMemWf (l.flatMap f) :=
  List.forall_mem_flatMap.mpr fun a _ => hf a

theorem AllKeepMemWf.ite {c : Prop} [Decidable c] {l m} (hl : AllKeepMemWf l) (hm : AllKeepMemWf m) :
    AllKeepMemWf (if c then l else m) := by
  split
  · exact hl
  · exact hm

/-- A list of one row. -/
theorem AllKeepMemWf.row (i : Instr) : AllKeepMemWf [exec i] := .cons (fun _ h => exec_memWf h i) .nil

theorem allKeepMemWf_memorySteps (s : State) : AllKeepMemWf s.memorySteps := by
  refine .append (.append (.append (.append (.append (.append ?_ ?_) ?_) ?_) (.flatMap fun e => .append ?_ ?_)) ?_) ?_
  · exact .map fun a _ h => exec_memWf h (.writeAck a.id)
  · exact .map fun w _ h => exec_memWf h (.homeWritePerform w.id)
  · exact .map fun n _ h => exec_memWf h (.cacheFillArrival n)
  · exact .flatMap fun e => .map fun w _ h => exec_memWf h (.storeLeavesCore e.1 w.id)
  · exact .flatMap fun _ => .map fun n _ h => exec_memWf h (.homeFill (coreOfSlot e.1) n Config.minLease)
  · exact .ite .nil (.row (.loadReturn e.1))
  · exact .map fun n _ h => exec_memWf h (.hostSnoopReply n)
  · exact .ite .nil (.cons (fun _ h => .runs h.ownStepOf) .nil)

theorem allKeepMemWf_cmdSteps (c : Cmd) (n : Nat) : AllKeepMemWf (c.steps n) := by
  refine .append (.append ?_ ?_) ?_
  · exact .append (.row (.engineCommandStart n)) (.row (.mtaskStart n))
  · exact .map fun b _ h => exec_memWf h (.blockClose n b)
  · exact .append (.row (.epilogue n)) (.row (.engineCommandComplete n))

theorem allKeepMemWf_groupSteps (s : State) : AllKeepMemWf s.groupSteps := by
  refine .append (.append (.flatMap fun e => .append (.append ?_ ?_) ?_) ?_) ?_
  · exact .map fun f _ h => exec_memWf h (.fenceComplete e.1 (f.1.headD 0))
  · exact .ite (.row (.groupEnd e.1)) .nil
  · exact .append (.row (.unpark e.1)) (.append (.row (.priorityAgeBoost e.1)) (.row (.groupHeld e.1)))
  · exact .flatMap fun e => allKeepMemWf_cmdSteps e.2 e.1
  · exact .flatMap fun e => .ite .nil (.row (.taskStart e.1))

theorem allKeepMemWf_workSteps (s : State) : AllKeepMemWf s.workSteps := by
  refine .append (.append (.append (.ite .nil ?_) ?_) ?_) ?_
  · exact .append (.append (.row (.teamPlace 0)) (.row (.teamHandoff 0))) (.append (.row (.teamPlace 1)) (.row (.teamHandoff 1)))
  · exact .map fun e _ h => exec_memWf h (.queueTailLatch e.1)
  · exact .map fun _ _ h => .runs h.peerAgain
  · exact .map fun n _ h => exec_memWf h (.planeTimeout n)

theorem allKeepMemWf_migSteps (m : MigSet) (dom die : Nat) : AllKeepMemWf (m.steps dom die) := by
  refine .ite ?_ .nil
  exact .append (.append (.row (.moveWalkEnd dom die)) (.row (.chunkCopy dom die)))
    (.append (.row (.chunkReturn dom die)) (.row (.migrationCommit dom die)))

theorem allKeepMemWf_ropeSteps (r : Rope) (dom : Nat) : AllKeepMemWf (r.dueSteps dom) := by
  refine .append (.map fun _ _ h => .runs h.thaw) ?_
  split
  · exact .row (.seedStripe dom)
  · exact .row (.rebuildStripe dom [])
  · exact .nil

theorem allKeepMemWf_domainSteps (d : Domain) (dom : Nat) : AllKeepMemWf (d.dueSteps dom) := by
  refine .append (.append (.append (.append (.append (.append (.append (.append (.append ?_ ?_) ?_) ?_) ?_) ?_) ?_) ?_) ?_) ?_
  · exact allKeepMemWf_migSteps d.mig0 dom 0
  · exact allKeepMemWf_migSteps d.mig1 dom 1
  · exact allKeepMemWf_ropeSteps d.rope dom
  · exact .ite (.row (.xltInvDone dom)) .nil
  · exact .ite (.row (.toHostDone dom)) .nil
  · exact .ite (.cons (fun _ h => .runs h.loadAgain) .nil) .nil
  · exact .ite (.row (.peerSyncDone dom)) .nil
  · exact .ite (.row (.replayDone dom)) .nil
  · exact .ite (.append (.append (.row (.preemptSave dom)) (.row (.drainLimitExpiry dom)))
      (.append (.row (.teamRestore 0)) (.row (.teamRestore 1)))) .nil
  · exact .ite (.row (.cairnEpoch dom)) .nil

theorem allKeepMemWf_powerSteps (s : State) : AllKeepMemWf s.powerSteps := by
  refine .append (.append ?_ ?_) ?_
  · exact .ite (.row .clockPointReached) .nil
  · exact .ite .nil (.map fun n _ h => exec_memWf h (.selfrefEntry n))
  · exact .map fun e _ h => exec_memWf h (.droopHoldExpiry e.1)

theorem allKeepMemWf_dueSteps (s : State) : AllKeepMemWf s.dueSteps :=
  .append (.append (.append (.append (allKeepMemWf_memorySteps s) (allKeepMemWf_groupSteps s)) (allKeepMemWf_workSteps s))
    (.flatMap fun e => allKeepMemWf_domainSteps e.2 e.1)) (allKeepMemWf_powerSteps s)

/-- What a step that changes the state answers is what it answers. -/
theorem State.changedBy_eq {s : State} {f : State → Ev} {r : Ev} (h : s.changedBy f = some r) : r = f s := by
  unfold State.changedBy at h
  split at h
  · split at h
    · cases h
    · cases h
      exact Eq.symm ‹_›
  · cases h

theorem State.memWf.ownStep {s : State} (h : s.memWf) : evMemWf s.ownStep := by
  unfold State.ownStep
  split
  next r hr =>
    obtain ⟨f, -, hf⟩ := Option.bind_eq_some_iff.mp hr
    rw [State.changedBy_eq hf]
    exact h.issueSecond
  next =>
    split
    next r hr =>
      obtain ⟨f, hmem, hf⟩ := List.exists_of_findSome?_eq_some hr
      rw [State.changedBy_eq hf]
      exact allKeepMemWf_dueSteps s f hmem s h
    next =>
      split
      · split
        · exact .runs h.tick
        · exact h.issueOn
      · exact .runs h.tick

/-! ### The step -/

/-- R10, R312: a step leaves memory and its tags in canonical form. -/
theorem State.memWf.step {s : State} (h : s.memWf) : evMemWf (step s) := by
  have hr : s.readied.memWf := h.readied
  unfold Machine.step
  dsimp only
  split
  · exact hr.ownStep
  · exact (State.memWf.withAgenda hr).turn _

/-- Settles O58: every writer of memory keeps the form, and nothing else writes it. -/
theorem memoryStaysCanonical : Obligations.MemoryStaysCanonical := by
  unfold Obligations.MemoryStaysCanonical
  intro s t h hstep
  exact h.step.next hstep

end Sys2Proof.Machine

/-! ## Work starts (R21, R25, R60, R239, R248, R249, R293)

The tables and registers that a start fills in, then what each of the three steps comes to under the conditions of the statement. -/

namespace Sys2Proof.Machine

/-! ### Tables and lists -/

/-- A value that is listed stands in the list. -/
theorem mem_of_mget {α : Type} {m : List (Nat × α)} {k : Nat} {v : α} (h : mget? m k = some v) : (k, v) ∈ m := by
  induction m with
  | nil => cases h
  | cons e t ih =>
    obtain ⟨j, x⟩ := e
    unfold mget? at h
    split at h
    next hk =>
      cases h
      exact List.mem_cons.mpr (.inl (by rw [hk]))
    next => exact List.mem_cons_of_mem _ (ih h)

/-- Entries of other keys do not change what a key reads as. -/
theorem mget_foldl_mset_of_notMem {α β : Type} (f : α → β) (k : Nat) (l : List (Nat × α)) (m : List (Nat × β))
    (h : k ∉ l.map Prod.fst) : mget? (l.foldl (fun m e => mset m e.1 (f e.2)) m) k = mget? m k := by
  induction l generalizing m with
  | nil => rfl
  | cons e t ih =>
    rw [List.map_cons, List.mem_cons, not_or] at h
    rw [List.foldl_cons, ih _ h.2, mget_mset_other _ _ _ _ h.1]

/-- Listing the entries of a list with distinct keys lists each of them. -/
theorem mget_foldl_mset_of_mem {α β : Type} (f : α → β) (l : List (Nat × α)) (m : List (Nat × β)) (hl : (l.map Prod.fst).Nodup)
    {e : Nat × α} (he : e ∈ l) : mget? (l.foldl (fun m e => mset m e.1 (f e.2)) m) e.1 = some (f e.2) := by
  induction l generalizing m with
  | nil => cases he
  | cons a t ih =>
    rw [List.map_cons, List.nodup_cons] at hl
    rw [List.foldl_cons]
    rcases List.mem_cons.mp he with rfl | ht
    · rw [mget_foldl_mset_of_notMem f _ _ _ hl.1, mget_mset_same]
    · exact ih _ hl.2 ht

@[simp] theorem length_range (lo n : Nat) : (range lo n).length = n := by
  induction n generalizing lo with
  | zero => rfl
  | succ n ih => exact congrArg (· + 1) (ih (lo + 1))

theorem getElem?_range {lo n i : Nat} (h : i < n) : (range lo n)[i]? = some (lo + i) := by
  induction n generalizing lo i with
  | zero => omega
  | succ n ih =>
    cases i with
    | zero => rfl
    | succ i =>
      have := ih (lo := lo + 1) (i := i) (by omega)
      rw [range, List.getElem?_cons_succ, this]
      congr 1
      omega

/-! ### A group at its start (R25) -/

/-- Writing uniform registers changes nothing else of a group. -/
theorem Group.sput_eq (g : Group) (r : Nat) (ws : List Reg) : g.sput r ws = { g with s := (g.sput r ws).s } := by
  induction ws generalizing g r with
  | nil => rfl
  | cons w t ih => exact ih (g.sset r w) (r + 1)

theorem Group.sget_sput_below (g : Group) (r n : Nat) (ws : List Reg) (h : n < r) : (g.sput r ws).sget n = g.sget n := by
  induction ws generalizing g r with
  | nil => rfl
  | cons w t ih =>
    rw [Group.sput, ih _ _ (by omega)]
    exact sget_sset_other _ _ _ _ _ (by omega)

/-- The words written stand one after another; a register past them reads as before. -/
theorem Group.sget_sput (g : Group) (r i : Nat) (ws : List Reg) : (g.sput r ws).sget (r + i) = ws.getD i (g.sget (r + i)) := by
  induction ws generalizing g r i with
  | nil => rfl
  | cons w t ih =>
    rw [Group.sput]
    cases i with
    | zero =>
      rw [Group.sget_sput_below _ _ _ _ (by omega)]
      exact sget_sset_same ..
    | succ i =>
      have hset : (g.sset r w).sget (r + (i + 1)) = g.sget (r + (i + 1)) := sget_sset_other _ _ _ _ _ (by omega)
      rw [show r + (i + 1) = r + 1 + i by omega] at hset ⊢
      rw [ih, hset, List.getD_cons_succ]

/-- Uniform registers start with the argument words, and with 0 after them. -/
theorem Group.sget_start (team index : Nat) (h : KHeader) (entry : DWord) (args : List Reg) (resident ready r : Nat) :
    (Group.start team index h entry args resident ready).sget r = args.getD r Reg.zero := by
  have := Group.sget_sput Group.blank 0 r args
  rw [Nat.zero_add] at this
  exact this

/-- What is no uniform register starts as R25 says. -/
theorem Group.start_eq (team index : Nat) (h : KHeader) (entry : DWord) (args : List Reg) (resident ready : Nat) :
    Group.start team index h entry args resident ready = { Group.blank with
      s := (Group.blank.sput 0 args).s, team := team, index := index, width := h.width, nregs := h.nregs
      lanes := List.replicate h.width (Lane.start entry), q14 := q14Of h index, resident := resident, ready := ready } := by
  unfold Group.start
  rw [Group.sput_eq]

theorem Group.lane_start {team index : Nat} {h : KHeader} {entry : DWord} {args : List Reg} {resident ready l : Nat} (hl : l < h.width) :
    (Group.start team index h entry args resident ready).lane l = Lane.start entry := by
  simp [Group.lane, Group.start_eq, List.getD_eq_getElem?_getD, hl]

/-- The group of a team that starts, in the slot of its number. -/
theorem State.group_startTeam (s : State) (m : Team) (args : List Reg) (i : Nat) (hn : m.slots.Nodup) (hl : m.slots.length = m.hdr.ngrp)
    (hi : i < m.hdr.ngrp) : (s.startTeam m args).group (m.slots.getD i 0) =
      Group.start s.seq i m.hdr (m.hdr.entryVa m.hdrVa) args (s.seq + i) (s.cycleOf m.core) := by
  let start (i : Nat) : Group := Group.start 0 i m.hdr (m.hdr.entryVa m.hdrVa) args (s.seq + i) (s.cycleOf m.core)
  let groups := (range 0 m.hdr.ngrp).map start
  have hlen : m.slots.length = groups.length := by simp [groups, hl]
  have hslot : i < m.slots.length := by omega
  have hmem : (m.slots.getD i 0, start i) ∈ m.slots.zip groups := by
    refine List.mem_of_getElem? (i := i) (List.getElem?_zip_eq_some.mpr ⟨?_, ?_⟩)
    · simp [List.getD_eq_getElem?_getD, hslot]
    · simp [groups, getElem?_range hi]
  have hkeys : ((m.slots.zip groups).map Prod.fst).Nodup := by rwa [List.map_fst_zip hlen.le]
  have hget := mget_foldl_mset_of_mem (fun g : Group => { g with team := s.seq }) _ s.groups hkeys hmem
  exact congrArg (Option.getD · Group.blank) hget

/-! ### Channels at a team's start (R60) -/

theorem mem_startChans {h : KHeader} {p : Nat} {c : Chan} (hc : (p, c) ∈ startChans h) :
    c.tags = [] ∧ c.words = (if c.vector then h.width else 1) ∧
      ∃ kind, h.chans[p]? = some (kind, c.ofs) ∧ kind ≠ 0 ∧ (c.vector = true ↔ kind = 1) := by
  obtain ⟨⟨⟨kind, ofs⟩, n⟩, hmem, heq⟩ := List.mem_map.mp hc
  obtain ⟨hz, hkind⟩ := List.mem_filter.mp hmem
  cases heq
  have hword := List.mem_zipIdx_iff_getElem?.mp hz
  exact ⟨rfl, by simp, kind, hword, by simpa using hkind, by simp⟩

/-! ### Placing a team (R248, R249) -/

/-- A launch whose teams may be started is known, and has one to start. -/
theorem State.next_lt_of_teamsOpen {s : State} {lid : Nat} (h : s.teamsOpen lid = true) :
    (s.launch lid).next < (s.launch lid).gx * (s.launch lid).gy * (s.launch lid).gz := by
  simp only [State.teamsOpen, Bool.and_eq_true, decide_eq_true_eq] at h
  exact h.1.1.1

theorem State.mget_of_teamsOpen {s : State} {lid : Nat} (h : s.teamsOpen lid = true) : mget? s.launches lid = some (s.launch lid) := by
  have hlt := s.next_lt_of_teamsOpen h
  unfold State.launch at hlt ⊢
  cases hm : mget? s.launches lid with
  | none =>
    rw [hm] at hlt
    cases hlt
  | some l => rfl

/-- A launch with a team to start is not over. -/
theorem State.finishLaunch_of_teamsOpen {s : State} {lid : Nat} (h : s.teamsOpen lid = true) : s.finishLaunch lid = none := by
  have hover : s.launchOver lid = false := by simp [State.launchOver, s.next_lt_of_teamsOpen h]
  simp [State.finishLaunch, hover]

theorem State.placeRing_of_no_entry {s : State} {lid : Nat} (h : (s.launch lid).ringInfo = []) : s.placeRing lid = none := by
  unfold State.placeRing
  simp only [h]
  rfl

/-- With no ring task, the head team is what a distributor comes to. -/
theorem State.placeNext_eq_placeTeam {s : State} {lid : Nat} (hand : Bool) (hring : (s.launch lid).ringInfo = [])
    (hopen : s.teamsOpen lid = true) : s.placeNext hand lid = s.placeTeam lid hand := by
  cases hand <;> simp [State.placeNext, State.placeOne, State.finishLaunch_of_teamsOpen hopen, State.placeRing_of_no_entry hring, hring]

/-- The head team of a launch, as it is placed. -/
def Launch.headTeam (l : Launch) (lid : Nat) (f : Fit) : Team :=
  Team.placed lid (l.next % l.gx) (l.next / l.gx % l.gy) (l.next / (l.gx * l.gy)) l.next l.hdr l.khdr none f

/-- The state after the head team of a launch without arguments has started. -/
def State.withHeadTeam (s : State) (lid : Nat) (f : Fit) : State :=
  (((s.clearWaits (.teamStart lid)).startTeam ((s.launch lid).headTeam lid f) []).modLaunch lid
    (fun x => { x with next := (s.launch lid).next + 1 })).servedNow lid

theorem State.placeTeam_eq {s : State} {lid : Nat} {hand : Bool} {f : Fit} (hopen : s.teamsOpen lid = true)
    (hwait : s.agentWaits (.teamStart lid) = false) (hargs : (s.launch lid).hdr.narg = 0)
    (hfit : s.choose (s.launch lid).dom (s.launch lid).die (s.launch lid).hdr = some (hand, f)) :
    s.placeTeam lid hand = some (s.withHeadTeam lid f) := by
  simp [State.placeTeam, hopen, hwait, hfit, hargs, State.readArgs, State.withHeadTeam, Launch.headTeam]

theorem State.next_withHeadTeam {s : State} {lid : Nat} {f : Fit} (hopen : s.teamsOpen lid = true) :
    ((s.withHeadTeam lid f).launch lid).next = (s.launch lid).next + 1 := by
  have hget : mget? (s.withHeadTeam lid f).launches lid =
      some { s.launch lid with next := (s.launch lid).next + 1, order := s.seq + 1 } := by
    unfold State.withHeadTeam State.servedNow State.modLaunch
    dsimp only
    rw [mget_mupd, if_pos rfl, mget_mupd, if_pos rfl]
    exact congrArg (Option.map _ <| Option.map _ ·) (s.mget_of_teamsOpen hopen)
  rw [State.launch, hget]
  rfl

theorem State.mget_teams_withHeadTeam (s : State) (lid : Nat) (f : Fit) :
    mget? (s.withHeadTeam lid f).teams s.seq = some ((s.launch lid).headTeam lid f) :=
  mget_mset_same ..

/-- Placing at home and handing off try the same launches. -/
theorem exec_place (s : State) (die : Nat) (hand : Bool) : exec (if hand then .teamHandoff die else .teamPlace die) s =
    s.runs ((s.placeFrom hand (s.servedOrder die)).getD s) := by
  cases hand <;> rfl

/-! ### A task's start (R239) -/

theorem exec_taskStart_over {s t : State} {core : Nat} {x : QTask} {xs : List QTask} (hs : s.stopped = false)
    (htasks : (s.core core).tasks = x :: xs) (hrel : s.taskReleased x = true) (hgate : (s.core core).gated = false)
    (hwait : s.agentWaits (.taskStart core) = false)
    (htry : s.tryTask (.taskStart core) (dieOfCore core) core x (s.fits core) = .over t) :
    exec (.taskStart core) s = .next (t.modCore core (fun c => { c with tasks := c.tasks.drop (c.tasks.length - xs.length) })) := by
  have hexec : exec (.taskStart core) s = execTaskStart core s := rfl
  simp [hexec, execTaskStart, htasks, hrel, hgate, hwait, htry, State.runs_next _ _ hs]

/-! ### A front-end's step (R293) -/

/-- A queue after a step of its front-end. -/
def State.setQueue (t : State) (q : Nat) (f : HostQueue → HostQueue) : State :=
  { t.clearWaits (.queue q) with queues := mupd t.queues q f }

/-- A running queue that waits on no fault takes the step its registers call for. -/
theorem exec_queueTailLatch_done {s t : State} {q : Nat} {x : HostQueue} (hs : s.stopped = false) (hx : mget? s.queues q = some x)
    (hrun : x.running = true) (hwait : s.agentWaits (.queue q) = false) (hstep : s.queueStep q x = some (.done t)) :
    exec (.queueTailLatch q) s = .next t.endIdle := by
  have hexec : exec (.queueTailLatch q) s = execQueueTailLatch q s := rfl
  simp [hexec, execQueueTailLatch, hx, hrun, hwait, hstep, State.runs_next _ _ hs]

theorem State.queueStep_tail {s u : State} {q : Nat} {x : HostQueue} {bs : List Byte} (hgoal : x.goal = 0)
    (hread : s.tRead (.queue q) (queueDie q) x.dom x.space x.tailA 4 = .ok u bs false)
    (hpos : 0 < (leNat bs + 2 ^ 32 - x.h) % 2 ^ 32) (hle : (leNat bs + 2 ^ 32 - x.h) % 2 ^ 32 ≤ 2 ^ x.log2n) :
    s.queueStep q x = some (.done (u.setQueue q (fun y => { y with goal := (leNat bs + 2 ^ 32 - x.h) % 2 ^ 32 }))) := by
  unfold State.queueStep
  rw [if_pos hgoal, hread]
  dsimp only
  rw [if_neg Bool.false_ne_true, if_neg hpos.ne', if_neg hle.not_gt]
  rfl

theorem State.queueStep_record {s u t : State} {q : Nat} {x : HostQueue} {bs : List Byte} {p : Bool} (hgoal : x.goal ≠ 0)
    (htaken : x.taken = 0)
    (hread : s.tRead (.queue q) (queueDie q) x.dom x.space (x.ring + 64 * (x.h % 2 ^ x.log2n)) 64 = .ok u bs p)
    (hrec : u.takeRecord (.queue q) x.dom x.space (queueDie q) bs p = .done t) :
    s.queueStep q x = some (.done (t.setQueue q (fun y => { y with taken := 1 }))) := by
  unfold State.queueStep
  rw [if_neg hgoal, if_pos htaken, hread]
  dsimp only
  rw [hrec]
  rfl

theorem State.queueStep_head {s t : State} {q : Nat} {x : HostQueue} (hgoal : x.goal ≠ 0) (htaken : x.taken ≠ 0)
    (hstore : s.tStore (.queue q) (queueDie q) x.dom x.space x.headA (leBytes 4 ((x.h + 1) % 2 ^ 32)) = .ok t) :
    s.queueStep q x = some (.done (t.setQueue q (fun y => { y with taken := 0, goal := y.goal - 1, h := (x.h + 1) % 2 ^ 32 }))) := by
  unfold State.queueStep
  rw [if_neg hgoal, if_neg htaken]
  dsimp only
  rw [hstore]
  rfl

/-! ### The obligation -/

/-- A placed team, its number and its channels (R60, R248, R249). -/
theorem team_placed {s : State} {die lid : Nat} {rest : List Nat} {hand : Bool} {f : Fit} (hs : s.stopped = false)
    (horder : s.servedOrder die = lid :: rest) (hring : (s.launch lid).ringInfo = []) (hargs : (s.launch lid).hdr.narg = 0)
    (hopen : s.teamsOpen lid = true) (hwait : s.agentWaits (.teamStart lid) = false)
    (hfit : s.choose (s.launch lid).dom (s.launch lid).die (s.launch lid).hdr = some (hand, f)) :
    exec (if hand then .teamHandoff die else .teamPlace die) s = .next (s.withHeadTeam lid f) := by
  have hnext : s.placeNext hand lid = some (s.withHeadTeam lid f) := by
    rw [State.placeNext_eq_placeTeam hand hring hopen, State.placeTeam_eq hopen hwait hargs hfit]
  rw [exec_place, horder, State.placeFrom, hnext]
  exact State.runs_next _ _ hs

/-- Settles O45: by the state that each of the four starts leaves. -/
theorem workStarts : Obligations.WorkStarts := by
  unfold Obligations.WorkStarts
  intro s die lid core q rest hs l
  refine ⟨?_, ?_, ?_, ?_⟩
  case refine_1 =>
    intro horder hring hargs hopen hwait hand f hfit
    refine ⟨_, team_placed hs horder hring hargs hopen hwait hfit, State.next_withHeadTeam hopen,
      _, s.mget_teams_withHeadTeam lid f, rfl, rfl, rfl, rfl, rfl, rfl, rfl, rfl, rfl, ?_⟩
    exact fun p c hc => mem_startChans (mem_of_mget hc)
  case refine_2 =>
    intro m args i hn hl hi _
    rw [s.group_startTeam m args i hn hl hi]
    have hstart := Group.start_eq s.seq i m.hdr (m.hdr.entryVa m.hdrVa) args (s.seq + i) (s.cycleOf m.core)
    refine ⟨rfl, rfl, rfl, rfl, congrArg Group.prio hstart, congrArg Group.fflags hstart, congrArg Group.horDie hstart,
      congrArg Group.horDev hstart, congrArg Group.horPod hstart, fun k _ => congrArg (Group.kget · k) hstart,
      fun r => Group.sget_start .., rfl, rfl, fun n hn => ?_⟩
    rw [Group.lane_start hn]
    exact ⟨rfl, rfl, rfl, rfl, rfl, fun _ => rfl⟩
  case refine_3 =>
    intro x xs t0 htasks hrel hgate hwait htry
    exact exec_taskStart_over hs htasks hrel hgate hwait htry
  case refine_4 =>
    intro x hx hrun hwait
    refine ⟨?_, ?_, ?_⟩
    · intro u bs hgoal hread n hpos hle
      exact exec_queueTailLatch_done hs hx hrun hwait (State.queueStep_tail hgoal hread hpos hle)
    · intro u bs p t hgoal htaken hread hrec
      exact exec_queueTailLatch_done hs hx hrun hwait (State.queueStep_record hgoal htaken hread hrec)
    · intro t hgoal htaken hstore
      exact exec_queueTailLatch_done hs hx hrun hwait (State.queueStep_head hgoal htaken hstore)

end Sys2Proof.Machine

/-! ## The encoding and the decoder (R36 to R53)

Each field's code and the field it names are inverse to one another; from that the parts of a word and its instruction are, and
`joinWord` and `splitWord` carry both over to words. -/

namespace Sys2Proof

/-! ### Codes of fields: a field has at most eight bits, so each law is a finite check -/

@[simp] theorem srcOf_srcCode (x : Src) : srcOf (srcCode x) = x := by
  cases x with
  | v n | q n | s n => revert n; decide
  | lit => rfl

@[simp] theorem dstOf_dstCode (x : Dst) : dstOf (dstCode x) = x := by
  cases x with
  | v n | q n | s n => revert n; decide
  | nul => rfl

@[simp] theorem srcCode_srcOf (x : BitVec 8) : srcCode (srcOf x) = x := by revert x; decide

@[simp] theorem dstCode_dstOf (x : BitVec 8) : dstCode (dstOf x) = x := by revert x; decide

@[simp] theorem tyCode_tyOf (x : BitVec 4) : tyCode (tyOf x) = x := by revert x; decide

@[simp] theorem sregOf_sregCode (r : SReg) : sregOf (sregCode r) = some r := by cases r <;> rfl

theorem sregCode_of_sregOf {x : BitVec 8} {r : SReg} (h : sregOf x = some r) : sregCode r = x := by
  have code : ∀ x : BitVec 8, ((sregOf x).map sregCode).getD x = x := by decide
  simpa [h] using code x

theorem scopeCode_of_scopeOf {x : BitVec 3} {s : Scope} (h : scopeOf x = some s) : scopeCode s = x := by
  revert x; cases s <;> decide

@[simp] theorem fenceKindCode_fenceKindOf (x : BitVec 2) : fenceKindCode (fenceKindOf x) = x := by revert x; decide

@[simp] theorem dispOf_fmByte (l : Bool) (h : Fin 128) : dispOf (fmByte l h) = l := by revert l h; decide

@[simp] theorem handleOf_fmByte (l : Bool) (h : Fin 128) : handleOf (fmByte l h) = h := by revert l h; decide

@[simp] theorem fmByte_parts (b : BitVec 8) : fmByte (dispOf b) (handleOf b) = b := by revert b; decide

@[simp] theorem aopOf_faByte (p : Aop) (h : Fin 16) : aopOf ((faByte p h).extractLsb' 4 4) = some p := by
  revert h; cases p <;> decide

@[simp] theorem handle4Of_faByte (p : Aop) (h : Fin 16) : handle4Of (faByte p h) = h := by
  revert h; cases p <;> decide

theorem faByte_of_aopOf {b : BitVec 8} {p : Aop} (h : aopOf (b.extractLsb' 4 4) = some p) : faByte p (handle4Of b) = b := by
  revert b; cases p <;> decide

@[simp] theorem paramOf_paramByte (n : Fin 16) : paramOf (paramByte n) = some n := by revert n; decide

theorem paramByte_of_paramOf {a : BitVec 8} {n : Fin 16} (h : paramOf a = some n) : paramByte n = a := by
  have code : ∀ a : BitVec 8, ((paramOf a).map paramByte).getD a = a := by decide
  simpa [h] using code a

theorem fxByte_counterOf (d : BitVec 8) : fxByte (d.getLsbD 7) (d.getLsbD 6) (d.getLsbD 5) (d.getLsbD 4) (d.getLsbD 3) (counterOf d) = d := by
  revert d; decide

section
variable (f4 f3 f2 f1 f0 : Bool) (k : Fin 8)

@[simp] theorem fxByte_bit7 : (fxByte f4 f3 f2 f1 f0 k)[7] = f4 := by revert f4 f3 f2 f1 f0 k; decide
@[simp] theorem fxByte_bit6 : (fxByte f4 f3 f2 f1 f0 k)[6] = f3 := by revert f4 f3 f2 f1 f0 k; decide
@[simp] theorem fxByte_bit5 : (fxByte f4 f3 f2 f1 f0 k)[5] = f2 := by revert f4 f3 f2 f1 f0 k; decide
@[simp] theorem fxByte_bit4 : (fxByte f4 f3 f2 f1 f0 k)[4] = f1 := by revert f4 f3 f2 f1 f0 k; decide
@[simp] theorem fxByte_bit3 : (fxByte f4 f3 f2 f1 f0 k)[3] = f0 := by revert f4 f3 f2 f1 f0 k; decide
@[simp] theorem counterOf_fxByte : counterOf (fxByte f4 f3 f2 f1 f0 k) = k := by revert f4 f3 f2 f1 f0 k; decide
@[simp] theorem fxByte_low3 : (fxByte f4 f3 false false false k).extractLsb' 3 3 = 0#3 := by revert f4 f3 k; decide

end

section
variable (op : BitVec 7) (d a b : BitVec 8)

@[simp] theorem mkFields_d : (mkFields op d a b).d = d := rfl
@[simp] theorem mkFields_a : (mkFields op d a b).a = a := rfl
@[simp] theorem mkFields_b : (mkFields op d a b).b = b := rfl

end

/-! ### An instruction's parts name it -/

@[simp] theorem fxWord_paramByte (n : Fin 16) (mk : Fin 16 → Instr) : fxWord true (paramByte n) mk = .ok (mk n) := by
  simp [fxWord, guarded]

@[simp] theorem tyOf_high (x y : Ty) : tyOf ((tyCode x ++ tyCode y).extractLsb' 4 4) = x := by
  cases x <;> cases y <;> rfl
@[simp] theorem tyOf_low (x y : Ty) : tyOf ((tyCode x ++ tyCode y).extractLsb' 0 4) = y := by
  cases x <;> cases y <;> rfl
@[simp] theorem hiByte_append_loByte (i : BitVec 16) : hiByte i ++ loByte i = i :=
  (BitVec.extractLsb'_append_extractLsb'_eq_extractLsb' rfl).trans BitVec.extractLsb'_eq_self

theorem bytes_append (o : BitVec 24) : o.extractLsb' 16 8 ++ (o.extractLsb' 8 8 ++ o.extractLsb' 0 8) = o :=
  (congrArg (o.extractLsb' 16 8 ++ ·) (BitVec.extractLsb'_append_extractLsb'_eq_extractLsb' (x := o) rfl)).trans
    ((BitVec.extractLsb'_append_extractLsb'_eq_extractLsb' rfl).trans BitVec.extractLsb'_eq_self)

theorem barKind_byte (k : BitVec 4) (n : Fin 16) : (k ++ BitVec.ofNat 4 n.val).extractLsb' 4 4 = k := by revert k n; decide

theorem barNumber_byte (k : BitVec 4) (n : Fin 16) : Fin.ofNat 16 ((k ++ BitVec.ofNat 4 n.val).extractLsb' 0 4).toNat = n := by
  revert k n; decide

theorem yieldTime_byte (t : Fin 32) (k : Fin 8) :
    Fin.ofNat 32 ((BitVec.ofNat 5 t.val ++ BitVec.ofNat 3 k.val).extractLsb' 3 5).toNat = t := by revert t k; decide

theorem counterOf_yieldByte (t : Fin 32) (k : Fin 8) : counterOf (BitVec.ofNat 5 t.val ++ BitVec.ofNat 3 k.val) = k := by
  revert t k; decide

theorem xstatFlag_byte (f : Fin 4) :
    ((0#6 ++ BitVec.ofNat 2 f.val : BitVec 8).extractLsb' 2 6 = 0#6) ∧
      Fin.ofNat 4 ((0#6 ++ BitVec.ofNat 2 f.val : BitVec 8).extractLsb' 0 2).toNat = f := by revert f; decide

theorem fmByte_bit7 (l : Bool) (h : Fin 128) : (fmByte l h).getLsbD 7 = l := dispOf_fmByte l h

theorem fenceOf_byte (e : Bool) (k : FenceKind) (s : Scope) :
    fenceOf (mkFields 0x63 0 0 (0#2 ++ (BitVec.ofBool e ++ (fenceKindCode k ++ scopeCode s)))) = .ok (.fence e k s) := by
  cases e <;> cases k <;> cases s <;> rfl

theorem fieldsInstr_of_instrFields {i : Instr} {f : Fields} (h : instrFields i = some f) : fieldsInstr f = .ok i := by
  cases i with
  | nop | ret | exit | bkpt | xret | cacheCinv | cacheFetchb => cases h; rfl
  | add | sub | mul | mulh | mulhu | mad | and | or | xor | shl | shr | sar | min | max | minu | maxu | slt | sltu | seq | sel
  | add64 | sub64 | mul64 | shl64 | shr64 | sar64 | slt64 | sltu64 | madwu | addwu
  | mov | not | neg | abs | clz | ctz | popc | brev | bswap | sextb | sexth | zextb | zexth | tcnt | mov64 | neg64
  | fadd | fsub | fmul | ffma | fmin | fmax | fslt | fsle | fseq | fsun
  | fneg | fabs | fsqrt | frcp | frsq | fexp2 | flog2 | fsin | fcos | frndn | frndz | frndp | frndm | fclass
  | dadd | dsub | dmul | dfma | dmin | dmax | dslt | dsle | dseq
  | dneg | dabs | dsqrt | drcp | drsq | drndn | drndz | drndp | drndm | dclass
  | hadd2 | hmul2 | hfma2 | badd2 | bmul2 | bfma2 | cvt | cvtz
  | shfl | shflx | shflu | shfld | lsegi | lsegf | lsegd
  | lscani | lscanf | lscand | lredi | lredf | lredd | lmini | lmaxi | lany | lall | lcount | lrank | lballot | rdlane
  | movi | movih | ldB | ldBu | ldH | ldHu | ldW | ldD | ldQ | stB | stH | stW | stD | stQ | ldcW | ldcD
  | rcloseF32 | rcloseF64 | rldW | rldD | rstW | rstD | cacheWb | cacheWbinv | cacheInv | cacheIinv | waitcEq | waitcNe | waitcGe
  | b | bz | bnz | bltz | bgez | bS | bzS | bnzS | callr | jr | trap | ptest | pclr =>
    cases h
    change Except.ok _ = _
    simp
  | atomW d a p h | atomD d a p h | redW d a p h | redD d a p h | ratom d a p h =>
    cases h
    change faWord _ _ = _
    simp [faWord]
  | xcopy | xencTerm | xencBlock | xdecTerm | xdecBlock | mtask | mtaskStream =>
    cases h
    change fxEngine _ _ = _
    simp [fxEngine]
  | xgather | xscatter =>
    cases h
    change fxIndex _ _ = _
    simp [fxIndex]
  | srd d r | swr a r =>
    cases h
    change (match sregOf (sregCode r) with | some r => _ | none => _) = _
    rw [sregOf_sregCode]
    simp [guarded]
  | fence e k s =>
    cases h
    exact fenceOf_byte e k s
  | mbound d a m =>
    cases h
    cases m <;>
    · change fxWord _ _ _ = _
      simp only [mkFields_a, mkFields_d, fmByte_bit7, handleOf_fmByte, fxWord_paramByte]
  | xstat d a f =>
    cases h
    obtain ⟨hzero, hf⟩ := xstatFlag_byte f
    change (if (_ == _) = true then _ else _) = _
    simp only [mkFields_a, mkFields_b, mkFields_d, hzero, hf, fmByte_bit7, handleOf_fmByte, fxWord_paramByte, beq_self_eq_true, if_true]
  | call o =>
    cases h
    exact congrArg (fun o => Except.ok (Instr.call o)) (bytes_append o)
  | yield t k i =>
    cases h
    change Except.ok _ = _
    simp only [mkFields_a, mkFields_b, mkFields_d, yieldTime_byte, counterOf_yieldByte, hiByte_append_loByte]
  | bar n | barArr n | barWait n =>
    cases h
    change barOf _ = _
    simp only [barOf, mkFields_a, mkFields_b, mkFields_d, barKind_byte, barNumber_byte]
    rfl
  | spawn r s k a =>
    cases h
    change fxWord _ _ _ = _
    simp
  | hnarrow d a =>
    cases h
    change fxWord _ _ _ = _
    simp
  | hquery d a =>
    cases h
    change (match paramOf (paramByte d) with | some n => _ | none => _) = _
    simp
  | _ => cases h

/-! ### The parts that name an instruction are its own -/

theorem guarded_eq_ok {ok : Bool} {r : Reject} {j i : Instr} : guarded ok r j = .ok i ↔ ok = true ∧ j = i := by
  cases ok <;> simp [guarded]

theorem fxWord_eq_ok {ok : Bool} {a : BitVec 8} {mk : Fin 16 → Instr} {i : Instr} (h : fxWord ok a mk = .ok i) :
    ∃ n, paramByte n = a ∧ ok = true ∧ mk n = i := by
  unfold fxWord at h
  split at h
  next n hn => exact ⟨n, paramByte_of_paramOf hn, guarded_eq_ok.mp h⟩
  next => cases h

/-- The parts of a word without its chain bit. -/
def Fields.unchained (f : Fields) : Fields := { f with c := false }

/-- The bits of two bytes in a row. -/
theorem bytes_bit (a b : BitVec 8) (k : Nat) : (a ++ b : BitVec 16).getLsbD k = if k < 8 then b.getLsbD k else a.getLsbD (k - 8) :=
  BitVec.getLsbD_append

/-- The bits of three bytes in a row. -/
theorem bytes3_bit (a b c : BitVec 8) (k : Nat) :
    (a ++ (b ++ c) : BitVec 24).getLsbD k = if k < 16 then (b ++ c : BitVec 16).getLsbD k else a.getLsbD (k - 16) :=
  BitVec.getLsbD_append

theorem hiByte_append (a b : BitVec 8) : hiByte (a ++ b) = a :=
  BitVec.eq_of_getLsbD_eq (fun k hk => by simp [hiByte, hk, bytes_bit])

theorem loByte_append (a b : BitVec 8) : loByte (a ++ b) = b :=
  BitVec.eq_of_getLsbD_eq (fun k hk => by simp [loByte, hk, bytes_bit])

theorem extract_bytes3 (a b c : BitVec 8) :
    (a ++ (b ++ c) : BitVec 24).extractLsb' 16 8 = a ∧ (a ++ (b ++ c) : BitVec 24).extractLsb' 8 8 = b ∧
      (a ++ (b ++ c) : BitVec 24).extractLsb' 0 8 = c := by
  refine ⟨?_, ?_, ?_⟩ <;> refine BitVec.eq_of_getLsbD_eq (fun k hk => ?_) <;>
    rw [BitVec.getLsbD_extractLsb', decide_eq_true hk, Bool.true_and] <;> refine (bytes3_bit a b c _).trans ?_
  · simp
  · exact (if_pos (by omega)).trans ((bytes_bit b c _).trans (by simp))
  · exact (if_pos (by omega)).trans ((bytes_bit b c _).trans (by simp [hk]))

@[simp] theorem nibbles_append (b : BitVec 8) : b.extractLsb' 4 4 ++ b.extractLsb' 0 4 = b := by revert b; decide

section
variable {f : Fields} {n : Nat} {i : Instr} (hop : f.op.toNat = n)
include hop

theorem mkFields_eq {d a b : BitVec 8} (hd : d = f.d) (ha : a = f.a) (hb : b = f.b) :
    some (mkFields (BitVec.ofNat 7 n) d a b) = some f.unchained := by
  subst hd ha hb hop
  simp [mkFields, Fields.unchained]

theorem instrFields_of_faWord {mk : Aop → Fin 16 → Instr} {d : BitVec 8} (hd : d = f.d) (h : faWord f mk = .ok i)
    (hmk : ∀ p k, instrFields (mk p k) = some (mkFields (BitVec.ofNat 7 n) d (srcCode (srcOf f.a)) (faByte p k))) :
    instrFields i = some f.unchained := by
  unfold faWord at h
  split at h
  next p hp =>
    cases h
    exact (hmk _ _).trans (mkFields_eq hop hd (srcCode_srcOf _) (faByte_of_aopOf hp))
  next => cases h

theorem instrFields_of_fxEngine {mk : Bool → Bool → Fin 8 → Fin 16 → Instr} {b : BitVec 8} (hb : b = f.b) (h : fxEngine f mk = .ok i)
    (hmk : ∀ t r k a, instrFields (mk t r k a) = some (mkFields (BitVec.ofNat 7 n) (fxByte t r false false false k) (paramByte a) b)) :
    instrFields i = some f.unchained := by
  obtain ⟨a, ha, hz, rfl⟩ := fxWord_eq_ok h
  have hd : ∀ d : BitVec 8, (d.extractLsb' 3 3 == 0#3) = true →
    fxByte (d.getLsbD 7) (d.getLsbD 6) false false false (counterOf d) = d := by decide
  exact (hmk _ _ _ _).trans (mkFields_eq hop (hd _ hz) ha hb)

theorem instrFields_of_fxIndex {mk : Bool → Bool → Bool → Fin 8 → Fin 16 → Instr} (h : fxIndex f mk = .ok i)
    (hmk : ∀ t r x k a, instrFields (mk t r x k a) = some (mkFields (BitVec.ofNat 7 n) (fxByte t r false x false k) (paramByte a) 0)) :
    instrFields i = some f.unchained := by
  obtain ⟨a, ha, hz, rfl⟩ := fxWord_eq_ok h
  simp only [Bool.and_eq_true, beq_iff_eq, Bool.not_eq_true'] at hz
  obtain ⟨⟨hb, h3⟩, h5⟩ := hz
  have hd := fxByte_counterOf f.d
  rw [h3, h5] at hd
  exact (hmk _ _ _ _ _).trans (mkFields_eq hop hd ha hb.symm)

end

section
variable {f : Fields} {i : Instr}

theorem instrFields_of_intuOf (hop : f.op.toNat = 0x1F) (h : intuOf f = .ok i) : instrFields i = some f.unchained := by
  unfold intuOf at h
  split at h
  case h_17 => cases h
  all_goals
    rename_i hb
    cases h
    exact mkFields_eq hop (dstCode_dstOf _) (srcCode_srcOf _) (BitVec.eq_of_toNat_eq hb.symm)

theorem instrFields_of_funOf (hop : f.op.toNat = 0x2A) (h : funOf f = .ok i) : instrFields i = some f.unchained := by
  unfold funOf at h
  split at h
  case h_15 => cases h
  all_goals
    rename_i hb
    cases h
    exact mkFields_eq hop (dstCode_dstOf _) (srcCode_srcOf _) (BitVec.eq_of_toNat_eq hb.symm)

theorem instrFields_of_dunOf (hop : f.op.toNat = 0x34) (h : dunOf f = .ok i) : instrFields i = some f.unchained := by
  unfold dunOf at h
  split at h
  case h_11 => cases h
  all_goals
    rename_i hb
    cases h
    exact mkFields_eq hop (dstCode_dstOf _) (srcCode_srcOf _) (BitVec.eq_of_toNat_eq hb.symm)

theorem instrFields_of_lunOf (hop : f.op.toNat = 0x44) (h : lunOf f = .ok i) : instrFields i = some f.unchained := by
  unfold lunOf at h
  split at h
  case h_13 => cases h
  all_goals
    rename_i hb
    cases h
    exact mkFields_eq hop (dstCode_dstOf _) (srcCode_srcOf _) (BitVec.eq_of_toNat_eq hb.symm)


theorem zeros_of_and3 {a b c : BitVec 8} (h : (a == 0#8 && b == 0#8 && c == 0#8) = true) : 0#8 = a ∧ 0#8 = b ∧ 0#8 = c := by
  simp only [Bool.and_eq_true, beq_iff_eq] at h
  exact ⟨h.1.1.symm, h.1.2.symm, h.2.symm⟩

theorem zeros_of_and {a b : BitVec 8} (h : (a == 0#8 && b == 0#8) = true) : 0#8 = a ∧ 0#8 = b := by
  simp only [Bool.and_eq_true, beq_iff_eq] at h
  exact ⟨h.1.symm, h.2.symm⟩

theorem zero_of_beq {a : BitVec 8} (h : (a == 0#8) = true) : 0#8 = a := (beq_iff_eq.mp h).symm

theorem instrFields_of_sysOf (hop : f.op.toNat = 0x7F) (h : sysOf f = .ok i) : instrFields i = some f.unchained := by
  unfold sysOf at h
  split at h <;> rename_i hb
  case h_1 =>
    obtain ⟨hd, rfl⟩ := guarded_eq_ok.mp h
    exact mkFields_eq hop (zero_of_beq hd) (srcCode_srcOf _) (BitVec.eq_of_toNat_eq hb.symm)
  case h_2 | h_3 =>
    obtain ⟨hz, rfl⟩ := guarded_eq_ok.mp h
    obtain ⟨hd, ha⟩ := zeros_of_and hz
    exact mkFields_eq hop hd ha (BitVec.eq_of_toNat_eq hb.symm)
  case h_4 =>
    obtain ⟨n, ha, -, rfl⟩ := fxWord_eq_ok h
    exact mkFields_eq hop (dstCode_dstOf _) ha (BitVec.eq_of_toNat_eq hb.symm)
  case h_5 =>
    split at h
    next n hn =>
      cases h
      exact mkFields_eq hop (paramByte_of_paramOf hn) (srcCode_srcOf _) (BitVec.eq_of_toNat_eq hb.symm)
    next => cases h
  case h_6 | h_7 =>
    cases h
    exact mkFields_eq hop (dstCode_dstOf _) (srcCode_srcOf _) (BitVec.eq_of_toNat_eq hb.symm)
  case h_8 => cases h

theorem instrFields_of_cacheOf (hop : f.op.toNat = 0x64) (h : cacheOf f = .ok i) : instrFields i = some f.unchained := by
  unfold cacheOf at h
  split at h <;> rename_i hd
  case h_4 | h_6 =>
    obtain ⟨hz, rfl⟩ := guarded_eq_ok.mp h
    obtain ⟨ha, hb⟩ := zeros_of_and hz
    exact mkFields_eq hop (BitVec.eq_of_toNat_eq hd.symm) ha hb
  case h_7 => cases h
  all_goals
    cases h
    exact mkFields_eq hop (BitVec.eq_of_toNat_eq hd.symm) (srcCode_srcOf _) (fmByte_parts _)

theorem fenceByte_parts (b : BitVec 8) (s : Scope) (hs : scopeOf (b.extractLsb' 0 3) = some s) (hz : b.extractLsb' 6 2 = 0#2) :
    0#2 ++ (BitVec.ofBool (b.getLsbD 5) ++ (fenceKindCode (fenceKindOf (b.extractLsb' 3 2)) ++ scopeCode s)) = b := by
  rw [scopeCode_of_scopeOf hs, fenceKindCode_fenceKindOf, ← hz]
  clear hs hz
  revert b; decide

theorem instrFields_of_fenceOf (hop : f.op.toNat = 0x63) (h : fenceOf f = .ok i) : instrFields i = some f.unchained := by
  unfold fenceOf at h
  split at h
  next s hs =>
    obtain ⟨hz, rfl⟩ := guarded_eq_ok.mp h
    simp only [Bool.and_eq_true, beq_iff_eq] at hz
    obtain ⟨⟨hd, ha⟩, hb⟩ := hz
    exact mkFields_eq hop hd.symm ha.symm (fenceByte_parts _ s hs hb)
  next => cases h

theorem barByte_parts (b : BitVec 8) {k : Nat} (h : (b.extractLsb' 4 4).toNat = k) :
    BitVec.ofNat 4 k ++ BitVec.ofNat 4 (Fin.ofNat 16 (b.extractLsb' 0 4).toNat).val = b := by
  subst h
  revert b; decide

theorem instrFields_of_barOf (hop : f.op.toNat = 0x7D) (h : barOf f = .ok i) : instrFields i = some f.unchained := by
  unfold barOf at h
  split at h <;> rename_i hb
  case h_4 => cases h
  all_goals
    obtain ⟨hz, rfl⟩ := guarded_eq_ok.mp h
    obtain ⟨hd, ha⟩ := zeros_of_and hz
    exact mkFields_eq hop hd ha (barByte_parts f.b hb)

theorem yieldByte_parts (d : BitVec 8) : BitVec.ofNat 5 (Fin.ofNat 32 (d.extractLsb' 3 5).toNat).val ++ BitVec.ofNat 3 (counterOf d).val = d := by
  revert d; decide

theorem fmByte_of_bit7 (d : BitVec 8) (h : d.getLsbD 7 = true) : fmByte true (handleOf d) = d := by
  rw [← h]
  exact fmByte_parts d

theorem xstatByte_parts (b : BitVec 8) (h : (b.extractLsb' 2 6 == 0#6) = true) :
    0#6 ++ BitVec.ofNat 2 (Fin.ofNat 4 (b.extractLsb' 0 2).toNat).val = b := by
  rw [← beq_iff_eq.mp h]
  clear h
  revert b; decide

theorem spawnByte_parts (b d : BitVec 8) (h : (b == 0#8 && !d.getLsbD 7 && !d.getLsbD 5 && !d.getLsbD 4) = true) :
    0#8 = b ∧ fxByte false (d.getLsbD 6) false false (d.getLsbD 3) (counterOf d) = d := by
  simp only [Bool.and_eq_true, beq_iff_eq, Bool.not_eq_true'] at h
  obtain ⟨⟨⟨hb, h7⟩, h5⟩, h4⟩ := h
  have hd := fxByte_counterOf d
  rw [h7, h5, h4] at hd
  exact ⟨hb.symm, hd⟩

end

theorem instrFields_of_fieldsInstr {f : Fields} {i : Instr} (h : fieldsInstr f = .ok i) : instrFields i = some f.unchained := by
  unfold fieldsInstr at h
  -- Opcode n is alternative n + 1.
  split at h <;> rename_i hop
  case h_32 => exact instrFields_of_intuOf hop h
  case h_43 => exact instrFields_of_funOf hop h
  case h_53 => exact instrFields_of_dunOf hop h
  case h_69 => exact instrFields_of_lunOf hop h
  case h_100 => exact instrFields_of_fenceOf hop h
  case h_101 => exact instrFields_of_cacheOf hop h
  case h_126 => exact instrFields_of_barOf hop h
  case h_128 => exact instrFields_of_sysOf hop h
  case h_129 => cases h
  case h_1 | h_123 | h_124 =>
    obtain ⟨hz, rfl⟩ := guarded_eq_ok.mp h
    obtain ⟨hd, ha, hb⟩ := zeros_of_and3 hz
    exact mkFields_eq hop hd ha hb
  case h_74 =>
    split at h
    next r hr =>
      obtain ⟨ha, rfl⟩ := guarded_eq_ok.mp h
      exact mkFields_eq hop (dstCode_dstOf _) (zero_of_beq ha) (sregCode_of_sregOf hr)
    next => cases h
  case h_75 =>
    split at h
    next r hr =>
      obtain ⟨hd, rfl⟩ := guarded_eq_ok.mp h
      exact mkFields_eq hop (zero_of_beq hd) (srcCode_srcOf _) (sregCode_of_sregOf hr)
    next => cases h
  case h_90 | h_91 | h_92 | h_93 | h_99 => exact instrFields_of_faWord hop (dstCode_dstOf _) h (fun _ _ => rfl)
  case h_94 =>
    split at h <;> rename_i hd
    case h_3 => cases h
    all_goals
      cases h
      exact mkFields_eq hop (BitVec.eq_of_toNat_eq hd.symm) (srcCode_srcOf _) (fmByte_parts _)
  case h_105 =>
    split at h
    next hb => exact instrFields_of_fxEngine hop (zero_of_beq hb) h (fun _ _ _ _ => rfl)
    next => cases h
  case h_106 | h_107 => exact instrFields_of_fxIndex hop h (fun _ _ _ _ _ => rfl)
  case h_108 | h_109 | h_110 =>
    split at h <;> rename_i hb
    case h_3 => cases h
    all_goals exact instrFields_of_fxEngine hop (by exact BitVec.eq_of_toNat_eq hb.symm) h (fun _ _ _ _ => rfl)
  case h_111 =>
    split at h <;> rename_i hb
    case h_3 => cases h
    all_goals
      obtain ⟨n, ha, hd, rfl⟩ := fxWord_eq_ok h
      exact mkFields_eq hop (fmByte_of_bit7 _ hd) ha (BitVec.eq_of_toNat_eq hb.symm)
  case h_112 =>
    split at h
    next hb =>
      obtain ⟨n, ha, hd, rfl⟩ := fxWord_eq_ok h
      exact mkFields_eq hop (fmByte_of_bit7 _ hd) ha (xstatByte_parts _ hb)
    next => cases h
  case h_113 | h_118 =>
    obtain ⟨hd, rfl⟩ := guarded_eq_ok.mp h
    exact mkFields_eq hop (zero_of_beq hd) (hiByte_append _ _) (loByte_append _ _)
  case h_121 =>
    cases h
    obtain ⟨hd, ha, hb⟩ := extract_bytes3 f.d f.a f.b
    exact mkFields_eq hop hd ha hb
  case h_122 =>
    split at h <;> rename_i hb
    case h_3 => cases h
    all_goals
      obtain ⟨hd, rfl⟩ := guarded_eq_ok.mp h
      exact mkFields_eq hop (zero_of_beq hd) (srcCode_srcOf _) (BitVec.eq_of_toNat_eq hb.symm)
  case h_125 =>
    cases h
    exact mkFields_eq hop (yieldByte_parts _) (hiByte_append _ _) (loByte_append _ _)
  case h_127 =>
    obtain ⟨n, ha, hz, rfl⟩ := fxWord_eq_ok h
    obtain ⟨hb, hd⟩ := spawnByte_parts _ _ hz
    exact mkFields_eq hop hd ha hb
  all_goals
    cases h
    exact mkFields_eq hop (by simp) (by simp [hiByte_append]) (by simp [loByte_append])

/-! ### Words -/

theorem decodeFields_eq_ok {f : Fields} {i : Instr} : decodeFields f = .ok i ↔ fieldsInstr f = .ok i ∧ i.wellFormed = true := by
  unfold decodeFields Instr.wellFormed
  split
  next r hr => simp [hr]
  next j hj =>
    rw [hj]
    split
    next hr =>
      constructor
      · rintro ⟨⟩
        exact ⟨rfl, by simp [hr]⟩
      · rintro ⟨⟨⟩, -⟩
        rfl
    next r hr =>
      constructor
      · nofun
      · rintro ⟨⟨⟩, h⟩
        simp [hr] at h

theorem decode_eq_ok {w : Word} {c : Bool} {i : Instr} :
    decode w = .ok (c, i) ↔ c = w.getLsbD 31 ∧ fieldsInstr (splitWord w) = .ok i ∧ i.wellFormed = true := by
  rw [← decodeFields_eq_ok]
  unfold decode
  split
  next j hj =>
    rw [hj]
    constructor
    · rintro ⟨⟩
      exact ⟨rfl, rfl⟩
    · rintro ⟨rfl, ⟨⟩⟩
      rfl
  next r hr => simp [hr]

theorem encode_eq_some {i : Instr} {w : Word} : encode i = some w ↔ ∃ f, instrFields i = some f ∧ joinWord f = w := by
  simp [encode]

theorem splitWord_or_chain (w : Word) : splitWord (w ||| 0x80000000#32) = { splitWord w with c := true } := by
  have zero : (0x80000000#32).extractLsb' 24 7 = 0#7 ∧ (0x80000000#32).extractLsb' 16 8 = 0#8 ∧
    (0x80000000#32).extractLsb' 8 8 = 0#8 ∧ (0x80000000#32).extractLsb' 0 8 = 0#8 := by decide
  simp only [splitWord, BitVec.extractLsb'_or, zero, BitVec.or_zero, Fields.mk.injEq, and_true]
  simp

theorem joinWord_unchained_splitWord (w : Word) : joinWord (splitWord w).unchained = w &&& 0x7FFFFFFF#32 := by
  have low : w.extractLsb' 24 7 ++ (w.extractLsb' 16 8 ++ (w.extractLsb' 8 8 ++ w.extractLsb' 0 8)) = w.extractLsb' 0 31 := by
    rw [BitVec.extractLsb'_append_extractLsb'_eq_extractLsb' (start₁ := 0) (start₂ := 8) rfl]
    rw [BitVec.extractLsb'_append_extractLsb'_eq_extractLsb' (start₁ := 0) (start₂ := 16) rfl]
    rw [BitVec.extractLsb'_append_extractLsb'_eq_extractLsb' (start₁ := 0) (start₂ := 24) rfl]
  apply BitVec.eq_of_toNat_eq
  show (BitVec.ofBool false ++ (w.extractLsb' 24 7 ++ (w.extractLsb' 16 8 ++ (w.extractLsb' 8 8 ++ w.extractLsb' 0 8)))).toNat = _
  rw [low, BitVec.toNat_append, BitVec.toNat_and]
  exact (by simp : _ = w.toNat % 2 ^ 31).trans (Nat.and_two_pow_sub_one_eq_mod w.toNat 31).symm

end Sys2Proof

namespace Sys2Proof.Machine

open Sys2Proof.Laws.ChainBit in
/-- Settles O54: by the parts of a word in both directions, since splitting and joining a word are inverse. -/
theorem encodingRoundTrip : Obligations.EncodingRoundTrip := by
  refine ⟨fun i w hi hw => ?_, fun w c i h => ?_⟩
  · obtain ⟨f, hf, rfl⟩ := encode_eq_some.mp hw
    have hfields := fieldsInstr_of_instrFields hf
    have hc : f.c = false := congrArg Fields.c (Option.some.inj (hf.symm.trans (instrFields_of_fieldsInstr hfields)))
    have hbit : (joinWord f).getLsbD 31 = (splitWord (joinWord f)).c := rfl
    refine ⟨decode_eq_ok.mpr ⟨?_, ?_, hi⟩, decode_eq_ok.mpr ⟨by simp, ?_, hi⟩⟩
    · rw [hbit, split_join, hc]
    · rw [split_join, hfields]
    · rw [splitWord_or_chain, split_join]
      exact hfields
  · obtain ⟨hc, hfields, hi⟩ := decode_eq_ok.mp h
    exact ⟨hi, hc, encode_eq_some.mpr ⟨_, instrFields_of_fieldsInstr hfields, joinWord_unchained_splitWord w⟩⟩

/-- Settles O55: each word's parts name its instruction, or fail the test that refuses it. -/
theorem decodedWords : Obligations.DecodedWords :=
  ⟨rfl, rfl, rfl, rfl, rfl, rfl, rfl, rfl, rfl, rfl, rfl, rfl, rfl, rfl⟩

end Sys2Proof.Machine

/-! ## Branches (R30, R226, R228, R257, R258) -/

namespace Sys2Proof.Machine

/-! ### Taking operands changes ports alone -/

@[simp] theorem State.setPort_ix (s : State) (slot port : Nat) (c : Chan) : (s.setPort slot port c).ix = s.ix := by
  unfold State.setPort
  split <;> rfl

@[simp] theorem State.popPort_ix (s : State) (slot port n : Nat) : (s.popPort slot port n).2.ix = s.ix := by
  unfold State.popPort
  dsimp only
  split
  · rfl
  · exact s.setPort_ix ..

theorem State.take_cons_port (s : State) (slot : Nat) (n : Fin 15) (pos : Pos) (rest : List (Src × Pos)) :
    s.take slot ((.q n, pos) :: rest) =
      ((pos, .popped (srcIsVec (s.team (s.group slot).team) (.q n)) (s.popPort slot n.val pos.words).1) ::
        ((s.popPort slot n.val pos.words).2.take slot rest).1, ((s.popPort slot n.val pos.words).2.take slot rest).2) := rfl

theorem State.take_cons_reg (s : State) (slot : Nat) {x : Src} (pos : Pos) (rest : List (Src × Pos)) (h : ∀ n, x ≠ .q n) :
    s.take slot ((x, pos) :: rest) = ((pos, .reg x) :: (s.take slot rest).1, (s.take slot rest).2) := by
  cases x with
  | q n => exact absurd rfl (h n)
  | v n | s n | lit => rfl

@[simp] theorem State.take_ix (s : State) (slot : Nat) (srcs : List (Src × Pos)) : (s.take slot srcs).2.ix = s.ix := by
  induction srcs generalizing s with
  | nil => rfl
  | cons e rest ih =>
    obtain ⟨x, pos⟩ := e
    cases x with
    | q n => rw [State.take_cons_port, ih, State.popPort_ix]
    | v n | s n | lit => rw [State.take_cons_reg _ _ _ _ (by simp), ih]

/-! ### A class under a branch -/

theorem Lane.branch_eq_branched (x : Lane) (taken back spin : Bool) (t next : DWord) :
    x.branch taken back spin t next = branched x taken back spin t next := by
  cases taken <;> cases back <;> cases spin <;> rfl

theorem target_eq (a : DWord) (off : Int) :
    target a off = addrOf (3 * (a.toNat / 16 : Nat) + (a.toNat % 16 / 4 : Nat) + off) := by
  simp [target, sidx]

/-- The lanes of a class at an address branch, each by whether it takes the branch, and park when R228 says so. -/
def State.branchedTo (t : State) (lanes : List Nat) (pc : DWord) (o : BitVec 16) (spin : Bool) (taken : Nat → Bool) : State :=
  let back := decide (o.toInt ≤ 0)
  let went := t.modCur (fun g => g.modLanes lanes (fun l x => branched x (taken l) back spin (target pc o.toInt) (nextPc pc)))
  if back && !spin then went.autoPark (lanes.filter taken) else went

theorem State.branchOn_clean (t : State) (spin : Bool) (o : BitVec 16) {cond : Nat → Reg} (test : Word → Bool)
    (h : ∀ l ∈ t.ix.lanes, (cond l).poison = false) :
    t.branchOn spin o cond test = t.branchedTo t.ix.lanes t.ix.pc o spin (fun l => test (cond l).bits) := by
  have hfind : t.ix.lanes.find? (fun l => (cond l).poison) = none := by
    rw [List.find?_eq_none]
    exact fun l hl => by simp [h l hl]
  simp only [State.branchOn, hfind, Lane.branch_eq_branched]
  rfl

theorem State.branchOn_poison (t : State) (spin : Bool) (o : BitVec 16) {cond : Nat → Reg} (test : Word → Bool) {l : Nat}
    (h : t.ix.lanes.find? (fun l => (cond l).poison) = some l) :
    t.branchOn spin o cond test = t.takeTrap { cause := 0x0A, xval := 0, pc := t.ix.pc, lane := l, xaddr := 0 } := by
  rw [State.branchOn, h]
  rfl

/-- The place of the first element that passes a test. -/
theorem find?_of_getD {p : Nat → Bool} {ls : List Nat} {n : Nat} (hn : n < ls.length) (hp : p (ls.getD n 0) = true)
    (hbefore : ∀ k < n, p (ls.getD k 0) = false) : ls.find? p = some (ls.getD n 0) := by
  rw [List.find?_eq_some_iff_getElem]
  refine ⟨hp, n, hn, by simp [hn], fun k hk => ?_⟩
  have := hbefore k hk
  rw [List.getD_eq_getElem _ _ (by omega)] at this
  simp [this]

/-- The condition word of each lane. -/
def State.condOf (s : State) (a : Src) (l : Nat) : Reg :=
  let r := s.take s.ix.slot (jumpUse a .word).srcs
  ((r.2.srcWords r.1 l).headD []).headD Reg.zero

section
variable {s : State} {a : Src} (spin : Bool) (o : BitVec 16) (test : Word → Bool) (hr : s.Ready (jumpUse a .word))
include hr

theorem State.branchAs_ready : s.branchAs spin a o test = .next
    (if s.ix.lanes.any (fun l => (s.condOf a l).poison) then s.branchOn spin o (s.condOf a) test
      else (s.take s.ix.slot (jumpUse a .word).srcs).2.branchOn spin o (s.condOf a) test) := by
  obtain ⟨hstop, hheld⟩ := hr
  rw [State.branchAs, State.runs_next _ _ hstop]
  exact congrArg _ (State.withOperands_ready s (jumpUse a .word) _ hheld)

theorem State.branchAs_clean (hc : ∀ l ∈ s.ix.lanes, (s.condOf a l).poison = false) {taken : Nat → Bool}
    (ht : ∀ l, test (s.condOf a l).bits = taken l) :
    s.branchAs spin a o test = .next ((s.take s.ix.slot (jumpUse a .word).srcs).2.branchedTo s.ix.lanes s.ix.pc o spin taken) := by
  have hany : s.ix.lanes.any (fun l => (s.condOf a l).poison) = false := by
    rw [List.any_eq_false]
    exact fun l hl => by simp [hc l hl]
  rw [State.branchAs_ready spin o test hr, hany, if_neg Bool.false_ne_true, State.branchOn_clean, State.take_ix, funext ht]
  rwa [State.take_ix]

theorem State.branchAs_poison {n : Nat} (hn : n < s.ix.lanes.length) (hp : (s.condOf a (s.ix.lanes.getD n 0)).poison = true)
    (hbefore : ∀ k < n, (s.condOf a (s.ix.lanes.getD k 0)).poison = false) :
    s.branchAs spin a o test =
      .next (s.takeTrap { cause := 0x0A, xval := 0, pc := s.ix.pc, lane := s.ix.lanes.getD n 0, xaddr := 0 }) := by
  have hfind := find?_of_getD (p := fun l => (s.condOf a l).poison) hn hp hbefore
  have hany : s.ix.lanes.any (fun l => (s.condOf a l).poison) = true :=
    List.any_eq_true.mpr ⟨_, List.mem_of_find?_eq_some hfind, hp⟩
  rw [State.branchAs_ready spin o test hr, hany, if_pos rfl, State.branchOn_poison _ _ _ _ hfind]

end

theorem State.branchAlways_running {s : State} (spin : Bool) (o : BitVec 16) (hs : s.stopped = false) :
    s.branchAlways spin o = .next (s.branchedTo s.ix.lanes s.ix.pc o spin (fun _ => true)) := by
  rw [State.branchAlways, State.runs_next _ _ hs, State.branchOn_clean _ _ _ _ (fun _ _ => rfl)]

/-- Settles O26: a branch moves its class by `branched`, and a poisoned condition is found before any lane moves. -/
theorem branchesComplete : Obligations.BranchesComplete := by
  unfold Obligations.BranchesComplete
  intro a o s
  simp only [← target_eq]
  refine ⟨fun hs => ⟨State.branchAlways_running false o hs, State.branchAlways_running true o hs⟩, ?_, ?_⟩
  · intro hr hc
    have clean (spin : Bool) (test taken : Word → Bool) (ht : ∀ c, test c = taken c) :=
      State.branchAs_clean spin o test hr hc (taken := fun l => taken (s.condOf a l).bits) (fun l => ht _)
    have zero (c : Word) : (c == 0) = decide (c = 0) := beq_eq_decide c 0
    have nonzero (c : Word) : (c != 0) = decide (c ≠ 0) := by rw [bne, beq_eq_decide, decide_not]
    have nonneg (c : Word) : (!c.msb) = decide (0 ≤ c.toInt) := by
      rw [BitVec.msb_eq_toInt, ← decide_not]
      exact decide_eq_decide.mpr Int.not_lt
    exact ⟨clean false _ _ zero, clean false _ _ nonzero, clean false _ _ (fun _ => BitVec.msb_eq_toInt), clean false _ _ nonneg,
      clean true _ _ zero, clean true _ _ nonzero⟩
  · intro hr n hn hp hbefore
    have trap (spin : Bool) (test : Word → Bool) := State.branchAs_poison spin o test hr hn hp hbefore
    exact ⟨trap _ _, trap _ _, trap _ _, trap _ _, trap _ _, trap _ _⟩

end Sys2Proof.Machine

/-! ## Operands that are not ready (R40, R41, R42, R53, R54, R92) -/

namespace Sys2Proof.Machine

/-! ### The decode rules of operands -/

section
variable (u : Uses) (t : Team) (nregs : Nat)

/-- An operand that the decode rules refuse (R40, R42, R92). -/
def Uses.BadOperand : Prop :=
  u.dst = .q 14 ∨ (dstIsUni t u.dst = true ∧ (u.noUni = true ∨ ∃ x ∈ u.uniform, srcIsVec t x = true)) ∨
    (∃ n, u.dst = .v n ∧ ¬ n.val + u.words ≤ nregs) ∨ ∃ x ∈ u.srcs, ∃ n, x.1 = .v n ∧ ¬ n.val + x.2.words ≤ nregs

/-- An operand names a port that is not bound (R41). -/
def Uses.Unbound : Prop :=
  (∃ n : Fin 15, u.dst = .q n ∧ n.val ≠ 14 ∧ t.chan? n.val = none) ∨
    ∃ x ∈ u.srcs, ∃ n : Fin 15, x.1 = .q n ∧ n.val ≠ 14 ∧ t.chan? n.val = none

theorem dstDeclared_eq_false (d : Dst) (words : Nat) :
    dstDeclared nregs d words = false ↔ ∃ n, d = .v n ∧ ¬ n.val + words ≤ nregs := by
  cases d <;> simp [dstDeclared]

theorem srcDeclared_eq_false (x : Src) (words : Nat) :
    srcDeclared nregs x words = false ↔ ∃ n, x = .v n ∧ ¬ n.val + words ≤ nregs := by
  cases x <;> simp [srcDeclared]

theorem dstBound_eq_false (d : Dst) : dstBound t d = false ↔ ∃ n : Fin 15, d = .q n ∧ n.val ≠ 14 ∧ t.chan? n.val = none := by
  cases d <;> simp [dstBound]

theorem srcBound_eq_false (x : Src) : srcBound t x = false ↔ ∃ n : Fin 15, x = .q n ∧ n.val ≠ 14 ∧ t.chan? n.val = none := by
  cases x <;> simp [srcBound]

variable {u t nregs}

theorem Uses.operandTest_iff :
    (u.dst == .q 14 || (dstIsUni t u.dst && (u.noUni || u.uniform.any (srcIsVec t))) ||
      !dstDeclared nregs u.dst u.words || u.srcs.any (fun x => !srcDeclared nregs x.1 x.2.words)) = true ↔ u.BadOperand t nregs := by
  simp only [Uses.BadOperand, Bool.or_eq_true, Bool.and_eq_true, beq_iff_eq, List.any_eq_true, Bool.not_eq_true', dstDeclared_eq_false,
    srcDeclared_eq_false, or_assoc]

theorem Uses.boundTest_iff : (!(dstBound t u.dst) || u.srcs.any (fun x => !srcBound t x.1)) = true ↔ u.Unbound t := by
  simp only [Uses.Unbound, Bool.or_eq_true, List.any_eq_true, Bool.not_eq_true', dstBound_eq_false, srcBound_eq_false]

theorem Uses.refused_of_bad (h : u.BadOperand t nregs) : u.refused t nregs = some 0x02 :=
  if_pos (Uses.operandTest_iff.mpr h)

theorem Uses.refused_of_unbound (h : ¬ u.BadOperand t nregs) (hb : u.Unbound t) : u.refused t nregs = some 0x0D :=
  (if_neg (mt Uses.operandTest_iff.mp h)).trans (if_pos (Uses.boundTest_iff.mpr hb))

theorem Uses.refused_eq_none (h : ¬ u.BadOperand t nregs) (hb : ¬ u.Unbound t) : u.refused t nregs = none :=
  (if_neg (mt Uses.operandTest_iff.mp h)).trans (if_neg (mt Uses.boundTest_iff.mp hb))

end

/-! ### Ports that cannot serve -/

theorem portHolds_eq_length (s : State) (p : Nat) : portHolds s.cur (s.team s.cur.team) p = (s.portEntries p).length := by
  unfold portHolds State.portEntries
  cases portOf s.cur (s.team s.cur.team) p with
  | none => rfl
  | some c => simp [State.entriesOf, Chan.count]

theorem popsOf_cons (e : Nat × Nat) (pops : List (Nat × Nat)) (p : Nat) :
    popsOf (e :: pops) p = (if e.1 = p then e.2 else 0) + popsOf pops p := by
  have shift : ∀ (l : List (Nat × Nat)) (a : Nat), l.foldl (fun n e => n + e.2) a = a + l.foldl (fun n e => n + e.2) 0 := by
    intro l
    induction l with
    | nil => simp
    | cons e l ih =>
      intro a
      simp only [List.foldl_cons, Nat.zero_add]
      rw [ih, ih e.2, Nat.add_assoc]
  unfold popsOf
  by_cases h : e.1 = p
  · rw [List.filter_cons_of_pos (by simpa using h), if_pos h, List.foldl_cons, shift, Nat.zero_add]
  · rw [List.filter_cons_of_neg (by simpa using h), if_neg h, Nat.zero_add]

theorem Uses.popsOf_pops (u : Uses) (p : Nat) : popsOf u.pops p = popCount u.srcs p := by
  obtain ⟨srcs, d, words, uni, no⟩ := u
  show popsOf (srcs.filterMap _) p = popCount srcs p
  induction srcs with
  | nil => rfl
  | cons e rest ih =>
    obtain ⟨x, pos⟩ := e
    cases x with
    | q n => simp [popsOf_cons, popCount] at ih ⊢; omega
    | v n | s n | lit => simpa [popCount] using ih

/-- A port is too short of entries for the pops, or too full for the push. -/
def Blocks (g : Group) (t : Team) (owed : Nat → Nat) (pops : List (Nat × Nat)) (push : Option (Nat × Nat)) (p : Nat) : Prop :=
  portHolds g t p < popsOf pops p ∨ ∃ n, push = some (p, n) ∧ 16 < portHolds g t p - popsOf pops p + n + owed p

theorem mem_of_popsOf_pos {pops : List (Nat × Nat)} {p : Nat} (h : 0 < popsOf pops p) : ∃ e ∈ pops, e.1 = p := by
  induction pops with
  | nil => exact absurd h (by simp [popsOf])
  | cons e rest ih =>
    rw [popsOf_cons] at h
    by_cases he : e.1 = p
    · exact ⟨e, List.mem_cons_self, he⟩
    · rw [if_neg he, Nat.zero_add] at h
      obtain ⟨e', he', hp⟩ := ih h
      exact ⟨e', List.mem_cons_of_mem _ he', hp⟩

section
variable {g : Group} {t : Team} {owed : Nat → Nat} {pops : List (Nat × Nat)} {push : Option (Nat × Nat)}

theorem blocks_of_blockedPort {p : Nat} (h : blockedPort g t owed pops push = some p) : Blocks g t owed pops push p := by
  unfold blockedPort at h
  split at h
  next e he =>
    cases h
    exact .inl (by simpa using List.find?_some he)
  next =>
    split at h
    next => cases h
    next q n =>
      split at h
      next => cases h
      next hfull =>
        cases h
        exact .inr ⟨n, rfl, Nat.lt_of_not_le hfull⟩

theorem not_blocks_of_blockedPort (h : blockedPort g t owed pops push = none) (p : Nat) : ¬ Blocks g t owed pops push p := by
  unfold blockedPort at h
  split at h
  next => cases h
  next hfind =>
    rintro (hshort | ⟨n, rfl, hfull⟩)
    · obtain ⟨e, he, rfl⟩ := mem_of_popsOf_pos (Nat.lt_of_le_of_lt (Nat.zero_le _) hshort)
      exact absurd hshort (by simpa using List.find?_eq_none.mp hfind e he)
    · dsimp only at h
      split at h
      next hroom => omega
      next => cases h

end

/-! ### The operand prologue of an arithmetic row -/

theorem State.cross_eq (s : State) (u : Uses) (f : Bool → List Nat → Nat → (Nat → List (List Reg)) → Res) :
    s.cross u f = s.withOperands u (fun gots t => t.retire u ((if dstIsUni (s.team s.cur.team) u.dst then [s.lowest] else s.ix.lanes).map
      (fun l => (l, f (dstIsUni (s.team s.cur.team) u.dst) s.ix.lanes l (t.srcWords gots))))) := rfl

/-- Every arithmetic row is its operand prologue before something that runs when the operands are ready. -/
theorem exec_arithmetic {i : Instr} {u : Uses} (s : State) (h : arithmeticUses i = some u) :
    ∃ go, exec i s = s.runs (s.withOperands u go) := by
  cases i with
  | add | sub | mul | mulh | mulhu | and | or | xor | shl | shr | sar | min | max | minu | maxu | slt | sltu | seq | fadd
  | fsub | fmul | fmin | fmax | fslt | fsle | fseq | fsun | mad | sel | ffma | add64 | sub64 | mul64 | shl64 | shr64
  | sar64 | slt64 | sltu64 | madwu | addwu | mov | not | neg | abs | clz | ctz | popc | brev | bswap | sextb | sexth
  | zextb | zexth | tcnt | fneg | fabs | fsqrt | frcp | frsq | fexp2 | flog2 | fsin | fcos | frndn | frndz | frndp | frndm
  | fclass | ptest | pclr | mov64 | neg64 | dadd | dsub | dmul | dmin | dmax | dfma | dslt | dsle | dseq | dneg | dabs
  | dsqrt | drcp | drsq | drndn | drndz | drndp | drndm | dclass | hadd2 | hmul2 | hfma2 | badd2 | bmul2 | bfma2 | cvt
  | cvtz
  | movi | movih | srd =>
    cases h
    exact ⟨_, rfl⟩
  | shfl | shflx | shflu | shfld | lsegi | lsegf | lsegd | lscani | lscanf | lredi | lredf | lmini | lmaxi | lany
  | lall | lcount | lrank | lscand | lredd | lballot | rdlane =>
    cases h
    exact ⟨_, congrArg s.runs (s.cross_eq _ _)⟩
  | _ => cases h

section
variable {i : Instr} {u : Uses} {s : State} (hi : arithmeticUses i = some u) (hs : s.stopped = false)
include hi hs

theorem exec_trap {c : Nat} (h : s.heldBy u = some (.trap c)) : exec i s = .next (s.trapAt c s.ix.word 0) := by
  obtain ⟨go, hgo⟩ := exec_arithmetic s hi
  rw [hgo, State.runs_next _ _ hs, State.withOperands, h]
  rfl

theorem exec_sleepOn {p : Nat} (h : s.heldBy u = some (.port p)) : exec i s = .next (s.sleepOn p u) := by
  obtain ⟨go, hgo⟩ := exec_arithmetic s hi
  rw [hgo, State.runs_next _ _ hs, State.withOperands, h]

end

theorem State.heldBy_of_refused {s : State} {u : Uses} {c : Nat} (h : u.refused (s.team s.cur.team) s.cur.nregs = some c) :
    s.heldBy u = some (.trap c) := by
  simp [State.heldBy, h]

theorem State.heldBy_of_not_refused {s : State} {u : Uses} (h : u.refused (s.team s.cur.team) s.cur.nregs = none) :
    s.heldBy u = (blockedPort s.cur (s.team s.cur.team) (s.owed s.cur) u.pops u.push).map .port := by
  simp [State.heldBy, h]

theorem Uses.pops_lt (u : Uses) {e : Nat × Nat} (h : e ∈ u.pops) : e.1 < 15 := by
  obtain ⟨⟨x, pos⟩, -, hx⟩ := List.mem_filterMap.mp h
  cases x with
  | q n =>
    cases hx
    exact n.isLt
  | v n | s n | lit => cases hx

theorem Uses.push_eq_some {u : Uses} {p n : Nat} :
    u.push = some (p, n) ↔ (u.dst = .q (Fin.ofNat 15 p) ∧ p < 15) ∧ n = u.words := by
  obtain ⟨srcs, d, words, uni, no⟩ := u
  cases d with
  | q m =>
    simp only [Uses.push, Option.some.injEq, Prod.mk.injEq, Dst.q.injEq, Fin.ext_iff, Fin.val_ofNat]
    have := m.isLt
    constructor
    · rintro ⟨rfl, rfl⟩
      exact ⟨⟨(Nat.mod_eq_of_lt this).symm, this⟩, rfl⟩
    · rintro ⟨⟨h, hp⟩, rfl⟩
      exact ⟨h.trans (Nat.mod_eq_of_lt hp), rfl⟩
  | v m | s m | nul => simp [Uses.push]

/-- A port of the issuing group that cannot serve an instruction, in the entries it holds. -/
theorem State.blocks_iff (s : State) (u : Uses) (p : Nat) : Blocks s.cur (s.team s.cur.team) (s.owed s.cur) u.pops u.push p ↔
    p < 15 ∧ ((s.portEntries p).length < popCount u.srcs p ∨
      (u.dst = .q (Fin.ofNat 15 p) ∧ p < 15 ∧ 16 < (s.portEntries p).length - popCount u.srcs p + u.words + s.owed s.cur p)) := by
  rw [Blocks, portHolds_eq_length, Uses.popsOf_pops]
  have hpop : (s.portEntries p).length < popCount u.srcs p → p < 15 := fun h => by
    rw [← Uses.popsOf_pops] at h
    obtain ⟨e, he, rfl⟩ := mem_of_popsOf_pos (Nat.lt_of_le_of_lt (Nat.zero_le _) h)
    exact u.pops_lt he
  have hpush : ∀ n, u.push = some (p, n) ↔ (u.dst = .q (Fin.ofNat 15 p) ∧ p < 15) ∧ n = u.words := fun n => u.push_eq_some
  simp only [hpush]
  constructor
  · rintro (hshort | ⟨n, ⟨⟨hd, hlt⟩, rfl⟩, hfull⟩)
    · exact ⟨hpop hshort, .inl hshort⟩
    · exact ⟨hlt, .inr ⟨hd, hlt, hfull⟩⟩
  · rintro ⟨-, hshort | ⟨hd, hlt, hfull⟩⟩
    · exact .inl hshort
    · exact .inr ⟨u.words, ⟨⟨hd, hlt⟩, rfl⟩, hfull⟩

/-- Settles O14: by the two decode tests and then the first port that cannot serve. -/
theorem operandsNotReady : Obligations.OperandsNotReady := by
  unfold Obligations.OperandsNotReady
  intro i u s hi hs t declared bad unbound short full
  have hblocks : ∀ p, Blocks s.cur t (s.owed s.cur) u.pops u.push p ↔ p < 15 ∧ (short p ∨ full p) := s.blocks_iff u
  refine ⟨fun hbad => ?_, fun hbad hun => ?_, fun hbad hun hp => ?_, fun hbad hun hp => ⟨hs, ?_⟩⟩
  · exact exec_trap hi hs (State.heldBy_of_refused (Uses.refused_of_bad hbad))
  · exact exec_trap hi hs (State.heldBy_of_refused (Uses.refused_of_unbound hbad hun))
  · have hheld := State.heldBy_of_not_refused (Uses.refused_eq_none hbad hun)
    cases hblocked : blockedPort s.cur t (s.owed s.cur) u.pops u.push with
    | none =>
      obtain ⟨p, hp⟩ := hp
      exact absurd ((hblocks p).mpr hp) (not_blocks_of_blockedPort hblocked p)
    | some p =>
      obtain ⟨hlt, hfail⟩ := (hblocks p).mp (blocks_of_blockedPort hblocked)
      exact ⟨p, hlt, hfail, exec_sleepOn hi hs (hheld.trans (congrArg (Option.map Held.port) hblocked))⟩
  · have hheld := State.heldBy_of_not_refused (Uses.refused_eq_none hbad hun)
    cases hblocked : blockedPort s.cur t (s.owed s.cur) u.pops u.push with
    | none => exact hheld.trans (congrArg (Option.map Held.port) hblocked)
    | some p =>
      obtain ⟨hlt, hfail⟩ := (hblocks p).mp (blocks_of_blockedPort hblocked)
      exact absurd hfail (not_or.mpr (hp p hlt))

end Sys2Proof.Machine

/-! ## Rounding to nearest (R77, R78)

What `roundFin` computes for RoundNE is the point of a format's grid nearest to the exact magnitude: first for the integer that
`quantise` gives, then for the grid, then for the code. -/

namespace Sys2Proof.Machine

/-! ### The nearest integer -/

/-- The natural number nearest to a rational, the even one of two. -/
def IsNearest (n : Nat) (y : ℚ) : Prop := |(n : ℚ) - y| ≤ 1 / 2 ∧ (|(n : ℚ) - y| = 1 / 2 → n % 2 = 0)

theorem isNearest_self (n : Nat) : IsNearest n n := by simp [IsNearest]

/-- No integer is nearer, and another one as near is half away. -/
theorem IsNearest.le {n : Nat} {y : ℚ} (h : IsNearest n y) (j : Nat) :
    |(n : ℚ) - y| ≤ |(j : ℚ) - y| ∧ (j ≠ n → |(n : ℚ) - y| = |(j : ℚ) - y| → |(n : ℚ) - y| = 1 / 2) := by
  by_cases hj : j = n
  · subst hj
    exact ⟨le_rfl, fun h => absurd rfl h⟩
  · have hdist : (1 : ℚ) ≤ |(j : ℚ) - n| := by
      have : (1 : ℤ) ≤ |(j : ℤ) - n| := Int.one_le_abs (by omega)
      exact_mod_cast this
    have htri : |(j : ℚ) - n| ≤ |(j : ℚ) - y| + |(n : ℚ) - y| := by
      rw [abs_sub_comm (n : ℚ) y]
      exact abs_sub_le _ _ _
    have hhalf := h.1
    exact ⟨by linarith, fun _ he => by linarith⟩

theorem IsNearest.le_of_lt {n K : Nat} {y : ℚ} (h : IsNearest n y) (hy : y < K) : n ≤ K := by
  have hn : (n : ℚ) < K + 1 := by linarith [(abs_le.mp h.1).2]
  exact Nat.lt_succ_iff.mp (by exact_mod_cast hn)

theorem IsNearest.le_of_le {n K : Nat} {y : ℚ} (h : IsNearest n y) (hy : (K : ℚ) ≤ y) : K ≤ n := by
  have hn : (K : ℚ) < n + 1 := by linarith [(abs_le.mp h.1).1]
  exact Nat.lt_succ_iff.mp (by exact_mod_cast hn)

theorem shiftRound_ne (neg : Bool) (m k : Nat) : IsNearest (shiftRound .ne neg m k).1 ((m : ℚ) / 2 ^ k) := by
  obtain ⟨n, hn⟩ : ∃ n, m / 2 ^ k = n := ⟨_, rfl⟩
  obtain ⟨r, hr⟩ : ∃ r, m % 2 ^ k = r := ⟨_, rfl⟩
  have hlt : r < 2 ^ k := hr ▸ Nat.mod_lt m (Nat.two_pow_pos k)
  have hpos : (0 : ℚ) < 2 ^ k := by positivity
  have hm : (m : ℚ) / 2 ^ k = n + r / 2 ^ k := by
    rw [eq_comm, ← hn, ← hr, eq_div_iff hpos.ne', add_mul, div_mul_cancel₀ _ hpos.ne']
    exact_mod_cast Nat.div_add_mod' m (2 ^ k)
  have hnonneg : (0 : ℚ) ≤ r / 2 ^ k := by positivity
  have hone : (r : ℚ) / 2 ^ k ≤ 1 := (div_le_one hpos).mpr (by exact_mod_cast hlt.le)
  have hhalf : ((r : ℚ) / 2 ^ k ≤ 1 / 2 ↔ 2 * r ≤ 2 ^ k) ∧ (1 / 2 ≤ (r : ℚ) / 2 ^ k ↔ 2 ^ k ≤ 2 * r) := by
    rw [div_le_div_iff₀ hpos two_pos, div_le_div_iff₀ two_pos hpos, one_mul, mul_comm (r : ℚ) 2]
    exact ⟨by exact_mod_cast Iff.rfl, by exact_mod_cast Iff.rfl⟩
  simp only [shiftRound, hn, hr, hm, Bool.or_eq_true, Bool.and_eq_true, decide_eq_true_eq, beq_iff_eq]
  split
  next hup =>
    have habs : |((n + 1 : Nat) : ℚ) - (n + r / 2 ^ k)| = 1 - r / 2 ^ k := by
      rw [Nat.cast_succ, add_sub_add_left_eq_sub, abs_of_nonneg (by linarith)]
    rw [IsNearest, habs]
    have hge : 2 ^ k ≤ 2 * r := hup.elim le_of_lt (fun h => h.1.1.ge)
    refine ⟨by linarith [hhalf.2.mpr hge], fun he => ?_⟩
    have : 2 * r ≤ 2 ^ k := hhalf.1.mp (by linarith)
    exact Nat.succ_mod_two_eq_zero_iff.mpr (hup.elim (fun h => absurd h (by omega)) And.right)
  next hup =>
    have habs : |(n : ℚ) - (n + r / 2 ^ k)| = r / 2 ^ k := by
      rw [sub_add_cancel_left, abs_neg, abs_of_nonneg hnonneg]
    rw [IsNearest, habs]
    have hle : 2 * r ≤ 2 ^ k := by omega
    refine ⟨hhalf.1.mpr hle, fun he => ?_⟩
    have : 2 ^ k ≤ 2 * r := hhalf.2.mp he.ge
    have := Nat.two_pow_pos k
    omega

theorem quantise_ne (neg : Bool) (m : Nat) (e q : Int) : IsNearest (quantise .ne neg m e q).1 ((m : ℚ) * 2 ^ (e - q)) := by
  unfold quantise
  split
  next h =>
    have : (m : ℚ) * 2 ^ (e - q) = ((m * 2 ^ (e - q).toNat : Nat) : ℚ) := by
      rw [Nat.cast_mul, Nat.cast_pow, Nat.cast_two, ← zpow_natCast, Int.toNat_of_nonneg (by omega)]
    rw [this]
    exact isNearest_self _
  next h =>
    have : (m : ℚ) * 2 ^ (e - q) = (m : ℚ) / 2 ^ (q - e).toNat := by
      rw [← zpow_natCast, Int.toNat_of_nonneg (by omega), div_eq_mul_inv, ← zpow_neg, neg_sub]
    rw [this]
    exact shiftRound_ne _ _ _

/-! ### The grid of a format -/

/-- An integer multiple of the grid's quantum at a magnitude, nearest to it, is the nearest point of the grid. -/
theorem Fmt.isRoundNE_of_isNearest (f : Fmt) (hmb : 1 ≤ f.mb) {n : Nat} {y : ℚ} {q : Int} (h : IsNearest n y) (hq : f.qmin ≤ q)
    (hlt : y < 2 ^ (f.mb + 1)) (hge : q = f.qmin ∨ 2 ^ f.mb ≤ y) :
    f.isRoundNE ((y * 2 ^ q : ℚ) : ℝ) ((n : ℚ) * 2 ^ q) := by
  have hpos : (0 : ℚ) < 2 ^ q := by positivity
  have hn : n ≤ 2 ^ (f.mb + 1) := h.le_of_lt (by exact_mod_cast hlt)
  have hlow : q = f.qmin ∨ 2 ^ f.mb ≤ n := hge.imp_right fun hy => h.le_of_le (by exact_mod_cast hy)
  -- No point of the grid is nearer than n quanta, and another one as near shows a tie.
  have hbest : ∀ w, f.gridFrom (fun p => f.qmin ≤ p) w →
      |(n : ℚ) - y| ≤ |w / 2 ^ q - y| ∧ (w ≠ n * 2 ^ q → |(n : ℚ) - y| = |w / 2 ^ q - y| → |(n : ℚ) - y| = 1 / 2) := by
    rintro w ⟨a, p, ha, hp, rfl⟩
    by_cases hpq : q ≤ p
    · have hint : (a : ℚ) * 2 ^ p / 2 ^ q = ((a * 2 ^ (p - q).toNat : Nat) : ℚ) := by
        rw [Nat.cast_mul, Nat.cast_pow, Nat.cast_two, ← zpow_natCast, Int.toNat_of_nonneg (by omega), mul_div_assoc,
          ← zpow_sub₀ two_ne_zero]
      obtain ⟨hle, htie⟩ := h.le (a * 2 ^ (p - q).toNat)
      rw [hint]
      refine ⟨hle, fun hne => htie fun hj => hne ?_⟩
      rw [← hj, ← hint, div_mul_cancel₀ _ hpos.ne']
    · have hy : (2 : ℚ) ^ f.mb ≤ y := hge.resolve_left (by omega)
      have hw : (a : ℚ) * 2 ^ p / 2 ^ q < 2 ^ f.mb := by
        have hlast : (a : ℚ) < 2 ^ (f.mb + 1) := by exact_mod_cast ha
        calc (a : ℚ) * 2 ^ p / 2 ^ q = a * 2 ^ (p - q) := by rw [mul_div_assoc, ← zpow_sub₀ two_ne_zero]
          _ ≤ a * 2 ^ (-1 : ℤ) := by
            gcongr
            · norm_num
            · omega
          _ = a / 2 := by rw [zpow_neg_one, div_eq_mul_inv]
          _ < 2 ^ f.mb := by
            rw [pow_succ] at hlast
            linarith
      have hmid := (h.le (2 ^ f.mb)).1
      have : |(2 : ℚ) ^ f.mb - y| < |(a : ℚ) * 2 ^ p / 2 ^ q - y| := by
        rw [abs_sub_comm, abs_of_nonneg (by linarith), abs_sub_comm, abs_of_nonneg (by linarith)]
        linarith
      push_cast at hmid
      exact ⟨by linarith, fun _ he => by linarith⟩
  have hscale : ∀ w : ℚ, |((w : ℚ) : ℝ) - ((y * 2 ^ q : ℚ) : ℝ)| = ((|w / 2 ^ q - y| * 2 ^ q : ℚ) : ℝ) := by
    intro w
    have : |w / 2 ^ q - y| * 2 ^ q = |w - y * 2 ^ q| := by
      rw [← abs_of_pos hpos, ← abs_mul, abs_of_pos hpos, sub_mul, div_mul_cancel₀ _ hpos.ne']
    rw [this]
    push_cast
    rfl
  have hn' : |((n : ℚ) * 2 ^ q) / 2 ^ q - y| = |(n : ℚ) - y| := by rw [mul_div_cancel_right₀ _ hpos.ne']
  have hnear : ∀ w, f.gridFrom (fun p => f.qmin ≤ p) w →
      |(((n : ℚ) * 2 ^ q : ℚ) : ℝ) - ((y * 2 ^ q : ℚ) : ℝ)| ≤ |(w : ℝ) - ((y * 2 ^ q : ℚ) : ℝ)| := by
    intro w hw
    rw [hscale, hscale, hn']
    exact_mod_cast mul_le_mul_of_nonneg_right (hbest w hw).1 hpos.le
  have htie : (∃ w, f.gridFrom (fun p => f.qmin ≤ p) w ∧ w ≠ (n : ℚ) * 2 ^ q ∧
      |(((n : ℚ) * 2 ^ q : ℚ) : ℝ) - ((y * 2 ^ q : ℚ) : ℝ)| = |(w : ℝ) - ((y * 2 ^ q : ℚ) : ℝ)|) → n % 2 = 0 := by
    rintro ⟨w, hw, hne, he⟩
    rw [hscale, hscale, hn'] at he
    exact h.2 ((hbest w hw).2 hne (mul_right_cancel₀ hpos.ne' (by exact_mod_cast he)))
  by_cases hcarry : n = 2 ^ (f.mb + 1)
  · have heven : 2 ^ f.mb % 2 = 0 := Nat.mod_eq_zero_of_dvd (dvd_pow_self 2 (by omega))
    refine ⟨2 ^ f.mb, q + 1, Nat.pow_lt_pow_right one_lt_two (Nat.lt_succ_self _), by omega, .inl le_rfl, ?_, hnear, fun _ => heven⟩
    rw [hcarry, zpow_add_one₀ two_ne_zero]
    push_cast
    ring
  · refine ⟨n, q, by omega, hq, ?_, rfl, hnear, htie⟩
    exact hlow.elim (fun h => .inr (by omega)) .inl

/-! ### The codes of an IEEE format -/

/-- A format of R63: infinities and NaNs at the top, the largest finite magnitude just below infinity. -/
def Fmt.Ieee (f : Fmt) : Prop := f.tops = .ieee ∧ 1 ≤ f.mb ∧ 2 ≤ f.eb ∧ f.max + 1 = f.infCode

theorem Fmt.ieee_f64 : Fmt.f64.Ieee := by simp [Fmt.Ieee, Fmt.f64, Fmt.infCode]
theorem Fmt.ieee_f16 : Fmt.f16.Ieee := by simp [Fmt.Ieee, Fmt.f16, Fmt.infCode]
theorem Fmt.ieee_bf16 : Fmt.bf16.Ieee := by simp [Fmt.Ieee, Fmt.bf16, Fmt.infCode]

theorem Fmt.bit_signed (f : Fmt) (neg : Bool) {c : Nat} (hc : c < 2 ^ f.signBit) : bit (f.signed neg c) f.signBit = neg := by
  cases neg
  · simp [Fmt.signed, bit, Nat.div_eq_of_lt hc]
  · simp [Fmt.signed, bit, Nat.add_div_left, Nat.div_eq_of_lt hc]

theorem Fmt.bits_signed (f : Fmt) (neg : Bool) (c : Nat) :
    bits (f.signed neg c) f.mb f.eb = c / 2 ^ f.mb % 2 ^ f.eb ∧ bits (f.signed neg c) 0 f.mb = c % 2 ^ f.mb := by
  cases neg
  · simp [Fmt.signed, bits]
  · have h : 2 ^ f.signBit = 2 ^ f.mb * 2 ^ f.eb := by rw [Fmt.signBit, Nat.add_comm, pow_add]
    simp [Fmt.signed, bits, h, Nat.mul_add_div, Nat.add_mod]

theorem Fmt.infCode_lt (f : Fmt) : f.infCode < 2 ^ f.signBit := by
  rw [Fmt.infCode, Fmt.signBit, pow_add]
  exact Nat.mul_lt_mul_of_pos_right (Nat.sub_lt (Nat.two_pow_pos _) one_pos) (Nat.two_pow_pos _)

/-- A code is past the largest finite one, (T + 2) M - 1, exactly when its significand and exponent are. -/
theorem code_order {M T n E : Nat} (hM : 0 < M) (hn : n ≤ 2 * M) (hE : E = 0 ∨ M ≤ n) :
    (T + 2) * M ≤ E * M + n ↔ (2 * M - 1) * 2 ^ T < n * 2 ^ E := by
  have hT := Nat.two_pow_pos T
  rcases Nat.lt_trichotomy E T with hlt | rfl | hgt
  · have hval : n * 2 ^ E ≤ (2 * M - 1) * 2 ^ T := by
      obtain ⟨d, rfl⟩ := Nat.exists_eq_add_of_lt hlt
      calc n * 2 ^ E ≤ 2 * M * 2 ^ E := Nat.mul_le_mul_right _ hn
        _ = M * 2 ^ (E + 1) := by ring
        _ ≤ (2 * M - 1) * 2 ^ (E + d + 1) := Nat.mul_le_mul (by omega) (Nat.pow_le_pow_right two_pos (by omega))
    have hcode : E * M + n < (T + 2) * M := by
      calc E * M + n ≤ (E + 2) * M := by rw [Nat.add_mul]; omega
        _ < (T + 2) * M := Nat.mul_lt_mul_of_pos_right (by omega) hM
    omega
  · rw [Nat.add_mul, Nat.add_le_add_iff_left, Nat.mul_lt_mul_right hT]
    omega
  · have hMn : M ≤ n := hE.resolve_left (by omega)
    obtain ⟨d, rfl⟩ := Nat.exists_eq_add_of_lt hgt
    have hval : (2 * M - 1) * 2 ^ T < n * 2 ^ (T + d + 1) := by
      calc (2 * M - 1) * 2 ^ T < 2 * M * 2 ^ T := Nat.mul_lt_mul_of_pos_right (by omega) hT
        _ = M * 2 ^ (T + 1) := by ring
        _ ≤ n * 2 ^ (T + d + 1) := Nat.mul_le_mul hMn (Nat.pow_le_pow_right two_pos (by omega))
    have hcode : (T + 2) * M ≤ (T + d + 1) * M + n := by
      calc (T + 2) * M = (T + 1) * M + M := by ring
        _ ≤ (T + d + 1) * M + n := Nat.add_le_add (Nat.mul_le_mul_right _ (by omega)) hMn
    omega

section
variable {f : Fmt} (hf : f.Ieee)
include hf

/-- The value of a finite code, from its exponent and its fraction (R63). -/
theorem Fmt.Ieee.decode_parts (neg : Bool) {ex r : Nat} (hr : r < 2 ^ f.mb) (hex : ex < 2 ^ f.eb - 1) :
    f.decode (f.signed neg (ex * 2 ^ f.mb + r)) =
      if ex = 0 then .fin neg r f.qmin else .fin neg (2 ^ f.mb + r) (f.qmin + (ex : Int) - 1) := by
  have hpos := Nat.two_pow_pos f.mb
  have hc : ex * 2 ^ f.mb + r < f.infCode := by
    rw [Fmt.infCode]
    calc ex * 2 ^ f.mb + r < (ex + 1) * 2 ^ f.mb := by rw [Nat.succ_mul]; omega
      _ ≤ (2 ^ f.eb - 1) * 2 ^ f.mb := Nat.mul_le_mul_right _ hex
  obtain ⟨hdiv, hmod⟩ := f.bits_signed neg (ex * 2 ^ f.mb + r)
  rw [Nat.mul_comm ex, Nat.mul_add_div hpos, Nat.div_eq_of_lt hr, Nat.add_zero, Nat.mod_eq_of_lt (by omega)] at hdiv
  rw [Nat.mul_comm ex, Nat.mul_add_mod, Nat.mod_eq_of_lt hr] at hmod
  have hsign := f.bit_signed neg (hc.trans f.infCode_lt)
  rw [Nat.mul_comm ex] at hsign
  simp only [Fmt.decode, hsign, Nat.mul_comm ex, hdiv, hmod, hf.1, if_neg hex.ne]

/-- The value of the code that `roundMag` gives a significand n at an exponent E above the least one. -/
theorem Fmt.Ieee.decode_code (neg : Bool) {n E : Nat} (hn : n ≤ 2 ^ (f.mb + 1)) (hE : E = 0 ∨ 2 ^ f.mb ≤ n)
    (hc : E * 2 ^ f.mb + n < f.infCode) :
    ∃ m e, f.decode (f.signed neg (E * 2 ^ f.mb + n)) = .fin neg m e ∧ (m : ℚ) * 2 ^ e = n * 2 ^ (f.qmin + E) := by
  have hpos := Nat.two_pow_pos f.mb
  have htop : 2 ^ 2 ≤ 2 ^ f.eb := Nat.pow_le_pow_right two_pos hf.2.2.1
  rw [pow_succ] at hn
  rw [Fmt.infCode] at hc
  rcases Nat.lt_or_ge n (2 ^ f.mb) with hsub | hnorm
  · obtain rfl : E = 0 := hE.resolve_right (by omega)
    refine ⟨n, f.qmin, ?_, by simp⟩
    rw [hf.decode_parts neg hsub (by omega), if_pos rfl]
  obtain ⟨r, rfl⟩ := Nat.exists_eq_add_of_le hnorm
  rcases Nat.lt_or_ge r (2 ^ f.mb) with hlt | hge
  · have hex : E + 1 < 2 ^ f.eb - 1 := by
      by_contra h
      have := Nat.mul_le_mul_right (2 ^ f.mb) (Nat.le_of_not_lt h)
      rw [Nat.succ_mul] at this
      omega
    refine ⟨2 ^ f.mb + r, f.qmin + E, ?_, rfl⟩
    rw [← Nat.add_assoc, ← Nat.succ_mul, hf.decode_parts neg hlt hex, if_neg (Nat.succ_ne_zero _)]
    congr 1
    push_cast
    omega
  · obtain rfl : r = 2 ^ f.mb := by omega
    have hex : E + 2 < 2 ^ f.eb - 1 := by
      by_contra h
      have := Nat.mul_le_mul_right (2 ^ f.mb) (Nat.le_of_not_lt h)
      rw [Nat.add_mul] at this
      omega
    refine ⟨2 ^ f.mb, f.qmin + E + 1, ?_, ?_⟩
    · have h := hf.decode_parts neg hpos hex
      rw [if_neg (Nat.succ_ne_zero _), Nat.add_zero, Nat.add_zero] at h
      rw [← Nat.two_mul, ← Nat.add_mul, h]
      congr 1
      push_cast
      omega
    · rw [zpow_add_one₀ two_ne_zero]
      push_cast
      ring

theorem Fmt.Ieee.largest_eq : f.largest = ((2 ^ (f.mb + 1) - 1 : Nat) : ℚ) * 2 ^ (f.qmin + ((2 ^ f.eb - 3 : Nat) : Int)) := by
  have hpos := Nat.two_pow_pos f.mb
  have htop : 2 ^ 2 ≤ 2 ^ f.eb := Nat.pow_le_pow_right two_pos hf.2.2.1
  have hmax : f.max = (2 ^ f.eb - 3) * 2 ^ f.mb + (2 ^ (f.mb + 1) - 1) := by
    have h := hf.2.2.2
    rw [Fmt.infCode, show 2 ^ f.eb - 1 = (2 ^ f.eb - 3) + 2 by omega, Nat.add_mul] at h
    rw [pow_succ]
    omega
  have hn : 2 ^ f.mb ≤ 2 ^ (f.mb + 1) - 1 := by
    rw [pow_succ]
    omega
  obtain ⟨m, e, hdec, hval⟩ := hf.decode_code false (Nat.sub_le _ 1) (.inr hn) (by rw [← hmax, ← hf.2.2.2]; exact Nat.lt_succ_self _)
  rw [← hval, Fmt.largest, hmax]
  rw [Fmt.signed, if_neg Bool.false_ne_true] at hdec
  rw [hdec, FVal.rat, if_neg Bool.false_ne_true, one_mul]

/-- A code passes the largest finite one exactly when its value does. -/
theorem Fmt.Ieee.max_lt_code {n E : Nat} (hn : n ≤ 2 ^ (f.mb + 1)) (hE : E = 0 ∨ 2 ^ f.mb ≤ n) :
    f.max < E * 2 ^ f.mb + n ↔ f.largest < n * 2 ^ (f.qmin + E) := by
  have hquantum : (0 : ℚ) < 2 ^ f.qmin := by positivity
  have htop : 2 ^ 2 ≤ 2 ^ f.eb := Nat.pow_le_pow_right two_pos hf.2.2.1
  have hinf : f.max + 1 = (2 ^ f.eb - 3 + 2) * 2 ^ f.mb := by
    rw [hf.2.2.2, Fmt.infCode]
    congr 1
    omega
  rw [hf.largest_eq, zpow_add₀ two_ne_zero, zpow_add₀ two_ne_zero, mul_left_comm, mul_left_comm (n : ℚ),
    mul_lt_mul_iff_right₀ hquantum, zpow_natCast, zpow_natCast, ← Nat.succ_le_iff, Nat.succ_eq_add_one, hinf,
    code_order (M := 2 ^ f.mb) (Nat.two_pow_pos _) (by rwa [← pow_succ']) hE, pow_succ']
  exact_mod_cast Iff.rfl

end

/-! ### RoundNE of a magnitude -/

/-- Flags that say no more than whether a result is inexact, and tiny too. -/
theorem exists_flags (inexact tiny : Prop) : ∃ fl : Flags, fl &&& (Flags.nv ||| Flags.dz ||| Flags.ofl) = 0#5 ∧
    (fl &&& Flags.nx = Flags.nx ↔ inexact) ∧ (fl &&& Flags.uf = Flags.uf ↔ inexact ∧ tiny) := by
  by_cases hi : inexact
  · by_cases ht : tiny
    · exact ⟨Flags.nx ||| Flags.uf, by decide, by simp [hi, Flags.nx, Flags.uf], by simp [hi, ht, Flags.nx, Flags.uf]⟩
    · exact ⟨Flags.nx, by decide, by simp [hi], by simp [ht, Flags.nx, Flags.uf]⟩
  · exact ⟨0#5, by decide, by simp [hi, Flags.nx], by simp [hi, Flags.uf]⟩

/-- The code of a positive magnitude is its RoundNE, infinity past the largest finite value (R77, R78). -/
theorem roundFin_roundedNE {f : Fmt} (hf : f.Ieee) (neg : Bool) {m : Nat} (e : Int) (hm : 0 < m) :
    ∃ fl, f.roundedNE neg (((m : ℚ) * 2 ^ e : ℚ) : ℝ) ((roundFin f .ne neg m e).1, fl) := by
  obtain ⟨q, hq⟩ : ∃ q, max ((Nat.log2 m : Int) + e - (f.mb : Int)) f.qmin = q := ⟨_, rfl⟩
  obtain ⟨n, hn⟩ : ∃ n, (quantise .ne neg m e q).1 = n := ⟨_, rfl⟩
  obtain ⟨E, hE⟩ : ∃ E, (q - f.qmin).toNat = E := ⟨_, rfl⟩
  have hq' : q = f.qmin + E := by omega
  have hnear : IsNearest n ((m : ℚ) * 2 ^ (e - q)) := hn ▸ quantise_ne neg m e q
  have hlt : (m : ℚ) * 2 ^ (e - q) < 2 ^ (f.mb + 1) := by
    calc (m : ℚ) * 2 ^ (e - q) < ((2 ^ (m.log2 + 1) : Nat) : ℚ) * 2 ^ (e - q) := by
          gcongr
          exact Nat.lt_log2_self
      _ = 2 ^ (((m.log2 + 1 : Nat) : Int) + (e - q)) := by rw [zpow_add₀ two_ne_zero, zpow_natCast, Nat.cast_pow, Nat.cast_two]
      _ ≤ (2 : ℚ) ^ ((f.mb + 1 : Nat) : Int) := zpow_le_zpow_right₀ one_le_two (by omega)
      _ = 2 ^ (f.mb + 1) := zpow_natCast _ _
  have hge : q = f.qmin ∨ (2 : ℚ) ^ f.mb ≤ (m : ℚ) * 2 ^ (e - q) := by
    refine (max_choice ((Nat.log2 m : Int) + e - (f.mb : Int)) f.qmin).symm.imp (fun h => by omega) (fun h => ?_)
    calc (2 : ℚ) ^ f.mb = 2 ^ ((m.log2 : Int) + (e - q)) := by
          rw [← zpow_natCast]
          congr 1
          omega
      _ = ((2 ^ m.log2 : Nat) : ℚ) * 2 ^ (e - q) := by rw [zpow_add₀ two_ne_zero, zpow_natCast, Nat.cast_pow, Nat.cast_two]
      _ ≤ (m : ℚ) * 2 ^ (e - q) := by
        gcongr
        exact Nat.log2_self_le hm.ne'
  have hround := f.isRoundNE_of_isNearest hf.2.1 hnear (by omega) hlt hge
  rw [mul_assoc, ← zpow_add₀ two_ne_zero, sub_add_cancel] at hround
  have hn1 : n ≤ 2 ^ (f.mb + 1) := hnear.le_of_lt (by exact_mod_cast hlt)
  have hE0 : E = 0 ∨ 2 ^ f.mb ≤ n := hge.imp (fun h => by omega) (fun h => hnear.le_of_le (by exact_mod_cast h))
  have hover := hf.max_lt_code hn1 hE0
  have hcode : (roundFin f .ne neg m e).1 = f.signed neg (if f.max < E * 2 ^ f.mb + n then f.infCode else E * 2 ^ f.mb + n) := by
    simp only [roundFin, roundMag, if_neg hm.ne', hq, hn, hE, overflowMag, hf.1]
    split <;> rfl
  rw [hcode]
  rw [hq'] at hround
  by_cases h : f.max < E * 2 ^ f.mb + n
  · refine ⟨Flags.ofl ||| Flags.nx, _, hround, fun _ => ?_, fun hle => absurd (hover.mp h) (not_lt.mpr hle)⟩
    rw [if_pos h, if_pos hf.1]
  · obtain ⟨fl, hclear, hnx, huf⟩ := exists_flags ((((n : ℚ) * 2 ^ (f.qmin + E) : ℚ) : ℝ) ≠ (((m : ℚ) * 2 ^ e : ℚ) : ℝ))
      (f.tinyNE (((m : ℚ) * 2 ^ e : ℚ) : ℝ))
    refine ⟨fl, _, hround, fun hlarge => absurd (hover.mpr hlarge) h, fun _ => ?_⟩
    obtain ⟨k, x, hdec, hval⟩ := hf.decode_code neg hn1 hE0 (by rw [← hf.2.2.2]; omega)
    rw [if_neg h]
    dsimp only
    rw [hdec]
    refine ⟨rfl, ?_, rfl, hclear, hnx, huf⟩
    rw [← hval, FVal.rat]
    cases neg <;> simp

end Sys2Proof.Machine

/-! ## What sources give (R38, R39, R41, R44, R90) -/

namespace Sys2Proof.Machine

/-! ### Groups and teams after a change -/

theorem map_eq_of_range {α : Type} (f : Nat → α) (lo n : Nat) : (range lo n).map f = (List.range n).map (fun k => f (lo + k)) := by
  apply List.ext_getElem?
  intro i
  by_cases h : i < n
  · rw [List.getElem?_map, getElem?_range h, List.getElem?_map, List.getElem?_range h]
    rfl
  · simp [h]

/-- A change of groups that keeps what π reads keeps it in every group. -/
theorem State.group_modGroup_keep {α : Type} (π : Group → α) (s : State) (n m : Nat) (f : Group → Group) (h : ∀ g, π (f g) = π g) :
    π ((s.modGroup n f).group m) = π (s.group m) := by
  simp only [State.group, State.modGroup_groups, mget_mupd]
  split
  · cases mget? s.groups m <;> simp [h]
  · rfl

/-- A change of teams that keeps what π reads keeps it in every team. -/
theorem State.team_modTeam_keep {α : Type} (π : Team → α) (s : State) (n m : Nat) (f : Team → Team) (h : ∀ t, π (f t) = π t) :
    π ((s.modTeam n f).team m) = π (s.team m) := by
  simp only [State.team, State.modTeam, mget_mupd]
  split
  · cases mget? s.teams m <;> simp [h]
  · rfl

theorem State.team_modTeam_same (s : State) (n : Nat) (f : Team → Team) (h : (mget? s.teams n).isSome = true) :
    (s.modTeam n f).team n = f (s.team n) := by
  obtain ⟨t, ht⟩ := Option.isSome_iff_exists.mp h
  simp [State.team, State.modTeam, mget_mupd, ht]

/-- A team that binds a port is resident. -/
theorem State.resident_of_chan {s : State} {n p : Nat} {c : Chan} (h : (s.team n).chan? p = some c) :
    (mget? s.teams n).isSome = true := by
  cases ht : mget? s.teams n with
  | some t => rfl
  | none =>
    rw [State.team, ht] at h
    cases h

/-! ### The channels behind the ports of the issuing group -/

/-- The channel behind a port of the issuing group. -/
def State.chanOf (s : State) (p : Nat) : Option Chan := portOf s.cur (s.team s.cur.team) p

/-- Two states in which the sources other than ports give the same, and in which ports and their entries lie at the same place. -/
structure SameSources (s t : State) : Prop where
  ix : t.ix = s.ix
  lanes : t.cur.lanes = s.cur.lanes
  uniforms : t.cur.s = s.cur.s
  team : t.cur.team = s.cur.team
  base : (t.team s.cur.team).base = (s.team s.cur.team).base
  cores : t.cores = s.cores

theorem SameSources.refl (s : State) : SameSources s s := ⟨rfl, rfl, rfl, rfl, rfl, rfl⟩

theorem SameSources.trans {s t r : State} (h : SameSources s t) (h' : SameSources t r) : SameSources s r :=
  ⟨h'.ix.trans h.ix, h'.lanes.trans h.lanes, h'.uniforms.trans h.uniforms, h'.team.trans h.team,
    (h.team ▸ h'.base).trans h.base, h'.cores.trans h.cores⟩

theorem SameSources.setPort (s : State) (p : Nat) (c : Chan) : SameSources s (s.setPort s.ix.slot p c) := by
  unfold State.setPort
  split
  · exact ⟨rfl, s.group_modGroup_keep Group.lanes _ _ _ (fun _ => rfl), s.group_modGroup_keep Group.s _ _ _ (fun _ => rfl),
      s.group_modGroup_keep Group.team _ _ _ (fun _ => rfl), rfl, rfl⟩
  · exact ⟨rfl, rfl, rfl, rfl, s.team_modTeam_keep Team.base _ _ _ (fun _ => rfl), rfl⟩

/-! ### The entries of ports -/

/-- The entries of the channel behind a port of the issuing group, oldest first. -/
def State.chanEntries (s : State) (c : Chan) : List (List Reg) :=
  (List.range c.count).map (s.entryAt (s.ix.slot / 144) (s.team s.cur.team).base c)

theorem State.entriesOf_eq_take (s : State) (c : Chan) (n : Nat) :
    s.entriesOf (s.ix.slot / 144) (s.team s.cur.team).base c n = (s.chanEntries c).take n := by
  simp [State.entriesOf, State.chanEntries, map_eq_of_range, ← List.map_take, List.take_range]

theorem State.portEntries_eq (s : State) (p : Nat) : s.portEntries p = (s.chanOf p).elim [] s.chanEntries := by
  unfold State.portEntries State.chanOf
  cases portOf s.cur (s.team s.cur.team) p with
  | none => rfl
  | some c =>
    refine (s.entriesOf_eq_take c c.tags.length).trans (List.take_of_length_le ?_)
    simp [State.chanEntries, Chan.count]

theorem SameSources.chanEntries {s t : State} (h : SameSources s t) (c : Chan) : t.chanEntries c = s.chanEntries c := by
  have hcore (n : Nat) : t.core n = s.core n := by rw [State.core, State.core, h.cores]
  unfold State.chanEntries
  rw [h.ix, h.team, h.base]
  refine List.map_congr_left (fun i _ => ?_)
  simp only [State.entryAt, State.locBytes, State.locPoisonIn, hcore]

theorem State.chanEntries_drop (s : State) (c : Chan) (n : Nat) : s.chanEntries (c.drop n) = (s.chanEntries c).drop n := by
  apply List.ext_getElem?
  intro i
  have hplace (base : Nat) : (c.drop n).place base i = c.place base (n + i) := by
    simp only [Chan.place, Chan.drop, Nat.mod_add_mod, Nat.add_assoc]
  have htag : (c.drop n).tags.getD i [] = c.tags.getD (n + i) [] := by simp [Chan.drop, List.getD]
  have hentry (core base : Nat) : s.entryAt core base (c.drop n) i = s.entryAt core base c (n + i) := by
    simp only [State.entryAt, hplace, htag]
    rfl
  have hcount : (c.drop n).count = c.count - n := by simp [Chan.count, Chan.drop]
  rw [List.getElem?_drop, State.chanEntries, State.chanEntries, List.getElem?_map, List.getElem?_map, hcount]
  by_cases hi : i < c.count - n
  · rw [List.getElem?_range hi, List.getElem?_range (by omega)]
    exact congrArg some (hentry _ _)
  · rw [List.getElem?_eq_none (by simpa using hi), List.getElem?_eq_none (by simp; omega)]
    rfl

theorem State.popPort_eq (s : State) (p n : Nat) : s.popPort s.ix.slot p n =
    (s.chanOf p).elim ([], s) (fun c => ((s.chanEntries c).take n, s.setPort s.ix.slot p (c.drop n))) := by
  simp only [← s.entriesOf_eq_take]
  unfold State.popPort State.chanOf
  dsimp only
  rw [← State.cur_eq]
  cases portOf s.cur (s.team s.cur.team) p <;> rfl

theorem State.popPort_fst (s : State) (p n : Nat) : (s.popPort s.ix.slot p n).1 = (s.portEntries p).take n := by
  rw [State.popPort_eq, State.portEntries_eq]
  cases s.chanOf p <;> simp

theorem State.sameSources_popPort (s : State) (p n : Nat) : SameSources s (s.popPort s.ix.slot p n).2 := by
  rw [State.popPort_eq]
  cases s.chanOf p with
  | none => exact .refl s
  | some c => exact .setPort s p _

theorem State.chanOf_eq (s : State) (p : Nat) :
    s.chanOf p = if p = 14 then some s.cur.q14 else (s.team s.cur.team).chan? p := rfl

/-- What stands behind each port once one that has a channel has been given another. -/
theorem State.chanOf_setPort {s : State} {p : Nat} {c d : Chan} (h : s.chanOf p = some d)
    (hres : p = 14 → (mget? s.groups s.ix.slot).isSome = true) (q : Nat) :
    (s.setPort s.ix.slot p c).chanOf q = if q = p then some c else s.chanOf q := by
  by_cases hp : p = 14
  · subst hp
    have hcur : (s.setPort s.ix.slot 14 c).cur = { s.cur with q14 := c } := s.group_modGroup_same _ _ (hres rfl)
    rw [State.chanOf_eq, hcur, State.chanOf_eq]
    split <;> rfl
  · have hset : s.setPort s.ix.slot p c = s.modTeam s.cur.team (fun t => { t with chans := mset t.chans p c }) := if_neg hp
    rw [State.chanOf_eq, if_neg hp] at h
    rw [hset, State.chanOf_eq, State.chanOf_eq]
    show (if q = 14 then some s.cur.q14 else ((s.modTeam s.cur.team _).team s.cur.team).chan? q) = _
    rw [s.team_modTeam_same _ _ (State.resident_of_chan h)]
    by_cases hq : q = p
    · subst hq
      rw [if_neg hp, if_pos rfl]
      exact mget_mset_same _ _ _
    · rw [if_neg hq]
      split
      · rfl
      · exact mget_mset_other _ _ _ _ hq

/-- A pop takes the oldest entries of its port and no others. -/
theorem State.portEntries_popPort (s : State) (p n q : Nat) :
    (s.popPort s.ix.slot p n).2.portEntries q = if q = p then (s.portEntries p).drop n else s.portEntries q := by
  rw [State.popPort_eq]
  cases hc : s.chanOf p with
  | none =>
    dsimp only [Option.elim_none]
    split
    next hq => rw [hq, State.portEntries_eq, hc, Option.elim_none, List.drop_nil]
    next => rfl
  | some c =>
    dsimp only [Option.elim_some]
    by_cases hres : p = 14 → (mget? s.groups s.ix.slot).isSome = true
    · rw [State.portEntries_eq, State.chanOf_setPort hc hres, funext (SameSources.setPort s p _).chanEntries]
      split
      next hq => rw [State.portEntries_eq, hc, Option.elim_some, Option.elim_some, State.chanEntries_drop]
      next => rw [State.portEntries_eq]
    · -- No group is resident: its q14 is empty, and a change of it is none.
      obtain ⟨rfl, hres⟩ := Classical.not_imp.mp hres
      have hnone : mget? s.groups s.ix.slot = none := by simpa using hres
      have hblank : s.cur = Group.blank := by rw [State.cur_eq, State.group, hnone, Option.getD_none]
      have hcur : (s.setPort s.ix.slot 14 (c.drop n)).cur = Group.blank := by
        show (s.modGroup s.ix.slot _).group s.ix.slot = _
        rw [State.group, State.modGroup_groups, mget_mupd, if_pos rfl, hnone, Option.map_none, Option.getD_none]
      have hchan (r : Nat) : (s.setPort s.ix.slot 14 (c.drop n)).chanOf r = s.chanOf r := by
        rw [State.chanOf_eq, State.chanOf_eq, hcur, hblank]
        rfl
      have hempty : s.portEntries 14 = [] := by
        rw [State.portEntries_eq, State.chanOf_eq, hblank]
        rfl
      rw [State.portEntries_eq, hchan, funext (SameSources.setPort s 14 _).chanEntries, ← State.portEntries_eq]
      split
      next hq => rw [hq, hempty, List.drop_nil]
      next => rfl

/-! ### What an instruction's sources give -/

theorem State.portUniform_eq (s : State) (p : Nat) :
    s.portUniform p = (p == 14 || (s.chanOf p).elim true (fun c => !c.vector)) := by
  rw [State.chanOf_eq]
  by_cases hp : p = 14 <;> simp [State.portUniform, hp]

theorem State.srcIsVec_port (s : State) (n : Fin 15) : srcIsVec (s.team s.cur.team) (.q n) = !s.portUniform n.val := by
  simp only [srcIsVec, State.portUniform]
  cases (s.team s.cur.team).chan? n.val <;> simp [bne]

/-- A pop keeps which ports are uniform. -/
theorem State.portUniform_popPort (s : State) (p n q : Nat) : (s.popPort s.ix.slot p n).2.portUniform q = s.portUniform q := by
  by_cases hq : q = 14
  · simp [State.portUniform_eq, hq]
  rw [State.popPort_eq]
  cases hc : s.chanOf p with
  | none => rfl
  | some c =>
    dsimp only [Option.elim_some]
    rw [State.portUniform_eq, State.portUniform_eq]
    by_cases hp : p = 14
    · subst hp
      have hteam : (s.setPort s.ix.slot 14 (c.drop n)).cur.team = s.cur.team := (SameSources.setPort s 14 _).team
      rw [State.chanOf_eq, State.chanOf_eq, if_neg hq, if_neg hq, hteam]
      rfl
    · rw [State.chanOf_setPort hc (fun h => absurd h hp)]
      split
      next h => rw [h, hc]; rfl
      next => rfl

/-- The words that a source gives a lane after the sources before it (R90). -/
def State.given (s : State) (before : List (Src × Pos)) (x : Src × Pos) (l : Nat) : List Reg :=
  match x.1 with
  | .q n => (((s.portEntries n.val).drop (popCount before n.val)).take x.2.words).map
      (fun e => e.getD (if s.portUniform n.val then 0 else l) Reg.zero)
  | _ => gotWords s.cur s.ix.lit x.2 (.reg x.1) l

theorem popCount_cons_port (n : Fin 15) (pos : Pos) (rest : List (Src × Pos)) (p : Nat) :
    popCount ((.q n, pos) :: rest) p = (if n.val = p then pos.words else 0) + popCount rest p := by
  simp [popCount]

theorem popCount_cons_reg {x : Src} (h : ∀ n, x ≠ .q n) (pos : Pos) (rest : List (Src × Pos)) (p : Nat) :
    popCount ((x, pos) :: rest) p = popCount rest p := by
  cases x with
  | q n => exact absurd rfl (h n)
  | v n | s n | lit => simp [popCount]

/-- Taking from a port: its oldest entries, and then the other sources once they are gone. -/
theorem State.take_port (s : State) (n : Fin 15) (pos : Pos) (rest : List (Src × Pos)) :
    let t := (s.popPort s.ix.slot n.val pos.words).2
    s.take s.ix.slot ((.q n, pos) :: rest) =
      ((pos, .popped (!s.portUniform n.val) ((s.portEntries n.val).take pos.words)) :: (t.take t.ix.slot rest).1,
        (t.take t.ix.slot rest).2) := by
  intro t
  rw [State.take_cons_port, State.popPort_fst, ← State.cur_eq, State.srcIsVec_port]
  simp only [t, State.popPort_ix]

theorem State.portEntries_take (s : State) (srcs : List (Src × Pos)) (p : Nat) :
    (s.take s.ix.slot srcs).2.portEntries p = (s.portEntries p).drop (popCount srcs p) := by
  induction srcs generalizing s with
  | nil => rfl
  | cons e rest ih =>
    obtain ⟨x, pos⟩ := e
    cases x with
    | q n =>
      rw [State.take_port, popCount_cons_port, ih, State.portEntries_popPort]
      by_cases hp : n.val = p
      · subst hp
        rw [if_pos rfl, if_pos rfl, List.drop_drop]
      · rw [if_neg hp, if_neg (Ne.symm hp), Nat.zero_add]
    | v n | s n | lit => rw [State.take_cons_reg _ _ _ _ (by simp), popCount_cons_reg (by simp), ih]

theorem State.sameSources_take (s : State) (srcs : List (Src × Pos)) : SameSources s (s.take s.ix.slot srcs).2 := by
  induction srcs generalizing s with
  | nil => exact .refl s
  | cons e rest ih =>
    obtain ⟨x, pos⟩ := e
    cases x with
    | q n =>
      rw [State.take_port]
      exact (s.sameSources_popPort _ _).trans (ih _)
    | v n | s n | lit =>
      rw [State.take_cons_reg _ _ _ _ (by simp)]
      exact ih s

theorem SameSources.gotWords_eq {s t : State} (h : SameSources s t) (pos : Pos) (x : Got) (l : Nat) :
    gotWords t.cur t.ix.lit pos x l = gotWords s.cur s.ix.lit pos x l := by
  simp only [gotWords, Group.lane, Group.sget, h.ix, h.lanes, h.uniforms]

theorem SameSources.laneWords_eq {s t : State} (h : SameSources s t) (gots : List (Pos × Got)) (l : Nat) :
    laneWords t.cur t.ix.lit gots l = laneWords s.cur s.ix.lit gots l := by
  simp only [laneWords, h.gotWords_eq]

theorem State.given_reg (s : State) {y : Src} (h : ∀ n, y ≠ .q n) (before : List (Src × Pos)) (pos : Pos) (l : Nat) :
    s.given before (y, pos) l = gotWords s.cur s.ix.lit pos (.reg y) l := by
  cases y with
  | q m => exact absurd rfl (h m)
  | v m | s m | lit => rfl

/-- After a pop of a port the sources give what they give after a source that names it. -/
theorem State.given_popPort (s : State) (n : Fin 15) (pos : Pos) (before : List (Src × Pos)) (x : Src × Pos) (l : Nat) :
    (s.popPort s.ix.slot n.val pos.words).2.given before x l = s.given ((.q n, pos) :: before) x l := by
  obtain ⟨x, pos'⟩ := x
  cases x with
  | q m =>
    simp only [State.given, State.portUniform_popPort, State.portEntries_popPort, popCount_cons_port]
    by_cases h : n.val = m.val
    · rw [if_pos h.symm, if_pos h, List.drop_drop, h]
    · rw [if_neg (Ne.symm h), if_neg h, Nat.zero_add]
  | v m | s m | lit =>
    rw [State.given_reg _ (by simp), State.given_reg _ (by simp), (s.sameSources_popPort _ _).gotWords_eq]

theorem State.given_cons_reg (s : State) {y : Src} (h : ∀ n, y ≠ .q n) (pos : Pos) (before : List (Src × Pos)) (x : Src × Pos)
    (l : Nat) : s.given ((y, pos) :: before) x l = s.given before x l := by
  obtain ⟨x, pos'⟩ := x
  cases x with
  | q m => simp only [State.given, popCount_cons_reg h]
  | v m | s m | lit => rw [State.given_reg _ (by simp), State.given_reg _ (by simp)]

/-- What the sources give a lane, one after another. -/
theorem State.take_given (s : State) (srcs : List (Src × Pos)) (i l : Nat) :
    (laneWords s.cur s.ix.lit (s.take s.ix.slot srcs).1 l)[i]? = srcs[i]?.map (fun x => s.given (srcs.take i) x l) := by
  induction srcs generalizing s i with
  | nil => rfl
  | cons e rest ih =>
    obtain ⟨x, pos⟩ := e
    cases x with
    | q n =>
      rw [State.take_port]
      cases i with
      | zero =>
        show some (List.map _ _) = some (List.map _ _)
        cases s.portUniform n.val <;> simp [popCount]
      | succ i =>
        have h := ih (s.popPort s.ix.slot n.val pos.words).2 i
        simp only [State.given_popPort, (s.sameSources_popPort _ _).laneWords_eq] at h
        exact h
    | v n | s n | lit =>
      rw [State.take_cons_reg _ _ _ _ (by simp)]
      cases i with
      | zero => rfl
      | succ i =>
        simp only [List.take_succ_cons, List.getElem?_cons_succ]
        rw [funext (fun y => s.given_cons_reg (by simp) pos (rest.take i) y l)]
        exact ih s i

/-! ### Literals (R44) -/

theorem wordsVal_pairWords (x : DWord) (p : Bool) : wordsVal (pairWords x p) = x :=
  (BitVec.extractLsb'_append_extractLsb'_eq_extractLsb' rfl).trans BitVec.extractLsb'_eq_self

theorem Fmt.signed_lt (f : Fmt) (neg : Bool) {c : Nat} (hc : c < 2 ^ f.signBit) : f.signed neg c < 2 ^ (f.signBit + 1) := by
  rw [pow_succ]
  cases neg <;> simp [Fmt.signed] <;> omega

theorem roundFin_lt {f : Fmt} (hf : f.Ieee) (neg : Bool) (m : Nat) (e : Int) :
    (roundFin f .ne neg m e).1 < 2 ^ (f.signBit + 1) := by
  have hinf := f.infCode_lt
  have hmax := hf.2.2.2
  unfold roundFin
  split
  · exact f.signed_lt neg (Nat.two_pow_pos _)
  · dsimp only
    split
    · rw [overflowMag, hf.1]
      exact f.signed_lt neg hinf
    · exact f.signed_lt neg (by omega)

theorem toFmt_lt {f : Fmt} (hf : f.Ieee) (v : FVal) (hn : f.nan < 2 ^ (f.signBit + 1)) :
    (toFmt f .ne v).1 < 2 ^ (f.signBit + 1) := by
  cases v with
  | nan sg => simpa [toFmt, hf.1] using hn
  | inf neg => simpa [toFmt, hf.1] using f.signed_lt neg f.infCode_lt
  | fin neg m e => exact roundFin_lt hf neg m e

theorem litFloat_lt {f : Fmt} (hf : f.Ieee) (lit : Word) {snan : Nat} (hs : snan < 2 ^ (f.signBit + 1)) (hn : f.nan < 2 ^ (f.signBit + 1)) :
    litFloat lit f snan < 2 ^ (f.signBit + 1) := by
  unfold litFloat
  split
  · exact hs
  · exact toFmt_lt hf _ hn

/-- The literal's code in a format of R63 is the one R44 gives it. -/
theorem litRule_litFloat {f : Fmt} (hf : f.Ieee) (lit : Word) (snan : Nat) : litRule lit f snan (litFloat lit f snan) := by
  unfold litRule litFloat
  cases Fmt.f32.decode lit.toNat with
  | nan sg => cases sg <;> simp [FVal.isNan, FVal.isInf, FVal.isZero, FVal.isFin, FVal.isSnan, toFmt, hf.1]
  | inf neg => simp [FVal.isNan, FVal.isInf, FVal.isZero, FVal.isFin, FVal.neg?, toFmt, hf.1]
  | fin neg m e =>
    refine ⟨nofun, nofun, fun hz => ?_, fun _ hz => ?_⟩
    · obtain rfl : m = 0 := by simpa [FVal.isZero] using hz
      rfl
    · have hm : 0 < m := Nat.pos_of_ne_zero (by simpa [FVal.isZero] using hz)
      have habs : |(FVal.fin neg m e).rat| = (m : ℚ) * 2 ^ e := by
        cases neg <;> simp [FVal.rat, abs_mul]
      rw [habs]
      exact roundFin_roundedNE hf neg e hm

/-- What a literal gives a packed position: its code in both halves. -/
theorem litWords_packed {f : Fmt} (hf : f.Ieee) (hbits : f.signBit = 15) (lit : Word) {snan : Nat} (hs : snan < 2 ^ (f.signBit + 1))
    (hn : f.nan < 2 ^ (f.signBit + 1)) :
    let c := BitVec.ofNat 16 (litFloat lit f snan)
    let bits := (wordsVal [Reg.of (c ++ c)]).toNat
    bits / 65536 = bits % 65536 ∧ litRule lit f snan (bits % 65536) := by
  intro c bits
  have hlt := litFloat_lt hf lit hs hn
  rw [hbits] at hlt
  have hc : c.toNat = litFloat lit f snan := Nat.mod_eq_of_lt hlt
  have hval : bits = litFloat lit f snan * 65536 + litFloat lit f snan := by
    show ((c ++ c).setWidth 64).toNat = _
    rw [BitVec.toNat_setWidth, BitVec.toNat_append, ← Nat.shiftLeft_add_eq_or_of_lt c.isLt, hc, Nat.shiftLeft_eq]
    omega
  have hlow : bits % 65536 = litFloat lit f snan := by omega
  refine ⟨by omega, ?_⟩
  rw [hlow]
  exact litRule_litFloat hf lit snan

/-- The words of a literal, as R44 gives them to each position. -/
theorem litWords_rule (lit : Word) (pos : Pos) :
    let got := litWords lit pos
    let bits := (wordsVal got).toNat
    let halves (f : Fmt) (snan : Nat) := got.length = 1 ∧ bits / 65536 = bits % 65536 ∧ litRule lit f snan (bits % 65536)
    (pos = .word → got = [Reg.of lit]) ∧ (pos = .pair → got.length = 2 ∧ wordsVal got = BitVec.ofInt 64 lit.toInt) ∧
      (pos = .dbl → got.length = 2 ∧ litRule lit Fmt.f64 0x7FF4000000000000 bits) ∧
      (pos = .half → halves Fmt.f16 0x7D00) ∧ (pos = .bhalf → halves Fmt.bf16 0x7FA0) ∧ ∀ reg ∈ got, reg.poison = false := by
  intro got bits halves
  refine ⟨?_, ?_, ?_, ?_, ?_, ?_⟩
  · rintro rfl
    rfl
  · rintro rfl
    exact ⟨rfl, wordsVal_pairWords _ _⟩
  · rintro rfl
    have hlt : litFloat lit Fmt.f64 0x7FF4000000000000 < 2 ^ 64 := litFloat_lt Fmt.ieee_f64 lit (by decide) (by decide)
    have hbits : bits = litFloat lit Fmt.f64 0x7FF4000000000000 := by
      show (wordsVal (pairWords _ _)).toNat = _
      rw [wordsVal_pairWords]
      exact Nat.mod_eq_of_lt hlt
    rw [hbits]
    exact ⟨rfl, litRule_litFloat Fmt.ieee_f64 lit _⟩
  · rintro rfl
    exact ⟨rfl, litWords_packed Fmt.ieee_f16 rfl lit (by decide) (by decide)⟩
  · rintro rfl
    exact ⟨rfl, litWords_packed Fmt.ieee_bf16 rfl lit (by decide) (by decide)⟩
  · cases pos <;> simp [got, litWords, pairWords, Reg.of]

/-- Settles O11: by induction on the sources, each of which leaves the later ones the entries it did not pop. -/
theorem operandWords : Obligations.OperandWords := by
  unfold Obligations.OperandWords
  intro s u _ r
  refine ⟨fun i hi l => ?_, fun p _ => s.portEntries_take u.srcs p⟩
  intro x got
  have hgot : got = s.given (u.srcs.take i) x l := by
    have h := s.take_given u.srcs i l
    rw [← (s.sameSources_take u.srcs).laneWords_eq, List.getElem?_eq_getElem hi] at h
    show (laneWords r.2.cur r.2.ix.lit r.1 l).getD i [] = _
    rw [List.getD_eq_getElem?_getD, h, Option.map_some, Option.getD_some]
    congr 1
    exact (List.getD_eq_getElem _ _ hi).symm
  rw [hgot]
  obtain ⟨y, pos⟩ := x
  cases y with
  | v n => exact map_eq_of_range _ _ _
  | s n => exact map_eq_of_range _ _ _
  | lit => exact litWords_rule s.ix.lit pos
  | q n => rfl

end Sys2Proof.Machine

/-! ## The end of an outstanding access (R41, R184)

The statement fixes what an access's end leaves of the registers and of the other lanes, when no monitor watches the bytes
that the pushed entries take. It finds these bytes through the team's channel of the destination's number; but a push to
port 14 enters the group's own q14, whose ring lies elsewhere. A state whose team lists a channel 14 beside it then
satisfies the hypothesis while a monitor watches the very word that the push writes. -/

namespace Sys2Proof.Machine

/-- A load of one word, its answer there, whose lane 0 pushes to port 14. -/
def q14Load : LoadOp :=
  { kind := .load (.q 14) 4 false, uniform := false, policy := 0, cached := true, rdc := false, repl := [], sc := 0, lanes := [0]
    access := [{ lane := 0, pa := 0x40030000, size := 4, own := List.replicate 4 (some 0) }], missing := [], lines := [], values := []
    waiting := [], flags := 0, refusals := [], popped := [] }

/-- A monitor of a word of core 0's local memory, met by 0. -/
def q14Watch : Watch := { place := .loc 0 0x800, va := 0, d := 0, cond := .eq, latched := false, token := 1, popped := [] }

/-- Group 0 with that load outstanding; its q14 lies at offset 0x800, where lane 1 watches, and its team's channel 14 at offset 0. -/
def q14State : State :=
  { State.reset.bench 0 with
    teams := [(0, { benchTeam with chans := [(14, { vector := false, words := 1, ofs := 0, head := 0, tags := [] })] })]
    groups := [(0, { (benchGroup.modLanes [1] (fun _ x => { x with sleep := .waitc q14Watch })) with
      loads := [(6, q14Load)], q14 := { vector := false, words := 1, ofs := 0x800, head := 0, tags := [] } })] }
/-- The load has ended but for its result. -/
def q14Taken : State := (q14State.asClass 0 q14Load.lanes).dropLoad 0 6

/-- The push as the statement's frame sees it. -/
def q14Push : Uses := { srcs := [], dst := .q 14, words := 1, uniform := [], noUni := false }

theorem q14_chan : (q14Taken.team q14Taken.cur.team).chan? 14 = some { vector := false, words := 1, ofs := 0, head := 0, tags := [] } := by
  decide +kernel

theorem q14_base : (q14Taken.team q14Taken.cur.team).base = 0 := by decide +kernel

/-- By the team's channel the entry would take the first word of local memory. -/
theorem q14_pushes {core off : Nat} (h : q14Taken.pushes q14Push core off) : off < 4 := by
  obtain ⟨n, hn, -, c, hc, i, hi, -, hoff⟩ := h
  obtain rfl : n = 14 := (Dst.q.inj hn).symm
  obtain rfl := Option.some.inj (q14_chan.symm.trans hc)
  have hi : i = 0 := Nat.lt_one_iff.mp hi
  subst hi
  simpa [q14_base] using hoff

/-- Lane 1 alone sleeps at a WAITC, resident or saved. -/
theorem q14_waits : (∀ e ∈ q14Taken.groups, ∀ x ∈ e.2.lanes, ∀ w, x.sleep = .waitc w →
    w = q14Watch ∧ (e.2.lane 1).sleep = .waitc q14Watch ∧ e.2.lane 1 ∈ e.2.lanes ∧ x.sameWait (e.2.lane 1) = true) ∧ q14Taken.saved = [] := by
  have hall : q14Taken.groups.all (fun e => decide ((e.2.lane 1).sleep = .waitc q14Watch ∧ e.2.lane 1 ∈ e.2.lanes) &&
      e.2.lanes.all (fun x => match x.sleep with
        | .waitc w => decide (w = q14Watch) && x.sameWait (e.2.lane 1)
        | _ => true)) = true := by decide +kernel
  refine ⟨fun e he x hx w hw => ?_, by decide +kernel⟩
  obtain ⟨hlane, hlanes⟩ := Bool.and_eq_true_iff.mp (List.all_eq_true.mp hall e he)
  have hone := List.all_eq_true.mp hlanes x hx
  rw [hw] at hone
  obtain ⟨heq, hsame⟩ := Bool.and_eq_true_iff.mp hone
  exact ⟨of_decide_eq_true heq, (of_decide_eq_true hlane).1, (of_decide_eq_true hlane).2, hsame⟩

theorem q14_unseen : ∀ core off, q14Watch.place = .loc core off → ∀ k < 4, ¬ q14Taken.pushes q14Push core (off + k) := by
  intro core off hplace k _ hpush
  obtain ⟨rfl, rfl⟩ := Place.loc.inj hplace
  exact absurd (q14_pushes hpush) (by omega)

/-- The frame's hypothesis holds of the state. -/
theorem q14_pushable : q14Taken.Pushable q14Push := by
  intro n hn
  obtain rfl : n = 14 := (Dst.q.inj hn).symm
  refine ⟨fun c hc => ?_, fun e he x hx w hw => ?_, fun k hk => ?_⟩
  · obtain rfl := Option.some.inj (q14_chan.symm.trans hc)
    rfl
  · obtain ⟨rfl, hsleep, hmem, hsame⟩ := q14_waits.1 e he x hx w hw
    exact ⟨q14_unseen, _, hmem, hsame, q14Watch, hsleep, rfl⟩
  · rw [q14_waits.2] at hk
    exact absurd hk List.not_mem_nil

/-- The push writes the word that lane 1 watches, and lane 1 wakes. -/
theorem q14_wakes : ((q14Taken.writeDst 0 (.q 14) 1 (q14Load.access.map (fun a =>
    (a.lane, loadRule 4 false (accessBytes q14Load.lines a) (accessPoison q14Load.lines a))))).group 0).lane 1 ≠ (q14Taken.group 0).lane 1 := by
  decide +kernel

/-- Refutes O42: the end of a load to port 14 is said to leave every lane outside the access as it was when no monitor
watches the ring of the team's channel 14, but the entry goes to the group's q14, whose word lane 1 watches. -/
theorem not_accessesReturn : ¬ Obligations.AccessesReturn := by
  unfold Obligations.AccessesReturn
  intro h
  obtain ⟨hends, -⟩ := h q14State 0 6 q14Load (by decide +kernel)
  have hload := (hends (by decide +kernel)).1 (.q 14) 4 false rfl (by decide) (by decide)
  obtain ⟨-, hlanes, -⟩ := hload.2 q14_pushable
  exact q14_wakes (hlanes 1 (by decide))

end Sys2Proof.Machine

/-! ## A step that issues (R222, R306)

The statement says that no byte of memory and no tag changes between the state before a step and the one in which its
instruction runs. But a step first gives back the dirty lines that a slice holds past its 16,384 (`State.trimSlices`), and a
write-back marks its chunk in the written-since-copy bits of a move whose source page holds the line. When the move's
destination is lost, an unmarked chunk is read at the source and a marked one at the lost destination, so its tag turns
to poison. -/

namespace Sys2Proof.Machine

/-! ### Slices over their capacity -/

theorem nub_replicate_succ {α : Type} [DecidableEq α] (k : Nat) (a : α) : nub (List.replicate (k + 1) a) = [a] := by
  have hstay : ∀ n, (List.replicate n a).foldl (fun acc x => if acc.contains x then acc else acc ++ [x]) [a] = [a] := by
    intro n
    induction n with
    | zero => rfl
    | succ n ih => simpa [List.replicate_succ] using ih
  simpa [nub, List.replicate_succ] using hstay k

/-- Some of the elements of a list of equal ones, taken from any place on and round its end. -/
theorem rotate_replicate {α : Type} (k i : Nat) (a : α) (h : i ≤ k) :
    (List.replicate k a).drop i ++ (List.replicate k a).take i = List.replicate k a := by
  rw [List.drop_replicate, List.take_replicate, List.replicate_append_replicate]
  congr 1
  omega

/-- A slice with one entry more than it may hold, all of them of one line, gives that line back, whatever the choice. -/
theorem State.trimSlices_replicate {s : State} {n : Nat} {x : Line} (hdirty : s.dirty = List.replicate (Config.sliceLines + 1) (n, x))
    (hhost : isHost (128 * n) = false) (hheld : s.backHeld n = false) : s.trimSlices = s.writeBack n := by
  have hlen : ¬ s.dirty.length ≤ Config.sliceLines := by simp [hdirty]
  have hmine : (s.dirty.filter (fun e => sliceOf e.1 == sliceOf n)).map (fun e => e.1) = List.replicate (Config.sliceLines + 1) n := by
    simp [hdirty]
  have hfree : (List.replicate (Config.sliceLines + 1) n).filter (fun n => !s.backHeld n) = List.replicate (Config.sliceLines + 1) n := by
    simp [hheld]
  have hplace (v : Nat) : v % max 1 (Config.sliceLines + 1) ≤ Config.sliceLines + 1 := (Nat.mod_lt _ (by omega)).le
  have htrim : s.trimSlice (sliceOf n) = s.writeBack n := by
    simp only [State.trimSlice, hmine, hfree, List.length_replicate]
    rw [rotate_replicate _ _ _ (hplace _), Nat.add_sub_cancel_left]
    simp [List.take_replicate, hhost]
  have hslices : nub (s.dirty.map (fun e => sliceOf e.1)) = [sliceOf n] := by
    rw [hdirty, List.map_replicate]
    exact nub_replicate_succ _ _
  rw [State.trimSlices, if_neg hlen, hslices, List.foldl_cons, List.foldl_nil, htrim]

/-- A line outside every rope goes back: it is clean, and noted in the moves. -/
theorem State.writeBack_unprotected {s : State} {n : Nat} {x : Line} (hdirty : mget? s.dirty n = some x)
    (h : ((({ s with dirty := mdel s.dirty n } : State).touchTier (128 * n)).noteWrite (s.homeOf (128 * n))).protectedAt
      (lineOf (s.homeOf (128 * n))) = none) :
    s.writeBack n = (({ s with dirty := mdel s.dirty n } : State).touchTier (128 * n)).noteWrite (s.homeOf (128 * n)) := by
  simp only [State.writeBack, hdirty]
  rw [h]

/-- A step sees a state as its slices leave it. -/
theorem State.readied_of_trimSlices {s t : State} (h : s.trimSlices = t) (ht : t.dirty.length ≤ Config.sliceLines) : s.readied = t.readied := by
  have htrim : t.trimSlices = t := if_pos ht
  rw [State.readied, State.readied, h, htrim]

/-! ### The counterexample -/

/-- A move of 64 KiB whose destination is lost, its first chunk copied and not written since. -/
def lostMove : Move :=
  { space := 0, va := 0x50000000, src := 0x50000000, dst := 0x60000000, size := 0x10000, leafPa := 0, written := [], lost := []
    lossKind := 7, committed := none, off := [] }

/-- YIELD to the next word issues next, with that move in domain 0 and every line clean. -/
def movingState : State :=
  (State.reset.bench 0x7C000001).modMig 0 0 (fun m => { m with state := 3, cursor := 1, move := some lostMove })

/-- The first line of the moved page. -/
def movedLine : Nat := 0xA00000

/-- The same state with that line dirty, once more than a slice may hold lines. -/
def fullState : State := { movingState with dirty := List.replicate (Config.sliceLines + 1) (movedLine, Line.zero) }

/-- The state once the line is back. -/
def trimmedState : State := (movingState.touchTier (128 * movedLine)).noteWrite (movingState.homeOf (128 * movedLine))

/-- The state in which YIELD issues. -/
def issuingState : State := { trimmedState.readied with agenda := [] }

theorem mdel_replicate {α : Type} (k n : Nat) (x : α) : mdel (List.replicate k (n, x)) n = [] := by
  simp [mdel]

theorem fullState_trimSlices : fullState.trimSlices = trimmedState := by
  have hclean : ({ fullState with dirty := mdel fullState.dirty movedLine } : State) = movingState := by
    have hdel : mdel fullState.dirty movedLine = movingState.dirty := mdel_replicate _ _ _
    rw [hdel]
    rfl
  have hfirst : mget? fullState.dirty movedLine = some Line.zero := if_pos rfl
  rw [State.trimSlices_replicate rfl (by decide) (by decide +kernel), State.writeBack_unprotected hfirst, hclean]
  · rfl
  · rw [hclean]
    decide +kernel

theorem fullState_readied : fullState.readied = trimmedState.readied :=
  State.readied_of_trimSlices fullState_trimSlices (by decide +kernel)

/-- YIELD is the next word to issue. -/
theorem fullState_issuesNext : fullState.IssuesNext issuingState 0 false false := by
  refine .inl ⟨rfl, 0, 0, by decide +kernel, .inl ⟨[], rfl, ?_⟩⟩
  rw [fullState_readied]
  rfl

theorem fullState_uncounted : fullState.Uncounted := by
  have hall : movingState.doms.all (fun e => !e.2.crnOn) = true := by decide +kernel
  intro e he
  simpa using List.all_eq_true.mp hall e he

theorem fullState_unrepaired : fullState.Unrepaired := by
  have hall : movingState.doms.all (fun e => e.2.rope.state == 0) = true := by decide +kernel
  intro n
  have hnone : fullState.protectedAt n = none := by
    refine List.findSome?_eq_none_iff.mpr fun e he => if_pos ?_
    simpa using List.all_eq_true.mp hall e he
  simp [State.repairs, hnone]

/-- Before the step the page is read at its source, without poison; -/
theorem fullState_poisonAt : fullState.poisonAt (128 * movedLine) = false := by decide +kernel

/-- after it, at the lost destination. -/
theorem poisonAt_of_step {u : State} (h : step fullState = .next u) : u.poisonAt (128 * movedLine) = true := by
  have hstep : step fullState = step trimmedState := by rw [step, step, fullState_readied]
  have hrun : (match step trimmedState with
      | .next u => u.poisonAt (128 * movedLine)
      | _ => false) = true := by decide +kernel
  rw [← hstep, h] at hrun
  exact hrun

/-- YIELD changes no tag. -/
theorem poisonAt_yield {s u : State} {t : Fin 32} {k : Fin 8} {o : BitVec 16} (hs : s.stopped = false)
    (h : exec (.yield t k o) s = .next u) (pa : Nat) : u.poisonAt pa = s.poisonAt pa := by
  have hexec : exec (.yield t k o) s = .next (if s.cur.kget k.val ≤ t.val then s.moveTo (target s.ix.pc o.toInt)
      else s.sleepAs (.yield k.val t.val (target s.ix.pc o.toInt))) := by
    change State.runs s _ = _
    rw [State.runs, hs]
    rfl
  obtain rfl := Host.Outcome.next.inj (hexec.symm.trans h)
  split <;> rfl

/-- The packet that the fetch finds. -/
def yieldPacket : Packet := { va := 0x10000, words := [0x7C000001, 0, 0, 0], poison := false }

/-- Refutes O56: a step gives back the lines that a slice holds past its capacity before it issues, and the write-back of a
line of a page whose move has lost its destination moves the line's reads to that destination, where they are poisoned. -/
theorem not_stepRunsDecoded : ¬ Obligations.StepRunsDecoded := by
  unfold Obligations.StepRunsDecoded
  intro h
  obtain ⟨⟨t, u, hexec, hstep, -, -, -, -, hstopped, hsame, -⟩, -⟩ := h fullState issuingState 0 false false false yieldPacket
    (some 0x800200) (.yield 0 0 1) rfl fullState_issuesNext (by decide +kernel) (.inl (by decide +kernel)) (by decide +kernel)
    (by decide +kernel) (by decide +kernel)
  have hrun : t.stalledAt (.yield 0 0 1) u = false := rfl
  rw [hrun] at hstep
  obtain ⟨⟨-, hpoison⟩, -⟩ := hsame fullState_uncounted fullState_unrepaired
  have hpoisoned : t.poisonAt (128 * movedLine) = true := (poisonAt_yield hstopped hexec _).symm.trans (poisonAt_of_step hstep)
  rw [hpoison, fullState_poisonAt] at hpoisoned
  exact Bool.false_ne_true hpoisoned

end Sys2Proof.Machine

/-! ## Rounding in every format (R63, R64, R66, R77 to R79)

A magnitude code grows with its value, so a rounded magnitude passes the largest finite value exactly when its code passes the largest
finite code. What is left of a rounding is its point of the grid, its exactness and its tininess. -/

namespace Sys2Proof.Machine

/-! ### The values of magnitude codes -/

/-- The value of a magnitude code as R63 and R66 give it, infinities and NaNs left aside. -/
def Fmt.magVal (f : Fmt) (c : Nat) : ℚ :=
  if c / 2 ^ f.mb = 0 then c * 2 ^ f.qmin else (2 ^ f.mb + c % 2 ^ f.mb : Nat) * 2 ^ (f.qmin + (c / 2 ^ f.mb : Nat) - 1)

/-- A magnitude code is none of the infinities and NaNs of its format. -/
def Fmt.plainCode (f : Fmt) (c : Nat) : Prop :=
  c < 2 ^ f.signBit ∧ (f.tops = .ieee ∨ f.tops = .sat → c < f.infCode) ∧ (f.tops = .nanOnly → c + 1 < 2 ^ f.signBit)

theorem Fmt.plainCode.mono {f : Fmt} {c d : Nat} (h : f.plainCode d) (hc : c ≤ d) : f.plainCode c := by
  obtain ⟨hd, hinf, hnan⟩ := h
  exact ⟨hc.trans_lt hd, fun hf => hc.trans_lt (hinf hf), fun hf => (Nat.succ_le_succ hc).trans_lt (hnan hf)⟩

/-- The exponent field is below all ones for codes below infinity; with a fraction of all ones too, for the one NaN code. -/
theorem Fmt.plainCode.top {f : Fmt} {c : Nat} (h : f.plainCode c) :
    (f.tops = .ieee ∨ f.tops = .sat → c / 2 ^ f.mb ≠ 2 ^ f.eb - 1) ∧
    (f.tops = .nanOnly → ¬ (c / 2 ^ f.mb = 2 ^ f.eb - 1 ∧ c % 2 ^ f.mb = 2 ^ f.mb - 1)) := by
  have hM := Nat.two_pow_pos f.mb
  obtain ⟨-, hinf, hnan⟩ := h
  refine ⟨fun hf => ((Nat.div_lt_iff_lt_mul hM).mpr (hinf hf)).ne, fun hf => ?_⟩
  rintro ⟨hdiv, hmod⟩
  have hlast := hnan hf
  have hc := Nat.div_add_mod' c (2 ^ f.mb)
  rw [hdiv, hmod, Nat.sub_one_mul, ← pow_add, ← Fmt.signBit] at hc
  have : 2 ^ f.mb ≤ 2 ^ f.signBit := Nat.pow_le_pow_right two_pos (Nat.le_add_left _ _)
  omega

theorem Fmt.decode_signed {f : Fmt} (neg : Bool) {c : Nat} (h : f.plainCode c) :
    ∃ m e, f.decode (f.signed neg c) = .fin neg m e ∧ (m : ℚ) * 2 ^ e = f.magVal c := by
  obtain ⟨hieee, hnan⟩ := h.top
  have hex : c / 2 ^ f.mb < 2 ^ f.eb := (Nat.div_lt_iff_lt_mul (Nat.two_pow_pos _)).mpr (by rw [← pow_add]; exact h.1)
  obtain ⟨hdiv, hmod⟩ := f.bits_signed neg c
  rw [Nat.mod_eq_of_lt hex] at hdiv
  have hdec : f.decode (f.signed neg c) =
      if c / 2 ^ f.mb = 0 then .fin neg (c % 2 ^ f.mb) f.qmin else .fin neg (2 ^ f.mb + c % 2 ^ f.mb) (f.qmin + (c / 2 ^ f.mb : Nat) - 1) := by
    cases hf : f.tops <;> simp [Fmt.decode, f.bit_signed neg h.1, hdiv, hmod, hf] at hieee hnan ⊢
    · exact fun he => absurd he hieee
    · exact fun he => absurd he hieee
    · exact fun he hm => absurd hm (hnan he)
  rw [hdec, Fmt.magVal]
  split
  next hzero =>
    refine ⟨_, _, rfl, ?_⟩
    rw [Nat.mod_eq_of_lt (Nat.lt_of_div_eq_zero (Nat.two_pow_pos _) hzero)]
  next => exact ⟨_, _, rfl, rfl⟩

/-- The code that `roundMag` gives a significand n at an exponent E above the least one. -/
theorem Fmt.magVal_code (f : Fmt) {n E : Nat} (hn : n ≤ 2 ^ (f.mb + 1)) (hE : E = 0 ∨ 2 ^ f.mb ≤ n) :
    f.magVal (E * 2 ^ f.mb + n) = n * 2 ^ (f.qmin + E) := by
  have hM := Nat.two_pow_pos f.mb
  rw [pow_succ] at hn
  rw [Fmt.magVal, Nat.mul_comm E, Nat.mul_add_div hM, Nat.mul_add_mod]
  rcases Nat.lt_or_ge n (2 ^ f.mb) with hsub | hnorm
  · obtain rfl : E = 0 := hE.resolve_right (by omega)
    simp [Nat.div_eq_of_lt hsub]
  obtain ⟨r, rfl⟩ := Nat.exists_eq_add_of_le hnorm
  rcases Nat.lt_or_ge r (2 ^ f.mb) with hlt | hge
  · rw [Nat.add_div_left _ hM, Nat.div_eq_of_lt hlt, if_neg (by omega), Nat.add_mod_left, Nat.mod_eq_of_lt hlt]
    congr 2
    push_cast
    omega
  · obtain rfl : r = 2 ^ f.mb := by omega
    rw [← Nat.two_mul, Nat.mul_div_cancel _ hM, if_neg (by omega), Nat.mul_mod_left,
      show f.qmin + ((E + 2 : Nat) : Int) - 1 = f.qmin + E + 1 by push_cast; omega, zpow_add_one₀ two_ne_zero]
    push_cast
    ring

/-- Every code has such a significand, below its last one. -/
theorem Fmt.code_parts (f : Fmt) (c : Nat) : ∃ E n, c = E * 2 ^ f.mb + n ∧ n < 2 ^ (f.mb + 1) ∧ (E = 0 ∨ 2 ^ f.mb ≤ n) := by
  have hM := Nat.two_pow_pos f.mb
  have hmod := Nat.mod_lt c hM
  have hc := Nat.div_add_mod' c (2 ^ f.mb)
  rcases Nat.eq_zero_or_pos (c / 2 ^ f.mb) with h | h
  · exact ⟨0, c % 2 ^ f.mb, by rw [← hc, h]; simp, by rw [pow_succ]; omega, .inl rfl⟩
  · obtain ⟨E, hE⟩ := Nat.exists_eq_succ_of_ne_zero h.ne'
    refine ⟨E, 2 ^ f.mb + c % 2 ^ f.mb, ?_, by rw [pow_succ]; omega, .inr (Nat.le_add_right _ _)⟩
    rw [hE, Nat.succ_mul] at hc
    omega

theorem Fmt.magVal_strictMono (f : Fmt) : StrictMono f.magVal := by
  refine strictMono_nat_of_lt_succ fun c => ?_
  obtain ⟨E, n, rfl, hn, hE⟩ := f.code_parts c
  rw [Nat.add_assoc, f.magVal_code hn.le hE, f.magVal_code hn (hE.imp_right Nat.le_succ_of_le)]
  gcongr
  exact Nat.lt_succ_self n

/-! ### The formats -/

/-- A format whose rounding R77 describes: a fraction field, and a largest finite code below the infinities and NaNs. -/
def Fmt.Rounds (f : Fmt) : Prop := 1 ≤ f.mb ∧ f.plainCode f.max

theorem Fmt.rounds_of_mem {f : Fmt} (h : f ∈ allFormats) : f.Rounds := by
  simp only [allFormats, ieeeFormats, List.cons_append, List.nil_append, List.mem_cons, List.not_mem_nil, or_false] at h
  rcases h with rfl | rfl | rfl | rfl | rfl | rfl | rfl | rfl <;>
    exact ⟨by decide, by decide, by decide, by decide⟩

theorem Fmt.Rounds.largest_eq {f : Fmt} (hf : f.Rounds) : f.largest = f.magVal f.max := by
  obtain ⟨m, e, hdec, hval⟩ := Fmt.decode_signed false hf.2
  rw [Fmt.signed, if_neg Bool.false_ne_true] at hdec
  rw [Fmt.largest, hdec, FVal.rat, if_neg Bool.false_ne_true, one_mul, hval]

/-! ### Exactness -/

theorem shiftRound_inexact (mode : Mode) (neg : Bool) (m k : Nat) :
    (shiftRound mode neg m k).2 = true ↔ (shiftRound mode neg m k).1 * 2 ^ k ≠ m := by
  have hm := Nat.div_add_mod' m (2 ^ k)
  have hlt := Nat.mod_lt m (Nat.two_pow_pos k)
  by_cases hr : m % 2 ^ k = 0
  · cases mode <;> simp [shiftRound, hr] <;> omega
  · have hne : ∀ j, j * 2 ^ k ≠ m := fun j hj => hr (by rw [← hj, Nat.mul_mod_left])
    have hinexact : (shiftRound mode neg m k).2 = true := by simp [shiftRound, hr]
    exact iff_of_true hinexact (hne _)

theorem quantise_inexact (mode : Mode) (neg : Bool) (m : Nat) (e q : Int) :
    (quantise mode neg m e q).2 = true ↔ ((quantise mode neg m e q).1 : ℚ) * 2 ^ q ≠ m * 2 ^ e := by
  unfold quantise
  split
  next h =>
    have : (2 : ℚ) ^ e = 2 ^ (e - q).toNat * 2 ^ q := by
      rw [← zpow_natCast, Int.toNat_of_nonneg (by omega), ← zpow_add₀ two_ne_zero, sub_add_cancel]
    simp [this, mul_assoc]
  next h =>
    have hq : (2 : ℚ) ^ q = 2 ^ (q - e).toNat * 2 ^ e := by
      rw [← zpow_natCast, Int.toNat_of_nonneg (by omega), ← zpow_add₀ two_ne_zero, sub_add_cancel]
    have hpos : (2 : ℚ) ^ e ≠ 0 := by positivity
    rw [shiftRound_inexact, hq, ← mul_assoc, ne_eq, ne_eq, mul_left_inj' hpos]
    exact not_congr (by exact_mod_cast Iff.rfl)

/-! ### The code and the flags of a rounded magnitude -/

/-- The quantum of a magnitude in a format, and without a limit of the exponent range (R77). -/
def quantumOf (f : Fmt) (m : Nat) (e : Int) : Int := max ((Nat.log2 m : Int) + e - (f.mb : Int)) f.qmin

theorem qmin_le_quantumOf (f : Fmt) (m : Nat) (e : Int) : f.qmin ≤ quantumOf f m e := le_max_right _ _

/-- A magnitude in units of the last place of its significand. -/
theorem significand_bounds (f : Fmt) {m : Nat} (hm : 0 < m) (e : Int) :
    (2 : ℚ) ^ f.mb ≤ m * 2 ^ (e - (Nat.log2 m + e - f.mb)) ∧ (m : ℚ) * 2 ^ (e - (Nat.log2 m + e - f.mb)) < 2 ^ (f.mb + 1) := by
  have hval : (m : ℚ) * 2 ^ (e - (Nat.log2 m + e - f.mb)) = m * 2 ^ f.mb / 2 ^ m.log2 := by
    rw [show e - ((Nat.log2 m : Int) + e - f.mb) = (f.mb : Int) - (m.log2 : Nat) by omega, zpow_sub₀ two_ne_zero, zpow_natCast, zpow_natCast,
      mul_div_assoc]
  have hlo : (2 : ℚ) ^ m.log2 ≤ m := by exact_mod_cast Nat.log2_self_le hm.ne'
  have hhi : (m : ℚ) < 2 ^ m.log2 * 2 := by exact_mod_cast (Nat.lt_log2_self (n := m)).trans_eq (pow_succ _ _)
  rw [hval, le_div_iff₀ (by positivity), div_lt_iff₀ (by positivity)]
  constructor
  · rw [mul_comm]
    gcongr
  · calc (m : ℚ) * 2 ^ f.mb < 2 ^ m.log2 * 2 * 2 ^ f.mb := by gcongr
      _ = 2 ^ (f.mb + 1) * 2 ^ m.log2 := by ring

/-- In units of its quantum a magnitude is below the end of the significands, and past their beginning but for the least quantum. -/
theorem quantumOf_bounds (f : Fmt) {m : Nat} (hm : 0 < m) (e : Int) :
    (m : ℚ) * 2 ^ (e - quantumOf f m e) < 2 ^ (f.mb + 1) ∧
    (quantumOf f m e = f.qmin ∨ (2 : ℚ) ^ f.mb ≤ m * 2 ^ (e - quantumOf f m e)) := by
  obtain ⟨hlo, hhi⟩ := significand_bounds f hm e
  have hle : (Nat.log2 m : Int) + e - (f.mb : Int) ≤ quantumOf f m e := le_max_left _ _
  refine ⟨lt_of_le_of_lt ?_ hhi, ?_⟩
  · gcongr
    exact one_le_two
  · rcases max_choice ((Nat.log2 m : Int) + e - (f.mb : Int)) f.qmin with h | h
    · rw [quantumOf, h]
      exact .inr hlo
    · exact .inl h

/-- A rounding names its point of the grid: the fate of R78 and R79 past the largest finite value, else the code of the point, inexact and
tiny as `roundMag` finds them. -/
theorem roundFin_names {f : Fmt} (hf : f.Rounds) (mode : Mode) (neg : Bool) {m n : Nat} {e : Int} (hm : 0 < m)
    (hn : (quantise mode neg m e (quantumOf f m e)).1 = n) (hle : n ≤ 2 ^ (f.mb + 1)) (hge : quantumOf f m e = f.qmin ∨ 2 ^ f.mb ≤ n) :
    f.names neg (((m : ℚ) * 2 ^ e : ℚ) : ℝ) ((n : ℚ) * 2 ^ quantumOf f m e) ((roundMag f mode neg m e).2.2 = true) (overflowMag f mode)
      (roundFin f mode neg m e) := by
  obtain ⟨E, hE⟩ : ∃ E : Nat, quantumOf f m e = f.qmin + E :=
    (Int.le.dest (qmin_le_quantumOf f m e)).imp fun _ h => h.symm
  have hE0 : E = 0 ∨ 2 ^ f.mb ≤ n := hge.imp_left (by omega)
  have hcode : (roundMag f mode neg m e).1 = E * 2 ^ f.mb + n := by
    have : (roundMag f mode neg m e).1 = (quantumOf f m e - f.qmin).toNat * 2 ^ f.mb + (quantise mode neg m e (quantumOf f m e)).1 := rfl
    rw [this, hn, hE, add_sub_cancel_left, Int.toNat_natCast]
  have hinexact : (roundMag f mode neg m e).2.1 = true ↔ ((((n : ℚ) * 2 ^ quantumOf f m e : ℚ) : ℝ) ≠ (((m : ℚ) * 2 ^ e : ℚ) : ℝ)) := by
    have := quantise_inexact mode neg m e (quantumOf f m e)
    rw [hn] at this
    exact this.trans (not_congr Rat.cast_inj.symm)
  have hval : f.magVal (roundMag f mode neg m e).1 = n * 2 ^ quantumOf f m e := by rw [hcode, f.magVal_code hle hE0, hE]
  have hround : roundFin f mode neg m e = if (roundMag f mode neg m e).1 > f.max then
      (f.signed neg (overflowMag f mode), Flags.ofl ||| Flags.nx)
    else (f.signed neg (roundMag f mode neg m e).1, (if (roundMag f mode neg m e).2.1 then Flags.nx else 0#5) |||
      (if (roundMag f mode neg m e).2.1 && (roundMag f mode neg m e).2.2 then Flags.uf else 0#5)) := if_neg hm.ne'
  have hover : f.max < (roundMag f mode neg m e).1 ↔ f.largest < n * 2 ^ quantumOf f m e := by
    rw [hf.largest_eq, ← hval, f.magVal_strictMono.lt_iff_lt]
  refine ⟨fun h => hround.trans (if_pos (hover.mpr h)), fun h => ?_⟩
  have hfits := mt hover.mp (not_lt.mpr h)
  obtain ⟨k, x, hdec, hkx⟩ := Fmt.decode_signed neg (hf.2.mono (not_lt.mp hfits))
  rw [hround, if_neg hfits, ← hinexact]
  dsimp only
  rw [hdec]
  refine ⟨rfl, ?_, rfl, ?_⟩
  · rw [FVal.rat, ← hval, ← hkx]
    cases neg <;> simp
  · cases (roundMag f mode neg m e).2.1 <;> cases (roundMag f mode neg m e).2.2 <;> decide

end Sys2Proof.Machine

namespace Sys2Proof.Machine

/-! ### Tininess after rounding -/

/-- A value has one significand of full length. -/
theorem significand_unique {M n k : Nat} {p q : Int} (hn : M ≤ n ∧ n < 2 * M) (hk : k < 2 * M) (hp : q ≤ p ∨ M ≤ k)
    (h : (n : ℚ) * 2 ^ p = k * 2 ^ q) : n = k := by
  have hshift {a b : Nat} {r s : Int} (hrs : r < s) (h : (a : ℚ) * 2 ^ r = b * 2 ^ s) : 2 * b ≤ a := by
    have hpos : (0 : ℚ) < 2 ^ r := by positivity
    have hle : (b : ℚ) * (2 * 2 ^ r) ≤ b * 2 ^ s := by
      rw [mul_comm 2, ← zpow_add_one₀ two_ne_zero]
      gcongr
      · exact one_le_two
      · omega
    have : (2 * b : ℚ) * 2 ^ r ≤ a * 2 ^ r := by linarith
    exact_mod_cast le_of_mul_le_mul_right this hpos
  rcases Int.lt_trichotomy p q with hlt | rfl | hgt
  · have := hshift hlt h
    omega
  · exact_mod_cast mul_right_cancel₀ (zpow_ne_zero p two_ne_zero) h
  · have := hshift hgt h.symm
    omega

/-- An integer multiple of a magnitude's last place, nearest to it, is the nearest point of the grid without a limit of the exponent range:
it is so on every grid with a limit low enough. -/
theorem Fmt.nearestOn_unlimited (f : Fmt) (hmb : 1 ≤ f.mb) {n : Nat} {y : ℚ} (q : Int) (h : IsNearest n y) (hlt : y < 2 ^ (f.mb + 1))
    (hge : 2 ^ f.mb ≤ y) : f.nearestOn (fun _ => True) ((y * 2 ^ q : ℚ) : ℝ) ((n : ℚ) * 2 ^ q) := by
  obtain ⟨k, p, hk, hpq, hval⟩ : ∃ (k : Nat) (p : Int), (2 ^ f.mb ≤ k ∧ k < 2 * 2 ^ f.mb) ∧ q ≤ p ∧ (n : ℚ) * 2 ^ q = k * 2 ^ p := by
    have hlo : 2 ^ f.mb ≤ n := h.le_of_le (by exact_mod_cast hge)
    have hhi : n ≤ 2 ^ (f.mb + 1) := h.le_of_lt (by exact_mod_cast hlt)
    rw [pow_succ'] at hhi
    rcases hhi.lt_or_eq with hn | rfl
    · exact ⟨n, q, ⟨hlo, hn⟩, le_rfl, rfl⟩
    · refine ⟨2 ^ f.mb, q + 1, ⟨le_rfl, lt_two_mul_self (Nat.two_pow_pos _)⟩, by omega, ?_⟩
      rw [zpow_add_one₀ two_ne_zero]
      push_cast
      ring
  have hall : ∀ w, f.gridFrom (fun _ => True) w →
      |(((n : ℚ) * 2 ^ q : ℚ) : ℝ) - ((y * 2 ^ q : ℚ) : ℝ)| ≤ |(w : ℝ) - ((y * 2 ^ q : ℚ) : ℝ)| ∧
      (w ≠ (n : ℚ) * 2 ^ q → |(((n : ℚ) * 2 ^ q : ℚ) : ℝ) - ((y * 2 ^ q : ℚ) : ℝ)| = |(w : ℝ) - ((y * 2 ^ q : ℚ) : ℝ)| → k % 2 = 0) := by
    rintro w ⟨a, r, ha, -, rfl⟩
    obtain ⟨g, hgmb, hgr, hgq⟩ : ∃ g : Fmt, g.mb = f.mb ∧ g.qmin ≤ r ∧ g.qmin ≤ q :=
      ⟨{ f with bias := r.natAbs + q.natAbs + 1 }, rfl, by simp only [Fmt.qmin]; omega, by simp only [Fmt.qmin]; omega⟩
    have hround : g.isRoundNE ((y * 2 ^ q : ℚ) : ℝ) ((n : ℚ) * 2 ^ q) :=
      g.isRoundNE_of_isNearest (hgmb ▸ hmb) h hgq (hgmb ▸ hlt) (.inr (hgmb ▸ hge))
    obtain ⟨j, s, hj, hs, hcanon, hjs, hnear, htie⟩ := hround
    rw [hgmb] at hj hcanon
    have hw : g.gridFrom (fun p => g.qmin ≤ p) ((a : ℚ) * 2 ^ r) := ⟨a, r, hgmb ▸ ha, hgr, rfl⟩
    refine ⟨hnear _ hw, fun hne he => ?_⟩
    have hkj : k = j := significand_unique hk (by rwa [pow_succ'] at hj) (hcanon.symm.imp_left fun hs' => by omega) (hval.symm.trans hjs)
    exact hkj ▸ htie ⟨_, hw, hne, he⟩
  exact ⟨k, p, by rw [pow_succ']; exact hk.2, trivial, .inl hk.1, hval, fun w hw => (hall w hw).1,
    fun ⟨w, hw, hne, he⟩ => (hall w hw).2 hne he⟩

/-- The exponent of a magnitude's last place without a limit of the exponent range (R77). -/
def lastPlace (f : Fmt) (m : Nat) (e : Int) : Int := Nat.log2 m + e - f.mb

/-- What `roundMag` calls tiny: the last place lies below the least quantum, but for a significand that is rounded up to the least normal
magnitude. -/
theorem roundMag_tiny (f : Fmt) (mode : Mode) (neg : Bool) (m : Nat) (e : Int) :
    (roundMag f mode neg m e).2.2 = true ↔ lastPlace f m e < f.qmin ∧
      ¬ (lastPlace f m e + 1 = f.qmin ∧ (quantise mode neg m e (lastPlace f m e)).1 = 2 ^ (f.mb + 1)) := by
  simp only [roundMag, Bool.and_eq_true, Bool.not_eq_true', decide_eq_true_eq, Bool.and_eq_false_iff, decide_eq_false_iff_not, not_and_or]
  rfl

theorem leastNormal_eq (f : Fmt) (q : Int) (h : q + 1 = f.qmin) : f.leastNormal = 2 ^ (f.mb + 1) * 2 ^ q := by
  rw [Fmt.leastNormal, ← h, zpow_add₀ two_ne_zero, zpow_add_one₀ two_ne_zero, zpow_natCast]
  ring

section
variable {f : Fmt} {y : ℚ} {q : Int}

/-- A magnitude with its last place at the least quantum or above rounds to nothing tiny. -/
theorem not_tiny_of_normal (hge : 2 ^ f.mb ≤ y) (hq : f.qmin ≤ q) : ¬ f.tinyNE ((y * 2 ^ q : ℚ) : ℝ) := by
  rintro ⟨u, ⟨n, p, hn, -, hcanon, hu, hnear, -⟩, hlt⟩
  have hx : f.leastNormal ≤ y * 2 ^ q := by
    rw [Fmt.leastNormal, add_comm, zpow_add₀ two_ne_zero, zpow_natCast]
    exact mul_le_mul hge (zpow_le_zpow_right₀ one_le_two hq) (by positivity) (le_trans (by positivity) hge)
  have hgrid : f.gridFrom (fun _ => True) f.leastNormal :=
    ⟨2 ^ f.mb, f.qmin, Nat.pow_lt_pow_right one_lt_two (Nat.lt_succ_self _), trivial, by
      rw [Fmt.leastNormal, add_comm, zpow_add₀ two_ne_zero, zpow_natCast]
      push_cast
      rfl⟩
  have h : |u - y * 2 ^ q| ≤ |f.leastNormal - y * 2 ^ q| := by exact_mod_cast hnear _ hgrid
  rw [abs_sub_comm, abs_of_nonneg (by linarith), abs_sub_comm, abs_of_nonneg (by linarith)] at h
  linarith

/-- Every value below the least normal magnitude is at most the one with the last significand, which is odd. -/
theorem le_last_of_lt_leastNormal (hmb : 1 ≤ f.mb) (hq : q + 1 = f.qmin) {n : Nat} {p : Int} {u : ℚ} (hn : n < 2 ^ (f.mb + 1))
    (hnorm : 2 ^ f.mb ≤ n) (hu : u = n * 2 ^ p) (hsmall : u < f.leastNormal) :
    u ≤ (2 ^ (f.mb + 1) - 1) * 2 ^ q ∧ (u = (2 ^ (f.mb + 1) - 1) * 2 ^ q → n % 2 = 1) := by
  have hpos : (0 : ℚ) < 2 ^ q := by positivity
  have hM : 2 ^ 1 ≤ 2 ^ f.mb := Nat.pow_le_pow_right two_pos hmb
  have hL := leastNormal_eq f q hq
  rcases Int.lt_trichotomy p q with hp | rfl | hp
  · have hlow : u < (2 ^ (f.mb + 1) - 1) * 2 ^ q := by
      have hstep : (2 : ℚ) ^ p ≤ 2 ^ (q - 1) := zpow_le_zpow_right₀ one_le_two (by omega)
      have hn' : (n : ℚ) < 2 ^ (f.mb + 1) := by exact_mod_cast hn
      have hM' : (2 : ℚ) ≤ 2 ^ f.mb := by exact_mod_cast hM
      calc u = n * 2 ^ p := hu
        _ ≤ n * 2 ^ (q - 1) := by gcongr
        _ < 2 ^ (f.mb + 1) * 2 ^ (q - 1) := by gcongr
        _ = 2 ^ f.mb * 2 ^ q := by rw [zpow_sub_one₀ two_ne_zero]; ring
        _ ≤ (2 ^ (f.mb + 1) - 1) * 2 ^ q := by
          gcongr
          rw [pow_succ]
          linarith
    exact ⟨hlow.le, fun he => absurd he hlow.ne⟩
  · have hn' : (n : ℚ) + 1 ≤ 2 ^ (f.mb + 1) := by exact_mod_cast hn
    refine ⟨by rw [hu]; gcongr; linarith, fun he => ?_⟩
    have : (n : ℚ) + 1 = 2 ^ (f.mb + 1) := by linarith [mul_right_cancel₀ hpos.ne' (hu.symm.trans he)]
    have : n + 1 = 2 ^ f.mb * 2 := by rw [← pow_succ]; exact_mod_cast this
    omega
  · refine absurd hsmall (not_lt.mpr ?_)
    have hn' : (2 : ℚ) ^ f.mb ≤ n := by exact_mod_cast hnorm
    have hstep : (2 : ℚ) ^ (q + 1) ≤ 2 ^ p := zpow_le_zpow_right₀ one_le_two (by omega)
    calc f.leastNormal = 2 ^ f.mb * 2 ^ (q + 1) := by rw [hL, zpow_add_one₀ two_ne_zero]; ring
      _ ≤ n * 2 ^ p := by gcongr
      _ = u := hu.symm

/-- A magnitude that rounds up to the least normal one is not tiny: below that one, the nearest significand is odd. -/
theorem not_tiny_of_carry (hmb : 1 ≤ f.mb) (h : IsNearest (2 ^ (f.mb + 1)) y) (hlt : y < 2 ^ (f.mb + 1)) (hq : q + 1 = f.qmin) :
    ¬ f.tinyNE ((y * 2 ^ q : ℚ) : ℝ) := by
  rintro ⟨u, ⟨n, p, hn, -, hcanon, hu, hnear, htie⟩, hsmall⟩
  have hpos : (0 : ℚ) < 2 ^ q := by positivity
  have hL := leastNormal_eq f q hq
  obtain ⟨hule, hodd⟩ := le_last_of_lt_leastNormal hmb hq hn (hcanon.resolve_right (not_not_intro trivial)) hu hsmall
  have hgrid : f.gridFrom (fun _ => True) f.leastNormal :=
    ⟨2 ^ f.mb, q + 1, Nat.pow_lt_pow_right one_lt_two (Nat.lt_succ_self _), trivial, by
      rw [hL, zpow_add_one₀ two_ne_zero]
      push_cast
      ring⟩
  have hhalf : 2 ^ (f.mb + 1) - y ≤ 1 / 2 := by
    have := (abs_le.mp h.1).2
    push_cast at this
    exact this
  have hdist : f.leastNormal - y * 2 ^ q ≤ y * 2 ^ q - u := by
    rw [hL]
    nlinarith
  have habs : |u - y * 2 ^ q| = y * 2 ^ q - u ∧ |f.leastNormal - y * 2 ^ q| = f.leastNormal - y * 2 ^ q := by
    have : 0 < f.leastNormal - y * 2 ^ q := by
      rw [hL]
      nlinarith
    rw [abs_sub_comm]
    exact ⟨abs_of_nonneg (by linarith), abs_of_nonneg this.le⟩
  have hle : |u - y * 2 ^ q| ≤ |f.leastNormal - y * 2 ^ q| := by exact_mod_cast hnear _ hgrid
  have heq : |u - y * 2 ^ q| = |f.leastNormal - y * 2 ^ q| := le_antisymm hle (by rw [habs.1, habs.2]; exact hdist)
  have heven := htie ⟨_, hgrid, hsmall.ne', by exact_mod_cast heq⟩
  rw [habs.1, habs.2, hL] at heq
  have hu' : u = (2 ^ (f.mb + 1) - 1) * 2 ^ q := le_antisymm hule (by nlinarith)
  have := hodd hu'
  omega

end

/-- `roundMag` finds tiny what RoundNE without a limit of the exponent range leaves below the least normal magnitude (R64, R77). -/
theorem roundMag_tinyNE {f : Fmt} (hmb : 1 ≤ f.mb) (neg : Bool) {m : Nat} (hm : 0 < m) (e : Int) :
    (roundMag f .ne neg m e).2.2 = true ↔ f.tinyNE (((m : ℚ) * 2 ^ e : ℚ) : ℝ) := by
  obtain ⟨q, hq⟩ : ∃ q, lastPlace f m e = q := ⟨_, rfl⟩
  obtain ⟨n, hn⟩ : ∃ n, (quantise .ne neg m e q).1 = n := ⟨_, rfl⟩
  obtain ⟨hge, hlt⟩ : (2 : ℚ) ^ f.mb ≤ m * 2 ^ (e - q) ∧ (m : ℚ) * 2 ^ (e - q) < 2 ^ (f.mb + 1) := hq ▸ significand_bounds f hm e
  have hnear : IsNearest n ((m : ℚ) * 2 ^ (e - q)) := hn ▸ quantise_ne neg m e q
  have hx : (m : ℚ) * 2 ^ e = m * 2 ^ (e - q) * 2 ^ q := by rw [mul_assoc, ← zpow_add₀ two_ne_zero, sub_add_cancel]
  rw [roundMag_tiny, hq, hn, hx]
  constructor
  · rintro ⟨hlow, hcarry⟩
    refine ⟨_, f.nearestOn_unlimited hmb q hnear hlt hge, ?_⟩
    have hn1 : n ≤ 2 ^ (f.mb + 1) := hnear.le_of_lt (by exact_mod_cast hlt)
    rcases (show q + 1 ≤ f.qmin by omega).eq_or_lt with hq1 | hq1
    · have hn2 : n < 2 ^ (f.mb + 1) := lt_of_le_of_ne hn1 fun h => hcarry ⟨hq1, h⟩
      rw [leastNormal_eq f q hq1]
      gcongr
      exact_mod_cast hn2
    · calc (n : ℚ) * 2 ^ q ≤ (2 ^ (f.mb + 1) : Nat) * 2 ^ q := by gcongr
        _ = 2 ^ ((q + 1) + f.mb) := by
          rw [zpow_add₀ two_ne_zero, zpow_add_one₀ two_ne_zero, zpow_natCast]
          push_cast
          ring
        _ < f.leastNormal := zpow_lt_zpow_right₀ one_lt_two (by omega)
  · intro htiny
    have hlow : q < f.qmin := not_le.mp fun h => not_tiny_of_normal hge h htiny
    exact ⟨hlow, fun h => not_tiny_of_carry hmb (h.2 ▸ hnear) hlt h.1 htiny⟩

/-! ### RoundZ -/

/-- RoundZ takes the whole part of a magnitude in units of its quantum. -/
theorem quantise_z (neg : Bool) (m : Nat) (e q : Int) : (quantise .z neg m e q).1 = ⌊(m : ℚ) * 2 ^ (e - q)⌋₊ := by
  unfold quantise
  split
  next h =>
    have : (m : ℚ) * 2 ^ (e - q) = ((m * 2 ^ (e - q).toNat : Nat) : ℚ) := by
      rw [Nat.cast_mul, Nat.cast_pow, Nat.cast_two, ← zpow_natCast, Int.toNat_of_nonneg (by omega)]
    rw [this, Nat.floor_natCast]
  next h =>
    have : (m : ℚ) * 2 ^ (e - q) = (m : ℚ) / (2 ^ (q - e).toNat : Nat) := by
      rw [Nat.cast_pow, Nat.cast_two, ← zpow_natCast, Int.toNat_of_nonneg (by omega), div_eq_mul_inv, ← zpow_neg, neg_sub]
    rw [this, Nat.floor_div_eq_div]
    rfl

/-- The whole part of a magnitude in units of its quantum is the greatest point of the grid that is not greater. -/
theorem Fmt.isRoundZ_of_floor (f : Fmt) {y : ℚ} {q : Int} (h0 : 0 ≤ y) (hq : f.qmin ≤ q) (hlt : y < 2 ^ (f.mb + 1))
    (hge : q = f.qmin ∨ 2 ^ f.mb ≤ y) : f.isRoundZ ((y * 2 ^ q : ℚ) : ℝ) ((⌊y⌋₊ : ℚ) * 2 ^ q) := by
  have hpos : (0 : ℚ) < 2 ^ q := by positivity
  refine ⟨⟨⌊y⌋₊, q, (Nat.floor_lt h0).mpr (by exact_mod_cast hlt), hq, rfl⟩, ?_, ?_⟩
  · exact_mod_cast mul_le_mul_of_nonneg_right (Nat.floor_le h0) hpos.le
  rintro w ⟨a, p, ha, hp, rfl⟩ hw
  have hw' : (a : ℚ) * 2 ^ p ≤ y * 2 ^ q := by exact_mod_cast hw
  by_cases hpq : q ≤ p
  · have hint : (a : ℚ) * 2 ^ p = ((a * 2 ^ (p - q).toNat : Nat) : ℚ) * 2 ^ q := by
      rw [Nat.cast_mul, Nat.cast_pow, Nat.cast_two, ← zpow_natCast, Int.toNat_of_nonneg (by omega), mul_assoc, ← zpow_add₀ two_ne_zero,
        sub_add_cancel]
    rw [hint] at hw' ⊢
    gcongr
    exact Nat.le_floor (le_of_mul_le_mul_right hw' hpos)
  · have hy : 2 ^ f.mb ≤ ⌊y⌋₊ := Nat.le_floor (by exact_mod_cast hge.resolve_left (by omega))
    have hlast : (a : ℚ) ≤ 2 ^ (f.mb + 1) := by exact_mod_cast ha.le
    calc (a : ℚ) * 2 ^ p ≤ 2 ^ (f.mb + 1) * 2 ^ (q - 1) := by
          gcongr
          · exact one_le_two
          · omega
      _ = (2 ^ f.mb : Nat) * 2 ^ q := by
        rw [zpow_sub_one₀ two_ne_zero]
        push_cast
        ring
      _ ≤ ⌊y⌋₊ * 2 ^ q := by gcongr

/-- `roundMag` finds tiny under RoundZ what lies below the least normal magnitude (R64). -/
theorem roundMag_tinyZ (f : Fmt) (neg : Bool) {m : Nat} (hm : 0 < m) (e : Int) :
    (roundMag f .z neg m e).2.2 = true ↔ (((m : ℚ) * 2 ^ e : ℚ) : ℝ) < (f.leastNormal : ℝ) := by
  obtain ⟨q, hq⟩ : ∃ q, lastPlace f m e = q := ⟨_, rfl⟩
  obtain ⟨hge, hlt⟩ : (2 : ℚ) ^ f.mb ≤ m * 2 ^ (e - q) ∧ (m : ℚ) * 2 ^ (e - q) < 2 ^ (f.mb + 1) := hq ▸ significand_bounds f hm e
  have hx : (m : ℚ) * 2 ^ e = m * 2 ^ (e - q) * 2 ^ q := by rw [mul_assoc, ← zpow_add₀ two_ne_zero, sub_add_cancel]
  have hcarry : (quantise .z neg m e q).1 ≠ 2 ^ (f.mb + 1) := by
    rw [quantise_z]
    exact ((Nat.floor_lt (by positivity)).mpr (by exact_mod_cast hlt)).ne
  rw [roundMag_tiny, hq, Rat.cast_lt, hx, and_iff_left fun h => hcarry h.2]
  constructor
  · intro h
    calc (m : ℚ) * 2 ^ (e - q) * 2 ^ q < 2 ^ (f.mb + 1) * 2 ^ q := by gcongr
      _ = 2 ^ ((q + 1) + f.mb) := by
        rw [zpow_add₀ two_ne_zero, zpow_add_one₀ two_ne_zero, zpow_natCast]
        ring
      _ ≤ f.leastNormal := zpow_le_zpow_right₀ one_le_two (by omega)
  · refine fun h => not_le.mp fun hq => not_le.mpr h ?_
    rw [Fmt.leastNormal, add_comm, zpow_add₀ two_ne_zero, zpow_natCast]
    gcongr
    exact one_le_two

/-! ### Both directions -/

section
variable {f : Fmt} (hf : f.Rounds) (neg : Bool) {m : Nat} (hm : 0 < m) (e : Int)
include hf hm

theorem roundFin_ne : f.roundedNE neg (((m : ℚ) * 2 ^ e : ℚ) : ℝ) (roundFin f .ne neg m e) := by
  obtain ⟨hlt, hge⟩ := quantumOf_bounds f hm e
  have hnear := quantise_ne neg m e (quantumOf f m e)
  have hround := f.isRoundNE_of_isNearest hf.1 hnear (qmin_le_quantumOf f m e) hlt hge
  rw [mul_assoc, ← zpow_add₀ two_ne_zero, sub_add_cancel] at hround
  have hnames := roundFin_names hf .ne neg hm rfl (hnear.le_of_lt (by exact_mod_cast hlt))
    (hge.imp_right fun h => hnear.le_of_le (by exact_mod_cast h))
  have hfate : overflowMag f .ne = if f.tops = .ieee then f.infCode else f.max := by
    cases h : f.tops <;> simp [overflowMag, h]
  rw [hfate, propext (roundMag_tinyNE hf.1 neg hm e)] at hnames
  exact ⟨_, hround, hnames⟩

theorem roundFin_z : f.roundedZ neg (((m : ℚ) * 2 ^ e : ℚ) : ℝ) (roundFin f .z neg m e) := by
  obtain ⟨hlt, hge⟩ := quantumOf_bounds f hm e
  have hround := f.isRoundZ_of_floor (by positivity) (qmin_le_quantumOf f m e) hlt hge
  rw [mul_assoc, ← zpow_add₀ two_ne_zero, sub_add_cancel] at hround
  have hnames := roundFin_names hf .z neg hm (quantise_z neg m e _) ((Nat.floor_lt (by positivity)).mpr (by exact_mod_cast hlt)).le
    (hge.imp_right fun h => Nat.le_floor (by exact_mod_cast h))
  have hfate : overflowMag f .z = f.max := by
    cases h : f.tops <;> simp [overflowMag, h]
  rw [hfate, propext (roundMag_tinyZ f neg hm e)] at hnames
  exact ⟨_, hround, hnames⟩

end

/-- Settles O6: by the point of the grid that `quantise` finds, its code, and its exactness and tininess. -/
theorem floatRounding : Obligations.FloatRounding := by
  unfold Obligations.FloatRounding
  intro f hf neg m e hm
  exact ⟨roundFin_ne (Fmt.rounds_of_mem hf) neg hm e, roundFin_z (Fmt.rounds_of_mem hf) neg hm e⟩

end Sys2Proof.Machine

/-! ## The non-adjacent form (R72, R119, R120) -/

namespace Sys2Proof.Machine

/-! ### Lists of terms -/

@[simp] theorem termSum_nil : termSum [] = 0 := rfl

@[simp] theorem termSum_cons (d : Nat × Bool) (l : List (Nat × Bool)) :
    termSum (d :: l) = (if d.2 then -1 else 1) * 2 ^ d.1 + termSum l := by simp [termSum]

@[simp] theorem termSum_append (l k : List (Nat × Bool)) : termSum (l ++ k) = termSum l + termSum k := by simp [termSum]

@[simp] theorem termSum_reverse (l : List (Nat × Bool)) : termSum l.reverse = termSum l := by
  simp [termSum, List.sum_reverse]

/-- Terms in ascending position, no two adjacent, the first not below i. -/
def AscendsFrom (i : Nat) (l : List (Nat × Bool)) : Prop := (∀ d ∈ l, i ≤ d.1) ∧ l.Pairwise (fun a b => a.1 + 2 ≤ b.1)

theorem AscendsFrom.cons {i p : Nat} {neg : Bool} {l : List (Nat × Bool)} :
    AscendsFrom i ((p, neg) :: l) ↔ i ≤ p ∧ AscendsFrom (p + 2) l := by
  simp only [AscendsFrom, List.mem_cons, forall_eq_or_imp, List.pairwise_cons]
  constructor
  · rintro ⟨⟨hp, -⟩, hstep, hl⟩
    exact ⟨hp, hstep, hl⟩
  · rintro ⟨hp, hstep, hl⟩
    exact ⟨⟨hp, fun d hd => by have := hstep d hd; omega⟩, hstep, hl⟩

theorem AscendsFrom.mono {i j : Nat} {l : List (Nat × Bool)} (h : AscendsFrom i l) (hj : j ≤ i) : AscendsFrom j l :=
  ⟨fun d hd => hj.trans (h.1 d hd), h.2⟩

/-- Terms from position i on sum to a multiple of 2^i. -/
theorem pow_dvd_termSum {i : Nat} {l : List (Nat × Bool)} (h : ∀ d ∈ l, i ≤ d.1) : (2 : Int) ^ i ∣ termSum l := by
  induction l with
  | nil => exact dvd_zero _
  | cons d l ih =>
    rw [termSum_cons]
    exact dvd_add (dvd_mul_of_dvd_right (pow_dvd_pow 2 (h d List.mem_cons_self)) _) (ih fun x hx => h x (List.mem_cons_of_mem _ hx))

/-! ### The digits that `nafFrom` finds -/

/-- The digit of an odd number, and what remains above it. -/
theorem odd_digit {q : Int} (h : ¬ q % 2 = 0) : (2 - q % 4 = 1 ∨ 2 - q % 4 = -1) ∧ (q - (2 - q % 4)) / 2 % 2 = 0 ∧
    q = (2 - q % 4) + 2 * ((q - (2 - q % 4)) / 2) := by omega

theorem nafFrom_ascends (fuel : Nat) (q : Int) (i : Nat) :
    AscendsFrom i (nafFrom fuel q i) ∧ (q % 2 = 0 → AscendsFrom (i + 1) (nafFrom fuel q i)) := by
  have hnil : ∀ j, AscendsFrom j [] := fun j => ⟨by simp, .nil⟩
  induction fuel generalizing q i with
  | zero => exact ⟨hnil _, fun _ => hnil _⟩
  | succ fuel ih =>
    rw [nafFrom]
    split
    next => exact ⟨hnil _, fun _ => hnil _⟩
    next =>
      split
      next =>
        have h := (ih (q / 2) (i + 1)).1
        exact ⟨h.mono (Nat.le_succ i), fun _ => h⟩
      next hodd =>
        refine ⟨AscendsFrom.cons.mpr ⟨le_rfl, (ih _ _).2 (odd_digit hodd).2.1⟩, fun h => absurd h hodd⟩

/-- Within f bits the digits give the number's value, at positions up to f. -/
theorem nafFrom_value (f : Nat) (q : Int) (i : Nat) (hq : |q| ≤ 2 ^ f) :
    termSum (nafFrom (f + 1) q i) = q * 2 ^ i ∧ ∀ d ∈ nafFrom (f + 1) q i, d.1 ≤ i + f := by
  induction f generalizing q i with
  | zero =>
    rw [pow_zero, abs_le] at hq
    obtain rfl | rfl | rfl : q = -1 ∨ q = 0 ∨ q = 1 := by omega
    all_goals simp [nafFrom]
  | succ f ih =>
    rw [pow_succ, abs_le] at hq
    rw [nafFrom]
    split
    next h => simp [h]
    next =>
      split
      next heven =>
        obtain ⟨hsum, hpos⟩ := ih (q / 2) (i + 1) (by rw [abs_le]; omega)
        refine ⟨?_, fun d hd => by have := hpos d hd; omega⟩
        rw [hsum, pow_succ', ← mul_assoc, Int.ediv_mul_cancel (Int.dvd_of_emod_eq_zero heven)]
      next hodd =>
        obtain ⟨hdigit, -, hval⟩ := odd_digit hodd
        obtain ⟨hsum, hpos⟩ := ih ((q - (2 - q % 4)) / 2) (i + 1) (by rw [abs_le]; omega)
        refine ⟨?_, fun d hd => ?_⟩
        · have hd : (if (2 - q % 4 : Int) < 0 then (-1 : Int) else 1) = 2 - q % 4 := by rcases hdigit with h | h <;> simp [h]
          simp only [termSum_cons, decide_eq_true_eq, hd, hsum]
          conv_rhs => rw [hval]
          ring
        · rcases List.mem_cons.mp hd with rfl | hd
          · exact Nat.le_add_right _ _
          · have := hpos d hd
            omega

/-- The lowest term decides a sum modulo the next position but one. -/
theorem termSum_cons_odd {i p : Nat} {neg : Bool} {l : List (Nat × Bool)} (h : AscendsFrom i ((p, neg) :: l)) :
    ∃ t, termSum ((p, neg) :: l) = ((if neg then -1 else 1) + 4 * t) * 2 ^ p := by
  obtain ⟨t, ht⟩ := pow_dvd_termSum (AscendsFrom.cons.mp h).2.1
  exact ⟨t, by rw [termSum_cons, ht, pow_add]; ring⟩

theorem odd_mul_pow_ne {a b : Int} {p r : Nat} (ha : a % 2 = 1) (hpr : p < r) : a * 2 ^ p ≠ b * 2 ^ r := by
  obtain ⟨d, rfl⟩ := Nat.exists_eq_add_of_lt hpr
  intro h
  have : a = b * 2 ^ d * 2 := mul_right_cancel₀ (pow_ne_zero p two_ne_zero) (by rw [h]; ring)
  omega

/-- A number has one list of terms that ascend without neighbours. -/
theorem AscendsFrom.unique {i : Nat} {l k : List (Nat × Bool)} (hl : AscendsFrom i l) (hk : AscendsFrom i k)
    (h : termSum l = termSum k) : l = k := by
  have hodd : ∀ (neg : Bool) (t : Int), ((if neg then -1 else 1) + 4 * t) % 2 = 1 := fun neg t => by cases neg <;> simp <;> omega
  induction l generalizing i k with
  | nil =>
    cases k with
    | nil => rfl
    | cons d k =>
      obtain ⟨t, ht⟩ := termSum_cons_odd hk
      rw [ht, termSum_nil] at h
      exact absurd h.symm (by simpa using odd_mul_pow_ne (b := 0) (hodd d.2 t) (Nat.lt_succ_self d.1))
  | cons d l ih =>
    obtain ⟨p, neg⟩ := d
    obtain ⟨t, ht⟩ := termSum_cons_odd hl
    cases k with
    | nil =>
      rw [ht, termSum_nil] at h
      exact absurd h (by simpa using odd_mul_pow_ne (b := 0) (hodd neg t) (Nat.lt_succ_self p))
    | cons e k =>
      obtain ⟨r, neg'⟩ := e
      obtain ⟨u, hu⟩ := termSum_cons_odd hk
      have heq := ht.symm.trans (h.trans hu)
      rcases Nat.lt_trichotomy p r with hpr | rfl | hpr
      · exact absurd heq (odd_mul_pow_ne (hodd neg t) hpr)
      · have hsign : neg = neg' := by
          have := mul_right_cancel₀ (pow_ne_zero p two_ne_zero) heq
          cases neg <;> cases neg' <;> simp at this ⊢ <;> omega
        subst hsign
        rw [ih (AscendsFrom.cons.mp hl).2 (AscendsFrom.cons.mp hk).2 (by simpa using h)]
      · exact absurd heq.symm (odd_mul_pow_ne (hodd neg' u) hpr)

/-! ### The NAF -/

theorem ascends_of_descends {l : List (Nat × Bool)} (h : l.Pairwise (fun a b => b.1 + 2 ≤ a.1)) : AscendsFrom 0 l.reverse :=
  ⟨fun _ _ => Nat.zero_le _, List.pairwise_reverse.mpr h⟩

theorem naf_descends (q : Int) : (naf q).Pairwise (fun a b => b.1 + 2 ≤ a.1) := List.pairwise_reverse.mpr (nafFrom_ascends 40 q 0).1.2

theorem naf_value {f : Nat} (hf : f < 40) {q : Int} (hq : |q| ≤ 2 ^ f) : termSum (naf q) = q := by
  have h39 : |q| ≤ 2 ^ 39 := hq.trans (pow_le_pow_right₀ one_le_two (by omega))
  rw [naf, termSum_reverse, (nafFrom_value 39 q 0 h39).1, pow_zero, mul_one]

theorem isNaf_naf {f : Nat} (hf : f < 40) {q : Int} (hq : |q| ≤ 2 ^ f) : isNaf q (naf q) := ⟨naf_value hf hq, naf_descends q⟩

/-- A number within 40 bits has one list of terms that descend without neighbours. -/
theorem naf_unique {f : Nat} (hf : f < 40) {q : Int} (hq : |q| ≤ 2 ^ f) {l : List (Nat × Bool)} (h : isNaf q l) : naf q = l := by
  have := (ascends_of_descends (naf_descends q)).unique (ascends_of_descends h.2) (by
    rw [termSum_reverse, termSum_reverse, naf_value hf hq, h.1])
  exact List.reverse_injective this

/-- The digits of a small number lie at small positions. -/
theorem naf_position {f : Nat} {q : Int} (hf : f < 40) (hq : |q| ≤ 2 ^ f) : ∀ d ∈ naf q, d.1 ≤ f := by
  have hfuel : nafFrom (f + 1) q 0 = nafFrom 40 q 0 := by
    refine (nafFrom_ascends _ q 0).1.unique (nafFrom_ascends _ q 0).1 ?_
    rw [(nafFrom_value f q 0 hq).1, (nafFrom_value 39 q 0 (hq.trans (pow_le_pow_right₀ one_le_two (by omega)))).1]
  intro d hd
  have := (nafFrom_value f q 0 hq).2 d (hfuel ▸ List.mem_reverse.mp hd)
  omega

/-! ### The nearest integer with a sign -/

/-- A finite value's rational number, from its sign. -/
theorem rat_fin (neg : Bool) (m : Nat) (e : Int) : (FVal.fin neg m e).rat = (if neg then -1 else 1) * ((m : ℚ) * 2 ^ e) := mul_assoc _ _ _

/-- `roundInt` by RoundNE gives the nearest integer, inexact when it is another number (R77). -/
theorem roundInt_ne (neg : Bool) (m : Nat) (e : Int) :
    isIntegral .ne (FVal.fin neg m e).rat (roundInt .ne neg m e).1 ∧
    ((roundInt .ne neg m e).2 = true ↔ ((roundInt .ne neg m e).1 : ℚ) ≠ (FVal.fin neg m e).rat) := by
  obtain ⟨n, hn⟩ : ∃ n, (quantise .ne neg m e 0).1 = n := ⟨_, rfl⟩
  have hround : roundInt .ne neg m e = (if neg then -(n : Int) else n, (quantise .ne neg m e 0).2) := by rw [← hn]; rfl
  have hnear : IsNearest n ((m : ℚ) * 2 ^ e) := by simpa [hn] using quantise_ne neg m e 0
  have hinexact : (quantise .ne neg m e 0).2 = true ↔ (n : ℚ) ≠ m * 2 ^ e := by simpa [hn] using quantise_inexact .ne neg m e 0
  rw [hround, rat_fin]
  cases neg with
  | false =>
    simp only [Bool.false_eq_true, if_false, one_mul, Int.cast_natCast]
    exact ⟨⟨hnear.1, fun h => by have := hnear.2 h; omega⟩, hinexact⟩
  | true =>
    simp only [if_true, neg_one_mul, Int.cast_neg, Int.cast_natCast, ne_eq, neg_inj]
    have habs : |(-(n : ℚ)) - -((m : ℚ) * 2 ^ e)| = |(n : ℚ) - m * 2 ^ e| := by rw [neg_sub_neg, abs_sub_comm]
    refine ⟨⟨habs ▸ hnear.1, fun h => ?_⟩, hinexact⟩
    have := hnear.2 (habs ▸ by exact_mod_cast h)
    omega

/-- An integer less than half away is the nearest. -/
theorem isIntegral.eq_of_near {x : ℚ} {n k : Int} (h : isIntegral .ne x n) (hk : |(k : ℚ) - x| < 1 / 2) : n = k := by
  have hlt : |(n : ℚ) - k| < 1 := by
    calc |(n : ℚ) - k| ≤ |(n : ℚ) - x| + |(k : ℚ) - x| := by rw [abs_sub_comm (k : ℚ)]; exact abs_sub_le _ _ _
      _ < 1 := by linarith [h.1]
  have : |n - k| < 1 := by exact_mod_cast hlt
  rw [abs_lt] at this
  omega

/-! ### CutToT -/

/-- Terms that descend without neighbours from below position p sum to less than a third of 2^p. -/
theorem termSum_tail_lt {p : Nat} {l : List (Nat × Bool)} (hl : l.Pairwise (fun a b => b.1 + 2 ≤ a.1)) (hp : ∀ d ∈ l, d.1 + 2 ≤ p) :
    3 * |termSum l| < 2 ^ p := by
  induction l generalizing p with
  | nil => simp
  | cons d l ih =>
    obtain ⟨hd, hl⟩ := List.pairwise_cons.mp hl
    have hrest := ih hl hd
    have hhead : |(if d.2 then (-1 : Int) else 1) * 2 ^ d.1| = 2 ^ d.1 := by cases d.2 <;> simp
    have habs := abs_add_le ((if d.2 then (-1 : Int) else 1) * 2 ^ d.1) (termSum l)
    have hpow : (2 : Int) ^ (d.1 + 2) ≤ 2 ^ p := pow_le_pow_right₀ one_le_two (hp d List.mem_cons_self)
    rw [pow_add] at hpow
    rw [termSum_cons]
    rw [hhead] at habs
    linarith

/-- The nearest multiple of 2^p, when the difference is less than half of it. -/
theorem cutAt_eq {q h : Int} {p : Nat} (hdvd : (2 : Int) ^ p ∣ h) (hlt : 2 * |q - h| < 2 ^ p) : cutAt q p = h := by
  obtain ⟨k, rfl⟩ := hdvd
  have hpos : (0 : ℚ) < 2 ^ p := by positivity
  have hrat : (FVal.fin (decide (q < 0)) q.natAbs (-(p : Int))).rat = (q : ℚ) / 2 ^ p := by
    have hsign : (if decide (q < 0) = true then (-1 : ℚ) else 1) * (q.natAbs : ℚ) = q := by
      rw [Nat.cast_natAbs]
      by_cases h : q < 0
      · simp [h, abs_of_neg h]
      · simp [h, abs_of_nonneg (not_lt.mp h)]
    rw [FVal.rat, hsign, zpow_neg, zpow_natCast, div_eq_mul_inv]
  have hnear := (roundInt_ne (decide (q < 0)) q.natAbs (-(p : Int))).1
  rw [hrat] at hnear
  rw [cutAt, hnear.eq_of_near (k := k)]
  · push_cast
    ring
  · have hlt' : 2 * |(q : ℚ) - 2 ^ p * k| < 2 ^ p := by exact_mod_cast hlt
    have : |(k : ℚ) - q / 2 ^ p| * 2 ^ p = |(q : ℚ) - 2 ^ p * k| := by
      rw [abs_sub_comm, ← abs_of_pos hpos, ← abs_mul, abs_of_pos hpos, sub_mul, div_mul_cancel₀ _ hpos.ne', mul_comm (k : ℚ)]
    refine lt_of_mul_lt_mul_right ?_ hpos.le
    rw [this]
    linarith

section
variable {l : List (Nat × Bool)} (hl : l.Pairwise (fun a b => b.1 + 2 ≤ a.1)) {i : Nat} (hi : i < l.length)
include hl

/-- The terms up to one of a NAF are at or above its position. -/
theorem le_of_mem_take : ∀ d ∈ l.take (i + 1), l[i].1 ≤ d.1 := by
  intro d hd
  obtain ⟨j, hj, rfl⟩ := List.mem_iff_getElem.mp hd
  rw [List.length_take] at hj
  rw [List.getElem_take]
  rcases (show j ≤ i by omega).eq_or_lt with rfl | hlt
  · rfl
  · have := List.pairwise_iff_getElem.mp hl j i (by omega) hi hlt
    omega

/-- The terms past one of a NAF are two positions or more below it. -/
theorem le_of_mem_drop : ∀ d ∈ l.drop (i + 1), d.1 + 2 ≤ l[i].1 := by
  intro d hd
  obtain ⟨j, hj, rfl⟩ := List.mem_iff_getElem.mp hd
  rw [List.length_drop] at hj
  rw [List.getElem_drop]
  exact List.pairwise_iff_getElem.mp hl i (i + 1 + j) hi (by omega) (by omega)

end

/-- The leading terms of a NAF are the NAF of their sum. -/
theorem naf_take {q : Int} (hq : |q| ≤ 2 ^ 15) (cap : Nat) : naf (termSum ((naf q).take cap)) = (naf q).take cap := by
  have hdesc := (naf_descends q).sublist (List.take_sublist cap _)
  have hbound := termSum_tail_lt (p := 17) hdesc fun d hd => by
    have := naf_position (by decide) hq d (List.mem_of_mem_take hd)
    omega
  exact naf_unique (f := 17) (by decide) (by linarith [abs_nonneg (termSum ((naf q).take cap))]) ⟨rfl, hdesc⟩

/-- CutToT keeps the leading terms of a NAF (R120): the terms cut sum to less than half of the last one kept. -/
theorem cutToT_eq {q : Int} {cap : Nat} (hq : |q| ≤ 2 ^ 15) (hcap : 1 ≤ cap) : cutToT q cap = termSum ((naf q).take cap) := by
  obtain ⟨i, rfl⟩ : ∃ i, cap = i + 1 := ⟨cap - 1, by omega⟩
  have hsum := naf_value (by decide) hq
  rw [cutToT]
  split
  next h => rw [List.take_of_length_le h, hsum]
  next h =>
    have hi : i < (naf q).length := by omega
    have hdesc := naf_descends q
    have hlast : (naf q).getD (i + 1 - 1) (0, false) = (naf q)[i] := List.getD_eq_getElem _ _ hi
    have hsplit : q - termSum ((naf q).take (i + 1)) = termSum ((naf q).drop (i + 1)) := by
      have := termSum_append ((naf q).take (i + 1)) ((naf q).drop (i + 1))
      rw [List.take_append_drop, hsum] at this
      omega
    have hsmall := termSum_tail_lt (hdesc.sublist (List.drop_sublist (i + 1) _)) (le_of_mem_drop hdesc hi)
    have hcut : cutAt q (naf q)[i].1 = termSum ((naf q).take (i + 1)) := cutAt_eq (pow_dvd_termSum (le_of_mem_take hdesc hi)) (by
      rw [hsplit]
      linarith [abs_nonneg (termSum ((naf q).drop (i + 1)))])
    rw [hlast, cutFrom, hcut, naf_take hq]
    exact if_pos (by rw [List.length_take]; exact Nat.min_le_left _ _)

end Sys2Proof.Machine

/-! ## EncodeRow (R118, R120, R143) -/

namespace Sys2Proof.Machine

/-! ### Finite values in order -/

theorem FVal.exists_of_isFin {x : FVal} (h : x.isFin = true) : ∃ neg m e, x = .fin neg m e := by
  cases x with
  | fin neg m e => exact ⟨neg, m, e, rfl⟩
  | nan s | inf s => cases h

theorem anySpecial_eq (xs : List FVal) : anySpecial xs = xs.any (fun x => !x.isFin) := by
  rw [anySpecial]
  congr 1
  funext x
  cases x <;> rfl

theorem FVal.rat_abs {x : FVal} (h : x.isFin = true) : x.abs.rat = |x.rat| := by
  obtain ⟨neg, m, e, rfl⟩ := FVal.exists_of_isFin h
  rw [FVal.abs, rat_fin, rat_fin, abs_mul, abs_of_nonneg (show (0 : ℚ) ≤ m * 2 ^ e by positivity)]
  cases neg <;> simp

theorem scaled_eq (neg : Bool) (m : Nat) {e q : Int} (h : q ≤ e) : (scaled neg m e q : ℚ) * 2 ^ q = (FVal.fin neg m e).rat := by
  have hval : ((m * 2 ^ (e - q).toNat : Nat) : ℚ) * 2 ^ q = m * 2 ^ e := by
    rw [Nat.cast_mul, Nat.cast_pow, Nat.cast_two, ← zpow_natCast, Int.toNat_of_nonneg (by omega), mul_assoc, ← zpow_add₀ two_ne_zero,
      sub_add_cancel]
  rw [rat_fin, ← hval, scaled]
  cases neg <;> simp

theorem ltVal_fin (na nb : Bool) (ma mb : Nat) (ea eb : Int) :
    ltVal (.fin na ma ea) (.fin nb mb eb) = true ↔ (FVal.fin na ma ea).rat < (FVal.fin nb mb eb).rat := by
  have hpos : (0 : ℚ) < 2 ^ min ea eb := by positivity
  rw [← scaled_eq na ma (min_le_left ea eb), ← scaled_eq nb mb (min_le_right ea eb), mul_lt_mul_iff_left₀ hpos, Int.cast_lt]
  exact decide_eq_true_iff

/-- The greatest magnitude of finite values: none is greater, and it is 0 or the magnitude of one of them. -/
theorem maxAbs_spec {xs : List FVal} (h : ∀ x ∈ xs, x.isFin = true) :
    ∃ m e, maxAbs xs = .fin false m e ∧ (∀ x ∈ xs, |x.rat| ≤ m * 2 ^ e) ∧ (m = 0 ∨ ∃ x ∈ xs, |x.rat| = m * 2 ^ e) := by
  have hfold : ∀ (l : List FVal) (k : Nat) (p : Int), (∀ x ∈ l, x.isFin = true) → ∃ m e,
      l.foldl (fun a x => if ltVal a x.abs then x.abs else a) (.fin false k p) = .fin false m e ∧ (k : ℚ) * 2 ^ p ≤ m * 2 ^ e ∧
      (∀ x ∈ l, |x.rat| ≤ m * 2 ^ e) ∧ ((m = k ∧ e = p) ∨ ∃ x ∈ l, |x.rat| = m * 2 ^ e) := by
    intro l
    induction l with
    | nil => exact fun k p _ => ⟨k, p, rfl, le_rfl, by simp, .inl ⟨rfl, rfl⟩⟩
    | cons x l ih =>
      intro k p hl
      obtain ⟨neg, j, r, rfl⟩ := FVal.exists_of_isFin (hl _ List.mem_cons_self)
      have hx : |(FVal.fin neg j r).rat| = j * 2 ^ r := by rw [← FVal.rat_abs rfl]; simp [FVal.abs, FVal.rat]
      have hstep : (if ltVal (.fin false k p) (FVal.fin neg j r).abs then (FVal.fin neg j r).abs else .fin false k p) =
          if (k : ℚ) * 2 ^ p < j * 2 ^ r then .fin false j r else .fin false k p := by
        simp only [FVal.abs, ltVal_fin, rat_fin, Bool.false_eq_true, if_false, one_mul]
      rw [List.foldl_cons, hstep]
      have hl' : ∀ y ∈ l, y.isFin = true := fun y hy => hl y (List.mem_cons_of_mem _ hy)
      split
      next hlt =>
        obtain ⟨m, e, heq, hle, hall, hone⟩ := ih j r hl'
        refine ⟨m, e, heq, hlt.le.trans hle, ?_, .inr ?_⟩
        · exact List.forall_mem_cons.mpr ⟨hx.trans_le hle, hall⟩
        · rcases hone with ⟨rfl, rfl⟩ | ⟨y, hy, hval⟩
          · exact ⟨_, List.mem_cons_self, hx⟩
          · exact ⟨y, List.mem_cons_of_mem _ hy, hval⟩
      next hlt =>
        obtain ⟨m, e, heq, hle, hall, hone⟩ := ih k p hl'
        refine ⟨m, e, heq, hle, ?_, ?_⟩
        · exact List.forall_mem_cons.mpr ⟨hx.trans_le ((not_lt.mp hlt).trans hle), hall⟩
        · exact hone.imp_right fun ⟨y, hy, hval⟩ => ⟨y, List.mem_cons_of_mem _ hy, hval⟩
  obtain ⟨m, e, heq, -, hall, hone⟩ := hfold xs 0 0 h
  exact ⟨m, e, heq, hall, hone.imp_left And.left⟩

/-! ### The scale's exponent -/

/-- The least exponent at which a magnitude fits under `top` codes. -/
theorem leastExp_spec {top m : Nat} (htop : 0 < top) (hm : 0 < m) (e : Int) :
    (m : ℚ) * 2 ^ e ≤ top * 2 ^ leastExp top m e ∧ (top : ℚ) * 2 ^ (leastExp top m e - 1) < m * 2 ^ e := by
  obtain ⟨l, hl⟩ : ∃ l, Nat.log2 top = l := ⟨_, rfl⟩
  obtain ⟨k, hk⟩ : ∃ k, Nat.log2 m = k := ⟨_, rfl⟩
  have hlo : (2 : ℚ) ^ l ≤ top ∧ (2 : ℚ) ^ k ≤ m := by
    subst hl hk
    exact ⟨by exact_mod_cast Nat.log2_self_le htop.ne', by exact_mod_cast Nat.log2_self_le hm.ne'⟩
  have hhi : (top : ℚ) < 2 * 2 ^ l ∧ (m : ℚ) < 2 * 2 ^ k := by
    subst hl hk
    rw [← pow_succ', ← pow_succ']
    exact ⟨by exact_mod_cast Nat.lt_log2_self, by exact_mod_cast Nat.lt_log2_self⟩
  have hL : (0 : ℚ) < 2 ^ l := by positivity
  have hK : (0 : ℚ) < 2 ^ k := by positivity
  -- Both sides in units of 2^e over the powers below the two numbers.
  have hscale : ∀ (a : ℚ) (d : Int), a * 2 ^ (e + k - l + d) = a * 2 ^ d * 2 ^ k / 2 ^ l * 2 ^ e := by
    intro a d
    rw [zpow_add₀ two_ne_zero, zpow_sub₀ two_ne_zero, zpow_add₀ two_ne_zero, zpow_natCast, zpow_natCast]
    ring
  have hle : ∀ a b : ℚ, (a ≤ b * 2 ^ k / 2 ^ l ↔ a * 2 ^ l ≤ b * 2 ^ k) ∧ (b * 2 ^ k / 2 ^ l < a ↔ b * 2 ^ k < a * 2 ^ l) :=
    fun a b => ⟨le_div_iff₀ hL, div_lt_iff₀ hL⟩
  have he : (0 : ℚ) < 2 ^ e := by positivity
  rw [leastExp]
  simp only [hl, hk]
  split
  next h =>
    have h' : (m : ℚ) * 2 ^ l ≤ top * 2 ^ k := by exact_mod_cast h
    have h0 := hscale top 0
    rw [add_zero, zpow_zero, mul_one] at h0
    rw [h0, sub_eq_add_neg _ (1 : Int), hscale, mul_le_mul_iff_left₀ he, mul_lt_mul_iff_left₀ he, (hle _ _).1, (hle _ _).2]
    refine ⟨h', ?_⟩
    rw [zpow_neg_one]
    nlinarith [hlo.1, hlo.2, hhi.1, hhi.2]
  next h =>
    have h' : (top : ℚ) * 2 ^ k < m * 2 ^ l := by exact_mod_cast not_le.mp h
    have h0 := hscale top 0
    rw [add_zero, zpow_zero, mul_one] at h0
    rw [add_sub_cancel_right, h0, hscale, mul_le_mul_iff_left₀ he, mul_lt_mul_iff_left₀ he, (hle _ _).1, (hle _ _).2]
    refine ⟨?_, h'⟩
    rw [zpow_one]
    nlinarith [hlo.1, hlo.2, hhi.1, hhi.2]

theorem exp_lt_of_mul_lt {top : Nat} {a b : Int} (h : (top : ℚ) * 2 ^ a < top * 2 ^ b) : a < b :=
  (zpow_lt_zpow_iff_right₀ one_lt_two).mp (lt_of_mul_lt_mul_left h (Nat.cast_nonneg top))

/-- The exponent of R118 is the least one at which the greatest magnitude fits, but not below -126. -/
theorem isScaleExp.eq {top m : Nat} {e n : Int} {xs : List FVal} (htop : 0 < top) (hm : 0 < m) (hall : ∀ x ∈ xs, |x.rat| ≤ m * 2 ^ e)
    (hone : ∃ x ∈ xs, |x.rat| = m * 2 ^ e) (h : isScaleExp top xs n) : n = max (leastExp top m e) (-126) := by
  obtain ⟨hlow, hfit, hleast⟩ := h
  obtain ⟨hfits, hover⟩ := leastExp_spec htop hm e
  obtain ⟨x, hx, hval⟩ := hone
  have hge : leastExp top m e - 1 < n := exp_lt_of_mul_lt (hover.trans_le (hval.symm.trans_le (hfit x hx)))
  rcases hleast with rfl | ⟨y, hy, hlt⟩
  · omega
  · have hle : n - 1 < leastExp top m e := exp_lt_of_mul_lt (hlt.trans_le ((hall y hy).trans hfits))
    omega

/-! ### One element -/

/-- A value divided by a scale. -/
theorem rat_sub_exp (neg : Bool) (m : Nat) (e n : Int) : (FVal.fin neg m (e - n)).rat = (FVal.fin neg m e).rat / 2 ^ n := by
  rw [rat_fin, rat_fin, zpow_sub₀ two_ne_zero]
  ring

/-- An encoded element is the nearest integer cut to the cap; NX says that it is not the element (R118, R143). -/
theorem encodeElem_spec (cap : Nat) (n : Int) {x : FVal} (hx : x.isFin = true) :
    ∃ (k : Int) (inexact : Bool), isIntegral .ne (x.rat / 2 ^ n) k ∧
      encodeElem cap n x = (cutToT k cap, if inexact then Flags.nx else 0#5) ∧
      (inexact = false ↔ ((cutToT k cap : Int) : ℚ) * 2 ^ n = x.rat) := by
  obtain ⟨neg, m, e, rfl⟩ := FVal.exists_of_isFin hx
  obtain ⟨hnear, hinexact⟩ := roundInt_ne neg m (e - n)
  rw [rat_sub_exp] at hnear hinexact
  obtain ⟨r, hr⟩ : ∃ r, roundInt .ne neg m (e - n) = r := ⟨_, rfl⟩
  rw [hr] at hnear hinexact
  refine ⟨r.1, r.2 || cutToT r.1 cap != r.1, hnear, by rw [← hr]; rfl, ?_⟩
  have hpos : (2 : ℚ) ^ n ≠ 0 := by positivity
  rw [← eq_div_iff hpos, Bool.or_eq_false_iff, bne_eq_false_iff_eq, ← Bool.not_eq_true, hinexact, not_not]
  constructor
  · rintro ⟨hexact, hcut⟩
    rw [hcut, hexact]
  · intro h
    have : r.1 = cutToT r.1 cap := hnear.eq_of_near (by rw [h]; simp)
    exact ⟨by rw [this, h], this.symm⟩

/-- The nearest integer of a number does not pass an integer that the number does not pass. -/
theorem isIntegral.magnitude_le {x : ℚ} {k : Int} {top : Nat} (h : isIntegral .ne x k) (hx : |x| ≤ top) : |k| ≤ top := by
  obtain ⟨hlo, hhi⟩ := abs_le.mp h.1
  obtain ⟨hxlo, hxhi⟩ := abs_le.mp hx
  have hless : k < (top : Int) + 1 := by exact_mod_cast (show (k : ℚ) < top + 1 by linarith)
  have hmore : -(top : Int) - 1 < k := by exact_mod_cast (show -(top : ℚ) - 1 < k by linarith)
  exact abs_le.mpr ⟨by omega, by omega⟩

/-- Flags of several elements ORed, each NX or none. -/
theorem foldl_or_nx {α : Type} (b : α → Bool) (l : List α) :
    (l.map (fun x => if b x then Flags.nx else 0#5)).foldl (· ||| ·) 0#5 = if l.any b then Flags.nx else 0#5 := by
  have hfold : ∀ (l : List α) (c : Bool), (l.map (fun x => if b x then Flags.nx else 0#5)).foldl (· ||| ·) (if c then Flags.nx else 0#5) =
      if c || l.any b then Flags.nx else 0#5 := by
    intro l
    induction l with
    | nil => simp
    | cons x l ih =>
      intro c
      have hor : (if c then Flags.nx else 0#5) ||| (if b x then Flags.nx else 0#5) = if c || b x then Flags.nx else 0#5 := by
        cases c <;> cases b x <;> rfl
      rw [List.map_cons, List.foldl_cons, hor, ih, List.any_cons, Bool.or_assoc]
  simpa using hfold l false

/-! ### A row -/

/-- The elements of a row encoded at the scale 2^n, none of them above its codes. -/
theorem encodeElems_spec {xs : List FVal} (cap : Nat) {n : Int} (hxs : ∀ x ∈ xs, x.isFin = true) (hfit : ∀ x ∈ xs, |x.rat| ≤ 32767 * 2 ^ n) :
    let q := (xs.map (encodeElem cap n)).map (fun r => r.1)
    let flags := ((xs.map (encodeElem cap n)).map (fun r => r.2)).foldl (· ||| ·) 0#5
    (∀ i, i < xs.length → ∃ k : Int, isIntegral .ne ((xs.getD i (.fin false 0 0)).rat / (2 : ℚ) ^ n) k ∧ |k| ≤ 32767 ∧
      q.getD i 0 = cutToT k cap) ∧
    (flags = 0#5 ∨ flags = Flags.nx) ∧
    (flags = 0#5 ↔ ∀ i, i < xs.length → ((q.getD i 0 : Int) : ℚ) * (2 : ℚ) ^ n = (xs.getD i (.fin false 0 0)).rat) := by
  intro q flags
  have hq : ∀ i (hi : i < xs.length), q.getD i 0 = (encodeElem cap n xs[i]).1 := fun i hi => by
    simp [q, List.getD_eq_getElem?_getD, hi]
  have hx : ∀ i (hi : i < xs.length), xs.getD i (.fin false 0 0) = xs[i] := fun i hi => List.getD_eq_getElem _ _ hi
  have hflags : flags = if xs.any (fun x => (encodeElem cap n x).2 == Flags.nx) then Flags.nx else 0#5 := by
    rw [← foldl_or_nx]
    simp only [flags, List.map_map]
    congr 1
    refine List.map_congr_left fun x hx => ?_
    obtain ⟨k, inexact, -, henc, -⟩ := encodeElem_spec cap n (hxs x hx)
    rw [Function.comp_apply, henc]
    cases inexact <;> rfl
  refine ⟨fun i hi => ?_, ?_, ?_⟩
  · obtain ⟨k, inexact, hk, henc, -⟩ := encodeElem_spec cap n (hxs _ (List.getElem_mem hi))
    rw [hx i hi, hq i hi, henc]
    refine ⟨k, hk, hk.magnitude_le (top := 32767) ?_, rfl⟩
    have hpos : (0 : ℚ) < 2 ^ n := by positivity
    rw [abs_div, abs_of_pos hpos, div_le_iff₀ hpos]
    exact_mod_cast hfit _ (List.getElem_mem hi)
  · rw [hflags]
    split
    next => exact .inr rfl
    next => exact .inl rfl
  · have hzero : flags = 0#5 ↔ ∀ x ∈ xs, (encodeElem cap n x).2 ≠ Flags.nx := by
      rw [hflags]
      split
      next h => simpa [Flags.nx] using h
      next h => simpa [Flags.nx] using h
    rw [hzero, List.forall_mem_iff_getElem]
    refine forall₂_congr fun i hi => ?_
    obtain ⟨k, inexact, -, henc, hexact⟩ := encodeElem_spec cap n (hxs _ (List.getElem_mem hi))
    rw [hx i hi, hq i hi, henc, ← hexact]
    cases inexact <;> simp [Flags.nx]

/-- What EncodeRow gives is what R118 says of it. -/
theorem encodesRow_encodeRow (xs : List FVal) (cap : Nat) : encodesRow xs cap (encodeRow xs cap) := by
  have hzeros : xs.map (fun _ => (0 : Int)) = List.replicate xs.length 0 := List.map_const'
  refine ⟨fun hany => ?_, fun hfin hzero => ?_, fun hfin hone n hn => ?_⟩
  · simp [encodeRow, anySpecial_eq, hany, nanScale, hzeros]
  · obtain ⟨m, e, hmax, -, hval⟩ := maxAbs_spec hfin
    have hm : m = 0 := hval.elim id fun ⟨x, hx, h⟩ => by
      rw [hzero x hx, abs_zero, zero_eq_mul] at h
      exact_mod_cast h.resolve_right (by positivity)
    have hnone : anySpecial xs = false := by simpa [anySpecial_eq] using hfin
    simp [encodeRow, hnone, hmax, hm, hzeros]
  · obtain ⟨m, e, hmax, hall, hval⟩ := maxAbs_spec hfin
    have hnone : anySpecial xs = false := by simpa [anySpecial_eq] using hfin
    have hm : m ≠ 0 := by
      rintro rfl
      obtain ⟨x, hx, hne⟩ := hone
      exact hne (by simpa using hall x hx)
    have hexp := hn.eq (by decide) (Nat.pos_of_ne_zero hm) hall (hval.resolve_left hm)
    refine ⟨fun hover => ?_, fun hin => ?_⟩
    · simp [encodeRow, hnone, hmax, hm, ← hexp, hover, nanScale, hzeros]
    · have henc : encodeRow xs cap = ⟨powScale n, (xs.map (encodeElem cap n)).map (fun r => r.1),
          ((xs.map (encodeElem cap n)).map (fun r => r.2)).foldl (· ||| ·) 0#5⟩ := by
        simp only [encodeRow, hnone, hmax, if_neg hm, ← hexp, if_neg (not_lt.mpr hin), Bool.false_eq_true, if_false]
        rfl
      rw [henc]
      exact ⟨rfl, by simp, encodeElems_spec cap hfin hn.2.1⟩

end Sys2Proof.Machine

/-! ## The bytes of a row (R73, R76) -/

namespace Sys2Proof.Machine

/-! ### Little-endian bytes -/

@[simp] theorem length_leBytes (n x : Nat) : (leBytes n x).length = n := by
  induction n generalizing x with
  | zero => rfl
  | succ n ih => simp [leBytes, ih]

theorem leNat_leBytes {n x : Nat} (h : x < 256 ^ n) : leNat (leBytes n x) = x := by
  induction n generalizing x with
  | zero =>
    rw [pow_zero, Nat.lt_one_iff] at h
    rw [h]
    rfl
  | succ n ih =>
    have hdiv : x / 256 < 256 ^ n := Nat.div_lt_of_lt_mul (by rwa [pow_succ'] at h)
    simp only [leBytes, leNat, ih hdiv, BitVec.toNat_ofNat]
    omega

theorem b2n_le_one (b : Bool) : b2n b ≤ 1 := by cases b <;> decide

/-! ### Terms -/

theorem termByte_fields {p : Nat} (hp : p < 16) (neg last : Bool) :
    let b := (BitVec.ofNat 8 (p + 64 * b2n neg + 128 * b2n last)).toNat
    bits b 0 4 = p ∧ bits b 4 2 = 0 ∧ bit b 6 = neg ∧ bit b 7 = last := by
  intro b
  have hb : b = p + 64 * b2n neg + 128 * b2n last := by
    have hneg := b2n_le_one neg
    have hlast := b2n_le_one last
    simp only [b, BitVec.toNat_ofNat]
    omega
  rw [hb]
  refine ⟨?_, ?_, ?_, ?_⟩ <;> cases neg <;> cases last <;> simp [bits, bit, b2n] <;> omega

theorem termBytes_cons (p : Nat) (neg : Bool) (l : List (Nat × Bool)) :
    termBytes ((p, neg) :: l) = BitVec.ofNat 8 (p + 64 * b2n neg + 128 * b2n l.isEmpty) :: termBytes l := by
  cases l <;> simp [termBytes, b2n]

@[simp] theorem length_termBytes (l : List (Nat × Bool)) : (termBytes l).length = l.length := by
  induction l with
  | nil => rfl
  | cons d l ih => rw [termBytes_cons, List.length_cons, ih, List.length_cons]

/-- The bytes of terms that descend read back as their sum and their number (R73, R76). -/
theorem readTerms_termBytes {fuel top : Nat} {l : List (Nat × Bool)} (rest : List Byte) (hne : l ≠ []) (hlen : l.length ≤ fuel)
    (htop : top ≤ 16) (hdesc : l.Pairwise (fun a b => b.1 + 2 ≤ a.1)) (hlow : ∀ d ∈ l, d.1 < top) :
    readTerms fuel top (termBytes l ++ rest) = some (termSum l, l.length, rest) := by
  induction l generalizing fuel top with
  | nil => exact absurd rfl hne
  | cons d l ih =>
    obtain ⟨p, neg⟩ := d
    obtain ⟨fuel, rfl⟩ := Nat.exists_eq_succ_of_ne_zero (show fuel ≠ 0 by simp at hlen; omega)
    have hp : p < top := hlow _ List.mem_cons_self
    obtain ⟨hpos, hzero, hsign, hlast⟩ := termByte_fields (hp.trans_le htop) neg l.isEmpty
    obtain ⟨hbelow, hdesc⟩ := List.pairwise_cons.mp hdesc
    have hval : (if neg then -((2 ^ p : Nat) : Int) else ((2 ^ p : Nat) : Int)) = (if neg then -1 else 1) * 2 ^ p := by cases neg <;> simp
    simp only [termBytes_cons, List.cons_append, readTerms, hpos, hzero, hsign, hlast, bne_self_eq_false, Bool.false_or,
      decide_eq_true_eq, not_le.mpr hp, if_false, hval, termSum_cons, List.length_cons]
    cases l with
    | nil => simp [termBytes]
    | cons e l =>
      rw [ih (by simp) (by simpa using hlen) (hp.le.trans htop) hdesc fun d hd => by have := hbelow d hd; omega]
      simp

/-! ### Elements -/

/-- An element that a row with a cap may hold. -/
def Holds (cap : Nat) (q : Int) : Prop := |q| ≤ 2 ^ 15 ∧ (naf q).length ≤ cap

/-- An element as a row is read: its value and the number of its terms. -/
def counted (q : Int) : Int × Nat := (q, (naf q).length)

theorem readTerms_naf {cap : Nat} {q : Int} (rest : List Byte) (hq : Holds cap q) (hne : q ≠ 0) :
    readTerms cap 16 (termBytes (naf q) ++ rest) = some (q, (naf q).length, rest) := by
  have hnil : naf q ≠ [] := fun h => hne (by rw [← naf_value (by decide) hq.1, h, termSum_nil])
  rw [readTerms_termBytes rest hnil hq.2 le_rfl (naf_descends q) fun d hd => Nat.lt_succ_of_le (naf_position (by decide) hq.1 d hd),
    naf_value (by decide) hq.1]

theorem readElems_flatMap {cap : Nat} {qs : List Int} (rest : List Byte) (hqs : ∀ q ∈ qs, Holds cap q) :
    readElems cap qs.length (maskOf qs) (qs.flatMap (fun q => termBytes (naf q)) ++ rest) = some (qs.map counted, rest) := by
  induction qs with
  | nil => rfl
  | cons q qs ih =>
    have ih := ih fun q hq => hqs q (List.mem_cons_of_mem _ hq)
    have hdiv : maskOf (q :: qs) / 2 = maskOf qs := by
      have := b2n_le_one (q != 0)
      rw [maskOf]
      omega
    by_cases hq : q = 0
    · subst hq
      have hmod : ¬ maskOf (0 :: qs) % 2 = 1 := by simp [maskOf, b2n]
      have hnaf : naf 0 = [] := rfl
      rw [List.length_cons, readElems, if_neg hmod, hdiv, List.flatMap_cons, hnaf, termBytes, List.nil_append, ih]
      simp [counted, hnaf]
    · have hmod : maskOf (q :: qs) % 2 = 1 := by simp [maskOf, b2n, hq]
      rw [List.length_cons, readElems, if_pos hmod, hdiv, List.flatMap_cons, List.append_assoc,
        readTerms_naf _ (hqs q List.mem_cons_self) hq]
      simp [ih, counted]

/-! ### Blocks -/

theorem maskOf_lt (qs : List Int) : maskOf qs < 2 ^ qs.length := by
  induction qs with
  | nil => decide
  | cons q qs ih =>
    have := b2n_le_one (q != 0)
    rw [maskOf, List.length_cons, pow_succ]
    omega

theorem maskOf_zeros {qs : List Int} (h : ∀ q ∈ qs, q = 0) : maskOf qs = 0 := by
  induction qs with
  | nil => rfl
  | cons q qs ih =>
    rw [maskOf, h q List.mem_cons_self, ih fun q hq => h q (List.mem_cons_of_mem _ hq)]
    rfl

theorem readBlocks_blockBytes {cap n : Nat} {bare : Bool} {qs : List Int} (hn : n = (qs.length + 31) / 32) (hqs : ∀ q ∈ qs, Holds cap q)
    (hbare : bare = true → ∀ q ∈ qs, q = 0) : readBlocks cap bare n qs.length (blockBytes n qs) = some (qs.map counted) := by
  induction n generalizing qs with
  | zero =>
    obtain rfl : qs = [] := List.length_eq_zero_iff.mp (by omega)
    rfl
  | succ n ih =>
    have hblock : (qs.take 32).length = min qs.length 32 := by rw [List.length_take, Nat.min_comm]
    have hmask : maskOf (qs.take 32) < 256 ^ 4 :=
      (maskOf_lt _).trans_le (Nat.pow_le_pow_right two_pos (hblock.trans_le (Nat.min_le_right _ _)))
    have hread : leNat ((blockBytes (n + 1) qs).take 4) = maskOf (qs.take 32) := by
      rw [blockBytes, List.append_assoc, List.take_append_of_le_length (by simp), List.take_of_length_le (by simp), leNat_leBytes hmask]
    have hdrop : (blockBytes (n + 1) qs).drop 4 = (qs.take 32).flatMap (fun q => termBytes (naf q)) ++ blockBytes n (qs.drop 32) := by
      rw [blockBytes, List.append_assoc, List.drop_append_of_le_length (by simp), List.drop_of_length_le (by simp), List.nil_append]
    have hlong : ¬ (blockBytes (n + 1) qs).length < 4 := by simp [blockBytes]
    have hempty : (bare && maskOf (qs.take 32) != 0) = false := by
      cases bare with
      | false => rfl
      | true => rw [maskOf_zeros fun q hq => hbare rfl q (List.mem_of_mem_take hq)]; rfl
    have ih := ih (qs := qs.drop 32) (by rw [List.length_drop]; omega) (fun q hq => hqs q (List.mem_of_mem_drop hq))
      (fun h q hq => hbare h q (List.mem_of_mem_drop hq))
    rw [List.length_drop] at ih
    rw [readBlocks, hread, hdrop, hempty, decide_eq_false hlong, Bool.or_self, ← hblock,
      readElems_flatMap _ fun q hq => hqs q (List.mem_of_mem_take hq)]
    simp only [Bool.false_eq_true, if_false, Option.bind_some, ih, Option.map_some]
    rw [← List.map_append, List.take_append_drop]

theorem length_blockBytes_le {cap n : Nat} {qs : List Int} (hqs : ∀ q ∈ qs, (naf q).length ≤ cap) :
    (blockBytes n qs).length ≤ 4 * n + qs.length * cap := by
  have hterms : ∀ l : List Int, (∀ q ∈ l, (naf q).length ≤ cap) → (l.flatMap (fun q => termBytes (naf q))).length ≤ l.length * cap := by
    intro l hl
    rw [List.length_flatMap]
    refine (List.sum_le_card_nsmul _ cap ?_).trans (by simp)
    simpa using hl
  induction n generalizing qs with
  | zero => simp [blockBytes]
  | succ n ih =>
    have hhead := hterms (qs.take 32) fun q hq => hqs q (List.mem_of_mem_take hq)
    have htail := ih (qs := qs.drop 32) fun q hq => hqs q (List.mem_of_mem_drop hq)
    have hlen : (qs.take 32).length * cap + (qs.drop 32).length * cap = qs.length * cap := by
      rw [← Nat.add_mul, ← List.length_append, List.take_append_drop]
    simp only [blockBytes, List.length_append, length_leBytes]
    omega

/-! ### Rows -/

/-- The header of a row (R73). -/
def headBytes (scale t k plen : Nat) : List Byte := leBytes 3 scale ++ leBytes 1 t ++ leBytes 4 k ++ leBytes 4 plen ++ leBytes 4 0

theorem rowHead_headBytes {scale t k plen : Nat} (hs : scale < 2 ^ 24) (ht : t < 2 ^ 8) (hk : k < 2 ^ 32) (hp : plen < 2 ^ 32) :
    rowHead (headBytes scale t k plen) = { scale := scale, t := t, k := k, plen := plen, rest := 0 } := by
  have hfields : rowHead (headBytes scale t k plen) =
      ⟨leNat (leBytes 3 scale), leNat (leBytes 1 t), leNat (leBytes 4 k), leNat (leBytes 4 plen), leNat (leBytes 4 0)⟩ := rfl
  rw [hfields, leNat_leBytes hs, leNat_leBytes ht, leNat_leBytes hk, leNat_leBytes hp, leNat_leBytes (by decide)]

@[simp] theorem length_headBytes (scale t k plen : Nat) : (headBytes scale t k plen).length = 16 := rfl

/-- The block data of a row (R73). -/
def Encoded.body (x : Encoded) : List Byte := blockBytes ((x.q.length + 31) / 32) x.q

theorem Encoded.bytes_eq (x : Encoded) (t : Nat) : x.bytes t =
    headBytes x.scale t x.q.length x.body.length ++ (x.body ++ List.replicate (pad16 x.body.length - x.body.length) 0) := by
  simp only [Encoded.bytes, headBytes, Encoded.body, List.append_assoc]

theorem le_pad16 (n : Nat) : n ≤ pad16 n := by
  rw [pad16]
  omega

@[simp] theorem Encoded.length_bytes (x : Encoded) (t : Nat) : (x.bytes t).length = 16 + pad16 x.body.length := by
  have := le_pad16 x.body.length
  rw [Encoded.bytes_eq]
  simp only [List.length_append, length_headBytes, List.length_replicate]
  omega

theorem Encoded.length_body_lt {x : Encoded} {cap : Nat} (hq : ∀ q ∈ x.q, (naf q).length ≤ cap) (h : worstRow x.q.length cap < 2 ^ 32) :
    x.body.length < 2 ^ 32 := by
  have hle : x.body.length ≤ 4 * ((x.q.length + 31) / 32) + x.q.length * cap := length_blockBytes_le hq
  have hpad := le_pad16 (4 * ((x.q.length + 31) / 32) + x.q.length * cap)
  rw [worstRow] at h
  omega

/-- A row's bytes hold its header and its block data, and read back as what was encoded (R73, R76). -/
theorem Encoded.bytes_read {x : Encoded} {cap : Nat} (h1 : 1 ≤ cap) (h8 : cap ≤ 8) (hne : x.q ≠ []) (hscale : x.scale < 2 ^ 24)
    (hk : x.q.length < 2 ^ 31) (hworst : worstRow x.q.length cap < 2 ^ 32) (hq : ∀ q ∈ x.q, |q| ≤ 32768 ∧ (naf q).length ≤ cap)
    (hnan : scaleIsNan x.scale = true → ∀ q ∈ x.q, q = 0) :
    let bs := x.bytes cap
    let h := rowHead (bs.take 16)
    h.scale = x.scale ∧ h.t = cap ∧ h.k = x.q.length ∧ h.rest = 0 ∧ h.good = true ∧ bs.length = 16 + pad16 h.plen ∧
      (∀ b ∈ bs.drop (16 + h.plen), b = 0) ∧
      readRow h ((bs.drop 16).take h.plen) = some { scale := x.scale, elems := x.q.map (fun q => (q, (naf q).length)) } := by
  intro bs h
  have hlen := x.length_body_lt (fun q hx => (hq q hx).2) hworst
  have htake : bs.take 16 = headBytes x.scale cap x.q.length x.body.length := by
    rw [show bs = _ from x.bytes_eq cap]
    exact List.take_left' (length_headBytes _ _ _ _)
  have hdrop : bs.drop 16 = x.body ++ List.replicate (pad16 x.body.length - x.body.length) 0 := by
    rw [show bs = _ from x.bytes_eq cap]
    exact List.drop_left' (length_headBytes _ _ _ _)
  have hh : h = { scale := x.scale, t := cap, k := x.q.length, plen := x.body.length, rest := 0 } := by
    rw [show h = _ from congrArg rowHead htake]
    exact rowHead_headBytes hscale (by omega) (by omega) hlen
  have hk0 : x.q.length ≠ 0 := by simpa using hne
  rw [hh]
  refine ⟨rfl, rfl, rfl, rfl, ?_, x.length_bytes cap, fun b hb => ?_, ?_⟩
  · simp [RowHead.good, h1, h8, hk0]
  · rw [← List.drop_drop, hdrop, List.drop_left] at hb
    exact List.eq_of_mem_replicate hb
  · rw [hdrop, List.take_left, readRow, Encoded.body, readBlocks_blockBytes rfl hq hnan]
    rfl

end Sys2Proof.Machine

/-! ## Where copy commands write (R150, R152 to R154, R216) -/

namespace Sys2Proof.Machine

/-! ### Reads one after another -/

theorem ERead.map_got {α β : Type} {f : α → β} {x : ERead α} {b : β} {ls : List (Nat × List Nat)} (h : x.map f = .got b ls) :
    ∃ a, x = .got a ls ∧ b = f a := by
  cases x with
  | stop e => cases h
  | got a l =>
    cases h
    exact ⟨a, rfl, rfl⟩

theorem ERead.bind_got {α β : Type} {f : α → ERead β} {x : ERead α} {b : β} {ls : List (Nat × List Nat)} (h : x.bind f = .got b ls) :
    ∃ a l k, x = .got a l ∧ f a = .got b k ∧ ls = l ++ k := by
  cases x with
  | stop e => cases h
  | got a l =>
    cases hf : f a with
    | stop e => simp [ERead.bind, hf] at h
    | got c k =>
      simp only [ERead.bind, hf, ERead.got.injEq] at h
      exact ⟨a, l, k, rfl, by rw [hf, h.1], h.2.symm⟩

section
variable {s : State} {n : Nat} {c : Cmd} {e : HEntry} {ls : List (Nat × List Nat)}

theorem State.length_readRows {t : Ty} {ofs stride k m : Nat} {rows : List (List FVal)}
    (h : s.readRows n c e t ofs stride k m = .got rows ls) : rows.length = m := by
  induction m generalizing ofs rows ls with
  | zero =>
    cases h
    rfl
  | succ m ih =>
    obtain ⟨r, l, k, -, hrest, -⟩ := ERead.bind_got h
    obtain ⟨rest, hgot, rfl⟩ := ERead.map_got hrest
    rw [List.length_cons, ih hgot]

theorem State.length_readStride {stride len ofs m : Nat} {rows : List (List Byte)}
    (h : s.readStride n c e stride len ofs m = .got rows ls) : rows.length = m := by
  induction m generalizing ofs rows ls with
  | zero =>
    cases h
    rfl
  | succ m ih =>
    obtain ⟨r, l, k, -, hrest, -⟩ := ERead.bind_got h
    obtain ⟨rest, hgot, rfl⟩ := ERead.map_got hrest
    rw [List.length_cons, ih hgot]

end

/-! ### The elements that a row reads back as -/

theorem length_of_readElems {t n mask : Nat} {bs rest : List Byte} {es : List (Int × Nat)}
    (h : readElems t n mask bs = some (es, rest)) : es.length = n := by
  induction n generalizing mask bs es with
  | zero =>
    rw [readElems] at h
    split at h
    · cases h
      rfl
    · cases h
  | succ n ih =>
    rw [readElems] at h
    split at h
    · obtain ⟨r, -, hr⟩ := Option.bind_eq_some_iff.mp h
      obtain ⟨z, hz, heq⟩ := Option.map_eq_some_iff.mp hr
      cases heq
      rw [List.length_cons, ih hz]
    · obtain ⟨z, hz, heq⟩ := Option.map_eq_some_iff.mp h
      cases heq
      rw [List.length_cons, ih hz]

theorem length_of_readBlocks {t n k : Nat} {bare : Bool} {bs : List Byte} {es : List (Int × Nat)} (hn : n = (k + 31) / 32)
    (h : readBlocks t bare n k bs = some es) : es.length = k := by
  induction n generalizing k bs es with
  | zero =>
    rw [readBlocks] at h
    split at h
    · cases h
      rw [List.length_nil]
      omega
    · cases h
  | succ n ih =>
    simp only [readBlocks] at h
    split at h
    · cases h
    · obtain ⟨r, hr, hrest⟩ := Option.bind_eq_some_iff.mp h
      obtain ⟨z, hz, rfl⟩ := Option.map_eq_some_iff.mp hrest
      rw [List.length_append, length_of_readElems hr, ih (by omega) hz]
      omega

theorem length_of_readRow {h : RowHead} {body : List Byte} {r : RowRead} (hr : readRow h body = some r) : r.elems.length = h.k := by
  obtain ⟨es, hes, rfl⟩ := Option.map_eq_some_iff.mp hr
  exact length_of_readBlocks rfl hes

section
variable {s : State} {n : Nat} {c : Cmd} {e : HEntry} {ls : List (Nat × List Nat)} {fits : RowHead → Bool} {k : Nat}
  (hfits : ∀ h, fits h = true → h.k = k)
include hfits

theorem State.length_readTermRow {dirOfs : Nat} {r : RowRead} (h : s.readTermRow n c e dirOfs fits = .got r ls) : r.elems.length = k := by
  obtain ⟨d, _, _, -, hd, -⟩ := ERead.bind_got h
  simp only at hd
  split at hd
  · cases hd
  · obtain ⟨hb, _, _, -, hhead, -⟩ := ERead.bind_got hd
    split at hhead
    · cases hhead
    next hok =>
      split at hhead
      · cases hhead
      · obtain ⟨body, _, _, -, hbody, -⟩ := ERead.bind_got hhead
        split at hbody
        · cases hbody
        next hr =>
          cases hbody
          rw [length_of_readRow hr]
          simp only [Bool.or_eq_true, Bool.not_eq_true', not_or, Bool.not_eq_false] at hok
          exact hfits _ hok.2

theorem State.length_readTermRows {dirOfs m : Nat} {rows : List RowRead} (h : s.readTermRows n c e fits dirOfs m = .got rows ls) :
    rows.length = m ∧ ∀ r ∈ rows, r.elems.length = k := by
  induction m generalizing dirOfs rows ls with
  | zero =>
    cases h
    simp
  | succ m ih =>
    obtain ⟨r, _, _, hrow, hrest, -⟩ := ERead.bind_got h
    obtain ⟨rest, hgot, rfl⟩ := ERead.map_got hrest
    obtain ⟨hlen, hall⟩ := ih hgot
    exact ⟨by rw [List.length_cons, hlen], List.forall_mem_cons.mpr ⟨State.length_readTermRow hfits hrow, hall⟩⟩

end

/-! ### Bytes of rows -/

theorem range_eq (lo n : Nat) : range lo n = List.range' lo n := by
  induction n generalizing lo with
  | zero => rfl
  | succ n ih => rw [range, ih, List.range'_succ]

theorem length_flatMap_const {α β : Type} {f : α → List β} {n : Nat} {l : List α} (h : ∀ x ∈ l, (f x).length = n) :
    (l.flatMap f).length = n * l.length := by
  rw [List.length_flatMap, List.map_congr_left h, List.map_const', List.sum_replicate, smul_eq_mul, Nat.mul_comm]

/-- Pieces of one length lie one after another. -/
theorem piece_flatMap {α β : Type} {f : α → List β} {n : Nat} {l : List α} (h : ∀ x ∈ l, (f x).length = n) {i : Nat} (hi : i < l.length) :
    ((l.flatMap f).drop (n * i)).take n = f l[i] := by
  induction l generalizing i with
  | nil => exact absurd hi (Nat.not_lt_zero i)
  | cons x l ih =>
    have hx := h x List.mem_cons_self
    rw [List.flatMap_cons]
    cases i with
    | zero => rw [Nat.mul_zero, List.drop_zero, List.take_left' hx, List.getElem_cons_zero]
    | succ i =>
      rw [Nat.mul_succ, Nat.add_comm, ← List.drop_drop, List.drop_left' hx, ih fun y hy => h y (List.mem_cons_of_mem _ hy)]
      rfl

theorem length_denseRow (t : Ty) (vs : List FVal) : (denseRow t vs).1.length = vs.length * tySize t := by
  rw [denseRow, length_flatMap_const (n := tySize t) fun _ _ => length_leBytes _ _, List.length_map, Nat.mul_comm]

theorem length_packNibbles (codes : List Nat) : (packNibbles codes).length = (codes.length + 1) / 2 := by
  induction codes using packNibbles.induct with
  | case1 => rfl
  | case2 a => simp [packNibbles]
  | case3 a b t ih =>
    rw [packNibbles, List.length_cons, ih, List.length_cons, List.length_cons]
    omega

theorem length_wfPack (wf : Nat) (codes : List Nat) : (wfPack wf codes).length = wfBytes wf codes.length := by
  rw [wfPack, wfBytes]
  split
  · exact length_packNibbles codes
  · exact List.length_map _

/-! ### Rows at a stride, and one after another -/

@[simp] theorem length_strideRows (e : HEntry) (stride off : Nat) (rs : List (List Byte)) : (strideRows e stride off rs).length = rs.length := by
  induction rs generalizing off with
  | nil => rfl
  | cons r rs ih => rw [strideRows, List.length_cons, ih, List.length_cons]

theorem getElem?_strideRows (e : HEntry) (stride off : Nat) {rs : List (List Byte)} {i : Nat} (hi : i < rs.length) :
    (strideRows e stride off rs)[i]? = some { e := e, off := off + stride * i, bytes := rs[i], poison := false } := by
  induction rs generalizing off i with
  | nil => exact absurd hi (Nat.not_lt_zero i)
  | cons r rs ih =>
    cases i with
    | zero => rfl
    | succ i =>
      have hi' : i < rs.length := by simpa using hi
      rw [strideRows, List.getElem?_cons_succ, ih _ hi', List.getElem_cons_succ, Nat.mul_succ, Nat.add_assoc, Nat.add_comm stride]

@[simp] theorem length_rowOffsets (off : Nat) (rs : List (List Byte)) : (rowOffsets off rs).length = rs.length := by
  induction rs generalizing off with
  | nil => rfl
  | cons r rs ih => rw [rowOffsets, List.length_cons, ih, List.length_cons]

@[simp] theorem length_placeRows (e : HEntry) (poison : Bool) (off : Nat) (rs : List (List Byte)) :
    (placeRows e poison off rs).length = rs.length := by
  induction rs generalizing off with
  | nil => rfl
  | cons r rs ih => rw [placeRows, List.length_cons, ih, List.length_cons]

theorem getElem?_placeRows (e : HEntry) (poison : Bool) (off : Nat) {rs : List (List Byte)} {i : Nat} (hi : i < rs.length) :
    (placeRows e poison off rs)[i]? =
      some { e := e, off := (rowOffsets off rs)[i]'(by rwa [length_rowOffsets]), bytes := rs[i], poison := poison } := by
  induction rs generalizing off i with
  | nil => exact absurd hi (Nat.not_lt_zero i)
  | cons r rs ih =>
    cases i with
    | zero => rfl
    | succ i => exact ih (off + r.length) (by simpa using hi)

theorem getElem_rowOffsets_zero (off : Nat) {rs : List (List Byte)} (h : 0 < (rowOffsets off rs).length) : (rowOffsets off rs)[0] = off := by
  cases rs with
  | nil => exact absurd h (Nat.not_lt_zero 0)
  | cons r rs => rfl

theorem getElem_rowOffsets_succ (off : Nat) {rs : List (List Byte)} {i : Nat} (h : i + 1 < rs.length) :
    (rowOffsets off rs)[i + 1]'(by rwa [length_rowOffsets]) =
      (rowOffsets off rs)[i]'(by rw [length_rowOffsets]; exact Nat.lt_of_succ_lt h) + rs[i].length := by
  induction rs generalizing off i with
  | nil => exact absurd h (Nat.not_lt_zero _)
  | cons r rs ih =>
    cases i with
    | zero => exact getElem_rowOffsets_zero _ _
    | succ i => exact ih (off + r.length) (by simpa using h)

/-! ### What each command writes -/

/-- A write of a list of writes has its place and its length. -/
def LiesAt (p : Option EPut) (off len : Nat) : Prop := ∃ x, p = some x ∧ x.off = off ∧ x.bytes.length = len

theorem liesAt_strideRows (e : HEntry) (stride off : Nat) {rs : List (List Byte)} {m len : Nat} (hm : rs.length = m)
    (hrs : ∀ r ∈ rs, r.length = len) : ∀ i < m, LiesAt (strideRows e stride off rs)[i]? (off + stride * i) len := by
  intro i hi
  rw [← hm] at hi
  exact ⟨_, getElem?_strideRows e stride off hi, rfl, hrs _ (List.getElem_mem hi)⟩

section
variable {s : State} {n : Nat} {c : Cmd} {d : EDone} {ls : List (Nat × List Nat)}

/-- XENC.TERM writes a directory and its rows behind it. -/
theorem State.doEncTerm_puts (h : s.doEncTerm n c = .got d ls) :
    LiesAt d.puts[0]? (c.word 3) (8 * c.word 6) ∧ d.puts.length = c.word 6 + 1 ∧ ∀ i < c.word 6, ∃ x y, d.puts[0]? = some x ∧
      d.puts[i + 1]? = some y ∧ (i = 0 → y.off = c.word 4) ∧ y.bytes.length % 16 = 0 ∧
      (∀ z, d.puts[i + 2]? = some z → z.off = y.off + y.bytes.length) ∧ (x.bytes.drop (8 * i)).take 8 = leBytes 8 y.off := by
  obtain ⟨rows, hrows, rfl⟩ := ERead.map_got h
  obtain ⟨rs, hrs⟩ : ∃ rs, (rows.map (fun r => encodeRow r (w0Low (c.word 0)))).map (fun x => x.bytes (w0Low (c.word 0))) = rs := ⟨_, rfl⟩
  have hlen : rs.length = c.word 6 := by rw [← hrs, List.length_map, List.length_map, State.length_readRows hrows]
  have hrow : ∀ r ∈ rs, r.length % 16 = 0 := by
    rw [← hrs]
    simp only [List.mem_map]
    rintro r ⟨x, -, rfl⟩
    rw [Encoded.length_bytes, pad16]
    omega
  have hdir : ∀ x ∈ rowOffsets (c.word 4) rs, (leBytes 8 x).length = 8 := fun x _ => length_leBytes 8 x
  simp only [hrs, putTermList]
  refine ⟨⟨_, rfl, rfl, ?_⟩, ?_, fun i hi => ?_⟩
  · rw [length_flatMap_const hdir, length_rowOffsets, hlen]
  · rw [List.length_cons, length_placeRows, hlen]
  · rw [← hlen] at hi
    refine ⟨_, _, rfl, (List.getElem?_cons_succ).trans (getElem?_placeRows _ _ _ hi), ?_, hrow _ (List.getElem_mem hi), ?_, ?_⟩
    · rintro rfl
      exact getElem_rowOffsets_zero _ _
    · intro z hz
      rw [List.getElem?_cons_succ] at hz
      have hi' : i + 1 < rs.length := by
        have := (List.getElem?_eq_some_iff.mp hz).1
        rwa [length_placeRows] at this
      rw [getElem?_placeRows _ _ _ hi'] at hz
      cases hz
      exact getElem_rowOffsets_succ _ hi'
    · exact piece_flatMap hdir (by rwa [length_rowOffsets])

/-- XDEC.TERM writes dense rows at their stride. -/
theorem State.doDecTerm_puts (h : s.doDecTerm n c = .got d ls) :
    d.puts.length = c.word 5 ∧
      ∀ i < c.word 5, LiesAt d.puts[i]? (c.word 2 + c.word 3 * i) (c.word 4 * tySize (denseTy (w0Type (c.word 0)))) := by
  obtain ⟨rows, hrows, rfl⟩ := ERead.map_got h
  obtain ⟨hlen, helems⟩ := State.length_readTermRows (fun h hk => by simpa using hk) hrows
  refine ⟨by simp [hlen], liesAt_strideRows _ _ _ (by simp [hlen]) ?_⟩
  simp only [List.mem_map]
  rintro r ⟨-, ⟨row, hrow, rfl⟩, rfl⟩
  rw [length_denseRow, List.length_map, helems row hrow]

/-- XDEC.BLOCK writes dense rows at their stride. -/
theorem State.doDecBlock_puts (h : s.doDecBlock n c = .got d ls) :
    d.puts.length = c.word 6 ∧
      ∀ i < c.word 6, LiesAt d.puts[i]? (c.word 4 + c.word 5 * i) (c.word 7 * tySize (denseTy (w0Type (c.word 0)))) := by
  obtain ⟨ws, _, _, hws, hrest, -⟩ := ERead.bind_got h
  obtain ⟨ss, -, rfl⟩ := ERead.map_got hrest
  have hlen := State.length_readStride hws
  refine ⟨by simp [hlen], liesAt_strideRows _ _ _ (by simp [hlen]) ?_⟩
  simp only [List.mem_map, List.mem_mapIdx]
  rintro r ⟨-, ⟨i, hi, rfl⟩, rfl⟩
  rw [length_denseRow, List.length_map, length_range]

/-! ### XENC.BLOCK -/

theorem length_blocksOf {α : Type} (n : Nat) (l : List α) : (blocksOf n l).length = n := by
  induction n generalizing l with
  | zero => rfl
  | succ n ih => rw [blocksOf, List.length_cons, ih]

theorem sum_blocksOf {α : Type} {n : Nat} {l : List α} (hn : n = (l.length + 31) / 32) :
    ((blocksOf n l).map List.length).sum = l.length := by
  induction n generalizing l with
  | zero =>
    rw [blocksOf, List.map_nil, List.sum_nil]
    omega
  | succ n ih =>
    rw [blocksOf, List.map_cons, List.sum_cons, ih (by rw [List.length_drop]; omega), List.length_take, List.length_drop]
    omega

theorem quantRows_lengths (wf n : Nat) (rows : List (List FVal)) :
    (quantRows wf n rows).1.length = rows.length ∧ (∀ r ∈ (quantRows wf n rows).1, r.length = n) ∧ (quantRows wf n rows).2.1.length = n := by
  refine ⟨by simp [quantRows], fun r hr => ?_, by simp [quantRows, columnsOf]⟩
  obtain ⟨i, -, rfl⟩ := List.mem_map.mp hr
  simp [columnsOf]

/-- XENC.BLOCK writes weight rows at their stride, then the scales of each block. -/
theorem State.doEncBlock_puts (h : s.doEncBlock n c = .got d ls) :
    let wf := w0Low (c.word 0)
    let stride := bits (c.word 4) 0 16
    d.puts.length = c.word 6 + (c.word 6 + 31) / 32 ∧
      (∀ i < c.word 6, LiesAt d.puts[i]? (c.word 3 + 16 * stride * i) (wfBytes wf (c.word 7))) ∧
      ∀ b < (c.word 6 + 31) / 32, LiesAt d.puts[c.word 6 + b]? (c.word 5 + 4 * strideElems wf stride * b) (4 * c.word 7) := by
  intro wf stride
  obtain ⟨rows, hrows, rfl⟩ := ERead.map_got h
  have hlen := State.length_readRows hrows
  obtain ⟨qs, hqs⟩ : ∃ qs, (blocksOf ((c.word 6 + 31) / 32) rows).map (quantRows wf (c.word 7)) = qs := ⟨_, rfl⟩
  have hblock : ∀ q ∈ qs, (∀ r ∈ q.1, r.length = c.word 7) ∧ q.2.1.length = c.word 7 := by
    rw [← hqs]
    simp only [List.mem_map]
    rintro q ⟨b, -, rfl⟩
    exact (quantRows_lengths wf (c.word 7) b).2
  have hcount : qs.length = (c.word 6 + 31) / 32 := by rw [← hqs, List.length_map, length_blocksOf]
  have hweights : ((qs.flatMap (fun q => q.1)).map (wfPack wf)).length = c.word 6 := by
    have hfirst : (fun q : List (List Nat) × List Nat × Flags => q.1.length) ∘ quantRows wf (c.word 7) = List.length :=
      funext fun b => (quantRows_lengths wf (c.word 7) b).1
    rw [List.length_map, List.length_flatMap, ← hqs, List.map_map, hfirst, sum_blocksOf (by rw [hlen]), hlen]
  have hrow : ∀ r ∈ (qs.flatMap (fun q => q.1)).map (wfPack wf), r.length = wfBytes wf (c.word 7) := by
    simp only [List.mem_map, List.mem_flatMap]
    rintro r ⟨codes, ⟨q, hq, hcodes⟩, rfl⟩
    rw [length_wfPack, (hblock q hq).1 codes hcodes]
  have hscale : ∀ r ∈ qs.map (fun q => q.2.1.flatMap (leBytes 4)), r.length = 4 * c.word 7 := by
    simp only [List.mem_map]
    rintro r ⟨q, hq, rfl⟩
    rw [length_flatMap_const fun _ _ => length_leBytes _ _, (hblock q hq).2]
  have hw : wStride (c.word 4) = stride := rfl
  simp only [hw, show w0Low (c.word 0) = wf from rfl, hqs]
  refine ⟨by rw [List.length_append, length_strideRows, length_strideRows, hweights, List.length_map, hcount], fun i hi => ?_, fun b hb => ?_⟩
  · rw [List.getElem?_append_left (by rwa [length_strideRows, hweights])]
    exact liesAt_strideRows _ _ _ hweights hrow i hi
  · rw [List.getElem?_append_right (by rw [length_strideRows, hweights]; exact Nat.le_add_right _ _), length_strideRows, hweights,
      Nat.add_sub_cancel_left]
    exact liesAt_strideRows _ _ _ ((List.length_map _).trans hcount) hscale b hb

/-- Where the rows of a copy command's work stand. -/
theorem State.writesAt_of_work (h : s.work n c = .got d ls) : writesAt c d.puts := by
  refine ⟨fun hop => ?_, fun hop => ?_, fun hop => ?_, fun hop => ?_⟩ <;> rw [State.work, hop] at h
  · exact State.doEncTerm_puts h
  · exact State.doDecTerm_puts h
  · exact State.doDecBlock_puts h
  · exact State.doEncBlock_puts h

end

end Sys2Proof.Machine

/-! ## Accumulator rows (R127 to R129) -/

namespace Sys2Proof.Machine

section
variable (c : Core) (key : Nat)

@[simp] theorem Core.accGet_accSet_same (v : DWord × Bool) : (c.accSet key v).accGet key = v := sget_sset_same _ _ _ _

theorem Core.accGet_accSet_other {k : Nat} (v : DWord × Bool) (h : k ≠ key) : (c.accSet key v).accGet k = c.accGet k :=
  sget_sset_other _ _ _ _ _ h

@[simp] theorem Core.accGet_tagSet (k v : Nat) : (c.tagSet key v).accGet k = c.accGet k := rfl

@[simp] theorem Core.tagGet_accSet (k : Nat) (v : DWord × Bool) : (c.accSet key v).tagGet k = c.tagGet k := rfl

@[simp] theorem Core.tagGet_tagSet_same (v : Nat) : (c.tagSet key v).tagGet key = v := sget_sset_same _ _ _ _

theorem Core.tagGet_tagSet_other {k : Nat} (v : Nat) (h : k ≠ key) : (c.tagSet key v).tagGet k = c.tagGet k := sget_sset_other _ _ _ _ _ h

end

theorem accKey_eq (p : Nat × Nat) (col : Nat) : accKey p col = 128 * tagKey p + col := by
  rw [accKey, tagKey]
  omega

/-- Columns of a row replaced one after another, each column once. -/
theorem Core.foldl_accSet (c : Core) (p : Nat × Nat) (f : DWord × Bool → DWord × Bool) {cols : List Nat} (hcols : cols.Nodup) :
    let r := cols.foldl (fun acc col => acc.accSet (accKey p col) (f (acc.accGet (accKey p col)))) c
    (∀ col ∈ cols, r.accGet (accKey p col) = f (c.accGet (accKey p col))) ∧
    (∀ k, (∀ col ∈ cols, k ≠ accKey p col) → r.accGet k = c.accGet k) ∧ ∀ k, r.tagGet k = c.tagGet k := by
  induction cols generalizing c with
  | nil => simp
  | cons col cols ih =>
    obtain ⟨hnot, hcols⟩ := List.nodup_cons.mp hcols
    obtain ⟨hin, hout, htag⟩ := ih (c.accSet (accKey p col) (f (c.accGet (accKey p col)))) hcols
    have hkey : ∀ j, j ≠ col → accKey p j ≠ accKey p col := fun j hj => by
      rw [accKey_eq, accKey_eq]
      omega
    simp only [List.foldl_cons, List.forall_mem_cons]
    refine ⟨⟨?_, fun j hj => ?_⟩, fun k hk => ?_, htag⟩
    · rw [hout _ fun j hj => (hkey j fun h => hnot (h ▸ hj)).symm, Core.accGet_accSet_same]
    · rw [hin j hj, Core.accGet_accSet_other _ _ _ (hkey j fun h => hnot (h ▸ hj))]
    · rw [hout k hk.2, Core.accGet_accSet_other _ _ _ hk.1]

theorem mem_range_zero {n k : Nat} : k ∈ range 0 n ↔ k < n := by simp [range_eq]

theorem nodup_range (lo n : Nat) : (range lo n).Nodup := by
  rw [range_eq]
  exact List.nodup_range'

/-- A row with each of its values replaced. -/
theorem Core.mapRow_spec (c : Core) (p : Nat × Nat) (f : DWord × Bool → DWord × Bool) :
    (∀ col < 128, (c.mapRow p f).accGet (accKey p col) = f (c.accGet (accKey p col))) ∧
    (∀ k, k / 128 ≠ tagKey p → (c.mapRow p f).accGet k = c.accGet k) ∧ ∀ k, (c.mapRow p f).tagGet k = c.tagGet k := by
  obtain ⟨hin, hout, htag⟩ := c.foldl_accSet p f (nodup_range 0 128)
  unfold Core.mapRow
  refine ⟨fun col hcol => hin col (mem_range_zero.mpr hcol), fun k hk => hout k fun col hcol => ?_, htag⟩
  have := mem_range_zero.mp hcol
  rw [accKey_eq]
  omega

/-- A row with each of its values replaced, and its tag. -/
theorem Core.mapRow_tagSet_spec (c : Core) (p : Nat × Nat) (f : DWord × Bool → DWord × Bool) (new : Nat) :
    let r := (c.mapRow p f).tagSet (tagKey p) new
    (∀ k, k / 128 ≠ tagKey p → r.accGet k = c.accGet k) ∧ (∀ k, k ≠ tagKey p → r.tagGet k = c.tagGet k) ∧ r.tagGet (tagKey p) = new ∧
      ∀ col < 128, r.accGet (accKey p col) = f (c.accGet (accKey p col)) := by
  obtain ⟨hin, hout, htag⟩ := c.mapRow_spec p f
  exact ⟨fun k hk => (Core.accGet_tagSet _ _ _ _).trans (hout k hk), fun k hk => (Core.tagGet_tagSet_other _ _ _ hk).trans (htag k),
    Core.tagGet_tagSet_same _ _ _, fun col hcol => (Core.accGet_tagSet _ _ _ _).trans (hin col hcol)⟩

/-- What the start of a task makes of one of its rows (R129). -/
theorem preparesRow_prepare (c : Core) (acc : Bool) (p : Nat × Nat) (new : Nat) : preparesRow c acc p new (c.prepare acc p new) := by
  unfold preparesRow Core.prepare
  obtain ⟨old, hold⟩ : ∃ old, c.tagGet (tagKey p) = old := ⟨_, rfl⟩
  simp only [hold]
  cases acc with
  | false =>
    obtain ⟨hout, htag, hnew, hin⟩ := c.mapRow_tagSet_spec p (fun _ => (0, false)) new
    simp only [Bool.not_false, if_true, Bool.false_eq_true, false_and, not_false_eq_true, forall_const, IsEmpty.forall_iff, true_and]
    exact ⟨hout, htag, hnew, hin⟩
  | true =>
    simp only [Bool.not_true, Bool.false_eq_true, if_false, Bool.true_eq_false, true_and, forall_const]
    split
    next hzero => simp [hzero]
    next hzero =>
      simp only [hzero, Bool.false_eq_true, not_false_eq_true, forall_const, IsEmpty.forall_iff, true_and]
      split
      next hsame =>
        simp only [Core.accGet_tagSet, Core.tagGet_tagSet_same, implies_true, true_and, and_true]
        exact fun k hk => Core.tagGet_tagSet_other _ _ _ hk
      next hsame =>
        obtain ⟨hout, htag, hnew, hin⟩ := c.mapRow_tagSet_spec p (fun v => (BitVec.ofNat 64 (rescaled v.1 old new).1, v.2)) new
        exact ⟨hout, htag, hnew, hin⟩

/-- A fold adds to its value and changes no other (R127, R130). -/
theorem Core.fold_spec (x : Core) (key contrib : Nat) :
    (x.fold key contrib).1.accGet key = (BitVec.ofNat 64 (fpAdd Fmt.f64 (x.accGet key).1.toNat contrib).1, (x.accGet key).2) ∧
    (x.fold key contrib).2 = (fpAdd Fmt.f64 (x.accGet key).1.toNat contrib).2 ∧
    ∀ k, k ≠ key → (x.fold key contrib).1.accGet k = x.accGet k :=
  ⟨Core.accGet_accSet_same _ _ _, rfl, fun _ hk => Core.accGet_accSet_other _ _ _ hk⟩

end Sys2Proof.Machine

/-! ## What an engine step leaves alone

A step of an engine reads and writes memory; commands, groups and saved teams stay. -/

namespace Sys2Proof.Machine

theorem mget_mupd_same {α : Type} {m : List (Nat × α)} {k : Nat} {x : α} (f : α → α) (h : mget? m k = some x) :
    mget? (mupd m k f) k = some (f x) := by
  rw [mget_mupd, if_pos rfl, h]
  rfl

/-! ### Steps that keep the work of a module -/

/-- Commands, groups and saved teams are as they were. -/
structure SameWork (s t : State) : Prop where
  cmds : t.cmds = s.cmds
  groups : t.groups = s.groups
  saved : t.saved = s.saved

theorem SameWork.refl (s : State) : SameWork s s := ⟨rfl, rfl, rfl⟩

theorem SameWork.trans {s t u : State} (h : SameWork s t) (h' : SameWork t u) : SameWork s u :=
  ⟨h'.cmds.trans h.cmds, h'.groups.trans h.groups, h'.saved.trans h.saved⟩

theorem SameWork.unwatched {s t : State} (h : SameWork s t) (hs : s.Unwatched) : t.Unwatched := by
  unfold State.Unwatched
  rw [h.groups, h.saved]
  exact hs

/-- A fold of steps that keep the work of an unwatched module keeps it. -/
theorem SameWork.foldl {α : Type} {s : State} (hs : s.Unwatched) (f : State → α → State)
    (hf : ∀ t a, t.Unwatched → SameWork t (f t a)) (l : List α) : SameWork s (l.foldl f s) :=
  foldl_keeps (SameWork s) f (fun t a h => h.trans (hf t a (h.unwatched hs))) l s (.refl s)

/-- Memory and domains are as they were too. -/
structure SameHomes (s t : State) : Prop where
  work : SameWork s t
  mem : t.mem = s.mem
  doms : t.doms = s.doms

theorem SameHomes.refl (s : State) : SameHomes s s := ⟨.refl s, rfl, rfl⟩

theorem SameHomes.trans {s t u : State} (h : SameHomes s t) (h' : SameHomes t u) : SameHomes s u :=
  ⟨h.work.trans h'.work, h'.mem.trans h.mem, h'.doms.trans h.doms⟩

theorem SameHomes.foldl {α : Type} (s : State) (f : State → α → State) (hf : ∀ t a, SameHomes t (f t a)) (l : List α) :
    SameHomes s (l.foldl f s) :=
  foldl_keeps (SameHomes s) f (fun t a h => h.trans (hf t a)) l s (.refl s)

/-! ### Reading: devices wake, translations are kept -/

theorem State.sameHomes_wake (s : State) (pa : Nat) : SameHomes s (s.wake pa) := by
  unfold State.wake
  split
  · split
    · exact ⟨⟨rfl, rfl, rfl⟩, rfl, rfl⟩
    · exact .refl s
  · exact .refl s

theorem State.sameHomes_wakeLines (s : State) (lines : List Nat) : SameHomes s (s.wakeLines lines) :=
  .foldl s _ (fun t n => by
    cases t.tierPlace n with
    | none => exact .refl t
    | some pa => exact t.sameHomes_wake pa) lines

theorem State.sameHomes_keepPath (s : State) (die dom space va : Nat) : SameHomes s (s.keepPath die dom space va) := by
  unfold State.keepPath
  refine (s.sameHomes_wakeLines _).trans (.foldl _ _ (fun t e => ?_) _)
  split
  · exact .refl t
  · exact ⟨⟨rfl, rfl, rfl⟩, rfl, rfl⟩

theorem State.sameHomes_keepLeaf (s : State) (via dom space va size leaf : Nat) :
    SameHomes s (s.keepLeaf via dom space va size leaf) := by
  unfold State.keepLeaf
  refine .foldl s _ (fun t n => ?_) _
  split
  · exact .refl t
  · exact ⟨⟨rfl, rfl, rfl⟩, rfl, rfl⟩

theorem State.sameHomes_touch (s : State) (via dom space va : Nat) (need : Need) (t940 : Bool) :
    SameHomes s (s.touch via dom space va need t940) := by
  unfold State.touch
  split
  · exact s.sameHomes_keepLeaf ..
  · split
    · exact .refl s
    · split
      · exact (s.sameHomes_keepPath ..).trans (State.sameHomes_keepLeaf ..)
      · exact .refl s
  · exact ⟨⟨rfl, rfl, rfl⟩, rfl, rfl⟩
  · exact .refl s

/-! ### Reading where no frame counts accesses -/

theorem State.crnOn_dom {s : State} (h : s.Uncounted) (d : Nat) : (s.dom d).crnOn = false := by
  unfold State.dom
  cases hd : mget? s.doms d with
  | none => rfl
  | some x => exact h _ (mem_of_mget hd)

theorem State.countFrame_of_uncounted {s : State} (h : s.Uncounted) (d pa : Nat) : s.countFrame d pa = s := by
  simp [State.countFrame, State.crnOn_dom h]

theorem State.Uncounted.of_doms {s t : State} (h : s.Uncounted) (hd : t.doms = s.doms) : t.Uncounted := by
  unfold State.Uncounted
  rw [hd]
  exact h

theorem State.touchTier_of_uncounted {s : State} (h : s.Uncounted) (pa : Nat) : s.touchTier pa = s.wake pa := by
  have hw : (s.wake pa).Uncounted := h.of_doms (s.sameHomes_wake pa).doms
  unfold State.touchTier
  generalize range 0 8 = l
  induction l with
  | nil => exact List.foldl_nil
  | cons d ds ih => rw [List.foldl_cons, State.countFrame_of_uncounted hw, ih]

theorem State.sameHomes_readTier {s : State} (h : s.Uncounted) (lines : List Nat) : SameHomes s (s.readTier lines) := by
  unfold State.readTier
  refine foldl_keeps (SameHomes s) _ (fun t n ht => ?_) _ _ (.refl s)
  cases t.tierPlace n with
  | none => exact ht
  | some pa =>
    rw [Option.elim_some, State.touchTier_of_uncounted (h.of_doms ht.doms)]
    exact ht.trans (t.sameHomes_wake pa)

/-! ### Repair -/

theorem State.sameWork_setPoison (s : State) (k : Nat) (p : Bool) : SameWork s (s.setPoison k p) := ⟨rfl, rfl, rfl⟩

theorem State.sameWork_putLine (s : State) (line : Nat) (x : Line) :
    SameWork s (s.putLine line x) ∧ (s.putLine line x).doms = s.doms := by
  unfold State.putLine
  refine foldl_keeps (fun t : State => SameWork s t ∧ t.doms = s.doms) _ (fun t i h => ?_) _ _ ⟨⟨rfl, rfl, rfl⟩, rfl⟩
  exact ⟨h.1.trans (t.sameWork_setPoison _ _), h.2⟩

/-- Only the messages sent and the choices taken may differ. -/
def SameButSent (s t : State) : Prop := t = { s with outbox := t.outbox, free := t.free }

theorem SameButSent.refl (s : State) : SameButSent s s := rfl

theorem SameButSent.mends {s t : State} (h : SameButSent s t) (line : Nat) : t.mends line = s.mends line := by
  rw [h]
  rfl

theorem SameButSent.sameHomes {s t : State} (h : SameButSent s t) : SameHomes s t := by
  rw [h]
  exact ⟨⟨rfl, rfl, rfl⟩, rfl, rfl⟩

theorem SameButSent.trans {s t u : State} (h : SameButSent s t) (h' : SameButSent t u) : SameButSent s u := by
  unfold SameButSent at h h' ⊢
  rw [h', h]

theorem State.sameButSent_decodedLine (s : State) (line : Nat) (need : Nat → Bool) (x : Line) :
    SameButSent s (s.decodedLine line need x).2 := by
  unfold State.decodedLine
  split
  · exact .refl s
  · dsimp only
    split
    · exact .refl s
    · rfl

/-- A repair writes its line back; one that stands nowhere else, or is offline, writes nothing. -/
theorem State.sameWork_heal (s : State) (line : Nat) : SameWork s (s.heal line) ∧ (s.heal line).doms = s.doms := by
  unfold State.heal State.homeLine
  split
  · have hd := (s.sameButSent_decodedLine line (s.needsRepair line) (s.line line)).sameHomes
    dsimp only
    split
    · exact ⟨hd.work, hd.doms⟩
    · obtain ⟨hp, hpd⟩ := State.sameWork_putLine (s.decodedLine line (s.needsRepair line) (s.line line)).2
        (lineOf (s.locate (128 * line))) (s.decodedLine line (s.needsRepair line) (s.line line)).1
      exact ⟨hd.work.trans hp, hpd.trans hd.doms⟩
  · exact ⟨.refl s, rfl⟩

theorem State.sameButSent_heal {s : State} {line : Nat} (h : s.mends line = false) : SameButSent s (s.heal line) := by
  unfold State.heal State.homeLine
  split
  case isTrue hr =>
    have hoff : s.offline (s.locate (128 * line)) = true := by simpa [State.mends, hr] using h
    simp only [hoff, ↓reduceIte]
    exact s.sameButSent_decodedLine ..
  case isFalse => exact .refl s

theorem State.sameWork_healAll (s : State) (lines : List Nat) : SameWork s (s.healAll lines) ∧ (s.healAll lines).doms = s.doms := by
  unfold State.healAll
  dsimp only
  split
  · exact ⟨.refl s, rfl⟩
  · have hf := foldl_keeps (fun t : State => SameWork s t ∧ t.doms = s.doms) (fun acc n => { acc.heal n with free := s.free })
      (fun t n h => ⟨h.1.trans ((t.sameWork_heal n).1.trans ⟨rfl, rfl, rfl⟩), (t.sameWork_heal n).2.trans h.2⟩)
      (lines.filter (fun n => (range 0 4).any (s.needsRepair n) && s.repairs n)) s ⟨.refl s, rfl⟩
    exact ⟨hf.1.trans ⟨rfl, rfl, rfl⟩, hf.2⟩

theorem foldl_keeps_of_mem {α β : Type} (P : β → Prop) (f : β → α → β) (l : List α) (b : β)
    (hf : ∀ b a, a ∈ l → P b → P (f b a)) (h : P b) : P (l.foldl f b) :=
  List.foldlRecOn l f h fun b hb a ha => hf b a ha hb

theorem State.mem_healAll {s : State} {lines : List Nat} (h : ∀ n ∈ lines, s.mends n = false) : (s.healAll lines).mem = s.mem := by
  unfold State.healAll
  dsimp only
  split
  · rfl
  · have hf : SameButSent s _ := foldl_keeps_of_mem (SameButSent s) (fun acc n => { acc.heal n with free := s.free })
      (lines.filter (fun n => (range 0 4).any (s.needsRepair n) && s.repairs n)) s
      (fun t n hn ht => by
        have hm : t.mends n = false := (ht.mends n).trans (h n (List.mem_filter.mp hn).1)
        exact ht.trans ((State.sameButSent_heal hm).trans rfl)) (.refl s)
    exact hf.sameHomes.mem

/-! ### Fetching what a command read -/

theorem mem_nub {α : Type} [DecidableEq α] {l : List α} {x : α} : x ∈ nub l ↔ x ∈ l := by
  have key : ∀ (l acc : List α), x ∈ l.foldl (fun acc x => if acc.contains x then acc else acc ++ [x]) acc ↔ x ∈ acc ∨ x ∈ l := by
    intro l
    induction l with
    | nil => simp
    | cons y ys ih =>
      intro acc
      rw [List.foldl_cons, ih]
      by_cases hy : acc.contains y = true
      · rw [if_pos hy]
        have hmem : y ∈ acc := by simpa using hy
        simp only [List.mem_cons]
        refine or_congr_right' fun hx => ⟨Or.inr, ?_⟩
        rintro (rfl | h)
        · exact absurd hmem hx
        · exact h
      · rw [if_neg hy]
        simp [or_assoc]
  simpa [nub] using key l []

theorem State.sameWork_fetched {s : State} (h : s.Uncounted) (c : Cmd) (ls : List (Nat × List Nat)) : SameWork s (s.fetched c ls) := by
  obtain ⟨hw, hd⟩ := s.sameWork_healAll (nub (ls.flatMap (fun p => p.2)))
  have ht := State.sameHomes_readTier (h.of_doms hd) (nub (ls.flatMap (fun p => p.2)))
  exact hw.trans (ht.work.trans (SameHomes.foldl _ _ (fun t _ => t.sameHomes_touch ..) _).work)

/-- The lines of a read that no repair changes. -/
def State.Settled (s : State) (ls : List (Nat × List Nat)) : Prop := ∀ p ∈ ls, ∀ n ∈ p.2, s.mends n = false

theorem State.mem_fetched {s : State} (h : s.Uncounted) (c : Cmd) {ls : List (Nat × List Nat)} (hls : s.Settled ls) :
    (s.fetched c ls).mem = s.mem := by
  have hl : ∀ n ∈ nub (ls.flatMap (fun p => p.2)), s.mends n = false := fun n hn => by
    obtain ⟨p, hp, hn⟩ := List.mem_flatMap.mp (mem_nub.mp hn)
    exact hls p hp n hn
  have ht := State.sameHomes_readTier (h.of_doms (s.sameWork_healAll (nub (ls.flatMap (fun p => p.2)))).2) (nub (ls.flatMap (fun p => p.2)))
  exact (SameHomes.foldl _ _ (fun t _ => t.sameHomes_touch ..) _).mem.trans (ht.mem.trans (State.mem_healAll hl))

theorem State.fetched_nil (s : State) (c : Cmd) : s.fetched c [] = s := rfl

/-! ### Writing -/

theorem State.sameWork_noteWrite (s : State) (pa : Nat) : SameWork s (s.noteWrite pa) := by
  unfold State.noteWrite
  split <;> exact ⟨rfl, rfl, rfl⟩

theorem State.sameWork_markDirty (s : State) (pa : Nat) : SameWork s (s.markDirty pa) := by
  unfold State.markDirty
  dsimp only
  split <;> exact ⟨rfl, rfl, rfl⟩

theorem State.sameWork_writePiece (s : State) (pa : Nat) (bs : List Byte) : SameWork s (s.writePiece pa bs) :=
  (s.sameWork_noteWrite pa).trans ((State.sameWork_markDirty ..).trans ⟨rfl, rfl, rfl⟩)

/-- A fold of steps that keep the work of any module keeps it. -/
theorem SameWork.foldl_all {α : Type} (s : State) (f : State → α → State) (hf : ∀ t a, SameWork t (f t a)) (l : List α) :
    SameWork s (l.foldl f s) :=
  foldl_keeps (SameWork s) f (fun t a h => h.trans (hf t a)) l s (.refl s)

theorem State.sameWork_writeHome (s : State) (pa : Nat) (bs : List Byte) : SameWork s (s.writeHome pa bs) := by
  unfold State.writeHome
  exact .foldl_all s _ (fun t p => t.sameWork_writePiece _ _) _

theorem State.sameWork_settlePoison (s : State) (sector : Nat) (covered : Bool) : SameWork s (s.settlePoison sector covered) := by
  unfold State.settlePoison
  dsimp only
  split
  · exact ⟨rfl, rfl, rfl⟩
  · split <;> exact ⟨rfl, rfl, rfl⟩

theorem State.sameWork_poisonRange (s : State) (pa n : Nat) : SameWork s (s.poisonRange pa n) := by
  unfold State.poisonRange
  refine foldl_keeps (SameWork s) _ (fun t k h => ?_) _ _ (.refl s)
  exact h.trans (t.sameWork_setPoison _ _)

/-! ### Monitors that nothing watches -/

theorem findIx_eq_none {α : Type} (p : α → Bool) (l : List α) (h : ∀ x ∈ l, p x = false) : findIx p l = none := by
  induction l with
  | nil => rfl
  | cons x t ih =>
    rw [findIx, h x List.mem_cons_self, ih fun y hy => h y (List.mem_cons_of_mem x hy)]
    rfl

theorem State.poisonedWatches_of_unwatched {s : State} (h : s.Unwatched) (hit : Place → Bool) : s.poisonedWatches hit = [] := by
  refine List.filterMap_eq_nil_iff.mpr fun e he => ?_
  rw [findIx_eq_none]
  · rfl
  · intro x hx
    split
    case h_1 w hw => exact absurd hw (h.1 e he x hx w)
    case h_2 => rfl

theorem map_eq_self {α : Type} {f : α → α} {l : List α} (h : ∀ x ∈ l, f x = x) : l.map f = l :=
  (List.map_congr_left h).trans (List.map_id' l)

theorem State.testGroup_of_unwatched (s : State) (hit : Place → Bool) {g : Group} (h : ∀ x ∈ g.lanes, ∀ w, x.sleep ≠ .waitc w) :
    s.testGroup hit g = g := by
  unfold State.testGroup
  rw [map_eq_self fun x hx => ?_]
  · unfold wakeWatches
    dsimp only
    rw [map_eq_self fun x hx => ?_]
    split
    case h_1 w hw => exact absurd hw (h x hx w)
    case h_2 => rfl
  · split
    case h_1 w hw => exact absurd hw (h x hx w)
    case h_2 => rfl

theorem State.testSleep_of_unwatched (s : State) (hit : Place → Bool) {x : Sleep} (h : ∀ w, x ≠ .waitc w) : s.testSleep hit x = x := by
  cases x with
  | waitc w => exact absurd rfl (h w)
  | _ => rfl

theorem State.notify_of_unwatched {s : State} (h : s.Unwatched) (hit : Place → Bool) : s.notify hit = s := by
  unfold State.notify
  rw [State.poisonedWatches_of_unwatched h]
  dsimp only [List.foldl_nil]
  have hg : s.groups.map (fun e => (e.1, s.testGroup hit e.2)) = s.groups :=
    map_eq_self fun e he => by rw [s.testGroup_of_unwatched hit (h.1 e he)]
  have hk : s.saved.map (fun t => { t with groups := t.groups.map (fun g => { g with sleeps := g.sleeps.map (s.testSleep hit) }) }) =
      s.saved :=
    map_eq_self fun k hk => by
      rw [map_eq_self fun g hg => ?_]
      rw [map_eq_self fun x hx => s.testSleep_of_unwatched hit fun w hw => h.2 k hk g hg w (hw ▸ hx)]
  rw [hg, hk]

/-! ### An engine's writes -/

theorem State.sameWork_writeLoc (s : State) (core off : Nat) (bs : List Byte) : SameWork s (s.writeLoc core off bs) := ⟨rfl, rfl, rfl⟩

theorem State.sameWork_setLocPoison (s : State) (core k : Nat) (p : Bool) : SameWork s (s.setLocPoison core k p) := ⟨rfl, rfl, rfl⟩

theorem State.sameWork_putLocalAs {s : State} (h : s.Unwatched) (core : Nat) (ws : List (Nat × List Byte × Bool)) :
    SameWork s (s.putLocalAs core ws) := by
  unfold State.putLocalAs
  dsimp only
  refine .trans (.foldl h _ (fun t w ht => ?_) ws) (.foldl_all _ _ (fun t k => t.sameWork_setLocPoison ..) _)
  have hp : SameWork t (if w.2.2 then (sectorsOf [(w.1, w.2.1.length)]).foldl (fun t k => t.setLocPoison core k true)
      (t.writeLoc core w.1 w.2.1) else t.writeLoc core w.1 w.2.1) := by
    split
    · exact (t.sameWork_writeLoc core w.1 w.2.1).trans (.foldl_all _ _ (fun t k => t.sameWork_setLocPoison ..) _)
    · exact t.sameWork_writeLoc core w.1 w.2.1
  unfold State.notifyLocal
  rwa [State.notify_of_unwatched (hp.unwatched ht)]

theorem State.sameWork_putHomeAs {s : State} (h : s.Unwatched) (clears : Bool) (ws : List (Nat × List Byte × Bool)) :
    SameWork s (s.putHomeAs clears ws) := by
  unfold State.putHomeAs
  dsimp only
  refine .trans (s.sameWork_healAll _).1 (.trans (.foldl ((s.sameWork_healAll _).1.unwatched h) _ (fun t w ht => ?_) ws)
    (.foldl_all _ _ (fun t _ => t.sameWork_settlePoison ..) _))
  have hp : SameWork t (if w.2.2 then (t.writeHome w.1 w.2.1).poisonRange w.1 w.2.1.length else t.writeHome w.1 w.2.1) := by
    split
    · exact (t.sameWork_writeHome ..).trans (State.sameWork_poisonRange ..)
    · exact t.sameWork_writeHome ..
  unfold State.notifyPhys
  rwa [State.notify_of_unwatched (hp.unwatched ht)]

theorem State.sameWork_touchPuts (s : State) (c : Cmd) (puts : List EPut) : SameWork s (s.touchPuts c puts) :=
  (SameHomes.foldl s _ (fun t _ => t.sameHomes_touch ..) _).work

theorem State.sameWork_enginePut {s u : State} (h : s.Unwatched) {n : Nat} {c : Cmd} {puts : List EPut} {w : Nat}
    (he : s.enginePut n c puts = .ok (u, w)) : SameWork s u := by
  unfold State.enginePut at he
  cases hp : s.placePuts n c (puts.filter (fun p => !p.bytes.isEmpty)) with
  | error x => simp [hp, Except.map] at he
  | ok ps =>
    simp only [hp, Except.map, Except.ok.injEq, Prod.mk.injEq] at he
    obtain ⟨rfl, -⟩ := he
    have h1 := State.sameWork_putLocalAs h c.core (piecesIn true ps)
    have h2 := State.sameWork_putHomeAs (h1.unwatched h) true (piecesIn false ps)
    exact h1.trans (h2.trans (State.sameWork_touchPuts ..))

end Sys2Proof.Machine

/-! ## An engine's steps, clause by clause (R127, R131, R141 to R149) -/

namespace Sys2Proof.Machine

/-! ### What was read stands whole: no line of it is about to be repaired -/

theorem linesOf_subset {p : Nat × Nat} {ps : List (Nat × Nat)} (hp : p ∈ ps) {n : Nat} (hn : n ∈ linesOf [p]) : n ∈ linesOf ps := by
  unfold linesOf sectorsOf at hn ⊢
  simp only [mem_nub, List.mem_map, List.mem_flatMap, List.mem_singleton, exists_eq_left] at hn ⊢
  obtain ⟨k, hk, rfl⟩ := hn
  exact ⟨k, ⟨p, hp, hk⟩, rfl⟩

theorem mem_zipWith {α β γ : Type} {f : α → β → γ} {as : List α} {bs : List β} {x : γ} (h : x ∈ List.zipWith f as bs) :
    ∃ a ∈ as, ∃ b ∈ bs, x = f a b := by
  rw [← List.map_uncurry_zip_eq_zipWith] at h
  obtain ⟨q, hq, rfl⟩ := List.mem_map.mp h
  exact ⟨q.1, (List.of_mem_zip hq).1, q.2, (List.of_mem_zip hq).2, rfl⟩

section
variable {s : State} {n : Nat} {c : Cmd} {e : HEntry} {fits : RowHead → Bool} {ls : List (Nat × List Nat)}

theorem State.Settled.append {as bs : List (Nat × List Nat)} (ha : s.Settled as) (hb : s.Settled bs) : s.Settled (as ++ bs) :=
  fun p hp => (List.mem_append.mp hp).elim (ha p) (hb p)

theorem State.Settled.nil : s.Settled [] := fun _ h => absurd h List.not_mem_nil

theorem State.settled_engineRead {off len : Nat} {bs : List Byte} (h : s.engineRead n c e off len = .got bs ls) : s.Settled ls := by
  unfold State.engineRead at h
  split at h
  case h_1 => cases h
  case h_2 ps _ =>
    dsimp only at h
    split at h
    case isTrue => cases h
    case isFalse hm =>
      split at h
      case h_1 => cases h
      case h_2 =>
        cases h
        split
        case isTrue => exact .nil
        case isFalse hloc =>
          have hall : ∀ k ∈ linesOf ps, s.mends k = false := by simpa [hloc] using hm
          rintro p hp k hk
          obtain ⟨v, -, q, hq, rfl⟩ := mem_zipWith hp
          exact hall k (linesOf_subset hq hk)

theorem State.settled_readStride {stride len ofs m : Nat} {rows : List (List Byte)}
    (h : s.readStride n c e stride len ofs m = .got rows ls) : s.Settled ls := by
  induction m generalizing ofs rows ls with
  | zero => cases h; exact .nil
  | succ m ih =>
    obtain ⟨r, l, k, hr, hrest, rfl⟩ := ERead.bind_got h
    obtain ⟨rest, hgot, rfl⟩ := ERead.map_got hrest
    exact (State.settled_engineRead hr).append (ih hgot)

theorem State.settled_readTermRow {dirOfs : Nat} {r : RowRead} (h : s.readTermRow n c e dirOfs fits = .got r ls) : s.Settled ls := by
  obtain ⟨d, _, _, hdir, hd, rfl⟩ := ERead.bind_got h
  refine (State.settled_engineRead hdir).append ?_
  dsimp only at hd
  split at hd
  · cases hd
  · obtain ⟨hb, _, _, hhb, hhead, rfl⟩ := ERead.bind_got hd
    refine (State.settled_engineRead hhb).append ?_
    split at hhead
    · cases hhead
    · split at hhead
      · cases hhead
      · obtain ⟨body, _, _, hbd, hbody, rfl⟩ := ERead.bind_got hhead
        refine (State.settled_engineRead hbd).append ?_
        split at hbody <;> cases hbody
        exact .nil

theorem State.settled_readTermRows {dirOfs m : Nat} {rows : List RowRead} (h : s.readTermRows n c e fits dirOfs m = .got rows ls) :
    s.Settled ls := by
  induction m generalizing dirOfs rows ls with
  | zero => cases h; exact .nil
  | succ m ih =>
    obtain ⟨r, l, k, hr, hrest, rfl⟩ := ERead.bind_got h
    obtain ⟨rest, hgot, rfl⟩ := ERead.map_got hrest
    exact (State.settled_readTermRow hr).append (ih hgot)

end

/-! ### A command's end -/

section
variable {s u : State} {n : Nat} {c : Cmd}

theorem State.mget_engineEnd (f : Cmd → Cmd) (h : mget? s.cmds n = some c) :
    mget? (s.engineEnd n f).cmds n = some { f c with phase := .finishing } :=
  mget_mupd_same (fun c => { f c with phase := .finishing }) h

theorem exec_engineCommandStart (hs : s.stopped = false) (hc : mget? s.cmds n = some c) (hm : s.mayStart n c = true)
    (h1 : c.op ≠ .mtask) (h2 : c.op ≠ .mtaskStream) : exec (.engineCommandStart n) s = .next (s.engineApply n c (s.work n c)) := by
  change execEngineCommandStart n s = _
  simp [execEngineCommandStart, State.runs_next _ _ hs, hc, hm, h1, h2]

theorem State.engineApply_got {d : EDone} {ls : List (Nat × List Nat)} {w : Nat} (hput : (s.fetched c ls).enginePut n c d.puts = .ok (u, w)) :
    s.engineApply n c (.got d ls) = u.engineEnd n (fun c => { c with
        flags := c.flags ||| d.flags, words := d.words.map (BitVec.ofNat 32), wvt := max c.wvt w
        status := if d.index.isSome then 8 else c.status
        failAt := (d.index.map (fun i => i.2.2)).getD c.failAt
        idxRec := d.index.map (fun i => (i.1, i.2.1)) }) := by
  simp only [State.engineApply, hput]

/-- A copy command that something stopped ends with the status of it. -/
theorem engineCommandStart_fails (hs : s.stopped = false) (hc : mget? s.cmds n = some c) (hm : s.mayStart n c = true)
    (h1 : c.op ≠ .mtask) (h2 : c.op ≠ .mtaskStream) {st va : Nat} (hw : s.work n c = .stop (.fail st va)) :
    Reaches (.engineCommandStart n) s (fun t => (∃ d, mget? t.cmds n = some d ∧ d.phase = .finishing ∧ d.status = st ∧ d.failAt = va) ∧
      t.mem = s.mem) := by
  refine ⟨_, exec_engineCommandStart hs hc hm h1 h2, ?_⟩
  rw [hw]
  exact ⟨⟨_, State.mget_engineEnd _ hc, rfl, rfl, rfl⟩, rfl⟩

/-- A copy command whose work is done ends with what the work gave. -/
theorem engineCommandStart_works (hs : s.stopped = false) (hu : s.Unwatched) (hn : s.Uncounted) (hc : mget? s.cmds n = some c)
    (hm : s.mayStart n c = true) (h1 : c.op ≠ .mtask) (h2 : c.op ≠ .mtaskStream) {d : EDone} {ls : List (Nat × List Nat)} {w : Nat}
    (hw : s.work n c = .got d ls) (hput : (s.fetched c ls).enginePut n c d.puts = .ok (u, w)) :
    Reaches (.engineCommandStart n) s (fun t => t.mem = u.mem ∧ t.cores = u.cores ∧
      ∃ e, mget? t.cmds n = some e ∧ e.phase = .finishing ∧ e.status = (if d.index.isSome then 8 else c.status) ∧
        e.flags = c.flags ||| d.flags ∧ e.wvt = max c.wvt w ∧ e.words = d.words.map (BitVec.ofNat 32)) := by
  have hf := State.sameWork_fetched hn c ls
  have huc : mget? u.cmds n = some c := by rwa [(State.sameWork_enginePut (hf.unwatched hu) hput).cmds, hf.cmds]
  refine ⟨_, exec_engineCommandStart hs hc hm h1 h2, ?_⟩
  rw [hw, State.engineApply_got hput]
  exact ⟨rfl, rfl, _, State.mget_engineEnd _ huc, rfl, rfl, rfl, rfl, rfl⟩

theorem epilogue_writes (hs : s.stopped = false) (hu : s.Unwatched) (hc : mget? s.cmds n = some c) (hp : c.phase = .folding)
    (hl : c.inLanes = false) (he : c.taskEpi ≠ 0) (hw : s.agentWaits (.cmd n) = false) {w : Nat}
    (hput : s.enginePut n c (s.epiDone c).puts = .ok (u, w)) :
    Reaches (.epilogue n) s (fun t => t.mem = u.mem ∧ ∃ e, mget? t.cmds n = some e ∧ e.phase = .finishing) := by
  have huc : mget? u.cmds n = some c := by rwa [(State.sameWork_enginePut hu hput).cmds]
  have hput' : (s.fetched c []).enginePut n c (s.epiDone c).puts = .ok (u, w) := by rwa [State.fetched_nil]
  have hx : exec (.epilogue n) s = .next (s.engineApply n c (.got (s.epiDone c) [])) := by
    change execEpilogue n s = _
    simp [execEpilogue, State.runs_next _ _ hs, hc, hp, hl, he, hw]
  refine ⟨_, hx, ?_⟩
  rw [State.engineApply_got hput']
  exact ⟨rfl, _, State.mget_engineEnd _ huc, rfl⟩

/-! ### A task's start -/

theorem State.freeRun_of_cmds {t : State} (h : t.cmds = s.cmds) (c : Cmd) : t.freeRun c = s.freeRun c := by
  unfold State.freeRun State.laneFree State.tasksOn
  rw [h]

theorem State.freeRun_of_taskMayStart (h : s.taskMayStart n c = true) : (s.freeRun c).isSome = true := by
  unfold State.taskMayStart at h
  simp only [Bool.and_eq_true] at h
  exact h.1.2

theorem State.startTask_mem (s : State) (n : Nat) (c : Cmd) (rows : List TRow) : (s.startTask n c rows).mem = s.mem := by
  unfold State.startTask
  rfl

/-- A task that starts holds its rows, and has closed no block. -/
theorem State.mget_startTask {rows : List TRow} (h : mget? s.cmds n = some c) :
    ∃ e, mget? (s.startTask n c rows).cmds n = some e ∧ e.phase = .folding ∧ e.nextBlk = List.replicate c.groups 0 ∧ e.rows = rows ∧
      e.lane0 = (s.freeRun c).getD 0 := by
  unfold State.startTask
  dsimp only [State.clearWaits, State.modCmd_cmds, State.modCore_cmds]
  exact ⟨_, mget_mupd_same _ h, rfl, rfl, rfl, rfl⟩

theorem mtaskStart_starts (hs : s.stopped = false) (hn : s.Uncounted) (hc : mget? s.cmds n = some c) (hm : s.taskMayStart n c = true)
    {rows : List RowRead} {ls : List (Nat × List Nat)}
    (hrows : s.readTermRows n c (c.handle 0) (fun h => h.k == c.taskK && decide (h.t ≤ taskT (c.word 7))) (c.word 1) c.taskM = .got rows ls) :
    Reaches (.mtaskStart n) s (fun t => t.mem = s.mem ∧ ∃ e, mget? t.cmds n = some e ∧ e.phase = .folding ∧
      e.nextBlk = List.replicate c.groups 0 ∧ e.rows.length = rows.length ∧ some e.lane0 = s.freeRun c) := by
  have hf := State.sameWork_fetched hn c ls
  have hfc : mget? (s.fetched c ls).cmds n = some c := by rwa [hf.cmds]
  have hx : exec (.mtaskStart n) s = .next ((s.fetched c ls).startTask n c (rows.map RowRead.task)) := by
    change execMtaskStart n s = _
    simp [execMtaskStart, State.runs_next _ _ hs, hc, hm, hrows]
  obtain ⟨e, he, hphase, hblk, hrow, hlane⟩ := State.mget_startTask (rows := rows.map RowRead.task) hfc
  obtain ⟨l, hl⟩ := Option.isSome_iff_exists.mp (State.freeRun_of_taskMayStart hm)
  refine ⟨_, hx, ?_, e, he, hphase, hblk, ?_, ?_⟩
  · rw [State.startTask_mem, State.mem_fetched hn c (State.settled_readTermRows hrows)]
  · rw [hrow, List.length_map]
  · rw [hlane, State.freeRun_of_cmds hf.cmds, hl]
    rfl

/-! ### A block's close -/

theorem getD_updIx {α : Type} (l : List α) (n k : Nat) (f : α → α) (d : α) :
    (updIx l n f).getD k d = if k = n ∧ n < l.length then f (l.getD k d) else l.getD k d := by
  induction l generalizing n k with
  | nil => simp [updIx]
  | cons x t ih =>
    cases n with
    | zero => cases k <;> simp [updIx]
    | succ n => cases k with
      | zero => simp [updIx]
      | succ k => simpa [updIx] using ih n k

theorem length_updIx {α : Type} (l : List α) (n : Nat) (f : α → α) : (updIx l n f).length = l.length := by
  induction l generalizing n with
  | nil => rfl
  | cons x t ih =>
    cases n with
    | zero => rfl
    | succ n => simp [updIx, ih]

theorem Cmd.closed_nextBlk (tg : Nat) (fl : Flags) : (c.closed tg fl).nextBlk = updIx c.nextBlk tg (· + 1) := by
  unfold Cmd.closed
  dsimp only
  split <;> rfl

/-- A folding task without an epilogue is done when its last block closes. -/
theorem Cmd.closed_phase {tg : Nat} {fl : Flags} (h : c.phase = .folding) :
    (c.closed tg fl).phase = .finishing ↔ c.taskEpi = 0 ∧ ∀ k ∈ (c.closed tg fl).nextBlk, c.blocks ≤ k := by
  have hopen : ({ c with nextBlk := updIx c.nextBlk tg (· + 1), flags := c.flags ||| fl } : Cmd).inLanes = false ↔
      ∀ k ∈ updIx c.nextBlk tg (· + 1), c.blocks ≤ k := by
    simp only [Cmd.inLanes, h, beq_self_eq_true, Bool.true_and, List.any_eq_false, decide_eq_true_eq, Nat.not_lt]
    rfl
  rw [Cmd.closed_nextBlk, ← hopen]
  unfold Cmd.closed
  dsimp only
  split
  case isTrue ht =>
    simp only [Bool.and_eq_true, Bool.not_eq_true', decide_eq_true_eq] at ht
    exact iff_of_true rfl ht
  case isFalse hf =>
    simp only [Bool.and_eq_true, Bool.not_eq_true', decide_eq_true_eq] at hf
    exact iff_of_false (by simp [h]) hf

theorem blockClose_closes (hs : s.stopped = false) (hn : s.Uncounted) (hc : mget? s.cmds n = some c) {tg : Nat} (hm : c.mayClose tg = true)
    (hw : s.agentWaits (.cmd n) = false) {ws : List (List Byte)} {wl sl : List (Nat × List Nat)} {sb : List Byte}
    (hws : s.readStride n c (c.handle 1) (16 * c.taskStr) (wfBytes c.taskWf c.taskN)
      (c.word 2 + 16 * c.taskStr * (32 * c.nextBlk.getD tg 0)) (min 32 (c.taskK - 32 * c.nextBlk.getD tg 0)) = .got ws wl)
    (hsb : s.engineRead n c (c.handle 1) (c.word 3 + 4 * strideElems c.taskWf c.taskStr * c.nextBlk.getD tg 0) (4 * c.taskN) = .got sb sl)
    (htg : tg < c.nextBlk.length) :
    Reaches (.blockClose n tg) s (fun t => t.mem = s.mem ∧ ∃ e, mget? t.cmds n = some e ∧
      e.nextBlk.getD tg 0 = c.nextBlk.getD tg 0 + 1 ∧ (∀ k, k ≠ tg → e.nextBlk.getD k 0 = c.nextBlk.getD k 0) ∧
      (e.phase = .finishing ↔ c.taskEpi = 0 ∧ ∀ k ∈ e.nextBlk, c.blocks ≤ k)) := by
  have hphase : c.phase = .folding := by
    simp only [Cmd.mayClose, Bool.and_eq_true, beq_iff_eq] at hm
    exact hm.1.1.1
  have hf := State.sameWork_fetched hn c (wl ++ sl)
  have hfc : mget? (s.fetched c (wl ++ sl)).cmds n = some c := by rwa [hf.cmds]
  have hmem := State.mem_fetched hn c ((State.settled_readStride hws).append (State.settled_engineRead hsb))
  have hx : ∃ x fl, exec (.blockClose n tg) s =
      .next ((((s.fetched c (wl ++ sl)).modCore c.core (fun _ => x)).modCmd n (fun c => c.closed tg fl)).clearWaits (.cmd n)) := by
    change ∃ x fl, execBlockClose n tg s = _
    simp only [execBlockClose, State.runs_next _ _ hs, hc, hm, hw, hws, hsb, ERead.bind, ERead.map, Bool.not_true, Bool.or_self,
      Bool.false_eq_true, ↓reduceIte]
    exact ⟨_, _, rfl⟩
  obtain ⟨x, fl, hx⟩ := hx
  refine ⟨_, hx, ?_, c.closed tg fl, ?_, ?_, fun k hk => ?_, Cmd.closed_phase hphase⟩
  · dsimp only [State.clearWaits, State.modCmd_mem, State.modCore_mem]
    exact hmem
  · exact mget_mupd_same (fun c => c.closed tg fl) hfc
  · rw [Cmd.closed_nextBlk, getD_updIx, if_pos ⟨rfl, htg⟩]
  · rw [Cmd.closed_nextBlk, getD_updIx, if_neg fun h => hk h.1]

end

end Sys2Proof.Machine

/-! ## A completed command's record (R41, R141 to R147) -/

namespace Sys2Proof.Machine

/-! ### Bytes of local memory -/

theorem State.locByte_setLocPoison (s : State) (core k : Nat) (p : Bool) (c off : Nat) :
    (s.setLocPoison core k p).locByte c off = s.locByte c off := by
  unfold State.locByte State.setLocPoison
  by_cases hc : c = core
  · rw [hc, State.core_modCore_same]
  · rw [State.core_modCore_other _ _ _ _ hc]

theorem State.locByte_writeLoc_inside (s : State) (core off : Nat) (bs : List Byte) {i : Nat} (hi : i < bs.length) :
    (s.writeLoc core off bs).locByte core (off + i) = bs[i] := by
  unfold State.locByte State.writeLoc
  rw [State.core_modCore_same]
  exact sget_putBytes_inside _ off i bs hi

theorem State.locByte_writeLoc_outside (s : State) (core off : Nat) (bs : List Byte) {k : Nat} (hk : k < off ∨ off + bs.length ≤ k) :
    (s.writeLoc core off bs).locByte core k = s.locByte core k := by
  unfold State.locByte State.writeLoc
  rw [State.core_modCore_same]
  exact sget_putBytes_outside _ off k bs hk

theorem getElem_leBytes (n x i : Nat) (hi : i < (leBytes n x).length) : (leBytes n x)[i] = BitVec.ofNat 8 (x / 2 ^ (8 * i)) := by
  induction n generalizing x i with
  | zero => simp [leBytes] at hi
  | succ n ih =>
    cases i with
    | zero => simp [leBytes]
    | succ i =>
      simp only [leBytes, List.getElem_cons_succ]
      rw [ih, Nat.div_div_eq_div_mul, show (256 : Nat) = 2 ^ 8 from rfl, ← pow_add]
      congr 3
      omega

/-! ### One entry enters q14 -/

theorem State.setLocPoison_keeps (s : State) (core : Nat) (p : Bool) (ks : List Nat) :
    let t := ks.foldl (fun acc k => acc.setLocPoison core k p) s
    SameWork s t ∧ t.teams = s.teams ∧ ∀ c off, t.locByte c off = s.locByte c off :=
  foldl_keeps (fun t : State => SameWork s t ∧ t.teams = s.teams ∧ ∀ c off, t.locByte c off = s.locByte c off) _
    (fun t k h => by
      obtain ⟨hw, hteams, hbytes⟩ := h
      exact ⟨hw.trans (t.sameWork_setLocPoison core k p), hteams, fun c off => (t.locByte_setLocPoison core k p c off).trans (hbytes c off)⟩)
    ks s ⟨.refl s, rfl, fun _ _ => rfl⟩

/-- A clean value in local memory that nothing watches: its bytes are stored, and the rest of the module stays. -/
theorem State.putLocalAs_one {s : State} (h : s.Unwatched) (core off : Nat) (bs : List Byte) :
    let t := s.putLocalAs core [(off, bs, false)]
    SameWork s t ∧ t.teams = s.teams ∧ ∀ c k, t.locByte c k = (s.writeLoc core off bs).locByte c k := by
  have hw := s.sameWork_writeLoc core off bs
  have hn : (s.writeLoc core off bs).notifyLocal core off bs.length = s.writeLoc core off bs :=
    State.notify_of_unwatched (hw.unwatched h) _
  unfold State.putLocalAs
  simp only [List.foldl_cons, List.foldl_nil, Bool.false_eq_true, ↓reduceIte, hn]
  obtain ⟨hk, hteams, hbytes⟩ := State.setLocPoison_keeps (s.writeLoc core off bs) core false _
  exact ⟨hw.trans hk, hteams, hbytes⟩

/-- A group whose q14 has taken clean entries. -/
def Group.recorded (g : Group) (n : Nat) : Group := { g with q14 := { g.q14 with tags := g.q14.tags ++ List.replicate n [false] } }

/-- Where entry `k` past the last of a group's q14 stands in local memory. -/
def Group.recordPlace (g : Group) (base k : Nat) : Nat :=
  base + g.q14.ofs + 4 * g.q14.words * ((g.q14.head + g.q14.tags.length + k) % 16)

theorem Group.recordPlace_of_word {g : Group} (h : g.q14.words = 1) (base k : Nat) :
    g.recordPlace base k = base + g.q14.ofs + 4 * ((g.q14.head + g.q14.tags.length + k) % 16) := by
  rw [Group.recordPlace, h, Nat.mul_one]

theorem Group.recorded_zero (g : Group) : g.recorded 0 = g := by simp [Group.recorded]

theorem Group.recorded_one_recorded (g : Group) (n : Nat) : (g.recorded 1).recorded n = g.recorded (n + 1) := by
  simp [Group.recorded, List.replicate_succ]

theorem Group.recordPlace_recorded (g : Group) (base k : Nat) : (g.recorded 1).recordPlace base k = g.recordPlace base (k + 1) := by
  simp only [Group.recordPlace, Group.recorded, List.length_append, List.length_replicate]
  rw [Nat.add_assoc g.q14.head, Nat.add_assoc g.q14.tags.length, Nat.add_comm 1 k, Nat.add_assoc g.q14.head]

theorem State.unwatched_modGroup_q14 {s : State} (h : s.Unwatched) (slot : Nat) (f : Group → Chan) :
    (s.modGroup slot (fun g => { g with q14 := f g })).Unwatched := by
  refine ⟨fun e he => ?_, h.2⟩
  obtain ⟨e', he', rfl⟩ := List.mem_map.mp he
  have hlanes : (if e'.1 = slot then (e'.1, { e'.2 with q14 := f e'.2 }) else e' : Nat × Group).2.lanes = e'.2.lanes := by
    split <;> rfl
  rw [hlanes]
  exact h.1 e' he'

section
variable {s : State} {slot : Nat} {g : Group}

theorem State.group_of_mget (h : mget? s.groups slot = some g) : s.group slot = g := by simp [State.group, h]

/-- One word enters q14: the group's queue has one more clean entry, and local memory holds the word in its place. -/
theorem State.pushEntry_record (hu : s.Unwatched) (hg : mget? s.groups slot = some g) (w : Word) :
    let t := s.pushEntry slot 14 [Reg.of w]
    t.Unwatched ∧ t.cmds = s.cmds ∧ t.teams = s.teams ∧ mget? t.groups slot = some (g.recorded 1) ∧
      ∀ k, t.locByte (coreOfSlot slot) k =
        (s.writeLoc (coreOfSlot slot) (g.recordPlace (s.team g.team).base 0) (leBytes 4 w.toNat)).locByte (coreOfSlot slot) k := by
  obtain ⟨hw, hteams, hbytes⟩ := State.putLocalAs_one hu (coreOfSlot slot) (g.recordPlace (s.team g.team).base 0) (leBytes 4 w.toNat)
  have hpush : s.pushEntry slot 14 [Reg.of w] =
      (s.putLocalAs (coreOfSlot slot) [(g.recordPlace (s.team g.team).base 0, leBytes 4 w.toNat, false)]).modGroup slot
        (fun x => { x with q14 := { g.q14 with tags := g.q14.tags ++ [[false]] } }) := by
    simp [State.pushEntry, portOf, State.setPort, State.group_of_mget hg, Chan.place, Chan.count, Group.recordPlace, Reg.of]
  have hput := (congrArg (mget? · slot) hw.groups).trans hg
  rw [hpush]
  refine ⟨State.unwatched_modGroup_q14 (hw.unwatched hu) slot _, hw.cmds, hteams, ?_, fun k => hbytes _ k⟩
  rw [State.modGroup_groups, mget_mupd_same _ hput]
  rfl

end

/-! ### A record enters q14 -/

/-- Words enter q14 one by one: commands and teams stay, and the group's queue has as many more clean entries. -/
theorem State.pushRecord_queue {s : State} {slot : Nat} {g : Group} (hu : s.Unwatched) (hg : mget? s.groups slot = some g) (ws : List Word) :
    (s.pushRecord slot ws).cmds = s.cmds ∧ mget? (s.pushRecord slot ws).groups slot = some (g.recorded ws.length) := by
  induction ws generalizing s g with
  | nil => exact ⟨rfl, by rw [List.length_nil, Group.recorded_zero]; exact hg⟩
  | cons w ws ih =>
    obtain ⟨hu1, hcmds, -, hg1, -⟩ := State.pushEntry_record hu hg w
    obtain ⟨hc, hq⟩ := ih hu1 hg1
    exact ⟨hc.trans hcmds, by rw [List.length_cons, ← Group.recorded_one_recorded]; exact hq⟩

/-- The places of two entries of a full ring or less do not meet. -/
theorem Group.recordPlace_apart {g : Group} (hw : g.q14.words = 1) (base : Nat) {j k : Nat} (hjk : j < k) (hk : k < j + 16) :
    g.recordPlace base j + 4 ≤ g.recordPlace base k ∨ g.recordPlace base k + 4 ≤ g.recordPlace base j := by
  rw [Group.recordPlace_of_word hw, Group.recordPlace_of_word hw]
  omega

/-- Local memory after words entered q14: each stands in its place, and no byte outside these places changed. -/
theorem State.pushRecord_bytes {s : State} {slot : Nat} {g : Group} (hu : s.Unwatched) (hg : mget? s.groups slot = some g)
    (hw : g.q14.words = 1) (ws : List Word) (hlen : ws.length ≤ 16) :
    (∀ k < ws.length, ∀ i < 4, (s.pushRecord slot ws).locByte (coreOfSlot slot) (g.recordPlace (s.team g.team).base k + i) =
      BitVec.ofNat 8 ((ws.getD k 0).toNat / 2 ^ (8 * i))) ∧
    ∀ a, (∀ k < ws.length, a < g.recordPlace (s.team g.team).base k ∨ g.recordPlace (s.team g.team).base k + 4 ≤ a) →
      (s.pushRecord slot ws).locByte (coreOfSlot slot) a = s.locByte (coreOfSlot slot) a := by
  induction ws generalizing s g with
  | nil => exact ⟨fun k hk => absurd hk (Nat.not_lt_zero k), fun _ _ => rfl⟩
  | cons w ws ih =>
    rw [List.length_cons] at hlen
    obtain ⟨hu1, -, hteams, hg1, hbytes⟩ := State.pushEntry_record hu hg w
    have hteam : ((s.pushEntry slot 14 [Reg.of w]).team (g.recorded 1).team).base = (s.team g.team).base := by
      unfold State.team
      rw [hteams]
      rfl
    obtain ⟨hin, hout⟩ := ih hu1 hg1 hw (by omega)
    rw [hteam] at hin hout
    simp only [Group.recordPlace_recorded] at hin hout
    refine ⟨fun k hk i hi => ?_, fun a ha => ?_⟩
    · cases k with
      | zero =>
        refine (hout _ fun j hj => ?_).trans ((hbytes _).trans ?_)
        · have hapart : _ + 4 ≤ g.recordPlace _ (j + 1) ∨ g.recordPlace _ (j + 1) + 4 ≤ _ :=
            Group.recordPlace_apart hw (s.team g.team).base (Nat.succ_pos j) (by omega)
          change _ < g.recordPlace _ (j + 1) ∨ g.recordPlace _ (j + 1) + 4 ≤ _
          omega
        · rw [State.locByte_writeLoc_inside _ _ _ _ (by simpa using hi), getElem_leBytes]
          rfl
      | succ k => exact hin k (by rw [List.length_cons] at hk; omega) i hi
    · refine (hout a fun j hj => ha (j + 1) (by rw [List.length_cons]; omega)).trans ((hbytes a).trans ?_)
      exact State.locByte_writeLoc_outside _ _ _ _ (by simpa using ha 0 (Nat.succ_pos _))

/-! ### A command completes -/

section
variable {s : State} {n : Nat} {c : Cmd}

theorem Cmd.length_recordTail (c : Cmd) : c.recordTail.length = 3 := by
  unfold Cmd.recordTail
  split
  · rfl
  · split <;> simp

theorem Cmd.word0_eq (c : Cmd) : c.word0 = BitVec.ofNat 32 (c.op.code * 2 ^ 24 + c.status * 2 ^ 16 +
    (if c.status = 0 then c.flags.toNat else 0) * 2 ^ 11 + c.ctr * 2 ^ 8 + c.ord % 256) := by
  unfold Cmd.word0 recordWord
  split <;> rfl

theorem Group.completed_kget (g : Group) (c : Cmd) : (g.completed c).kget c.ctr = g.kget c.ctr - 1 := by
  unfold Group.completed Group.kDown Group.kset Group.kget
  dsimp only
  rw [sget_sset_same]
  split <;> split <;> rfl

theorem Group.completed_q14 (g : Group) (c : Cmd) : (g.completed c).q14 = g.q14 := by
  unfold Group.completed Group.kDown Group.kset
  dsimp only
  split <;> split <;> rfl

theorem Group.completed_q14res {g : Group} (h : c.record = true) : (g.completed c).q14res = g.q14res - 4 := by
  unfold Group.completed Group.kDown Group.kset
  dsimp only
  rw [if_pos h]
  split <;> rfl

theorem Group.completed_of_success {g : Group} (h : c.status = 0) :
    (g.completed c).deferred = g.deferred ∧ (g.completed c).nfailed = g.nfailed := by
  unfold Group.completed Group.kDown Group.kset
  dsimp only
  rw [if_pos h]
  split <;> exact ⟨rfl, rfl⟩

theorem Group.completed_of_failure {g : Group} (h : c.status ≠ 0) :
    (g.completed c).nfailed = min 255 (g.nfailed + 1) ∧ (g.nfailed = 0 → (g.completed c).failed = c.word0) ∧
      (c.notrap = false → g.trapped = false → (g.completed c).deferred =
        g.deferred ++ [{ cause := statusCause c.status, xval := c.word0, xaddr := BitVec.ofNat 64 c.failAt }]) := by
  have hrec : ∀ x : Group, x = (if c.record then { g with q14res := g.q14res - 4 } else g) →
      x.nfailed = g.nfailed ∧ x.failed = g.failed ∧ x.trapped = g.trapped ∧ x.deferred = g.deferred := by
    rintro x rfl
    split <;> exact ⟨rfl, rfl, rfl, rfl⟩
  obtain ⟨hn, hf, ht, hd⟩ := hrec _ rfl
  unfold Group.completed Group.kDown Group.kset
  dsimp only
  rw [if_neg h]
  dsimp only
  rw [hn, ht, hd]
  refine ⟨rfl, fun h0 => if_pos h0, fun hnt htr => ?_⟩
  simp [hnt, htr, addrWord]

theorem State.mayComplete_iff (hp : c.phase = .finishing) : s.mayComplete c = true ↔ c.wvt < s.dieTime (c.core / 72) := by
  unfold State.mayComplete
  rw [hp, beq_self_eq_true, Bool.true_and, decide_eq_true_iff]
  rfl

/-- A command whose writes are not visible yet stays. -/
theorem engineCommandComplete_waits (hs : s.stopped = false) (hc : mget? s.cmds n = some c) (hp : c.phase = .finishing)
    (hw : s.dieTime (c.core / 72) ≤ c.wvt) : exec (.engineCommandComplete n) s = .next s := by
  have hm : s.mayComplete c = false := by
    rw [Bool.eq_false_iff, Ne, State.mayComplete_iff hp]
    omega
  change execEngineCommandComplete n s = _
  simp [execEngineCommandComplete, State.runs_next _ _ hs, hc, hm]

/-- The module after a command has gone and its record, if it leaves one, has entered q14. -/
def State.recordLeft (s : State) (n : Nat) (c : Cmd) : State :=
  if c.record then ({ s with cmds := mdel s.cmds n } : State).pushRecord c.slot (c.word0 :: c.recordTail) else { s with cmds := mdel s.cmds n }

theorem exec_engineCommandComplete (hs : s.stopped = false) (hc : mget? s.cmds n = some c) (hp : c.phase = .finishing)
    (hw : c.wvt < s.dieTime (c.core / 72)) :
    exec (.engineCommandComplete n) s = .next ((s.recordLeft n c).modGroup c.slot (fun g => g.completed c)) := by
  change execEngineCommandComplete n s = _
  simp [execEngineCommandComplete, State.runs_next _ _ hs, hc, (State.mayComplete_iff hp).mpr hw, State.recordLeft]

/-- A record adds four clean entries to the group's q14, and changes nothing else of the group. -/
theorem State.recordLeft_queue (hu : s.Unwatched) {g : Group} (hg : mget? s.groups c.slot = some g) :
    (s.recordLeft n c).cmds = mdel s.cmds n ∧
      mget? (s.recordLeft n c).groups c.slot = some (if c.record then g.recorded 4 else g) := by
  unfold State.recordLeft
  split
  · have hq := State.pushRecord_queue (s := { s with cmds := mdel s.cmds n }) hu hg (c.word0 :: c.recordTail)
    rwa [List.length_cons, Cmd.length_recordTail] at hq
  · exact ⟨rfl, hg⟩

/-- The words of a record stand one after another in the ring of q14. -/
theorem State.locByte_recordLeft (hu : s.Unwatched) {g : Group} (hg : mget? s.groups c.slot = some g) (hr : c.record = true)
    (hw : g.q14.words = 1) {k i : Nat} (hk : k < 4) (hi : i < 4) :
    (s.recordLeft n c).locByte (coreOfSlot c.slot) (g.recordPlace (s.team g.team).base k + i) =
      BitVec.ofNat 8 (((c.word0 :: c.recordTail).getD k 0).toNat / 2 ^ (8 * i)) := by
  have hlen : (c.word0 :: c.recordTail).length = 4 := by rw [List.length_cons, Cmd.length_recordTail]
  unfold State.recordLeft
  rw [if_pos hr]
  exact (State.pushRecord_bytes (s := { s with cmds := mdel s.cmds n }) hu hg hw (c.word0 :: c.recordTail) (by omega)).1 k (by omega) i hi

/-- A command whose writes are visible is gone, and its group has its record, its counter and its failure. -/
theorem engineCommandComplete_completes (hs : s.stopped = false) (hu : s.Unwatched) (hc : mget? s.cmds n = some c) (hp : c.phase = .finishing)
    {g : Group} (hg : mget? s.groups c.slot = some g) (hw : c.wvt < s.dieTime (c.core / 72)) :
    Reaches (.engineCommandComplete n) s (fun t => mget? t.cmds n = none ∧
      t.group c.slot = (if c.record then g.recorded 4 else g).completed c ∧
      (c.record = true → g.q14.words = 1 → ∀ k < 4, ∀ i < 4, t.locByte (coreOfSlot c.slot) (g.recordPlace (s.team g.team).base k + i) =
        BitVec.ofNat 8 (((c.word0 :: c.recordTail).getD k 0).toNat / 2 ^ (8 * i)))) := by
  obtain ⟨hcmds, hq⟩ := State.recordLeft_queue (n := n) (c := c) hu hg
  refine ⟨_, exec_engineCommandComplete hs hc hp hw, ?_, ?_, fun hr h1 k hk i hi => State.locByte_recordLeft hu hg hr h1 hk hi⟩
  · rw [State.modGroup_cmds, hcmds, mget_mdel_same]
  · rw [State.group_modGroup_same _ _ _ (by rw [hq]; rfl), State.group_of_mget hq]

end

end Sys2Proof.Machine

/-! ## The engines' obligation (R127 to R149, R72 to R76, R118 to R120) -/

namespace Sys2Proof.Machine

/-- The group of a completed command: its counter, its queue with the record, its deferred traps and failures. -/
theorem Group.completed_group (g : Group) (c : Cmd) :
    let x := (if c.record then g.recorded 4 else g).completed c
    x.kget c.ctr = g.kget c.ctr - 1 ∧ (c.record = true → x.q14 = (g.recorded 4).q14 ∧ x.q14res = g.q14res - 4) ∧
      (c.status = 0 → x.deferred = g.deferred ∧ x.nfailed = g.nfailed) ∧
      (c.status ≠ 0 → x.nfailed = min 255 (g.nfailed + 1) ∧ (g.nfailed = 0 → x.failed = c.word0) ∧
        (c.notrap = false → g.trapped = false → x.deferred =
          g.deferred ++ [{ cause := statusCause c.status, xval := c.word0, xaddr := BitVec.ofNat 64 c.failAt }])) := by
  have hfields : ∀ y, y = (if c.record then g.recorded 4 else g) → y.kget c.ctr = g.kget c.ctr ∧ y.q14res = g.q14res ∧
      y.deferred = g.deferred ∧ y.nfailed = g.nfailed ∧ y.trapped = g.trapped := by
    rintro y rfl
    split <;> exact ⟨rfl, rfl, rfl, rfl, rfl⟩
  obtain ⟨hk, hres, hdef, hnf, htr⟩ := hfields _ rfl
  refine ⟨?_, fun hr => ⟨?_, ?_⟩, fun h0 => ?_, fun h0 => ?_⟩
  · rw [Group.completed_kget, hk]
  · rw [Group.completed_q14, if_pos hr]
  · rw [Group.completed_q14res hr, hres]
  · rw [← hdef, ← hnf]
    exact Group.completed_of_success h0
  · rw [← hdef, ← hnf, ← htr]
    exact Group.completed_of_failure h0

/-- Settles O47: each step of a command is taken apart above, clause by clause; the NAF, the cut, the encoding of rows and its reading
back, and the folding of accumulator rows are facts about the model's functions. -/
theorem engineSteps : Obligations.EngineSteps := by
  unfold Obligations.EngineSteps
  refine ⟨fun s n c hs hu hn hc => ⟨fun hm h1 h2 => ⟨fun st va hw => ?_, fun d ls u w hw hput => ?_⟩, fun hm rows ls hrows => ?_, ?_, ?_, ?_⟩,
    fun s n c d ls h => State.writesAt_of_work h, fun q hq => isNaf_naf (by decide) hq, fun q cap hq hcap => cutToT_eq (by omega) hcap,
    encodesRow_encodeRow, fun x cap h1 h8 hne hscale hk hworst hq hnan => Encoded.bytes_read h1 h8 hne hscale hk hworst hq hnan,
    fun x acc p new _ => preparesRow_prepare x acc p new, Core.fold_spec⟩
  · exact engineCommandStart_fails hs hc hm h1 h2 hw
  · exact engineCommandStart_works hs hu hn hc hm h1 h2 hw hput
  · exact mtaskStart_starts hs hn hc hm hrows
  · intro tg hm hw b ws wl sb sl hws hsb htg
    exact blockClose_closes hs hn hc hm hw hws hsb htg
  · intro hp hl he hw u w hput
    exact epilogue_writes hs hu hc hp hl he hw hput
  · intro hp hres
    refine ⟨fun hw => engineCommandComplete_waits hs hc hp hw, fun hw => ?_⟩
    obtain ⟨g, hg⟩ := Option.isSome_iff_exists.mp hres
    obtain ⟨t, hx, hgone, hgroup, hbytes⟩ := engineCommandComplete_completes hs hu hc hp hg hw
    obtain ⟨hk, hq, hok, hbad⟩ := Group.completed_group g c
    refine ⟨t, hx, hgone, ?_⟩
    rw [State.group_of_mget hg, hgroup]
    dsimp only
    rw [← Cmd.word0_eq]
    refine ⟨hk, fun hr h1 _ => ⟨(hq hr).1, (hq hr).2, fun k hk i hi => ?_⟩, hok, hbad⟩
    rw [← Group.recordPlace_of_word h1]
    exact hbytes hr h1 k hk i hi

end Sys2Proof.Machine

/-! ## The words that ready sources give (R39, R41, R90) -/

namespace Sys2Proof.Machine

theorem popCount_append (l k : List (Src × Pos)) (p : Nat) : popCount (l ++ k) p = popCount l p + popCount k p := by
  simp [popCount]

/-- Operands that are ready are refused by no decode rule and blocked by no port (R41, R53). -/
theorem State.Ready.served {s : State} {u : Uses} (h : s.Ready u) :
    u.refused (s.team s.cur.team) s.cur.nregs = none ∧
      blockedPort s.cur (s.team s.cur.team) (s.owed s.cur) u.pops u.push = none := by
  obtain ⟨-, hheld⟩ := h
  cases hr : u.refused (s.team s.cur.team) s.cur.nregs with
  | some c =>
    rw [State.heldBy_of_refused hr] at hheld
    cases hheld
  | none => exact ⟨rfl, by rwa [State.heldBy_of_not_refused hr, Option.map_eq_none_iff] at hheld⟩

/-- A ready port holds every entry that the sources pop. -/
theorem State.Ready.popCount_le {s : State} {u : Uses} (h : s.Ready u) (p : Nat) : popCount u.srcs p ≤ (s.portEntries p).length := by
  by_contra hshort
  refine not_blocks_of_blockedPort h.served.2 p (.inl ?_)
  rw [portHolds_eq_length, Uses.popsOf_pops]
  exact Nat.lt_of_not_le hshort

theorem litWords_length (lit : Word) {pos : Pos} (h : pos ≠ .quad) : (litWords lit pos).length = pos.words := by
  cases pos with
  | quad => exact absurd rfl h
  | word | pair | dbl | half | bhalf => rfl

/-- A source that can be served gives as many words as its position holds. -/
theorem State.given_length {s : State} {before : List (Src × Pos)} {x : Src × Pos} (hpos : x.2 ≠ .quad)
    (hport : ∀ p, popCount (before ++ [x]) p ≤ (s.portEntries p).length) (l : Nat) : (s.given before x l).length = x.2.words := by
  obtain ⟨x, pos⟩ := x
  cases x with
  | q n =>
    have h := hport n.val
    rw [popCount_append, popCount_cons_port, if_pos rfl] at h
    simp only [State.given, List.length_map, List.length_take, List.length_drop]
    omega
  | lit => exact litWords_length s.ix.lit hpos
  | v n | s n => simp [State.given, gotWords]

/-- Ready sources give each lane as many words as their positions hold. -/
theorem State.Ready.srcWords_shape {s : State} {u : Uses} (h : s.Ready u) (hpos : ∀ x ∈ u.srcs, x.2 ≠ .quad) (l : Nat) :
    ((s.take s.ix.slot u.srcs).2.srcWords (s.take s.ix.slot u.srcs).1 l).map List.length = u.srcs.map (fun x => x.2.words) := by
  apply List.ext_getElem?
  intro i
  rw [State.srcWords, (s.sameSources_take u.srcs).laneWords_eq, List.getElem?_map, s.take_given, List.getElem?_map, Option.map_map]
  cases hi : u.srcs[i]? with
  | none => rfl
  | some x =>
    obtain ⟨hlt, hx⟩ := List.getElem?_eq_some_iff.mp hi
    have hsplit : u.srcs = u.srcs.take i ++ [x] ++ u.srcs.drop (i + 1) := by
      rw [← hx, List.append_assoc, List.singleton_append, ← List.drop_eq_getElem_cons, List.take_append_drop]
    refine congrArg some (s.given_length (hpos x (List.mem_of_getElem? hi)) (fun p => ?_) l)
    have hle := h.popCount_le p
    rw [hsplit, popCount_append] at hle
    exact (Nat.le_add_right _ _).trans hle

/-- An arithmetic row: its completion, from the equality of its evaluation with a result on sources of the words they give. -/
theorem computes_of_shape (i : Instr) (u : Uses) (f g : List (List Reg) → Res) (hi : ∀ s, exec i s = s.runs (s.alu u f))
    (hpos : ∀ x ∈ u.srcs, x.2 ≠ .quad)
    (h : ∀ x : List (List Reg), x.map List.length = u.srcs.map (fun x => x.2.words) → f x = g x) : Computes i u g := by
  intro s hs
  rw [hi, State.runs_next _ _ hs.1, State.alu_ready _ _ _ hs.2]
  unfold State.computed
  simp only
  congr 2
  exact List.map_congr_left fun l _ => by rw [h _ (hs.srcWords_shape hpos l)]

/-! ### Lists of words by their lengths -/

theorem exists_word {l : List Reg} (h : l.length = 1) : ∃ a, l = [a] := List.length_eq_one_iff.mp h

theorem exists_pair {l : List Reg} (h : l.length = 2) : ∃ a b, l = [a, b] := List.length_eq_two.mp h

theorem wordsVal_word (a : Reg) : wordsVal [a] = a.bits.setWidth 64 := rfl

end Sys2Proof.Machine

/-! ## The integer instructions (R94 to R100) -/

namespace Sys2Proof.Machine

/-! ### Rows of the integer instructions, from what they do to words -/

section
variable {i : Instr} {d : Dst} {a b : Src}

theorem computes_word2 {f g : Word → Word → Word} (hi : ∀ s, exec i s = s.word2 d a b f) (h : ∀ x y, f x y = g x y) :
    Computes i (usesWord2 d a b) (words2 g) := by
  refine computes_of_alu i _ _ _ hi fun x hx => ?_
  obtain ⟨p, q, rfl⟩ := List.length_eq_two.mp hx
  simp [plainly, int2, words2, wordRes, wordAt, resWords, wordsVal_low, h]

theorem computes_word1 {f g : Word → Word} (hi : ∀ s, exec i s = s.word1 d a f) (h : ∀ x, f x = g x) :
    Computes i (usesWord1 d a) (words1 g) := by
  refine computes_of_alu i _ _ _ hi fun x hx => ?_
  obtain ⟨p, rfl⟩ := List.length_eq_one_iff.mp hx
  simp [plainly, int1, words1, wordRes, wordAt, resWords, wordsVal_low, h]

theorem computes_word3 {f g : Word → Word → Word → Word}
    (hi : ∀ s, exec i s = s.runs (s.alu (usesWord3 d a b) (plainly 1 (int3 f)))) (h : ∀ x y z, f x y z = g x y z) :
    Computes i (usesWord3 d a b) (wordRes (fun x => g (wordAt x 0) (wordAt x 1) (wordAt x 2))) := by
  refine computes_of_alu i _ _ _ hi fun x hx => ?_
  obtain ⟨p, q, r, rfl⟩ := List.length_eq_three.mp hx
  simp [plainly, int3, wordRes, wordAt, resWords, wordsVal_low, h]

theorem computes_pair2 {f g : DWord → DWord → DWord} (hi : ∀ s, exec i s = s.pair2 d a b f) (h : ∀ x y, f x y = g x y) :
    Computes i (use2 d 2 a .pair b .pair) (pairs2 g) := by
  refine computes_of_alu i _ _ _ hi fun x hx => ?_
  obtain ⟨p, q, rfl⟩ := List.length_eq_two.mp hx
  simp [plainly, long2, pairs2, pairRes, pairAt, resWords, h]

theorem computes_pair1 {f g : DWord → DWord} (hi : ∀ s, exec i s = s.pair1 d a f) (h : ∀ x, f x = g x) :
    Computes i (use1 d 2 a .pair) (pairRes (fun x => g (pairAt x 0))) := by
  refine computes_of_alu i _ _ _ hi fun x hx => ?_
  obtain ⟨p, rfl⟩ := List.length_eq_one_iff.mp hx
  simp [plainly, long1, pairRes, pairAt, resWords, h]

theorem computes_test2 {f : DWord → DWord → Bool} {g : DWord → DWord → Word} (hi : ∀ s, exec i s = s.test2 d a b f)
    (h : ∀ x y, bitWord (f x y) = g x y) :
    Computes i (use2 d 1 a .pair b .pair) (wordRes (fun x => g (pairAt x 0) (pairAt x 1))) := by
  refine computes_of_alu i _ _ _ hi fun x hx => ?_
  obtain ⟨p, q, rfl⟩ := List.length_eq_two.mp hx
  simp [plainly, long2, wordRes, pairAt, resWords, ← h, bitWord]

/-- The count of a shift is a word, so 64 bits hold the same number. -/
theorem computes_shift2 {f : DWord → Nat → DWord} {g : DWord → Word → DWord}
    (hi : ∀ s, exec i s = s.shift2 d a b (fun x y => f x y.toNat)) (h : ∀ x c, f x c.toNat = g x c) :
    Computes i (use2 d 2 a .pair b .word) (shifts2 g) := by
  refine computes_of_shape i _ _ _ hi (by simp [use2]) fun x hx => ?_
  obtain ⟨p, q, rfl⟩ := List.length_eq_two.mp (by simpa [use2] using congrArg List.length hx)
  obtain ⟨c, rfl⟩ : ∃ c, q = [c] := exists_word (by simpa [use2, Pos.words] using congrArg (fun l => l.getD 1 0) hx)
  have hc : (wordsVal [c]).toNat = c.bits.toNat := BitVec.toNat_setWidth_of_le (by decide)
  simp [plainly, long2, shifts2, pairRes, pairAt, wordAt, resWords, hc, ← h]

/-- Two words zero-extended and a pair into the pair D. -/
theorem computes_wide3 {f : DWord → DWord → DWord → DWord} {g : Word → Word → DWord → DWord}
    (hi : ∀ s, exec i s = s.wide3 d a b f) (h : ∀ (x y : Word) z, f (x.setWidth 64) (y.setWidth 64) z = g x y z) :
    Computes i (use3 d 2 a .word b .word .pair) (pairRes (fun x => g (wordAt x 0) (wordAt x 1) (pairAt x 2))) := by
  refine computes_of_shape i _ _ _ hi (by simp [use3]) fun x hx => ?_
  obtain ⟨p, q, r, rfl⟩ := List.length_eq_three.mp (by simpa [use3] using congrArg List.length hx)
  obtain ⟨hp, hq, -⟩ : p.length = 1 ∧ q.length = 1 ∧ r.length = 2 := by simpa [use3, Pos.words] using hx
  obtain ⟨v, rfl⟩ := exists_word hp
  obtain ⟨w, rfl⟩ := exists_word hq
  simp [plainly, long3, pairRes, pairAt, wordAt, resWords, wordsVal_word, h]

/-- SEL's word and tag are those of the word selected, with the tag of a (R95). -/
theorem computes_sel (d : Dst) (a b : Src) : Computes (.sel d a b) (usesWord3 d a b) (fun x =>
    let c := (x.getD 0 []).headD Reg.zero
    let w := (x.getD (if c.bits ≠ 0 then 1 else 2) []).headD Reg.zero
    { words := [{ bits := w.bits, poison := c.poison || w.poison }], flags := 0#5 }) := by
  refine computes_of_shape _ _ selRes _ (fun _ => rfl) (by simp [use3]) fun x hx => ?_
  obtain ⟨p, q, r, rfl⟩ := List.length_eq_three.mp (by simpa [use3] using congrArg List.length hx)
  obtain ⟨hp, hq, hr⟩ : p.length = 1 ∧ q.length = 1 ∧ r.length = 1 := by simpa [use3, Pos.words] using hx
  obtain ⟨u, rfl⟩ := exists_word hp
  obtain ⟨v, rfl⟩ := exists_word hq
  obtain ⟨w, rfl⟩ := exists_word hr
  by_cases hu : u.bits = 0#32 <;> simp [selRes, hu]

end

/-! ### Words -/

section
variable {w : Nat} (x y : BitVec w)

theorem add_eq_ofNat : x + y = BitVec.ofNat w (x.toNat + y.toNat) := BitVec.eq_of_toNat_eq (by simp)

theorem sub_eq_ofInt : x - y = BitVec.ofInt w (x.toInt - y.toInt) := BitVec.eq_of_toInt_eq (by simp [BitVec.toInt_sub])

theorem mul_eq_ofNat : x * y = BitVec.ofNat w (x.toNat * y.toNat) := BitVec.eq_of_toNat_eq (by simp)

theorem neg_eq_ofInt : -x = BitVec.ofInt w (0 - x.toInt) := BitVec.eq_of_toInt_eq (by simp [BitVec.toInt_neg])

theorem shiftLeft_eq_ofNat (n : Nat) : x <<< n = BitVec.ofNat w (x.toNat * 2 ^ n) :=
  BitVec.eq_of_toNat_eq (by simp [Nat.shiftLeft_eq])

theorem ushiftRight_eq_ofNat (n : Nat) : x >>> n = BitVec.ofNat w (x.toNat / 2 ^ n) := by
  rw [← Nat.shiftRight_eq_div_pow, ← BitVec.toNat_ushiftRight, BitVec.ofNat_toNat, BitVec.setWidth_eq]

theorem sshiftRight_eq_ofInt (n : Nat) : x.sshiftRight n = BitVec.ofInt w (x.toInt / 2 ^ n) := by
  have h : x.toInt / 2 ^ n = (x.sshiftRight n).toInt := by
    rw [BitVec.toInt_sshiftRight, Int.shiftRight_eq_div_pow]
    norm_cast
  rw [h, BitVec.ofInt_toInt]

theorem mad_eq (x y z : Word) : x * y + z = BitVec.ofNat 32 (x.toNat * y.toNat + z.toNat) := BitVec.eq_of_toNat_eq (by simp)

theorem movih_eq (n : BitVec 16) (x : Word) : n ++ x.extractLsb' 0 16 = BitVec.ofNat 32 (n.toNat * 65536 + x.toNat % 65536) := by
  apply BitVec.eq_of_toNat_eq
  rw [BitVec.toNat_append, ← Nat.shiftLeft_add_eq_or_of_lt (BitVec.isLt _), Nat.shiftLeft_eq]
  simp
  omega

theorem madwu_eq (x y : Word) (z : DWord) :
    z + x.setWidth 64 * y.setWidth 64 = BitVec.ofNat 64 (z.toNat + x.toNat * y.toNat) := by
  apply BitVec.eq_of_toNat_eq
  simp

theorem addwu_eq (x y : Word) (z : DWord) :
    z + x.setWidth 64 + y.setWidth 64 = BitVec.ofNat 64 (z.toNat + x.toNat + y.toNat) := by
  apply BitVec.eq_of_toNat_eq
  simp

theorem computes_movi (d : Dst) (n : BitVec 16) : Computes (.movi d n) { srcs := [], dst := d, words := 1, uniform := [], noUni := false }
    (fun _ => { words := [{ bits := BitVec.ofInt 32 n.toInt, poison := false }], flags := 0#5 }) :=
  computes_of_alu _ _ (fun _ => { words := [Reg.of (n.signExtend 32)], flags := 0#5 }) _ (fun _ => rfl) fun _ _ => by
    rw [BitVec.signExtend, Reg.of]

theorem computes_movih (d : Dst) (n : BitVec 16) :
    Computes (.movih d n) { srcs := [(dstSrc d, .word)], dst := d, words := 1, uniform := [], noUni := false }
      (wordRes (fun x => BitVec.ofNat 32 (n.toNat * 65536 + (wordAt x 0).toNat % 65536))) := by
  refine computes_of_alu _ _ (plainly 1 (int1 (fun x => n ++ x.extractLsb' 0 16))) _ (fun _ => rfl) fun x hx => ?_
  obtain ⟨p, rfl⟩ := List.length_eq_one_iff.mp hx
  simp [plainly, int1, wordRes, wordAt, resWords, wordsVal_low, movih_eq]

/-- The bits of a product past the width of its factors are the quotient. -/
theorem extractHigh_ofInt (p : Int) : (BitVec.ofInt 64 p).extractLsb' 32 32 = BitVec.ofInt 32 (p / 2 ^ 32) := by
  apply BitVec.eq_of_toNat_eq
  simp only [BitVec.extractLsb'_toNat, BitVec.toNat_ofInt, Nat.shiftRight_eq_div_pow]
  omega

theorem mulhs_eq (x y : Word) : mulhs x y = BitVec.ofInt 32 (x.toInt * y.toInt / 2 ^ 32) := by
  rw [mulhs, BitVec.signExtend, BitVec.signExtend, ← BitVec.ofInt_mul, extractHigh_ofInt]

theorem mulhu_eq (x y : Word) : mulhu x y = BitVec.ofNat 32 (x.toNat * y.toNat / 2 ^ 32) := by
  have h : x.setWidth 64 * y.setWidth 64 = BitVec.ofInt 64 ((x.toNat * y.toNat : Nat) : Int) := by
    apply BitVec.eq_of_toNat_eq
    simp
    omega
  rw [mulhu, h, extractHigh_ofInt]
  exact_mod_cast rfl

theorem min_signed (x y : BitVec w) : (if y.slt x then y else x) = BitVec.ofInt w (min x.toInt y.toInt) := by
  simp only [BitVec.slt_iff_toInt_lt]
  split
  next h => rw [min_eq_right h.le, BitVec.ofInt_toInt]
  next h => rw [min_eq_left (not_lt.mp h), BitVec.ofInt_toInt]

theorem max_signed (x y : BitVec w) : (if x.slt y then y else x) = BitVec.ofInt w (max x.toInt y.toInt) := by
  simp only [BitVec.slt_iff_toInt_lt]
  split
  next h => rw [max_eq_right h.le, BitVec.ofInt_toInt]
  next h => rw [max_eq_left (not_lt.mp h), BitVec.ofInt_toInt]

theorem min_unsigned (x y : BitVec w) : (if y.ult x then y else x) = BitVec.ofNat w (min x.toNat y.toNat) := by
  simp only [BitVec.ult_iff_toNat_lt]
  split
  next h => rw [min_eq_right h.le, BitVec.ofNat_toNat, BitVec.setWidth_eq]
  next h => rw [min_eq_left (not_lt.mp h), BitVec.ofNat_toNat, BitVec.setWidth_eq]

theorem max_unsigned (x y : BitVec w) : (if x.ult y then y else x) = BitVec.ofNat w (max x.toNat y.toNat) := by
  simp only [BitVec.ult_iff_toNat_lt]
  split
  next h => rw [max_eq_right h.le, BitVec.ofNat_toNat, BitVec.setWidth_eq]
  next h => rw [max_eq_left (not_lt.mp h), BitVec.ofNat_toNat, BitVec.setWidth_eq]

theorem bitWord_eq_truth {b : Bool} {p : Prop} [Decidable p] (h : b = true ↔ p) : bitWord b = truth p := by
  cases b <;> simp_all [bitWord, truth, b2n]

end

/-- Settles O1: each row evaluates an equation of words below. -/
theorem integerWords : Obligations.IntegerWords := by
  unfold Obligations.IntegerWords
  refine ⟨fun d a b => ⟨?_, ?_, ?_, ?_, ?_, ?_, ?_, ?_, ?_, ?_, ?_, ?_, ?_, ?_, ?_, ?_, ?_, ?_⟩, fun d a b n => ⟨?_, ?_, ?_, ?_⟩⟩
  · exact computes_word2 (fun _ => rfl) add_eq_ofNat
  · exact computes_word2 (fun _ => rfl) sub_eq_ofInt
  · exact computes_word2 (fun _ => rfl) mul_eq_ofNat
  · exact computes_word2 (fun _ => rfl) mulhs_eq
  · exact computes_word2 (fun _ => rfl) mulhu_eq
  · exact computes_word2 (fun _ => rfl) fun _ _ => rfl
  · exact computes_word2 (fun _ => rfl) fun _ _ => rfl
  · exact computes_word2 (fun _ => rfl) fun _ _ => rfl
  · exact computes_word2 (fun _ => rfl) fun x c => shiftLeft_eq_ofNat x c.toNat
  · exact computes_word2 (fun _ => rfl) fun x c => ushiftRight_eq_ofNat x c.toNat
  · exact computes_word2 (fun _ => rfl) fun x c => sshiftRight_eq_ofInt x c.toNat
  · exact computes_word2 (fun _ => rfl) min_signed
  · exact computes_word2 (fun _ => rfl) max_signed
  · exact computes_word2 (fun _ => rfl) min_unsigned
  · exact computes_word2 (fun _ => rfl) max_unsigned
  · exact computes_word2 (fun _ => rfl) fun _ _ => bitWord_eq_truth BitVec.slt_iff_toInt_lt
  · exact computes_word2 (fun _ => rfl) fun _ _ => bitWord_eq_truth BitVec.ult_iff_toNat_lt
  · exact computes_word2 (fun _ => rfl) fun _ _ => bitWord_eq_truth beq_iff_eq
  · have h := computes_word3 (i := .mad d a b) (fun _ => rfl) mad_eq
    exact h
  · exact computes_sel d a b
  · exact computes_movi d n
  · exact computes_movih d n

/-! ### The bits and the bytes of words -/

theorem size_eq_log2 {n : Nat} (h : n ≠ 0) : Nat.size n = Nat.log2 n + 1 :=
  le_antisymm (Nat.size_le.mpr Nat.lt_log2_self) (Nat.lt_size.mpr (Nat.log2_self_le h))

theorem leadZeros_eq (x : Word) : leadZeros x = 32 - Nat.size x.toNat := by
  unfold leadZeros
  split
  next h => rw [h]; rfl
  next h => rw [size_eq_log2 fun h0 => h (BitVec.eq_of_toNat_eq h0)]; omega

theorem findIx_range (p : Nat → Bool) (lo n : Nat) : findIx p (range lo n) = ((List.range' lo n).find? p).map (· - lo) := by
  induction n generalizing lo with
  | zero => rfl
  | succ n ih =>
    rw [range, findIx, List.range'_succ, List.find?_cons, ih]
    cases hp : p lo with
    | true => simp
    | false =>
      simp only [Bool.false_eq_true, if_false, Option.map_map]
      refine Option.map_congr fun k hk => ?_
      have := List.mem_range'_1.mp (List.mem_of_find?_eq_some hk)
      simp only [Function.comp_apply]
      omega

theorem trailZeros_eq (x : Word) : trailZeros x = ((List.range 32).find? (fun i => x.getLsbD i)).getD 32 := by
  rw [trailZeros, findIx_range, ← List.range_eq_range']
  simp

theorem oneBits_eq (x : Word) : oneBits x = (List.range 32).countP (fun i => x.getLsbD i) := by
  rw [oneBits, range_eq, ← List.range_eq_range', List.countP_eq_length_filter]

theorem bitRev_eq (x : Word) : bitRev x = x.reverse := by
  apply BitVec.eq_of_getLsbD_eq
  intro i hi
  have hlen : ((range 0 32).map x.getLsbD).length = 32 := rfl
  have hget : ((range 0 32).map x.getLsbD).getD (31 - i) false = x.getLsbD (31 - i) := by
    simp [List.getD_eq_getElem?_getD, getElem?_range (show 31 - i < 32 by omega)]
  rw [BitVec.getLsbD_reverse, BitVec.getMsbD_eq_getLsbD, bitRev]
  exact (BitVec.getLsbD_ofBoolListBE ..).trans (by rw [hlen, hget])

theorem byteRev_eq (x : Word) : byteRev x = BitVec.ofNat 32 ((x.toNat % 256) * 2 ^ 24 + (x.toNat / 2 ^ 8 % 256) * 2 ^ 16 +
    (x.toNat / 2 ^ 16 % 256) * 2 ^ 8 + x.toNat / 2 ^ 24) := by
  apply BitVec.eq_of_toNat_eq
  have hlt := x.isLt
  have hcat : ∀ (n m : Nat) (u : BitVec n) (v : BitVec m), (u ++ v).toNat = u.toNat * 2 ^ m + v.toNat := fun n m u v => by
    rw [BitVec.toNat_append, ← Nat.shiftLeft_add_eq_or_of_lt v.isLt, Nat.shiftLeft_eq]
  simp only [byteRev, hcat, BitVec.extractLsb'_toNat, BitVec.toNat_ofNat, Nat.shiftRight_eq_div_pow, pow_zero, Nat.div_one]
  have htop : x.toNat / 2 ^ 24 < 2 ^ 8 := by omega
  rw [Nat.mod_eq_of_lt htop, Nat.mod_eq_of_lt (show _ < 2 ^ 32 by omega)]
  omega

theorem signExtend_low (x : Word) (n : Nat) : (x.extractLsb' 0 n).signExtend 32 = BitVec.ofInt 32 (BitVec.ofNat n x.toNat).toInt := by
  rw [BitVec.signExtend, BitVec.extractLsb', Nat.shiftRight_zero]

theorem setWidth_low (x : Word) (n : Nat) : (x.extractLsb' 0 n).setWidth 32 = BitVec.ofNat 32 (x.toNat % 2 ^ n) := by
  apply BitVec.eq_of_toNat_eq
  simp

theorem abs_eq (x : Word) : (if x.msb then -x else x) = if x.getLsbD 31 then BitVec.ofInt 32 (0 - x.toInt) else x := by
  rw [neg_eq_ofInt, BitVec.msb_eq_getLsbD_last]

theorem not_eq_ofNat (x : Word) : ~~~x = BitVec.ofNat 32 (2 ^ 32 - 1 - x.toNat) := by
  apply BitVec.eq_of_toNat_eq
  have := x.isLt
  rw [BitVec.toNat_not, BitVec.toNat_ofNat]
  omega

/-- The NAF of the low half of a word, least position first (R72, R98). -/
def halfNaf (x : Word) : List (Nat × Bool) := (naf (x.extractLsb' 0 16).toInt).reverse

theorem length_halfNaf (x : Word) : (halfNaf x).length = termCount x := List.length_reverse

theorem halfNaf_spec (x : Word) : (halfNaf x).Pairwise (fun p q => p.1 + 1 < q.1) ∧
    ((halfNaf x).map (fun p => if p.2 then -(2 : Int) ^ p.1 else 2 ^ p.1)).sum = (BitVec.ofNat 16 x.toNat).toInt := by
  obtain ⟨q, hq⟩ : ∃ q, (BitVec.ofNat 16 x.toNat).toInt = q := ⟨_, rfl⟩
  have hlow : x.extractLsb' 0 16 = BitVec.ofNat 16 x.toNat := by rw [BitVec.extractLsb', Nat.shiftRight_zero]
  have hbound : |q| ≤ 2 ^ 15 := by
    have hlo := BitVec.le_toInt (BitVec.ofNat 16 x.toNat)
    have hhi := BitVec.toInt_lt (x := BitVec.ofNat 16 x.toNat)
    rw [abs_le, ← hq]
    omega
  obtain ⟨hsum, hdesc⟩ := isNaf_naf (by decide) hbound
  have hval : ((halfNaf x).map (fun p => if p.2 then -(2 : Int) ^ p.1 else 2 ^ p.1)).sum = termSum (halfNaf x) := by
    rw [termSum]
    congr 1
    refine List.map_congr_left fun d _ => ?_
    cases d.2 <;> simp
  rw [hval, halfNaf, hlow, hq, termSum_reverse]
  exact ⟨List.pairwise_reverse.mpr hdesc, hsum⟩

/-- Settles O2: each row evaluates an equation of words or pairs above. -/
theorem integerPairs : Obligations.IntegerPairs := by
  unfold Obligations.IntegerPairs
  refine ⟨fun d a b => ⟨?_, ?_, ?_, ?_, ?_, ?_, ?_, ?_, ?_, ?_, ?_, ?_⟩,
    fun d a => ⟨?_, ?_, ?_, ?_, ?_, ?_, ?_, ?_, ?_, ?_, ?_, ?_, ?_, halfNaf, ?_, halfNaf_spec⟩⟩
  · exact computes_pair2 (fun _ => rfl) add_eq_ofNat
  · exact computes_pair2 (fun _ => rfl) sub_eq_ofInt
  · exact computes_pair2 (fun _ => rfl) mul_eq_ofNat
  · exact computes_shift2 (fun _ => rfl) fun x c => shiftLeft_eq_ofNat x c.toNat
  · exact computes_shift2 (fun _ => rfl) fun x c => ushiftRight_eq_ofNat x c.toNat
  · exact computes_shift2 (fun _ => rfl) fun x c => sshiftRight_eq_ofInt x c.toNat
  · have h := computes_test2 (i := .slt64 d a b) (fun _ => rfl) fun x y => bitWord_eq_truth BitVec.slt_iff_toInt_lt
    exact h
  · have h := computes_test2 (i := .sltu64 d a b) (fun _ => rfl) fun x y => bitWord_eq_truth BitVec.ult_iff_toNat_lt
    exact h
  · have h := computes_wide3 (i := .madwu d a b) (fun _ => rfl) madwu_eq
    exact h
  · have h := computes_wide3 (i := .addwu d a b) (fun _ => rfl) addwu_eq
    exact h
  · exact computes_pair1 (g := fun x => x) (fun _ => rfl) fun _ => rfl
  · have h := computes_pair1 (i := .neg64 d a) (fun _ => rfl) neg_eq_ofInt
    exact h
  · exact computes_word1 (fun _ => rfl) fun _ => rfl
  · exact computes_word1 (fun _ => rfl) not_eq_ofNat
  · exact computes_word1 (fun _ => rfl) neg_eq_ofInt
  · exact computes_word1 (fun _ => rfl) abs_eq
  · exact computes_word1 (fun _ => rfl) fun x => congrArg _ (leadZeros_eq x)
  · exact computes_word1 (fun _ => rfl) fun x => congrArg _ (trailZeros_eq x)
  · exact computes_word1 (fun _ => rfl) fun x => congrArg _ (oneBits_eq x)
  · exact computes_word1 (fun _ => rfl) bitRev_eq
  · exact computes_word1 (fun _ => rfl) byteRev_eq
  · exact computes_word1 (fun _ => rfl) fun x => signExtend_low x 8
  · exact computes_word1 (fun _ => rfl) fun x => signExtend_low x 16
  · exact computes_word1 (fun _ => rfl) fun x => setWidth_low x 8
  · exact computes_word1 (fun _ => rfl) fun x => setWidth_low x 16
  · exact computes_word1 (fun _ => rfl) fun x => by rw [length_halfNaf]

end Sys2Proof.Machine

/-! ## The lane operations (R111 to R117) -/

namespace Sys2Proof.Machine

/-! ### Rows of the lane operations -/

/-- A lane operation's row: its completion, from the equality of its evaluation with a result. -/
theorem computesAcross_of_cross {i : Instr} {u : Uses} {f g : Bool → List Nat → Nat → (Nat → List (List Reg)) → Res}
    (hi : ∀ s, exec i s = s.runs (s.cross u f)) (h : ∀ once c l ws, f once c l ws = g once c l ws) : ComputesAcross i u g := by
  intro s hs
  obtain rfl : f = g := funext₂ fun once c => funext₂ fun l ws => h once c l ws
  rw [hi, State.runs_next _ _ hs.1, State.cross_ready _ _ _ hs.2]

theorem wordA_eq (ws : Nat → List (List Reg)) (l : Nat) : wordA (ws l) = laneA ws l := by
  rw [wordA, laneA]
  cases ws l <;> rfl

theorem wordB_eq (ws : Nat → List (List Reg)) (l : Nat) : wordB (ws l) = laneB ws l := by
  rw [wordB, laneB]
  match ws l with
  | [] | [_] | _ :: _ :: _ => rfl

theorem headD_eq_getD (x : List (List Reg)) : x.headD [] = x.getD 0 [] := by
  cases x <;> rfl

/-! ### Shuffles -/

theorem shuffle_eq {find : Nat → Nat → Int} {j : Int → Int → Int} (hj : ∀ l b : Nat, find l b = j l b) (once : Bool) (c : List Nat)
    (l : Nat) (ws : Nat → List (List Reg)) : shuffle find once c l ws = shuffled j once c l ws := by
  simp only [shuffle, shuffled, wordA_eq, wordB_eq, hj, List.contains_iff_mem]

/-! ### Segments -/

section
variable (c : List Nat) (l : Nat) (flag : Nat → Bool)

/-- The lanes of the class up to l that may start a segment: those with a flag, and the lowest. -/
def segmentStarts : List Nat := c.filter (fun m => decide (m ≤ l) && (flag m || c.all (fun k => decide (m ≤ k))))

theorem mem_segmentStarts {m : Nat} : m ∈ segmentStarts c l flag ↔ m ∈ c ∧ m ≤ l ∧ (flag m = true ∨ ∀ k ∈ c, m ≤ k) := by
  simp [segmentStarts]

theorem le_foldl_max (ls : List Nat) (n : Nat) : n ≤ ls.foldl max n ∧ ∀ m ∈ ls, m ≤ ls.foldl max n := by
  induction ls generalizing n with
  | nil => simp
  | cons x ls ih =>
    obtain ⟨hn, hls⟩ := ih (max n x)
    exact ⟨(le_max_left n x).trans hn, List.forall_mem_cons.mpr ⟨(le_max_right n x).trans hn, hls⟩⟩

theorem foldl_max_mem (ls : List Nat) (n : Nat) : ls.foldl max n = n ∨ ls.foldl max n ∈ ls := by
  induction ls generalizing n with
  | nil => exact .inl rfl
  | cons x ls ih =>
    rw [List.foldl_cons]
    rcases ih (max n x) with h | h
    · rw [h]
      exact (max_choice n x).imp_right fun hm => List.mem_cons.mpr (.inl hm)
    · exact .inr (List.mem_cons_of_mem _ h)

/-- Past the start of its segment up to l no lane has a flag (R113). -/
theorem segment_eq : segment c l flag = segmentLanes c l flag := by
  obtain ⟨start, hstart⟩ : ∃ start, segmentStart c l flag = start := ⟨_, rfl⟩
  have hge : ∀ m ∈ segmentStarts c l flag, m ≤ start := hstart ▸ (le_foldl_max _ 0).2
  have hmem : start = 0 ∨ start ∈ segmentStarts c l flag := hstart ▸ foldl_max_mem _ 0
  rw [segment, segmentLanes, hstart]
  refine List.filter_congr fun m hm => ?_
  rw [Bool.eq_iff_iff]
  simp only [Bool.and_eq_true, decide_eq_true_eq, List.all_eq_true, Bool.not_eq_true', Bool.and_eq_false_iff, decide_eq_false_iff_not]
  refine ⟨fun ⟨hml, hnone⟩ => ⟨?_, hml⟩, fun ⟨hsm, hml⟩ => ⟨hml, fun k hk => ?_⟩⟩
  · rcases hmem with rfl | hmem
    · exact Nat.zero_le m
    obtain ⟨hc, hle, hflag | hlow⟩ := (mem_segmentStarts c l flag).mp hmem
    · rcases hnone start hc with (h | h) | h
      · exact Nat.le_of_not_lt h
      · exact absurd hle h
      · rw [h] at hflag
        cases hflag
    · exact hlow m hm
  · by_contra hk'
    simp only [not_or, not_not, Bool.not_eq_false] at hk'
    obtain ⟨⟨hmk, hkl⟩, hflag⟩ := hk'
    have := hge k ((mem_segmentStarts c l flag).mpr ⟨hk, hkl, .inl hflag⟩)
    omega

end

/-! ### Sums -/

theorem bit_eq_testBit (x i : Nat) : bit x i = x.testBit i := by
  rw [Nat.testBit_eq_decide_div_mod_eq]
  rfl

/-- Bits above a format are ignored (R63). -/
theorem Fmt.decode_mod (f : Fmt) (c : Nat) : f.decode (c % 2 ^ (f.signBit + 1)) = f.decode c := by
  have hbits : ∀ lo n, lo + n ≤ f.signBit + 1 → bits (c % 2 ^ (f.signBit + 1)) lo n = bits c lo n := fun lo n h => by
    refine Nat.eq_of_testBit_eq fun i => ?_
    simp only [bits, Nat.testBit_mod_two_pow, Nat.testBit_div_two_pow]
    by_cases hi : i < n
    · simp [hi, show i + lo < f.signBit + 1 by omega]
    · simp [hi]
  have hsign : bit (c % 2 ^ (f.signBit + 1)) f.signBit = bit c f.signBit := by
    rw [bit_eq_testBit, bit_eq_testBit, Nat.testBit_mod_two_pow]
    simp
  have hexp := hbits f.mb f.eb (by rw [Fmt.signBit]; omega)
  have hfrac := hbits 0 f.mb (by rw [Fmt.signBit]; omega)
  unfold Fmt.decode
  rw [hexp, hfrac, hsign]

theorem Fmt.decode_congr (f : Fmt) {a b : Nat} (h : a % 2 ^ (f.signBit + 1) = b % 2 ^ (f.signBit + 1)) : f.decode a = f.decode b := by
  rw [← f.decode_mod a, h, f.decode_mod]

theorem exactSum_congr (f : Fmt) {l k : List Nat} (h : l.map f.decode = k.map f.decode) : exactSum f l = exactSum f k := by
  rw [exactSum, exactSum, h]

theorem resWords_word (x : DWord) (p : Bool) : resWords 1 x p = [{ bits := x.setWidth 32, poison := p }] := rfl

theorem foldl_add_toNat (l : List DWord) (n : Nat) : l.foldl (fun n x => n + x.toNat) n = n + (l.map BitVec.toNat).sum := by
  induction l generalizing n with
  | nil => rfl
  | cons x l ih => rw [List.foldl_cons, ih, List.map_cons, List.sum_cons, Nat.add_assoc]

/-- The low word of a sum depends on the low words alone. -/
theorem sum_low_mod (l : List DWord) :
    (l.map BitVec.toNat).sum % 2 ^ 32 = ((l.map (fun x => x.setWidth 32)).map BitVec.toNat).sum % 2 ^ 32 := by
  induction l with
  | nil => rfl
  | cons x l ih =>
    simp only [List.map_cons, List.sum_cons, BitVec.toNat_setWidth]
    rw [Nat.add_mod, ih, ← Nat.add_mod, Nat.mod_add_mod]

section
variable (ls : List Nat) (ws : Nat → List (List Reg)) (tag : Bool)

theorem wordsOver_eq : wordsOver ls ws = (ls.map (fun m => wordsVal ((ws m).headD []))).map (fun x => x.setWidth 32) := by
  rw [wordsOver, List.map_map]
  refine List.map_congr_left fun m _ => ?_
  rw [Function.comp_apply, wordsVal_low, headD_eq_getD, laneA]

theorem tagOver_eq : ls.any (fun m => anyPoison ((ws m).headD [])) = tagOver ls ws := by
  simp only [tagOver, headD_eq_getD]

theorem sumOver_int : sumOver .int ls ws tag = sumI ls ws tag := by
  simp only [sumOver, tagOver_eq, sumI, SumKind.sum, foldl_add_toNat, Nat.zero_add, sum_low_mod, ← wordsOver_eq, SumKind.words,
    resWords_word]
  congr 3
  apply BitVec.eq_of_toNat_eq
  simp

theorem sumOver_f32 : sumOver .f32 ls ws tag = sumF ls ws tag := by
  have hsum : exactSum Fmt.f32 ((ls.map (fun m => wordsVal ((ws m).headD []))).map BitVec.toNat) =
      exactSum Fmt.f32 ((wordsOver ls ws).map BitVec.toNat) := by
    refine exactSum_congr _ ?_
    simp only [wordsOver_eq, List.map_map, Function.comp_def]
    refine List.map_congr_left fun m _ => Fmt.decode_congr _ ?_
    rw [BitVec.toNat_setWidth]
    exact (Nat.mod_mod _ _).symm
  simp only [sumOver, tagOver_eq, sumF, SumKind.sum, hsum, SumKind.words, resWords_word]
  congr 3
  apply BitVec.eq_of_toNat_eq
  simp

theorem sumOver_f64 : sumOver .f64 ls ws tag = sumD ls ws tag := by
  simp only [sumOver, sumD, SumKind.sum, SumKind.words, List.map_map, Function.comp_def, pairAt, headD_eq_getD]
  rfl

end

theorem segScan_eq {k : SumKind} {sum : List Nat → (Nat → List (List Reg)) → Bool → Res} (hsum : ∀ ls ws tag, sumOver k ls ws tag = sum ls ws tag)
    (once : Bool) (c : List Nat) (l : Nat) (ws : Nat → List (List Reg)) :
    let seg := segmentLanes c l (fun m => (laneB ws m).bits != 0)
    segScan k once c l ws = sum seg ws (seg.any (fun m => (laneB ws m).poison)) := by
  simp only [segScan, wordB_eq, segment_eq, hsum]

/-! ### Words of the whole class -/

theorem overClass_eq {f g : List Word → Word} (h : ∀ l, f l = g l) (once : Bool) (c : List Nat) (l : Nat) (ws : Nat → List (List Reg)) :
    overClass c ws f = overAll g once c l ws := by
  simp only [overClass, overAll, wordsOver, wordA_eq, List.map_map, anyPoison, List.any_map, Function.comp_def, h]

/-- The extreme word of a list is one of its words, and no word of the list lies beyond it. -/
theorem extreme_spec {lt : Word → Word → Bool} {val : Word → Int} (hlt : ∀ x y, lt x y = true ↔ val x < val y) {l : List Word} (hl : l ≠ []) :
    extreme lt l ∈ l ∧ ∀ w ∈ l, val w ≤ val (extreme lt l) := by
  have hfold : ∀ (t : List Word) (x : Word), (t.foldl (fun m y => if lt m y then y else m) x = x ∨
      t.foldl (fun m y => if lt m y then y else m) x ∈ t) ∧ val x ≤ val (t.foldl (fun m y => if lt m y then y else m) x) ∧
      ∀ w ∈ t, val w ≤ val (t.foldl (fun m y => if lt m y then y else m) x) := by
    intro t
    induction t with
    | nil => simp
    | cons y t ih =>
      intro x
      rw [List.foldl_cons]
      obtain ⟨hmem, hge, hall⟩ := ih (if lt x y then y else x)
      have hstep : val x ≤ val (if lt x y then y else x) ∧ val y ≤ val (if lt x y then y else x) := by
        split
        next h => exact ⟨((hlt x y).mp h).le, le_rfl⟩
        next h => exact ⟨le_rfl, not_lt.mp (mt (hlt x y).mpr h)⟩
      refine ⟨?_, hstep.1.trans hge, List.forall_mem_cons.mpr ⟨hstep.2.trans hge, hall⟩⟩
      rcases hmem with h | h
      · rw [h]
        split
        next => exact .inr List.mem_cons_self
        next => exact .inl rfl
      · exact .inr (List.mem_cons_of_mem _ h)
  cases l with
  | nil => exact absurd rfl hl
  | cons x t =>
    obtain ⟨hmem, hge, hall⟩ := hfold t x
    exact ⟨List.mem_cons.mpr hmem, List.forall_mem_cons.mpr ⟨hge, hall⟩⟩

theorem nonZero_eq (l : List Word) : nonZero l = l.countP (fun w => w != 0) := (List.countP_eq_length_filter ..).symm

theorem foldl_add_eq_sum (f : Nat → Nat) (c : List Nat) (n : Nat) : c.foldl (fun n m => n + f m) n = n + (c.map f).sum := by
  induction c generalizing n with
  | nil => rfl
  | cons m c ih => rw [List.foldl_cons, ih, List.map_cons, List.sum_cons, Nat.add_assoc]

theorem ballot_eq (c : List Nat) (ws : Nat → List (List Reg)) :
    ballot c ws = (c.map (fun m => if (laneA ws m).bits = 0 then 0 else 2 ^ m)).sum := by
  simp only [ballot, wordA_eq]
  rw [foldl_add_eq_sum, Nat.zero_add]

theorem readLane_eq (once : Bool) (c : List Nat) (l : Nat) (ws : Nat → List (List Reg)) : readLane once c l ws =
    let j := laneB ws l
    if j.bits.toNat ∈ c then
      { words := [{ bits := (laneA ws j.bits.toNat).bits, poison := (laneA ws j.bits.toNat).poison || j.poison }], flags := 0#5 }
    else { words := [{ bits := 0, poison := j.poison }], flags := 0#5 } := by
  simp only [readLane, wordA_eq, wordB_eq, List.contains_iff_mem]
  split <;> rfl

theorem ballotWord_eq (width : Nat) (once : Bool) (c : List Nat) (l : Nat) (ws : Nat → List (List Reg)) : ballotWord width once c l ws =
    let j := laneB ws l
    let bits := (c.map (fun m => if (laneA ws m).bits = 0 then 0 else 2 ^ m)).sum
    { words := [{ bits := if 32 * j.bits.toNat < width then BitVec.ofNat 32 (bits / 2 ^ (32 * j.bits.toNat)) else 0,
                  poison := c.any (fun m => (laneA ws m).poison) || j.poison }], flags := 0#5 } := by
  simp only [ballotWord, ballot_eq, wordA_eq, wordB_eq]

/-- LBALLOT takes the words of the group's width (R116). -/
theorem exec_ballot {d : Dst} {a b : Src} {s : State} (hs : s.Ready { usesWord2 d a b with uniform := [b] }) :
    exec (.lballot d a b) s = .next (s.crossed { usesWord2 d a b with uniform := [b] } (fun _ c l ws =>
      let j := laneB ws l
      let bits := (c.map (fun m => if (laneA ws m).bits = 0 then 0 else 2 ^ m)).sum
      { words := [{ bits := if 32 * j.bits.toNat < s.cur.width then BitVec.ofNat 32 (bits / 2 ^ (32 * j.bits.toNat)) else 0,
                    poison := c.any (fun m => (laneA ws m).poison) || j.poison }], flags := 0#5 })) := by
  have hrow : exec (.lballot d a b) s = s.runs (s.cross { usesWord2 d a b with uniform := [b] } (ballotWord s.cur.width)) := rfl
  rw [hrow, State.runs_next _ _ hs.1, State.cross_ready _ _ _ hs.2]
  congr 2
  funext once c l ws
  exact ballotWord_eq ..

/-- Settles O5: each lane operation's evaluation is the function of the class that R112 to R117 give. -/
theorem laneOperations : Obligations.LaneOperations := by
  unfold Obligations.LaneOperations
  refine ⟨fun d a b => ⟨?_, ?_, ?_, ?_, ?_, ?_, ?_⟩, fun d a b => ⟨?_, ?_, ?_, ?_, ?_, ?_, ?_, ?_, ?_, ?_, ?_, ?_, ?_, ?_⟩⟩
  · exact computesAcross_of_cross (fun _ => rfl) (shuffle_eq fun _ _ => rfl)
  · exact computesAcross_of_cross (fun _ => rfl) (shuffle_eq fun _ _ => rfl)
  · exact computesAcross_of_cross (fun _ => rfl) (shuffle_eq fun _ _ => rfl)
  · exact computesAcross_of_cross (fun _ => rfl) (shuffle_eq fun _ _ => rfl)
  · exact computesAcross_of_cross (fun _ => rfl) (segScan_eq sumOver_int)
  · exact computesAcross_of_cross (fun _ => rfl) (segScan_eq sumOver_f32)
  · exact computesAcross_of_cross (fun _ => rfl) (segScan_eq sumOver_f64)
  · exact computesAcross_of_cross (fun _ => rfl) fun _ _ _ _ => sumOver_int _ _ _
  · exact computesAcross_of_cross (fun _ => rfl) fun _ _ _ _ => sumOver_f32 _ _ _
  · exact computesAcross_of_cross (fun _ => rfl) fun _ _ _ _ => sumOver_f64 _ _ _
  · exact computesAcross_of_cross (fun _ => rfl) fun _ _ _ _ => sumOver_int _ _ _
  · exact computesAcross_of_cross (fun _ => rfl) fun _ _ _ _ => sumOver_f32 _ _ _
  · exact computesAcross_of_cross (fun _ => rfl) fun _ _ _ _ => sumOver_f64 _ _ _
  · refine ⟨extreme (fun m y => y.slt m), fun l hl => ?_, computesAcross_of_cross (fun _ => rfl) (overClass_eq fun _ => rfl)⟩
    obtain ⟨hmem, hall⟩ := extreme_spec (val := fun w => -w.toInt) (fun x y => by rw [BitVec.slt_iff_toInt_lt, neg_lt_neg_iff]) hl
    exact ⟨hmem, fun w hw => neg_le_neg_iff.mp (hall w hw)⟩
  · exact ⟨extreme (fun m y => m.slt y), fun l hl => extreme_spec (val := BitVec.toInt) (fun _ _ => BitVec.slt_iff_toInt_lt) hl,
      computesAcross_of_cross (fun _ => rfl) (overClass_eq fun _ => rfl)⟩
  · exact computesAcross_of_cross (fun _ => rfl) (overClass_eq fun l => bitWord_eq_truth (by simp))
  · exact computesAcross_of_cross (fun _ => rfl) (overClass_eq fun l => bitWord_eq_truth (by simp))
  · exact computesAcross_of_cross (fun _ => rfl) (overClass_eq fun l => by rw [nonZero_eq])
  · refine computesAcross_of_cross (fun _ => rfl) fun once c l ws => ?_
    simp only [nonZero_eq, wordA_eq]
    rw [overClass_eq (fun _ => rfl) once c l ws]
    rfl
  · exact fun s hs => exec_ballot hs
  · exact computesAcross_of_cross (fun _ => rfl) readLane_eq

end Sys2Proof.Machine

/-! ## An infinite addend (R101, R103) -/

namespace Sys2Proof.Machine

/-- In F16, infinity times 1 plus -infinity is invalid (R101). -/
theorem fpFma_opposite_infinities : fpFma Fmt.f16 0x7C00 0x3C00 0xFC00 = (Fmt.f16.nan, Flags.nv) := by decide

/-- Refutes O8: the last clause, written `x.isInf || y.isInf = false`, asks for a finite second factor or an infinite first one, not
for two finite factors. So it takes infinity times 1, to which an infinite addend of the other sign is added, for that addend; the
sum is invalid. -/
theorem not_floatSpecial : ¬ Obligations.FloatSpecial := by
  unfold Obligations.FloatSpecial
  rintro ⟨-, h⟩
  obtain ⟨-, -, -, -, -, -, -, haddend⟩ := h Fmt.f16 (by decide) 0x7C00 0x3C00 0xFC00
  have hfma := haddend (by decide) (by decide) (by decide)
  rw [fpFma_opposite_infinities] at hfma
  exact absurd hfma (by decide)

end Sys2Proof.Machine

/-! ## The order of values (R104, R105) -/

namespace Sys2Proof.Machine

section
variable {x y : FVal}

theorem FVal.ext_inf (neg : Bool) : (FVal.inf neg).ext = if neg then ⊥ else ((⊤ : WithTop ℚ) : WithBot (WithTop ℚ)) := rfl

theorem FVal.ext_fin (neg : Bool) (m : Nat) (e : Int) :
    (FVal.fin neg m e).ext = (((FVal.fin neg m e).rat : WithTop ℚ) : WithBot (WithTop ℚ)) := rfl

/-- The comparison of values is that of the reals with their infinities. -/
theorem ltVal_iff (hx : x.isNan = false) (hy : y.isNan = false) : ltVal x y = true ↔ x.ext < y.ext := by
  cases x with
  | nan s => cases hx
  | inf n =>
    cases y with
    | nan s => cases hy
    | inf m => cases n <;> cases m <;> simp [ltVal, FVal.ext_inf]
    | fin m k e => cases n <;> simp [ltVal, FVal.ext_inf, FVal.ext_fin]
  | fin n m e =>
    cases y with
    | nan s => cases hy
    | inf k =>
      cases k with
      | false => exact iff_of_true rfl (WithBot.coe_lt_coe.mpr (WithTop.coe_lt_top _))
      | true => simp [ltVal, FVal.ext_inf]
    | fin k j r => rw [ltVal_fin, FVal.ext_fin, FVal.ext_fin, WithBot.coe_lt_coe, WithTop.coe_lt_coe]

theorem not_ltVal_iff (hx : x.isNan = false) (hy : y.isNan = false) : (!ltVal y x) = decide (x.ext ≤ y.ext) := by
  rw [Bool.eq_iff_iff, Bool.not_eq_true', ← Bool.not_eq_true, ltVal_iff hy hx, not_lt, decide_eq_true_iff]

theorem FVal.ext_zero (h : x.isZero = true) : x.ext = ((0 : WithTop ℚ) : WithBot (WithTop ℚ)) := by
  cases x with
  | nan s | inf n => cases h
  | fin n m e =>
    obtain rfl : m = 0 := by simpa [FVal.isZero] using h
    simp [FVal.ext, FVal.rat]

/-- A value is below another in the order of R104: below it among the reals, or -0 against +0. -/
theorem ltTotal_of_below (hx : x.isNan = false) (hy : y.isNan = false)
    (h : x.ext < y.ext ∨ (x.isZero = true ∧ y.isZero = true ∧ x.neg? = true ∧ y.neg? = false)) :
    ltTotal x y = true ∧ ltTotal y x = false := by
  rcases h with h | ⟨hzx, hzy, hnx, hny⟩
  · have hz : ¬ (x.isZero = true ∧ y.isZero = true) := fun ⟨hzx, hzy⟩ => by
      rw [FVal.ext_zero hzx, FVal.ext_zero hzy] at h
      exact lt_irrefl _ h
    have hxy : (x.isZero && y.isZero) = false := by rwa [← Bool.not_eq_true, Bool.and_eq_true]
    refine ⟨?_, ?_⟩
    · rw [ltTotal, hxy]
      exact (ltVal_iff hx hy).mpr h
    · rw [ltTotal, Bool.and_comm, hxy]
      exact Bool.eq_false_iff.mpr fun hlt => lt_asymm h ((ltVal_iff hy hx).mp hlt)
  · simp [ltTotal, hzx, hzy, hnx, hny]

end

theorem FVal.isSnan_of_not_isNan {x : FVal} (h : x.isNan = false) : x.isSnan = false := by
  cases x with
  | nan s => cases h
  | inf n | fin n m e => rfl

section
variable {f : Fmt} {a b : Nat} {mx : Bool}

/-- The minimum or the maximum of two numbers, none of them a NaN. -/
theorem fpMinMax_numbers (hx : (f.decode a).isNan = false) (hy : (f.decode b).isNan = false) :
    fpMinMax f mx a b =
      (if (if mx then ltTotal (f.decode a) (f.decode b) else ltTotal (f.decode b) (f.decode a)) then b else a, 0#5) := by
  cases mx <;> simp [fpMinMax, hx, hy, FVal.isSnan_of_not_isNan, nvIf]

theorem fpMinMax_nan_left (hx : (f.decode a).isNan = true) (hy : (f.decode b).isNan = false) :
    fpMinMax f mx a b = (b, nvIf ((f.decode a).isSnan || (f.decode b).isSnan)) := by
  simp [fpMinMax, hx, hy]

theorem fpMinMax_nan_right (hx : (f.decode a).isNan = true) (hy : (f.decode b).isNan = false) :
    fpMinMax f mx b a = (b, nvIf ((f.decode b).isSnan || (f.decode a).isSnan)) := by
  simp [fpMinMax, hx, hy]

/-- A number below another is the minimum of both, and the other the maximum, whichever comes first. -/
theorem fpMinMax_below (hx : (f.decode a).isNan = false) (hy : (f.decode b).isNan = false)
    (h : ltTotal (f.decode a) (f.decode b) = true ∧ ltTotal (f.decode b) (f.decode a) = false) :
    fpMinMax f false a b = (a, 0#5) ∧ fpMinMax f false b a = (a, 0#5) ∧ fpMinMax f true a b = (b, 0#5) ∧ fpMinMax f true b a = (b, 0#5) := by
  simp [fpMinMax_numbers, hx, hy, h]

end

/-- Settles O9: the comparisons are those of the extended reals, and a minimum or a maximum is one of its operands. -/
theorem floatOrder : Obligations.FloatOrder := by
  unfold Obligations.FloatOrder
  intro f _ a b x y nan quietNv
  have hlt : nan = false → ltVal x y = decide (x.ext < y.ext) ∧ (!ltVal y x) = decide (x.ext ≤ y.ext) ∧
      (!ltVal x y) = decide (y.ext ≤ x.ext) := fun hn => by
    obtain ⟨hx, hy⟩ := Bool.or_eq_false_iff.mp hn
    exact ⟨by rw [Bool.eq_iff_iff, ltVal_iff hx hy, decide_eq_true_iff], not_ltVal_iff hx hy, not_ltVal_iff hy hx⟩
  have hcmp : ∀ c d : Bool, (nan = false → c = d) → (!nan && c) = (!nan && d) := fun c d h => by
    cases hn : nan with
    | true => rfl
    | false => rw [h hn]
  refine ⟨?_, ?_, ?_, rfl, fun hx hy mx => ?_, fun hx hy mx => ⟨?_, ?_⟩, fun hn h => ?_, fun hn he hs mx => ?_⟩
  · exact congrArg (·, nvIf nan) (hcmp _ _ fun hn => (hlt hn).1)
  · exact congrArg (·, nvIf nan) (hcmp _ _ fun hn => (hlt hn).2.1)
  · refine congrArg (·, quietNv) ((Bool.and_assoc ..).trans (hcmp _ _ fun hn => ?_))
    obtain ⟨-, hge, hle⟩ := hlt hn
    rw [hge, hle, Bool.eq_iff_iff, Bool.and_eq_true, decide_eq_true_iff, decide_eq_true_iff, decide_eq_true_iff, and_comm]
    exact le_antisymm_iff.symm
  · exact if_pos (Bool.and_eq_true _ _ ▸ ⟨hx, hy⟩)
  · exact fpMinMax_nan_left hx hy
  · exact (fpMinMax_nan_right hx hy).trans (by rw [Bool.or_comm])
  · obtain ⟨hx, hy⟩ := Bool.or_eq_false_iff.mp hn
    exact fpMinMax_below hx hy (ltTotal_of_below hx hy h)
  · obtain ⟨hx, hy⟩ := Bool.or_eq_false_iff.mp hn
    obtain ⟨c, hc⟩ : ∃ c, (if mx then ltTotal x y else ltTotal y x) = c := ⟨_, rfl⟩
    rw [fpMinMax_numbers hx hy, hc]
    cases c with
    | true => exact ⟨rfl, he.symm, hs.symm⟩
    | false => exact ⟨rfl, rfl, rfl⟩

end Sys2Proof.Machine

/-! ## Exact values rounded once (R83 to R85, R101, R103, R114, R127, R129, R131) -/

namespace Sys2Proof.Machine

/-! ### Finite values -/

theorem rat_abs_fin (neg : Bool) (m : Nat) (e : Int) : |(FVal.fin neg m e).rat| = m * 2 ^ e := by
  rw [← FVal.rat_abs rfl, FVal.abs, rat_fin, if_neg Bool.false_ne_true, one_mul]

theorem rat_eq_zero {neg : Bool} {m : Nat} {e : Int} : (FVal.fin neg m e).rat = 0 ↔ m = 0 := by
  rw [← abs_eq_zero, rat_abs_fin, mul_eq_zero, or_iff_left (zpow_ne_zero e two_ne_zero), Nat.cast_eq_zero]

/-- A value that is not zero has the sign of its number. -/
theorem rat_neg_iff {neg : Bool} {m : Nat} {e : Int} (h : (FVal.fin neg m e).rat ≠ 0) : decide ((FVal.fin neg m e).rat < 0) = neg := by
  have hpos : (0 : ℚ) < m * 2 ^ e := by rw [← rat_abs_fin neg]; exact abs_pos.mpr h
  rw [rat_fin]
  cases neg with
  | false => simp [hpos.le]
  | true => simp [hpos]

/-- The value of an integer number of quanta. -/
theorem rat_integer (n q : Int) : (FVal.fin (decide (n < 0)) n.natAbs q).rat = (n : ℚ) * 2 ^ q := by
  rw [rat_fin, ← mul_assoc, Nat.cast_natAbs]
  congr 1
  by_cases h : n < 0
  · simp [h, abs_of_neg h]
  · simp [h, abs_of_nonneg (not_lt.mp h)]

theorem FVal.rat_negate (x : FVal) : x.negate.rat = -x.rat := by
  cases x with
  | nan s | inf n => exact neg_zero.symm
  | fin n m e => cases n <;> simp [FVal.negate, FVal.rat]

/-- The parts of the value of a finite code (R63, R66). -/
theorem Fmt.decode_fin {f : Fmt} {c : Nat} {neg : Bool} {m : Nat} {e : Int} (h : f.decode c = .fin neg m e) :
    neg = bit c f.signBit ∧ m < 2 ^ (f.mb + 1) ∧ f.qmin ≤ e ∧ e < f.qmin + 2 ^ f.eb ∧ (e = f.qmin ∨ 2 ^ f.mb ≤ m) := by
  have hfrac : bits c 0 f.mb < 2 ^ f.mb := Nat.mod_lt _ (Nat.two_pow_pos _)
  have hexp : (bits c f.mb f.eb : Int) < 2 ^ f.eb := by exact_mod_cast Nat.mod_lt _ (Nat.two_pow_pos _)
  have hfinite : (if bits c f.mb f.eb = 0 then FVal.fin (bit c f.signBit) (bits c 0 f.mb) f.qmin
      else .fin (bit c f.signBit) (2 ^ f.mb + bits c 0 f.mb) (f.qmin + (bits c f.mb f.eb : Int) - 1)) = .fin neg m e := by
    cases ht : f.tops <;> simp only [Fmt.decode, ht] at h
    case none => exact h
    case nanOnly =>
      split at h
      next => cases h
      next => exact h
    all_goals
      split at h
      next => split at h <;> cases h
      next => exact h
  split at hfinite
  next =>
    cases hfinite
    exact ⟨rfl, by rw [pow_succ]; omega, le_rfl, by omega, .inl rfl⟩
  next =>
    cases hfinite
    exact ⟨rfl, by rw [pow_succ]; omega, by omega, by omega, .inr (Nat.le_add_right _ _)⟩

/-! ### Rounded once -/

section
variable (f : Fmt)

/-- Rounding a finite value rounds its number once. -/
theorem Fmt.once_roundFin (neg : Bool) (m : Nat) (e : Int) {zeroSign : Bool} (h : m = 0 → neg = zeroSign) :
    f.once (FVal.fin neg m e).rat zeroSign (roundFin f .ne neg m e) := by
  refine ⟨m, e, ?_, (rat_abs_fin neg m e).symm⟩
  congr 1
  split
  next hzero => exact h (rat_eq_zero.mp hzero)
  next hne => exact (rat_neg_iff hne).symm

theorem roundVal_fin (neg : Bool) (m : Nat) (e : Int) : roundVal f (.fin neg m e, 0#5) = roundFin f .ne neg m e :=
  congrArg (Prod.mk _) (BitVec.or_zero ..)

/-- An exact finite value rounded once. -/
theorem Fmt.once_roundVal {v : FVal × Flags} {x : ℚ} {zeroSign : Bool} (hv : v.1.isFin = true) (hfl : v.2 = 0#5) (hx : v.1.rat = x)
    (hz : x = 0 → v.1.neg? = zeroSign) : f.once x zeroSign (roundVal f v) := by
  obtain ⟨v, fl⟩ := v
  obtain ⟨neg, m, e, rfl⟩ := FVal.exists_of_isFin hv
  obtain rfl : fl = 0#5 := hfl
  subst hx
  rw [roundVal_fin]
  exact f.once_roundFin neg m e fun hm => hz (rat_eq_zero.mpr hm)

/-- An integer number of quanta rounded once; an exact zero is +0. -/
theorem Fmt.once_integer (n : Int) (q : Int) :
    f.once ((n : ℚ) * 2 ^ q) false (if n = 0 then (0, 0#5) else roundFin f .ne (decide (n < 0)) n.natAbs q) := by
  have hround : (if n = 0 then (0, 0#5) else roundFin f .ne (decide (n < 0)) n.natAbs q) = roundFin f .ne (decide (n < 0)) n.natAbs q := by
    split
    next h => rw [h]; rfl
    next => rfl
  rw [hround, ← rat_integer]
  refine f.once_roundFin _ _ _ fun hn => ?_
  rw [Int.natAbs_eq_zero.mp hn]
  rfl

end

/-! ### Sums and products -/

section
variable {x y z : FVal} (hx : x.isFin = true) (hy : y.isFin = true)
include hx hy

/-- The exact sum; an exact zero is +0 unless both operands are -0. -/
theorem addVal_fin : (addVal x y).1.isFin = true ∧ (addVal x y).2 = 0#5 ∧ (addVal x y).1.rat = x.rat + y.rat ∧
    (x.rat + y.rat = 0 → (addVal x y).1.neg? = (x.rat == 0 && y.rat == 0 && x.neg? && y.neg?)) := by
  obtain ⟨na, ma, ea, rfl⟩ := FVal.exists_of_isFin hx
  obtain ⟨nb, mb, eb, rfl⟩ := FVal.exists_of_isFin hy
  have hadd : addVal (.fin na ma ea) (.fin nb mb eb) = (addFin na ma ea nb mb eb, 0#5) := rfl
  rw [hadd]
  by_cases h : (ma = 0 && mb = 0) = true
  · have hval : addFin na ma ea nb mb eb = .fin (na && nb) 0 0 := if_pos h
    obtain ⟨rfl, rfl⟩ : ma = 0 ∧ mb = 0 := by simpa using h
    have hzero : ∀ (n : Bool) (e : Int), (FVal.fin n 0 e).rat = 0 := fun n e => rat_eq_zero.mpr rfl
    rw [hval]
    exact ⟨rfl, rfl, by simp [hzero], fun _ => by simp [hzero, FVal.neg?]⟩
  obtain ⟨q, hq⟩ : ∃ q, min ea eb = q := ⟨_, rfl⟩
  obtain ⟨n, hn⟩ : ∃ n, scaled na ma ea q + scaled nb mb eb q = n := ⟨_, rfl⟩
  have hrat : (n : ℚ) * 2 ^ q = (FVal.fin na ma ea).rat + (FVal.fin nb mb eb).rat := by
    rw [← hn, ← scaled_eq na ma (show q ≤ ea by omega), ← scaled_eq nb mb (show q ≤ eb by omega)]
    push_cast
    ring
  have hval : addFin na ma ea nb mb eb = if n = 0 then .fin false 0 0 else .fin (decide (n < 0)) n.natAbs q := by
    rw [← hn, ← hq]
    exact if_neg h
  rw [hval, ← hrat]
  split
  next h0 =>
    have hnz : ((FVal.fin na ma ea).rat == 0 && (FVal.fin nb mb eb).rat == 0) = false := by simpa [rat_eq_zero] using h
    exact ⟨rfl, rfl, by rw [h0]; simp [FVal.rat], fun _ => by rw [hnz]; rfl⟩
  next h0 =>
    exact ⟨rfl, rfl, rat_integer n q, fun h => absurd h (mul_ne_zero (Int.cast_ne_zero.mpr h0) (zpow_ne_zero q two_ne_zero))⟩

/-- The exact product, its sign the XOR of the signs. -/
theorem mulVal_fin : (mulVal x y).1.isFin = true ∧ (mulVal x y).2 = 0#5 ∧ (mulVal x y).1.rat = x.rat * y.rat ∧
    (mulVal x y).1.neg? = (x.neg? != y.neg?) := by
  obtain ⟨na, ma, ea, rfl⟩ := FVal.exists_of_isFin hx
  obtain ⟨nb, mb, eb, rfl⟩ := FVal.exists_of_isFin hy
  refine ⟨rfl, rfl, ?_, rfl⟩
  have hmul : (mulVal (.fin na ma ea) (.fin nb mb eb)).1 = .fin (na != nb) (ma * mb) (ea + eb) := rfl
  rw [hmul, rat_fin, rat_fin, rat_fin, zpow_add₀ two_ne_zero, Nat.cast_mul]
  cases na <;> cases nb <;> simp <;> ring

end

theorem fmaVal_eq (x y z : FVal) :
    fmaVal x y z = ((addVal (mulVal x y).1 z).1, (mulVal x y).2 ||| (addVal (mulVal x y).1 z).2) := rfl

theorem FVal.isFin_negate {x : FVal} (h : x.isFin = true) : x.negate.isFin = true ∧ x.negate.neg? = !x.neg? := by
  obtain ⟨n, m, e, rfl⟩ := FVal.exists_of_isFin h
  exact ⟨rfl, rfl⟩

section
variable (f : Fmt) {a b c : Nat} (ha : (f.decode a).isFin = true) (hb : (f.decode b).isFin = true)
include ha hb

theorem fpAdd_once : f.once ((f.decode a).rat + (f.decode b).rat)
    ((f.decode a).rat == 0 && (f.decode b).rat == 0 && (f.decode a).neg? && (f.decode b).neg?) (fpAdd f a b) := by
  obtain ⟨hfin, hfl, hrat, hzero⟩ := addVal_fin ha hb
  exact f.once_roundVal hfin hfl hrat hzero

theorem fpSub_once : f.once ((f.decode a).rat - (f.decode b).rat)
    ((f.decode a).rat == 0 && (f.decode b).rat == 0 && (f.decode a).neg? && !(f.decode b).neg?) (fpSub f a b) := by
  obtain ⟨hnfin, hnneg⟩ := FVal.isFin_negate hb
  obtain ⟨hfin, hfl, hrat, hzero⟩ := addVal_fin ha hnfin
  rw [FVal.rat_negate, ← sub_eq_add_neg] at hrat hzero
  refine f.once_roundVal hfin hfl hrat fun h => (hzero h).trans ?_
  rw [hnneg, Bool.eq_iff_iff]
  simp

theorem fpMul_once : f.once ((f.decode a).rat * (f.decode b).rat) ((f.decode a).neg? != (f.decode b).neg?) (fpMul f a b) := by
  obtain ⟨hfin, hfl, hrat, hneg⟩ := mulVal_fin ha hb
  exact f.once_roundVal hfin hfl hrat fun _ => hneg

theorem fpFma_once (hc : (f.decode c).isFin = true) : f.once ((f.decode a).rat * (f.decode b).rat + (f.decode c).rat)
    ((f.decode a).rat * (f.decode b).rat == 0 && (f.decode c).rat == 0 && ((f.decode a).neg? != (f.decode b).neg?) && (f.decode c).neg?)
    (fpFma f a b c) := by
  obtain ⟨hpfin, hpfl, hprat, hpneg⟩ := mulVal_fin ha hb
  obtain ⟨hfin, hfl, hrat, hzero⟩ := addVal_fin hpfin hc
  rw [hprat, hpneg] at hzero
  refine f.once_roundVal hfin ?_ (hprat ▸ hrat) hzero
  rw [fmaVal_eq, hpfl, hfl]
  rfl

end

theorem FVal.eq_nan {x : FVal} (h : x.isNan = true) : x = .nan x.isSnan := by
  cases x with
  | nan s => rfl
  | inf n | fin n m e => cases h

section
variable {x y : FVal}

theorem mulVal_nan (h : (x.isNan || y.isNan) = true) : mulVal x y = (.nan false, nvIf (x.isSnan || y.isSnan)) := by
  cases x with
  | nan s => rfl
  | inf n | fin n m e =>
    rw [FVal.eq_nan (x := y) (by simpa [FVal.isNan] using h), Bool.or_comm]
    rfl

/-- The invalid product: an infinity times a zero. -/
theorem mulVal_invalid (h : ((x.isInf && y.isZero) || (x.isZero && y.isInf)) = true) : mulVal x y = (.nan false, Flags.nv) := by
  cases x with
  | nan s => cases h
  | inf n =>
    cases y with
    | fin m k e => exact if_pos (by simpa [FVal.isInf, FVal.isZero] using h)
    | nan s | inf m => simp [FVal.isInf, FVal.isZero] at h
  | fin n m e =>
    cases y with
    | inf k => exact if_pos (by simpa [FVal.isInf, FVal.isZero] using h)
    | nan s | fin k j r => simp [FVal.isInf, FVal.isZero] at h

end

/-! ### The exact sum -/

/-- The sum of finite values in quanta of the format. -/
theorem foldl_scaled (f : Fmt) {vs : List FVal} (h : ∀ v ∈ vs, ∃ neg m e, v = .fin neg m e ∧ f.qmin ≤ e) (n : Int) :
    ((vs.foldl (fun acc v => match v with
      | .fin n m e => acc + scaled n m e f.qmin
      | _ => acc) n : Int) : ℚ) * 2 ^ f.qmin = n * 2 ^ f.qmin + (vs.map FVal.rat).sum := by
  induction vs generalizing n with
  | nil => simp
  | cons v vs ih =>
    obtain ⟨⟨neg, m, e, rfl, he⟩, hvs⟩ := List.forall_mem_cons.mp h
    rw [List.foldl_cons, ih hvs, List.map_cons, List.sum_cons, ← scaled_eq neg m he]
    push_cast
    ring

theorem exactSum_once (f : Fmt) {l : List Nat} (h : ∀ k ∈ l, (f.decode k).isFin = true) :
    f.once ((l.map (fun k => (f.decode k).rat)).sum) false (exactSum f l) := by
  have hfin : ∀ v ∈ l.map f.decode, ∃ neg m e, v = .fin neg m e ∧ f.qmin ≤ e := by
    intro v hv
    obtain ⟨k, hk, rfl⟩ := List.mem_map.mp hv
    obtain ⟨neg, m, e, hdec⟩ := FVal.exists_of_isFin (h k hk)
    exact ⟨neg, m, e, hdec, (Fmt.decode_fin hdec).2.2.1⟩
  have hnone : ∀ p : FVal → Bool, (∀ neg m e, p (.fin neg m e) = false) → (l.map f.decode).any p = false := by
    intro p hp
    rw [List.any_eq_false]
    intro v hv
    obtain ⟨neg, m, e, rfl, -⟩ := hfin v hv
    simp [hp]
  have hsum := foldl_scaled f hfin 0
  rw [Int.cast_zero, zero_mul, zero_add, List.map_map] at hsum
  have hexact := f.once_integer ((l.map f.decode).foldl (fun acc v => match v with
      | .fin n m e => acc + scaled n m e f.qmin
      | _ => acc) 0) f.qmin
  rw [hsum] at hexact
  simp only [exactSum, hnone FVal.isNan (fun _ _ _ => rfl), hnone (fun v => v == .inf false) (fun _ _ _ => rfl),
    hnone (fun v => v == .inf true) (fun _ _ _ => rfl)]
  exact hexact

end Sys2Proof.Machine

/-! ## Exact images (R83 to R85) -/

namespace Sys2Proof.Machine

/-- The low bits of a number read as a signed number. -/
theorem signed_eq_toInt {w n : Nat} (hw : 0 < w) (hn : n < 2 ^ w) :
    (if bit n (w - 1) then (n : Int) - (2 ^ w : Nat) else (n : Int)) = (BitVec.ofNat w n).toInt := by
  have hmsb : (BitVec.ofNat w n).msb = bit n (w - 1) := by
    rw [BitVec.msb_eq_getLsbD_last, BitVec.getLsbD_ofNat, bit_eq_testBit]
    simp [hw]
  rw [BitVec.toInt_eq_msb_cond, hmsb, BitVec.toNat_ofNat, Nat.mod_eq_of_lt hn]

/-- The two kinds of images: the size of an element, the width of the sum, the exponent of its unit (R83). -/
def imageKinds : List (Nat × Nat × Nat) := [(40, 312, 149), (272, 2168, 1074)]

theorem imageShape_of_mem {k : Nat × Nat × Nat} (h : k ∈ imageKinds) : imageShape k.1 = k.2 ∧ 0 < k.2.1 := by
  simp only [imageKinds, List.mem_cons, List.not_mem_nil, or_false] at h
  rcases h with rfl | rfl <;> exact ⟨rfl, by decide⟩

/-- A format's least quantum is at or above the unit of each image that takes it. -/
theorem unit_le_qmin {k : Nat × Nat × Nat} (h : k ∈ imageKinds) {f : Fmt} (hf : f ∈ [Fmt.f32, Fmt.f64]) (hk : f = Fmt.f32 ∨ k.1 = 272) :
    -(k.2.2 : Int) ≤ f.qmin := by
  simp only [imageKinds, List.mem_cons, List.not_mem_nil, or_false] at h hf
  rcases h with rfl | rfl <;> rcases hf with rfl | rfl
  · decide
  · simp [Fmt.f64, Fmt.f32] at hk
  · decide
  · decide

section
variable {esize w z : Nat} (hshape : imageShape esize = (w, z)) (image : Nat)
include hshape

theorem imageAdd_nan (s : Bool) : imageAdd esize image (.nan s) = image % 2 ^ w + 2 ^ w * (image / 2 ^ w ||| 1) := by
  simp [imageAdd, hshape, bits]

theorem imageAdd_inf (neg : Bool) :
    imageAdd esize image (.inf neg) = image % 2 ^ w + 2 ^ w * (image / 2 ^ w ||| if neg then 4 else 2) := by
  cases neg <;> simp [imageAdd, hshape, bits]

/-- A finite contribution adds its number of units to the sum and keeps the flags. -/
theorem imageAdd_fin {neg : Bool} {m : Nat} {e : Int} (he : -(z : Int) ≤ e) :
    let new := imageAdd esize image (.fin neg m e)
    new / 2 ^ w = image / 2 ^ w ∧ ∃ n : Int, (n : ℚ) = (FVal.fin neg m e).rat * (2 : ℚ) ^ z ∧
      ((new % 2 ^ w : Nat) : Int) = (((image % 2 ^ w : Nat) : Int) + n) % 2 ^ w := by
  intro new
  obtain ⟨n, hn⟩ : ∃ n, scaled neg m e (-(z : Int)) = n := ⟨_, rfl⟩
  obtain ⟨r, hr⟩ : ∃ r : Nat, (r : Int) = (((image % 2 ^ w : Nat) : Int) + n) % (2 ^ w : Nat) :=
    ⟨_, Int.toNat_of_nonneg (Int.emod_nonneg _ (by positivity))⟩
  have hlt : r < 2 ^ w := by
    have := Int.emod_lt_of_pos (((image % 2 ^ w : Nat) : Int) + n) (show (0 : Int) < (2 ^ w : Nat) by positivity)
    omega
  have hnew : new = r + 2 ^ w * (image / 2 ^ w) := by
    simp only [new, imageAdd, hshape, bits, pow_zero, Nat.div_one, hn, ← hr, Int.toNat_natCast]
  have hpos := Nat.two_pow_pos w
  refine ⟨?_, n, ?_, ?_⟩
  · rw [hnew, Nat.add_mul_div_left _ _ hpos, Nat.div_eq_of_lt hlt, Nat.zero_add]
  · rw [← scaled_eq neg m he, hn, mul_assoc, ← zpow_natCast, ← zpow_add₀ two_ne_zero, neg_add_cancel, zpow_zero, mul_one]
  · rw [hnew, Nat.add_mul_mod_self_left, Nat.mod_eq_of_lt hlt, hr]
    push_cast
    rfl

/-- Closing an image: its flags decide, else its signed sum is rounded once. -/
theorem imageClose_spec (hw : 0 < w) (f : Fmt) :
    let flags := image / 2 ^ w
    let sum := image % 2 ^ w
    let pinf := flags.testBit 1
    let ninf := flags.testBit 2
    let nan := flags.testBit 0 || (pinf && ninf)
    (nan = true → imageClose esize image f = (f.nan, Flags.nv)) ∧
    (nan = false → pinf = true → imageClose esize image f = (f.infCode, 0#5)) ∧
    (nan = false → ninf = true → imageClose esize image f = (f.signed true f.infCode, 0#5)) ∧
    (nan = false → pinf = false → ninf = false →
      f.once (((BitVec.ofNat w sum).toInt : ℚ) / (2 : ℚ) ^ z) false (imageClose esize image f)) := by
  intro flags sum pinf ninf nan
  have hclose : imageClose esize image f = if nan then (f.nan, Flags.nv) else if pinf then (f.infCode, 0#5)
      else if ninf then (f.signed true f.infCode, 0#5) else
        let v := (BitVec.ofNat w sum).toInt
        if v = 0 then (0, 0#5) else roundFin f .ne (decide (v < 0)) v.natAbs (-(z : Int)) := by
    rw [← signed_eq_toInt hw (Nat.mod_lt image (Nat.two_pow_pos w))]
    simp only [imageClose, hshape, bit_eq_testBit, bits, pow_zero, Nat.div_one]
    rfl
  rw [hclose]
  refine ⟨fun hn => if_pos hn, fun hn hp => ?_, fun hn hi => ?_, fun hn hp hi => ?_⟩
  · rw [hn, hp]
    rfl
  · have hp : pinf = false := by simpa [hi] using (Bool.or_eq_false_iff.mp hn).2
    rw [hn, hp, hi]
    rfl
  · rw [hn, hp, hi, div_eq_mul_inv, ← zpow_natCast, ← zpow_neg]
    exact f.once_integer _ _

end

/-! ## Contributions and epilogues (R127, R131) -/

/-- The value of a finite weight is a number of steps of its format (R70). -/
theorem wfStep_le {wf code : Nat} {neg : Bool} {m : Nat} {e : Int} (h : wfValue wf code = .fin neg m e) : wfStep wf ≤ e := by
  unfold wfValue at h
  unfold wfStep
  cases hf : wfFmt wf with
  | some f => exact (Fmt.decode_fin (hf ▸ h)).2.2.1
  | none =>
    rw [hf] at h
    cases h
    exact le_rfl

theorem wfCount_isNone (wf code : Nat) : (wfCount wf code).isNone = !(wfValue wf code).isFin := by
  unfold wfCount
  cases wfValue wf code <;> rfl

theorem wfCount_rat {wf code : Nat} (h : (wfValue wf code).isFin = true) :
    (((wfCount wf code).getD 0 : Int) : ℚ) * 2 ^ wfStep wf = (wfValue wf code).rat := by
  obtain ⟨neg, m, e, hv⟩ := FVal.exists_of_isFin h
  unfold wfCount
  rw [hv]
  exact scaled_eq neg m (wfStep_le hv)

/-- A sum of elements times weights, in steps of the weight format. -/
theorem foldl_weights {wf : Nat} {qs : List Int} {codes : List Nat} (h : ∀ k ∈ codes, (wfValue wf k).isFin = true) (n : Int) :
    (((List.zipWith (fun q c => q * c) qs ((codes.map (wfCount wf)).map (fun c => c.getD 0))).foldl (· + ·) n : Int) : ℚ) * 2 ^ wfStep wf =
      n * 2 ^ wfStep wf + (List.zipWith (fun q k => q * (wfValue wf k).rat) (qs.map Int.cast) codes).sum := by
  induction codes generalizing qs n with
  | nil => simp
  | cons k codes ih =>
    obtain ⟨hk, hcodes⟩ := List.forall_mem_cons.mp h
    cases qs with
    | nil => simp
    | cons q qs =>
      simp only [List.map_cons, List.zipWith_cons_cons, List.foldl_cons, List.sum_cons, ih hcodes, ← wfCount_rat hk]
      push_cast
      ring

/-- A list of integers coerced to rationals. -/
theorem coe_list (qs : List Int) : (do let a ← qs; pure (a : ℚ)) = qs.map Int.cast := List.map_eq_flatMap.symm

theorem Fmt.once_zero (f : Fmt) : f.once 0 false (0, 0#5) := by
  have h := f.once_integer 0 0
  rw [Int.cast_zero, zero_mul] at h
  exact h

theorem scaleVal_rat {w : Nat} (hn : scaleIsNan w = false) :
    (scaleVal w).isFin = true ∧ (scaleVal w).neg? = false ∧
      (scaleVal w).rat = if scaleIsZero w then 0 else ((65536 + bits w 0 16 : Nat) : ℚ) * 2 ^ ((scaleExp w : Int) - 143) := by
  simp only [scaleVal, hn, Bool.false_eq_true, if_false]
  split
  next => exact ⟨rfl, rfl, rat_eq_zero.mpr rfl⟩
  next => exact ⟨rfl, rfl, by rw [rat_fin, if_neg Bool.false_ne_true, one_mul]⟩

/-- A block's contribution is its exact value rounded once (R127). -/
theorem contributes_contribution (wf bs rs : Nat) (qs : List Int) (codes : List Nat) :
    contributes wf bs rs qs codes (contribution wf bs rs qs codes) := by
  have hbad : (codes.map (wfCount wf)).any Option.isNone = codes.any (fun k => !(wfValue wf k).isFin) := by
    rw [List.any_map]
    exact congrArg codes.any (funext fun k => wfCount_isNone wf k)
  unfold contributes contribution
  simp only [hbad]
  refine ⟨fun h => if_pos h, fun h => ?_⟩
  obtain ⟨⟨hcodes, hbs⟩, -⟩ : (codes.any (fun k => !(wfValue wf k).isFin) = false ∧ scaleIsNan bs = false) ∧ scaleIsNan rs = false := by
    simpa only [Bool.or_eq_false_iff] using h
  obtain ⟨p, hp⟩ : ∃ p, (List.zipWith (fun q c => q * c) qs ((codes.map (wfCount wf)).map (fun c => c.getD 0))).foldl (· + ·) 0 = p := ⟨_, rfl⟩
  have hsum := foldl_weights (wf := wf) (qs := qs) (codes := codes) (by simpa using hcodes) 0
  rw [hp, Int.cast_zero, zero_mul, zero_add] at hsum
  obtain ⟨-, -, hscale⟩ := scaleVal_rat hbs
  simp only [h, Bool.false_eq_true, if_false, hp]
  rw [coe_list, ← hsum, hscale]
  cases hz : scaleIsZero bs with
  | true =>
    simp only [Bool.or_true, if_true, mul_zero]
    exact Fmt.f64.once_zero
  | false =>
    have hone := Fmt.f64.once_integer (p * (65536 + bits bs 0 16 : Nat)) (wfStep wf + (scaleExp bs : Int) - 143)
    have hpos : (0 : Int) < (65536 + bits bs 0 16 : Nat) := by omega
    have hval : ((p * (65536 + bits bs 0 16 : Nat) : Int) : ℚ) * 2 ^ (wfStep wf + (scaleExp bs : Int) - 143) =
        p * 2 ^ wfStep wf * (((65536 + bits bs 0 16 : Nat) : ℚ) * 2 ^ ((scaleExp bs : Int) - 143)) := by
      rw [add_sub_assoc, zpow_add₀ two_ne_zero]
      push_cast
      ring
    have hsign : (p * (65536 + bits bs 0 16 : Nat) < 0) = (p < 0) := by
      rw [← mul_lt_mul_iff_left₀ hpos (b := p), zero_mul]
    have hzero : (p * (65536 + bits bs 0 16 : Nat) = 0) = (p = 0) := propext (mul_eq_zero_iff_right hpos.ne')
    rw [hval, Int.natAbs_mul, Int.natAbs_natCast] at hone
    simp only [hsign, hzero] at hone
    simpa using hone

/-- An accumulator value times its row's tag, rounded once to a format with NaNs (R131). -/
theorem epilogueValue_tagged {f : Fmt} (hf : f.tops ≠ .none) (a tag : Nat) : epilogueValue f a tag (roundVal f (tagged a tag)) := by
  have hnan : ∀ sg fl, (roundVal f (.nan sg, fl)).1 = f.nan := fun sg fl => by
    cases ht : f.tops <;> simp [roundVal, toFmt, ht] at hf ⊢
  refine ⟨fun hv ht => ?_, fun h => ?_, fun hi hz => ?_⟩
  · obtain ⟨hsfin, hsneg, -⟩ := scaleVal_rat ht
    obtain ⟨hfin, hfl, hrat, hneg⟩ := mulVal_fin hv hsfin
    refine f.once_roundVal hfin hfl hrat fun _ => hneg.trans ?_
    rw [hsneg, Bool.bne_false]
  · have hscale : (scaleIsNan tag = true) → (scaleVal tag).isNan = true := fun ht => by rw [scaleVal, if_pos ht]; rfl
    rw [tagged, mulVal_nan ((Bool.or_eq_true ..).mpr ((Bool.or_eq_true ..).mp h |>.imp_right hscale)), hnan]
  · have ht : scaleIsNan tag = false := by
      simp only [scaleIsZero, scaleIsNan, beq_iff_eq] at hz ⊢
      rw [hz]
      rfl
    have hval : scaleVal tag = .fin false 0 0 := by simp [scaleVal, ht, hz]
    rw [tagged, mulVal_invalid (by rw [hval, hi]; rfl)]
    cases h : f.tops <;> simp [roundVal, toFmt, h, nvIf] at hf ⊢

end Sys2Proof.Machine

/-! ## Rounding what lies between two multiples (R77, R107, R129)

A root or a quotient is known only as lying between two neighbouring multiples of a power of two, with one bit that says whether it is
the lower one. Where a format's quantum is twice that power or more, no point of the grid and no midpoint lies between the two, so every
number between them rounds the same way. -/

namespace Sys2Proof.Machine

/-! ### From the rationals to the reals -/

section
variable {a b : ℝ} {x : ℝ}

/-- A rational as near as another to every rational of an interval is strictly nearer to every real of it. -/
theorem abs_sub_lt_of_rat {v w : ℚ} (hne : w ≠ v) (h : ∀ z : ℚ, a < z → z < b → |v - z| ≤ |w - z|) (ha : a < x) (hb : x < b) :
    |(v : ℝ) - x| < |(w : ℝ) - x| := by
  by_contra hlt
  rw [not_lt, ← sq_le_sq] at hlt
  have hne' : (w : ℝ) ≠ v := mod_cast hne
  -- Some rational of the interval, on the other one's side of x, to which the other one is nearer.
  obtain ⟨z, hz, hzb, hside⟩ : ∃ z : ℚ, a < z ∧ z < b ∧ 0 < (w - v : ℝ) * (z - x) := by
    rcases lt_or_gt_of_ne hne' with hwv | hvw
    · obtain ⟨z, hz, hzx⟩ := exists_rat_btwn ha
      exact ⟨z, hz, hzx.trans hb, mul_pos_of_neg_of_neg (by linarith) (by linarith)⟩
    · obtain ⟨z, hxz, hz⟩ := exists_rat_btwn hb
      exact ⟨z, ha.trans hxz, hz, mul_pos (by linarith) (by linarith)⟩
  have hnear : ((v - z) ^ 2 : ℝ) ≤ (w - z) ^ 2 := sq_le_sq.mpr (by exact_mod_cast h z hz hzb)
  nlinarith

/-- What every rational of an interval rounds to, every real of it rounds to and to nothing else. -/
theorem Fmt.nearestOn_of_rat (f : Fmt) {low : Int → Prop} {v : ℚ} (h : ∀ z : ℚ, a < z → z < b → f.nearestOn low z v) (ha : a < x)
    (hb : x < b) : f.nearestOn low x v ∧ ∀ u, f.nearestOn low x u → u = v := by
  have hstrict : ∀ w, f.gridFrom low w → w ≠ v → |(v : ℝ) - x| < |(w : ℝ) - x| := fun w hw hne =>
    abs_sub_lt_of_rat hne (fun z hz hzb => by
      obtain ⟨n, q, -, -, -, -, hnear, -⟩ := h z hz hzb
      exact_mod_cast hnear w hw) ha hb
  obtain ⟨z, hz, hzb⟩ := exists_rat_btwn (ha.trans hb)
  obtain ⟨n, q, hn, hq, hcanon, hv, -, -⟩ := h z hz hzb
  refine ⟨⟨n, q, hn, hq, hcanon, hv, fun w hw => ?_, fun ⟨w, hw, hne, he⟩ => absurd he (hstrict w hw hne).ne⟩, fun u hu => ?_⟩
  · by_cases hne : w = v
    · rw [hne]
    · exact (hstrict w hw hne).le
  · obtain ⟨k, p, hk, hp, -, hu', hnear, -⟩ := hu
    by_contra hne
    exact absurd (hnear v ⟨n, q, hn, hq, hv⟩) (not_le.mpr (hstrict u ⟨k, p, hk, hp, hu'⟩ hne))

end

/-! ### Between two multiples -/

/-- Numbers strictly between two neighbouring integers have one nearest even number. -/
theorem isNearest_between {n N d : Nat} (hd : 0 < d) {y z : ℚ} (hy : (n : ℚ) < y * (2 * d) ∧ y * (2 * d) < n + 1)
    (hz : (n : ℚ) < z * (2 * d) ∧ z * (2 * d) < n + 1) (h : IsNearest N y) : IsNearest N z := by
  have hd' : (0 : ℚ) < 2 * d := by positivity
  obtain ⟨hlo, hhi⟩ := abs_le.mp h.1
  -- The midpoints beside N are multiples of d, so the neighbours do not pass them.
  have hbelow : 2 * N * d ≤ n + d := by
    have : ((2 * N * d : Nat) : ℚ) < ((n + 1 + d : Nat) : ℚ) := by
      push_cast
      nlinarith
    have : 2 * N * d < n + 1 + d := by exact_mod_cast this
    omega
  have habove : n + 1 ≤ 2 * N * d + d := by
    have : ((n : Nat) : ℚ) < ((2 * N * d + d : Nat) : ℚ) := by
      push_cast
      nlinarith
    exact_mod_cast this
  have hbelow' : (2 * N * d : ℚ) ≤ n + d := by exact_mod_cast hbelow
  have habove' : (n + 1 : ℚ) ≤ 2 * N * d + d := by exact_mod_cast habove
  have hlt : |(N : ℚ) - z| < 1 / 2 := by
    rw [abs_lt]
    constructor <;> nlinarith
  exact ⟨hlt.le, fun he => absurd he hlt.ne⟩

theorem Fmt.names_congr {f : Fmt} {neg : Bool} {x y : ℝ} {v : ℚ} {s t : Prop} {fate : Nat} {r : Nat × Flags} (hne : (v : ℝ) ≠ x ↔ (v : ℝ) ≠ y)
    (ht : s ↔ t) (h : f.names neg x v s fate r) : f.names neg y v t fate r := by
  obtain ⟨hover, hfits⟩ := h
  refine ⟨hover, fun hle => ?_⟩
  obtain ⟨hfin, hrat, hneg, hclear, hnx, huf⟩ := hfits hle
  exact ⟨hfin, hrat, hneg, hclear, hnx.trans hne, huf.trans (and_congr hne ht)⟩

/-- Where every rational of an interval rounds to one value outside it, within the exponent range and without a limit, the reals of the
interval have the same code and flags. -/
theorem Fmt.roundedNE_of_rat {f : Fmt} {neg : Bool} {a b x y : ℝ} {v u : ℚ} {r : Nat × Flags} (hv : ∀ z : ℚ, a < z → z < b → f.isRoundNE z v)
    (hu : ∀ z : ℚ, a < z → z < b → f.nearestOn (fun _ => True) z u) (hout : ∀ z : ℝ, a < z → z < b → (v : ℝ) ≠ z) (hx : a < x ∧ x < b)
    (hy : a < y ∧ y < b) (h : f.roundedNE neg x r) : f.roundedNE neg y r := by
  have htiny : ∀ z : ℝ, a < z → z < b → (f.tinyNE z ↔ u < f.leastNormal) := fun z hz hzb => by
    obtain ⟨hnear, honly⟩ := f.nearestOn_of_rat hu hz hzb
    exact ⟨fun ⟨w, hw, hlt⟩ => honly w hw ▸ hlt, fun hlt => ⟨u, hnear, hlt⟩⟩
  obtain ⟨w, hw, hnames⟩ := h
  obtain rfl : w = v := (f.nearestOn_of_rat hv hx.1 hx.2).2 w hw
  refine ⟨w, (f.nearestOn_of_rat hv hy.1 hy.2).1, Fmt.names_congr ?_ ?_ hnames⟩
  · exact iff_of_true (hout x hx.1 hx.2) (hout y hy.1 hy.2)
  · exact (htiny x hx.1 hx.2).trans (htiny y hy.1 hy.2).symm

section
variable {n : Nat} {q P : Int} {z : ℚ}

/-- A number between two multiples in units of a quantum at least twice as large. -/
theorem between_units (hP : q + 1 ≤ P) (hz : (n : ℚ) * 2 ^ q < z ∧ z < (n + 1) * 2 ^ q) :
    (n : ℚ) < z / 2 ^ P * (2 * (2 ^ (P - q - 1).toNat : Nat)) ∧ z / 2 ^ P * (2 * (2 ^ (P - q - 1).toNat : Nat)) < n + 1 := by
  have hq : (0 : ℚ) < 2 ^ q := by positivity
  have hunit : z / 2 ^ P * (2 * (2 ^ (P - q - 1).toNat : Nat)) = z / 2 ^ q := by
    have : (2 : ℚ) ^ P = 2 * 2 ^ (P - q - 1).toNat * 2 ^ q := by
      rw [← zpow_natCast, Int.toNat_of_nonneg (by omega), ← zpow_one_add₀ two_ne_zero, ← zpow_add₀ two_ne_zero]
      congr 1
      omega
    rw [this]
    push_cast
    field_simp
  rw [hunit, lt_div_iff₀ hq, div_lt_iff₀ hq]
  exact hz

/-- A number between two multiples in units of the last place of a significand, or above it. -/
theorem between_significand (f : Fmt) (hn : 0 < n) (hP : (Nat.log2 n : Int) + q - f.mb ≤ P) (hz : (n : ℚ) * 2 ^ q < z ∧ z < (n + 1) * 2 ^ q) :
    z / 2 ^ P < 2 ^ (f.mb + 1) ∧ (P = (Nat.log2 n : Int) + q - f.mb → (2 : ℚ) ^ f.mb ≤ z / 2 ^ P) := by
  have hP0 : (0 : ℚ) < 2 ^ P := by positivity
  have hlo : (2 : ℚ) ^ Nat.log2 n ≤ n := by exact_mod_cast Nat.log2_self_le hn.ne'
  have hhi : (n : ℚ) + 1 ≤ 2 ^ (Nat.log2 n + 1) := by exact_mod_cast Nat.lt_log2_self (n := n)
  constructor
  · rw [div_lt_iff₀ hP0]
    calc z < (n + 1) * 2 ^ q := hz.2
      _ ≤ 2 ^ (Nat.log2 n + 1) * 2 ^ q := by gcongr
      _ = 2 ^ ((Nat.log2 n : Int) + 1 + q) := by rw [zpow_add₀ two_ne_zero, zpow_add_one₀ two_ne_zero, zpow_natCast, pow_succ]
      _ ≤ 2 ^ ((f.mb : Int) + 1 + P) := zpow_le_zpow_right₀ one_le_two (by omega)
      _ = 2 ^ (f.mb + 1) * 2 ^ P := by rw [zpow_add₀ two_ne_zero, zpow_add_one₀ two_ne_zero, zpow_natCast, pow_succ]
  · rintro rfl
    rw [le_div_iff₀ hP0]
    calc (2 : ℚ) ^ f.mb * 2 ^ ((Nat.log2 n : Int) + q - f.mb) = 2 ^ Nat.log2 n * 2 ^ q := by
          rw [← zpow_natCast, ← zpow_add₀ two_ne_zero, ← zpow_natCast, ← zpow_add₀ two_ne_zero]
          congr 1
          omega
      _ ≤ n * 2 ^ q := by gcongr
      _ ≤ z := hz.1.le

end

/-- No multiple of a larger power of two lies between two neighbouring multiples. -/
theorem multiple_not_between {n N : Nat} {q P : Int} (h : q ≤ P) {z : ℝ} (hz : (n : ℝ) * 2 ^ q < z) (hzb : z < ((n : ℝ) + 1) * 2 ^ q) :
    (((N : ℚ) * 2 ^ P : ℚ) : ℝ) ≠ z := by
  rintro rfl
  have hval : (((N : ℚ) * 2 ^ P : ℚ) : ℝ) = ((N * 2 ^ (P - q).toNat : Nat) : ℝ) * 2 ^ q := by
    push_cast
    rw [← zpow_natCast (2 : ℝ), Int.toNat_of_nonneg (by omega), mul_assoc, ← zpow_add₀ two_ne_zero, sub_add_cancel]
  have hq : (0 : ℝ) < 2 ^ q := by positivity
  rw [hval] at hz hzb
  have hlo : n < N * 2 ^ (P - q).toNat := by exact_mod_cast lt_of_mul_lt_mul_right hz hq.le
  have hhi : N * 2 ^ (P - q).toNat < n + 1 := by exact_mod_cast lt_of_mul_lt_mul_right hzb hq.le
  omega

section
variable {f : Fmt} (hf : f.Rounds) (neg : Bool) {n : Nat} (hn : 2 ^ (f.mb + 1) ≤ n) {q : Int}
include hf hn

/-- A number strictly between two neighbouring multiples rounds as their midpoint does. -/
theorem roundedNE_between {x : ℝ} (hlo : (n : ℝ) * 2 ^ q < x) (hhi : x < ((n : ℝ) + 1) * 2 ^ q) :
    f.roundedNE neg x (roundFin f .ne neg (2 * n + 1) (q - 1)) := by
  have hn0 : 0 < n := (Nat.two_pow_pos _).trans_le hn
  have hlog : f.mb + 1 ≤ Nat.log2 n := (Nat.le_log2 hn0.ne').mpr hn
  obtain ⟨mid, hmid⟩ : ∃ mid : ℚ, ((2 * n + 1 : Nat) : ℚ) * 2 ^ (q - 1) = mid := ⟨_, rfl⟩
  have hmid' : mid = (n + 1 / 2) * 2 ^ q := by
    rw [← hmid, zpow_sub_one₀ two_ne_zero]
    push_cast
    ring
  have hq : (0 : ℚ) < 2 ^ q := by positivity
  have hin : (n : ℚ) * 2 ^ q < mid ∧ mid < (n + 1) * 2 ^ q := by
    rw [hmid']
    constructor <;> gcongr <;> linarith
  have hround := roundFin_ne hf neg (show 0 < 2 * n + 1 by omega) (q - 1)
  rw [hmid] at hround
  -- The points of the grid nearest to the midpoint, within the exponent range and without a limit.
  have hpoint : ∀ P : Int, (Nat.log2 n : Int) + q - f.mb ≤ P → ∃ N : Nat,
      ∀ z : ℚ, (n : ℚ) * 2 ^ q < z → z < (n + 1) * 2 ^ q → IsNearest N (z / 2 ^ P) := fun P hP => by
    refine ⟨(quantise .ne neg (2 * n + 1) (q - 1) P).1, fun z hz hzb => ?_⟩
    refine isNearest_between (Nat.two_pow_pos _) (between_units (by omega) hin) (between_units (by omega) ⟨hz, hzb⟩) ?_
    have hnear := quantise_ne neg (2 * n + 1) (q - 1) P
    rwa [zpow_sub₀ two_ne_zero, ← mul_div_assoc, hmid] at hnear
  obtain ⟨P, hP⟩ : ∃ P, max ((Nat.log2 n : Int) + q - f.mb) f.qmin = P := ⟨_, rfl⟩
  obtain ⟨N, hN⟩ := hpoint P (by omega)
  obtain ⟨K, hK⟩ := hpoint _ le_rfl
  have hcast : ∀ z : ℚ, ((n : ℝ) * 2 ^ q < z ∧ (z : ℝ) < ((n : ℝ) + 1) * 2 ^ q) ↔ ((n : ℚ) * 2 ^ q < z ∧ z < (n + 1) * 2 ^ q) := fun z => by
    rw [← Rat.cast_lt (K := ℝ), ← Rat.cast_lt (K := ℝ)]
    push_cast
    rfl
  have hpow : ∀ (z : ℚ) (p : Int), z / 2 ^ p * 2 ^ p = z := fun z p => div_mul_cancel₀ _ (zpow_ne_zero p two_ne_zero)
  refine Fmt.roundedNE_of_rat (a := (n : ℝ) * 2 ^ q) (b := ((n : ℝ) + 1) * 2 ^ q) (v := (N : ℚ) * 2 ^ P)
    (u := (K : ℚ) * 2 ^ ((Nat.log2 n : Int) + q - f.mb)) (fun z hz hzb => ?_) (fun z hz hzb => ?_) (fun z hz hzb => ?_)
    ((hcast mid).mpr hin) ⟨hlo, hhi⟩ hround
  · obtain ⟨hz, hzb⟩ := (hcast z).mp ⟨hz, hzb⟩
    have hmin : f.qmin ≤ P := by omega
    obtain ⟨hlt, hge⟩ := between_significand f hn0 (show (Nat.log2 n : Int) + q - f.mb ≤ P by omega) ⟨hz, hzb⟩
    have h := f.isRoundNE_of_isNearest hf.1 (hN z hz hzb) hmin hlt (by
      rcases (show P = f.qmin ∨ P = (Nat.log2 n : Int) + q - f.mb by omega) with h | h
      · exact .inl h
      · exact .inr (hge h))
    rwa [hpow] at h
  · obtain ⟨hz, hzb⟩ := (hcast z).mp ⟨hz, hzb⟩
    obtain ⟨hlt, hge⟩ := between_significand f hn0 le_rfl ⟨hz, hzb⟩
    have h := f.nearestOn_unlimited hf.1 ((Nat.log2 n : Int) + q - f.mb) (hK z hz hzb) hlt (hge rfl)
    rwa [hpow] at h
  · exact multiple_not_between (show q ≤ P by omega) hz hzb

/-- What is known of a number is a multiple below it, with a bit that says whether it is another number. -/
theorem roundedNE_sticky {x : ℝ} (hlo : (n : ℝ) * 2 ^ q ≤ x) (hhi : x < ((n : ℝ) + 1) * 2 ^ q) {inexact : Bool}
    (hb : inexact = true ↔ x ≠ (n : ℝ) * 2 ^ q) : f.roundedNE neg x (roundFin f .ne neg (sticky n inexact) (q - 1)) := by
  cases inexact with
  | true => exact roundedNE_between hf neg hn (lt_of_le_of_ne hlo (hb.mp rfl).symm) hhi
  | false =>
    have hn0 : 0 < n := (Nat.two_pow_pos _).trans_le hn
    have h := roundFin_ne hf neg (show 0 < 2 * n + 0 by omega) (q - 1)
    have hx : ((((2 * n + 0 : Nat) : ℚ) * 2 ^ (q - 1) : ℚ) : ℝ) = x := by
      rw [not_ne_iff.mp (mt hb.mpr Bool.false_ne_true), zpow_sub_one₀ two_ne_zero]
      push_cast
      ring
    rwa [hx] at h

end

end Sys2Proof.Machine

/-! ## Sums, products, images, contributions, epilogues and rescales are rounded once (O7) -/

namespace Sys2Proof.Machine

theorem fmt_f64_rounds : Fmt.f64.Rounds := Fmt.rounds_of_mem (by decide)

/-- A quotient of naturals lies from its integer part up to the next integer, and is its integer part just without a remainder. -/
theorem div_between (k : Nat) {d : Nat} (hd : 0 < d) :
    ((k / d : Nat) : ℝ) ≤ k / d ∧ (k / d : ℝ) < (k / d : Nat) + 1 ∧ ((k % d != 0) = true ↔ (k / d : ℝ) ≠ (k / d : Nat)) := by
  have hd' : (0 : ℝ) < d := mod_cast hd
  have hdiv : (k : ℝ) = d * (k / d : Nat) + (k % d : Nat) := mod_cast (Nat.div_add_mod k d).symm
  have hmod : ((k % d : Nat) : ℝ) < d := mod_cast Nat.mod_lt k hd
  refine ⟨(le_div_iff₀ hd').mpr ?_, (div_lt_iff₀ hd').mpr ?_, ?_⟩
  · have : (0 : ℝ) ≤ (k % d : Nat) := Nat.cast_nonneg _
    linarith
  · linarith
  · rw [bne_iff_ne, ne_eq, ne_eq, div_eq_iff hd'.ne', not_iff_not]
    constructor
    · intro h
      rw [h] at hdiv
      push_cast at hdiv ⊢
      linarith
    · intro h
      have : ((k % d : Nat) : ℝ) = 0 := by linarith
      exact_mod_cast this

/-- A quotient's integer part with the bit that says whether a remainder is left rounds as the exact quotient does. -/
theorem roundedNE_div {f : Fmt} (hf : f.Rounds) (neg : Bool) {k d : Nat} (hd : 0 < d) (hk : 2 ^ (f.mb + 1) * d ≤ k) (q : Int) :
    f.roundedNE neg ((k : ℝ) / d * 2 ^ q) (roundFin f .ne neg (sticky (k / d) (k % d != 0)) (q - 1)) := by
  obtain ⟨hlo, hhi, hmod⟩ := div_between k hd
  have hq : (0 : ℝ) < 2 ^ q := by positivity
  refine roundedNE_sticky hf neg ((Nat.le_div_iff_mul_le hd).mpr hk) ?_ ?_ (hmod.trans (not_congr ?_))
  · exact mul_le_mul_of_nonneg_right hlo hq.le
  · exact mul_lt_mul_of_pos_right hhi hq
  · exact (mul_left_inj' hq.ne').symm

/-- A rescaled value is the exact one rounded once (R129). -/
theorem rescaled_roundedNE {a : DWord} {old new : Nat} (hfin : (Fmt.f64.decode a.toNat).isFin = true) (hne : (Fmt.f64.decode a.toNat).rat ≠ 0)
    (hoz : scaleIsZero old = false) (hon : scaleIsNan old = false) (hnz : scaleIsZero new = false) (hnn : scaleIsNan new = false) :
    Fmt.f64.roundedNE (Fmt.f64.decode a.toNat).neg?
      (((|(Fmt.f64.decode a.toNat).rat| * (scaleVal old).rat / (scaleVal new).rat : ℚ)) : ℝ) (rescaled a old new) := by
  obtain ⟨neg, m, e, hdec⟩ := FVal.exists_of_isFin hfin
  rw [hdec] at hne ⊢
  have hm : m ≠ 0 := fun h => hne (rat_eq_zero.mpr h)
  obtain ⟨-, -, hold⟩ := scaleVal_rat hon
  obtain ⟨-, -, hnew⟩ := scaleVal_rat hnn
  have hbits : bits new 0 16 < 65536 := Nat.mod_lt _ (by decide)
  obtain ⟨k, hk⟩ : ∃ k, m * (65536 + bits old 0 16) * 2 ^ 128 = k := ⟨_, rfl⟩
  obtain ⟨d, hd⟩ : ∃ d, 65536 + bits new 0 16 = d := ⟨_, rfl⟩
  have hlarge : 2 ^ (Fmt.f64.mb + 1) * d ≤ k := by
    have hmul : 1 * 65536 ≤ m * (65536 + bits old 0 16) := Nat.mul_le_mul (Nat.pos_of_ne_zero hm) (Nat.le_add_right _ _)
    have hmb : Fmt.f64.mb = 52 := rfl
    rw [hmb]
    omega
  have hround := roundedNE_div fmt_f64_rounds neg (show 0 < d by omega) hlarge
    (e + ((scaleExp old : Nat) : Int) - ((scaleExp new : Nat) : Int) - 128)
  have hres : rescaled a old new = roundFin Fmt.f64 .ne neg (sticky (k / d) (k % d != 0))
      (e + ((scaleExp old : Nat) : Int) - ((scaleExp new : Nat) : Int) - 128 - 1) := by
    rw [rescaled, hdec, sub_sub _ 128 1]
    simp only [if_neg hm, hk, hd]
    norm_num
  have hval : |(FVal.fin neg m e).rat| * (scaleVal old).rat / (scaleVal new).rat =
      (k : ℚ) / d * 2 ^ (e + ((scaleExp old : Nat) : Int) - ((scaleExp new : Nat) : Int) - 128) := by
    have hpow : (2 : ℚ) ^ (e + ((scaleExp old : Nat) : Int) - ((scaleExp new : Nat) : Int) - 128) * (2 ^ ((scaleExp new : Int) - 143) * 2 ^ 128) =
        2 ^ e * 2 ^ ((scaleExp old : Int) - 143) := by
      rw [← zpow_natCast (2 : ℚ) 128, ← zpow_add₀ two_ne_zero, ← zpow_add₀ two_ne_zero, ← zpow_add₀ two_ne_zero]
      congr 1
      push_cast
      ring
    have hd0 : (d : ℚ) ≠ 0 := by
      norm_cast
      omega
    have hn0 : (2 : ℚ) ^ ((scaleExp new : Int) - 143) ≠ 0 := zpow_ne_zero _ two_ne_zero
    rw [rat_abs_fin, hold, hnew, hoz, hnz, if_neg Bool.false_ne_true, if_neg Bool.false_ne_true, hd, div_eq_iff (mul_ne_zero hd0 hn0), ← hk]
    push_cast
    linear_combination (norm := skip) (-(m : ℚ) * (65536 + bits old 0 16)) * hpow
    field_simp
    ring
  rw [hres, hval]
  push_cast
  exact hround

/-- An image takes a contribution by its case (R84). -/
theorem imageAdd_decode {k : Nat × Nat × Nat} (hk : k ∈ imageKinds) {f : Fmt} (hf : f ∈ [Fmt.f32, Fmt.f64]) (hfk : f = Fmt.f32 ∨ k.1 = 272)
    (image a : Nat) :
    let flags := image / 2 ^ k.2.1
    let sum := image % 2 ^ k.2.1
    let v := f.decode a
    let new := imageAdd k.1 image v
    (v.isNan = true → new = sum + 2 ^ k.2.1 * (flags ||| 1)) ∧
    (v.isInf = true → new = sum + 2 ^ k.2.1 * (flags ||| if v.neg? then 4 else 2)) ∧
    (v.isFin = true → new / 2 ^ k.2.1 = flags ∧
      ∃ n : Int, (n : ℚ) = v.rat * (2 : ℚ) ^ k.2.2 ∧ ((new % 2 ^ k.2.1 : Nat) : Int) = ((sum : Int) + n) % 2 ^ k.2.1) := by
  obtain ⟨hshape, -⟩ := imageShape_of_mem hk
  intro flags sum v new
  cases hv : v with
  | nan s =>
    refine ⟨fun _ => ?_, fun h => Bool.noConfusion h, fun h => Bool.noConfusion h⟩
    simp only [new, hv]
    exact imageAdd_nan hshape image s
  | inf neg =>
    refine ⟨fun h => Bool.noConfusion h, fun _ => ?_, fun h => Bool.noConfusion h⟩
    simp only [new, hv]
    exact imageAdd_inf hshape image neg
  | fin neg m e =>
    refine ⟨fun h => Bool.noConfusion h, fun h => Bool.noConfusion h, fun _ => ?_⟩
    simp only [new, hv]
    exact imageAdd_fin hshape image ((unit_le_qmin hk hf hfk).trans (Fmt.decode_fin hv).2.2.1)

/-- Settles O7: each operation's exact value is formed first and `roundFin` rounds it, once; a rescale's quotient is known up to a bit that
says whether a remainder is left, which rounds alike. -/
theorem floatExactOperations : Obligations.FloatExactOperations := by
  unfold Obligations.FloatExactOperations
  refine ⟨fun f _ a b c ha hb hc => ?_, fun k hk image => ?_, fun wf _ bs rs qs codes _ _ => ?_, fun f hf a tag => ?_, fun a old new => ?_⟩
  · exact ⟨fpAdd_once f ha hb, fpSub_once f ha hb, fpMul_once f ha hb, fpFma_once f ha hb hc, fun l hl => exactSum_once f hl⟩
  · obtain ⟨hshape, hw⟩ := imageShape_of_mem hk
    exact ⟨fun f hf hfk a => imageAdd_decode hk hf hfk image a, fun f _ => imageClose_spec hshape image hw f⟩
  · exact contributes_contribution wf bs rs qs codes
  · have htops : f.tops ≠ .none := by
      revert f
      decide
    exact epilogueValue_tagged htops a tag
  · exact fun hfin hne hoz hon hnz hnn => rescaled_roundedNE hfin hne hoz hon hnz hnn

end Sys2Proof.Machine

/-! ## Rows of the floating-point instructions, from what they do to codes (R102 to R110) -/

namespace Sys2Proof.Machine

theorem toNat_word64 (w : Word) : (w.setWidth 64).toNat = w.toNat := BitVec.toNat_setWidth_of_le (by decide)

theorem b2n_eq_toNat (b : Bool) : b2n b = b.toNat := by cases b <;> rfl

theorem setWidth_ofNat_word (n : Nat) : (BitVec.ofNat 64 n).setWidth 32 = BitVec.ofNat 32 n :=
  BitVec.setWidth_ofNat_of_le (by decide) n

section
variable {i : Instr} {d : Dst} {a b : Src}

/-- Sources of one word each, as the list of those words. -/
theorem exists_words {l : List (List Reg)} (h : ∀ x ∈ l, x.length = 1) : ∃ k : List Reg, l = k.map (fun r => [r]) := by
  refine ⟨l.map (·.headD Reg.zero), (List.map_id l).symm.trans ?_⟩
  rw [List.map_map]
  refine List.map_congr_left fun x hx => ?_
  obtain ⟨r, rfl⟩ := exists_word (h x hx)
  rfl

/-- A row of words: its evaluation on the words' numbers. -/
theorem computes_words {u : Uses} {F : List DWord → DWord × Flags} {g : List (List Reg) → Nat × Flags}
    (hi : ∀ s, exec i s = s.runs (s.alu u (plainly 1 F))) (hpos : ∀ x ∈ u.srcs, x.2.words = 1)
    (h : ∀ k : List Reg, k.length = u.srcs.length →
      F (k.map (fun r => r.bits.setWidth 64)) = (BitVec.ofNat 64 (g (k.map (fun r => [r]))).1, (g (k.map (fun r => [r]))).2)) :
    Computes i u (wordFlags g) := by
  refine computes_of_shape i u _ _ hi (fun x hx hq => ?_) fun x hx => ?_
  · have := hpos x hx
    rw [hq] at this
    cases this
  · obtain ⟨k, rfl⟩ : ∃ k : List Reg, x = k.map (fun r => [r]) := by
      refine exists_words fun y hy => ?_
      have hmem : y.length ∈ u.srcs.map (fun x => x.2.words) := hx ▸ List.mem_map_of_mem hy
      obtain ⟨z, hz, hzy⟩ := List.mem_map.mp hmem
      rw [← hzy, hpos z hz]
    have hk : k.length = u.srcs.length := by simpa using congrArg List.length hx
    have hF := h k hk
    have hvals : (k.map (fun r => [r])).map wordsVal = k.map (fun r => r.bits.setWidth 64) := by
      rw [List.map_map]
      rfl
    simp only [plainly, wordFlags, hvals, hF, resWords, if_true, setWidth_ofNat_word]

theorem computes_f32Two {f : Nat → Nat → Nat × Flags} (hi : ∀ s, exec i s = s.flt2 d a b f) :
    Computes i (usesWord2 d a b) (f32Two f) := by
  refine computes_words hi (by simp [use2, Pos.words]) fun k hk => ?_
  obtain ⟨p, q, rfl⟩ := List.length_eq_two.mp hk
  simp [-BitVec.toNat_setWidth, toNat_word64, Machine.flt2, wordAt]

theorem computes_f32Test {c : Cmp} (hi : ∀ s, exec i s = s.fltCmp d a b c) :
    Computes i (usesWord2 d a b) (f32Two (fun x y => ((fpCmp Fmt.f32 c x y).1.toNat, (fpCmp Fmt.f32 c x y).2))) := by
  refine computes_words hi (by simp [use2, Pos.words]) fun k hk => ?_
  obtain ⟨p, q, rfl⟩ := List.length_eq_two.mp hk
  simp [-BitVec.toNat_setWidth, toNat_word64, fltTest, wordAt, b2n_eq_toNat]

theorem computes_f32Three {f : Nat → Nat → Nat → Nat × Flags} (hi : ∀ s, exec i s = s.runs (s.alu (usesWord3 d a b) (plainly 1 (flt3 f)))) :
    Computes i (usesWord3 d a b) (wordFlags (fun x => f (wordAt x 0).toNat (wordAt x 1).toNat (wordAt x 2).toNat)) := by
  refine computes_words hi (by simp [use3, Pos.words]) fun k hk => ?_
  obtain ⟨p, q, r, rfl⟩ := List.length_eq_three.mp hk
  simp [-BitVec.toNat_setWidth, toNat_word64, flt3, wordAt]

theorem computes_f32One {f : Nat → Nat × Flags} (hi : ∀ s, exec i s = s.flt1 d a f) : Computes i (usesWord1 d a) (f32One f) := by
  refine computes_words hi (by simp [use1, Pos.words]) fun k hk => ?_
  obtain ⟨p, rfl⟩ := List.length_eq_one_iff.mp hk
  simp [-BitVec.toNat_setWidth, toNat_word64, Machine.flt1, wordAt]

theorem computes_f32Class : Computes (.fclass d a) (usesWord1 d a)
    (f32One (fun x => ((fpClass Fmt.f32 x).1.toNat, (fpClass Fmt.f32 x).2))) := by
  refine computes_words (F := classRes Fmt.f32) (fun _ => rfl) (by simp [use1, Pos.words]) fun k hk => ?_
  obtain ⟨p, rfl⟩ := List.length_eq_one_iff.mp hk
  simp [-BitVec.toNat_setWidth, toNat_word64, classRes, wordAt]

theorem computes_f64Two {f : Nat → Nat → Nat × Flags} (hi : ∀ s, exec i s = s.dbl2 d a b f) :
    Computes i (use2 d 2 a .dbl b .dbl) (f64Two f) := by
  refine computes_of_alu i _ _ _ hi fun x hx => ?_
  obtain ⟨p, q, rfl⟩ := List.length_eq_two.mp hx
  rfl

theorem computes_f64Three {f : Nat → Nat → Nat → Nat × Flags}
    (hi : ∀ s, exec i s = s.runs (s.alu (use3 d 2 a .dbl b .dbl .dbl) (plainly 2 (flt3 f)))) :
    Computes i (use3 d 2 a .dbl b .dbl .dbl)
      (pairFlags (fun x => f (pairAt x 0).toNat (pairAt x 1).toNat (pairAt x 2).toNat)) := by
  refine computes_of_alu i _ _ _ hi fun x hx => ?_
  obtain ⟨p, q, r, rfl⟩ := List.length_eq_three.mp hx
  rfl

theorem computes_f64One {f : Nat → Nat × Flags} (hi : ∀ s, exec i s = s.dbl1 d a f) : Computes i (use1 d 2 a .dbl) (f64One f) := by
  refine computes_of_alu i _ _ _ hi fun x hx => ?_
  obtain ⟨p, rfl⟩ := List.length_eq_one_iff.mp hx
  rfl

theorem computes_f64Test {c : Cmp} (hi : ∀ s, exec i s = s.dblCmp d a b c) :
    Computes i (use2 d 1 a .dbl b .dbl) (wordFlags (fun x =>
      let r := fpCmp Fmt.f64 c (pairAt x 0).toNat (pairAt x 1).toNat
      (r.1.toNat, r.2))) := by
  refine computes_of_alu i _ _ _ hi fun x hx => ?_
  obtain ⟨p, q, rfl⟩ := List.length_eq_two.mp hx
  simp [plainly, fltTest, wordFlags, resWords, pairAt, b2n_eq_toNat]

theorem computes_f64Class : Computes (.dclass d a) (use1 d 1 a .dbl) (wordFlags (fun x =>
    let r := fpClass Fmt.f64 (pairAt x 0).toNat
    (r.1.toNat, r.2))) := by
  refine computes_of_alu _ _ (plainly 1 (classRes Fmt.f64)) _ (fun _ => rfl) fun x hx => ?_
  obtain ⟨p, rfl⟩ := List.length_eq_one_iff.mp hx
  simp [plainly, classRes, wordFlags, resWords, pairAt]

/-! ### Packed elements and conversions -/

theorem element_word (w : Word) (e : Nat) : element (w.setWidth 64) e = half w e := rfl

/-- Two halves packed as a number and as a word. -/
theorem packed_word (m n : Nat) : BitVec.ofNat 32 (m % 65536 + 65536 * (n % 65536)) = BitVec.ofNat 16 n ++ BitVec.ofNat 16 m := by
  apply BitVec.eq_of_toNat_eq
  rw [BitVec.toNat_append, ← Nat.shiftLeft_add_eq_or_of_lt (BitVec.isLt _), Nat.shiftLeft_eq]
  simp
  omega

/-- A row of packed words: its evaluation on their elements. -/
theorem computes_packed {u : Uses} {F : List DWord → DWord × Flags} {g : Nat → List (List Reg) → Nat × Flags}
    (hi : ∀ s, exec i s = s.runs (s.alu u (plainly 1 F))) (hpos : ∀ x ∈ u.srcs, x.2.words = 1)
    (h : ∀ k : List Reg, k.length = u.srcs.length →
      F (k.map (fun r => r.bits.setWidth 64)) = packed (g 0 (k.map (fun r => [r]))) (g 1 (k.map (fun r => [r])))) :
    Computes i u (packedRes g) := by
  have hflags := computes_words (i := i) (u := u) (F := F)
    (g := fun x => ((g 0 x).1 % 65536 + 65536 * ((g 1 x).1 % 65536), (g 0 x).2 ||| (g 1 x).2)) hi hpos h
  have hres : packedRes g = wordFlags (fun x => ((g 0 x).1 % 65536 + 65536 * ((g 1 x).1 % 65536), (g 0 x).2 ||| (g 1 x).2)) := by
    funext x
    simp only [packedRes, wordFlags, packed_word]
  rw [hres]
  exact hflags

theorem computes_packed2 {p : Pos} (hp : p.words = 1) {f : Nat → Nat → Nat × Flags} (hi : ∀ s, exec i s = s.packed2 d a b p f) :
    Computes i (use2 d 1 a p b p) (packedRes (fun e w => f (half (wordAt w 0) e) (half (wordAt w 1) e))) := by
  refine computes_packed hi (by simp [use2, hp]) fun k hk => ?_
  obtain ⟨r, q, rfl⟩ := List.length_eq_two.mp hk
  simp [pack2, wordAt, element_word]

theorem computes_packed3 {p : Pos} (hp : p.words = 1) {f : Nat → Nat → Nat → Nat × Flags} (hi : ∀ s, exec i s = s.packed3 d a b p f) :
    Computes i (use3 d 1 a p b p p)
      (packedRes (fun e w => f (half (wordAt w 0) e) (half (wordAt w 1) e) (half (wordAt w 2) e))) := by
  refine computes_packed hi (by simp [use3, hp]) fun k hk => ?_
  obtain ⟨r, q, t, rfl⟩ := List.length_eq_three.mp hk
  simp [pack3, wordAt, element_word]

theorem computes_cvt {mode : Mode} {x y : Ty} (hi : ∀ s, exec i s = s.cvtAs mode d a x y) :
    Computes i (use1 d (cvtWords x) a (cvtPos y)) (fun w =>
      let r := convert mode x y (pairAt w 0).toNat
      { words := resWords (cvtWords x) (BitVec.ofNat 64 r.1) (w.any anyPoison), flags := r.2 }) := by
  refine computes_of_alu i _ _ _ hi fun w hw => ?_
  obtain ⟨p, rfl⟩ := List.length_eq_one_iff.mp hw
  rfl

end

end Sys2Proof.Machine

/-! ## Integral values in each direction (R77, R109) -/

namespace Sys2Proof.Machine

/-- Whether a direction takes the magnitude of a value with a sign upward. -/
def Mode.away : Mode → Bool → Bool
  | .up, neg => !neg
  | .down, neg => neg
  | .ne, _ | .z, _ => false

theorem ceil_natCast_div (m : Nat) {d : Nat} (hd : 0 < d) :
    ⌈(m : ℚ) / d⌉ = ((if m % d ≠ 0 then m / d + 1 else m / d : Nat) : Int) := by
  have hd' : (0 : ℚ) < d := mod_cast hd
  have hm := Nat.div_add_mod m d
  have hlt := Nat.mod_lt m hd
  rw [Int.ceil_eq_iff, lt_div_iff₀ hd', div_le_iff₀ hd']
  split
  next h =>
    push_cast
    constructor
    · have : m / d * d < m := by
        rw [mul_comm]
        omega
      rw [add_sub_cancel_right]
      exact_mod_cast this
    · have : m ≤ (m / d + 1) * d := by
        rw [mul_comm, Nat.mul_add, Nat.mul_one]
        omega
      exact_mod_cast this
  next h =>
    have hexact : (m : ℚ) = m / d * d := by field_simp
    have heq : m / d * d = m := by
      rw [mul_comm]
      omega
    have hcast : (((m / d : Nat) : Int) : ℚ) * d = m := mod_cast heq
    constructor
    · linarith
    · exact hcast.ge

/-- A directed rounding of a magnitude to an integer is its whole part or the next one. -/
theorem quantise_directed {mode : Mode} (hmode : mode ≠ .ne) (neg : Bool) (m : Nat) (e : Int) :
    ((quantise mode neg m e 0).1 : Int) = if mode.away neg then ⌈(m : ℚ) * 2 ^ e⌉ else ⌊(m : ℚ) * 2 ^ e⌋ := by
  unfold quantise
  split
  next h =>
    have : (m : ℚ) * 2 ^ e = ((m * 2 ^ (e - 0).toNat : Nat) : ℚ) := by
      rw [Nat.cast_mul, Nat.cast_pow, Nat.cast_two, ← zpow_natCast, Int.toNat_of_nonneg (by omega), sub_zero]
    rw [this, Int.ceil_natCast, Int.floor_natCast, ite_self]
  next h =>
    obtain ⟨k, hk⟩ : ∃ k, (0 - e).toNat = k := ⟨_, rfl⟩
    have hval : (m : ℚ) * 2 ^ e = (m : ℚ) / (2 ^ k : Nat) := by
      rw [← hk, Nat.cast_pow, Nat.cast_two, ← zpow_natCast, Int.toNat_of_nonneg (by omega), div_eq_mul_inv, ← zpow_neg, zero_sub, neg_neg]
    have hfloor : ⌊(m : ℚ) / (2 ^ k : Nat)⌋ = ((m / 2 ^ k : Nat) : Int) := by
      rw [← Int.natCast_floor_eq_floor (by positivity), Nat.floor_div_eq_div]
    rw [hval, hk, hfloor, ceil_natCast_div m (Nat.two_pow_pos k)]
    cases mode with
    | ne => exact absurd rfl hmode
    | z => rfl
    | up | down => cases neg <;> by_cases hr : m % 2 ^ k = 0 <;> simp [shiftRound, Mode.away, hr]

/-- `roundInt` gives the integral value of its direction (R109). -/
theorem isIntegral_roundInt (mode : Mode) (neg : Bool) (m : Nat) (e : Int) :
    isIntegral mode (FVal.fin neg m e).rat (roundInt mode neg m e).1 := by
  by_cases hmode : mode = .ne
  · rw [hmode]
    exact (roundInt_ne neg m e).1
  · have hdir := quantise_directed hmode neg m e
    have hround : (roundInt mode neg m e).1 = if neg then -((quantise mode neg m e 0).1 : Int) else (quantise mode neg m e 0).1 := rfl
    have hpos : (0 : ℚ) ≤ m * 2 ^ e := by positivity
    rw [hround, hdir, rat_fin]
    cases neg with
    | false =>
      rw [if_neg Bool.false_ne_true, if_neg Bool.false_ne_true, one_mul]
      cases mode with
      | ne => exact absurd rfl hmode
      | z => exact (if_neg (not_lt.mpr hpos)).symm
      | up | down => rfl
    | true =>
      rw [if_pos rfl, if_pos rfl, neg_one_mul]
      cases mode with
      | ne => exact absurd rfl hmode
      | z =>
        have hzero : ¬ -((m : ℚ) * 2 ^ e) < 0 → (m : ℚ) * 2 ^ e = 0 := fun h => by linarith
        simp only [isIntegral, Mode.away, Bool.false_eq_true, if_false]
        split
        next => rw [Int.ceil_neg]
        next h => rw [hzero h, neg_zero, Int.floor_zero, neg_zero]
      | up => exact Int.ceil_neg.symm
      | down => exact Int.floor_neg.symm

theorem roundInt_inexact (mode : Mode) (neg : Bool) (m : Nat) (e : Int) :
    (roundInt mode neg m e).2 = true ↔ ((roundInt mode neg m e).1 : ℚ) ≠ (FVal.fin neg m e).rat := by
  have h := quantise_inexact mode neg m e 0
  rw [zpow_zero, mul_one] at h
  have hround : roundInt mode neg m e =
      (if neg then -((quantise mode neg m e 0).1 : Int) else (quantise mode neg m e 0).1, (quantise mode neg m e 0).2) := rfl
  rw [hround, rat_fin, h]
  cases neg <;> simp

theorem isIntegral.abs_sub_le {mode : Mode} {x : ℚ} {n : Int} (h : isIntegral mode x n) : |(n : ℚ) - x| ≤ 1 := by
  have hfloor : |(⌊x⌋ : ℚ) - x| ≤ 1 := abs_le.mpr ⟨by linarith [Int.lt_floor_add_one x], by linarith [Int.floor_le x]⟩
  have hceil : |(⌈x⌉ : ℚ) - x| ≤ 1 := abs_le.mpr ⟨by linarith [Int.le_ceil x], by linarith [Int.ceil_lt_add_one x]⟩
  cases mode with
  | ne => exact h.1.trans (by norm_num)
  | z =>
    obtain rfl : n = if x < 0 then ⌈x⌉ else ⌊x⌋ := h
    split
    next => exact hceil
    next => exact hfloor
  | up =>
    obtain rfl : n = ⌈x⌉ := h
    exact hceil
  | down =>
    obtain rfl : n = ⌊x⌋ := h
    exact hfloor

/-! ### Conversion to an integer type -/

/-- A value of 2^81 and more has no integral value below 2^80. -/
theorem large_integral {neg : Bool} {m : Nat} {e : Int} (hm : m ≠ 0) (hlarge : 80 < (Nat.log2 m : Int) + e) {mode : Mode} {n : Int}
    (h : isIntegral mode (FVal.fin neg m e).rat n) : if neg then n < -2 ^ 80 else 2 ^ 80 < n := by
  have hpow : (2 : ℚ) ^ 81 ≤ m * 2 ^ e := by
    calc (2 : ℚ) ^ 81 = 2 ^ (81 : Int) := rfl
      _ ≤ 2 ^ ((Nat.log2 m : Int) + e) := zpow_le_zpow_right₀ one_le_two (by omega)
      _ = 2 ^ Nat.log2 m * 2 ^ e := by rw [zpow_add₀ two_ne_zero, zpow_natCast]
      _ ≤ m * 2 ^ e := by
        gcongr
        exact_mod_cast Nat.log2_self_le hm
  obtain ⟨hlo, hhi⟩ := abs_le.mp h.abs_sub_le
  rw [rat_fin] at hlo hhi
  cases neg with
  | false =>
    rw [if_neg Bool.false_ne_true, one_mul] at hlo hhi
    exact_mod_cast (show (2 : ℚ) ^ 80 < n by linarith)
  | true =>
    rw [if_pos rfl, neg_one_mul] at hlo hhi
    exact_mod_cast (show (n : ℚ) < -2 ^ 80 by linarith)

/-- A finite value as an integer within limits (R78). -/
theorem toInt_fin (mode : Mode) {lo hi : Int} (hlo : -2 ^ 80 ≤ lo ∧ lo ≤ 0) (hhi : 0 ≤ hi ∧ hi ≤ 2 ^ 80) (neg : Bool) (m : Nat) (e : Int) :
    ∃ n, isIntegral mode (FVal.fin neg m e).rat n ∧ toInt mode lo hi (.fin neg m e) = (max lo (min hi n),
      if n < lo ∨ hi < n then Flags.nv else if (n : ℚ) = (FVal.fin neg m e).rat then 0#5 else Flags.nx) := by
  have hint := isIntegral_roundInt mode neg m e
  obtain ⟨n, hn⟩ : ∃ n, (roundInt mode neg m e).1 = n := ⟨_, rfl⟩
  rw [hn] at hint
  refine ⟨n, hint, ?_⟩
  simp only [toInt]
  split
  next hm =>
    subst hm
    have hzero : n = 0 := by
      rw [← hn, roundInt]
      have hq : (quantise mode neg 0 e 0).1 = 0 := by
        simp only [quantise, shiftRound]
        cases mode <;> simp
      simp [hq]
    have hrat : (FVal.fin neg 0 e).rat = 0 := rat_eq_zero.mpr rfl
    rw [hzero, hrat, if_neg (by omega), if_pos Int.cast_zero]
    congr 1
    omega
  next hm =>
    split
    next hlarge =>
      have hout := large_integral hm hlarge hint
      cases neg with
      | false =>
        rw [if_neg Bool.false_ne_true] at hout ⊢
        rw [if_pos (.inr (by omega))]
        congr 1
        omega
      | true =>
        rw [if_pos rfl] at hout ⊢
        rw [if_pos (.inl (by omega))]
        congr 1
        omega
    next =>
      have hinexact := roundInt_inexact mode neg m e
      obtain ⟨b, hb⟩ : ∃ b, (roundInt mode neg m e).2 = b := ⟨_, rfl⟩
      rw [hn, hb] at hinexact
      have hpair : roundInt mode neg m e = (n, b) := by rw [← hn, ← hb]
      rw [hpair]
      simp only
      split
      next h =>
        rw [if_pos (.inl h)]
        congr 1
        omega
      next h =>
        split
        next h' =>
          rw [if_pos (.inr h')]
          congr 1
          omega
        next h' =>
          rw [if_neg (show ¬ (n < lo ∨ hi < n) by omega)]
          congr 1
          · omega
          · cases b with
            | false => rw [if_pos (not_ne_iff.mp (mt hinexact.mpr Bool.false_ne_true))]; rfl
            | true => rw [if_neg (hinexact.mp rfl)]; rfl

end Sys2Proof.Machine

/-! ## Packed instructions, conversions, weights and blocks (O4) -/

namespace Sys2Proof.Machine

/-! ### Conversions -/

theorem tyFmt_mem {t : Ty} {f : Fmt} (h : tyFmt t = some f) : f ∈ allFormats := by
  revert f
  cases t <;> decide

theorem intRange_bounds (t : Ty) :
    (-2 ^ 80 ≤ (intRange t).1 ∧ (intRange t).1 ≤ 0) ∧ (0 ≤ (intRange t).2 ∧ (intRange t).2 ≤ 2 ^ 80) := by
  cases t <;> decide

theorem tyBits_pos (t : Ty) : 0 < tyBits t ∧ tyBits t ≤ 64 := by cases t <;> decide

theorem bits_low (x b : Nat) : bits x 0 b = x % 2 ^ b := by rw [bits, pow_zero, Nat.div_one]

/-- The code of an integer is cut from its 64 bits. -/
theorem bits_intCode (n : Int) {b : Nat} (hb : b ≤ 64) : bits ((n % (2 ^ 64 : Nat)).toNat) 0 b = intCode n b := by
  rw [bits_low, intCode]
  have hpos : (0 : Int) < (2 ^ b : Nat) := by positivity
  have hdvd : ((2 ^ b : Nat) : Int) ∣ (2 ^ 64 : Nat) := Int.natCast_dvd_natCast.mpr (pow_dvd_pow 2 hb)
  have hnonneg : 0 ≤ n % (2 ^ 64 : Nat) := Int.emod_nonneg _ (by decide)
  rw [← Nat.cast_inj (R := Int), Int.natCast_mod, Int.toNat_of_nonneg hnonneg, Int.emod_emod_of_dvd n hdvd]
  rw [Int.toNat_of_nonneg (Int.emod_nonneg _ (by positivity))]
  push_cast
  rfl

section
variable {mode : Mode} {v : FVal}

/-- A value rounded to a format of R63 or R66, as R78 and R79 tabulate it. -/
theorem convertRule_toFmt {x : Ty} {f : Fmt} (hx : tyFmt x = some f) (fromInt : Bool) :
    convertRule mode x fromInt v (toFmt f mode v) := by
  simp only [convertRule, hx]
  have hf := Fmt.rounds_of_mem (tyFmt_mem hx)
  cases v with
  | nan s =>
    refine ⟨fun _ => ?_, fun h => Bool.noConfusion h, fun h => Bool.noConfusion h, fun h => Bool.noConfusion h⟩
    cases ht : f.tops <;> simp [toFmt, ht, FVal.isSnan]
  | inf neg =>
    refine ⟨fun h => Bool.noConfusion h, fun _ => ?_, fun h => Bool.noConfusion h, fun h => Bool.noConfusion h⟩
    cases ht : f.tops <;> simp [toFmt, ht, FVal.neg?]
  | fin neg m e =>
    refine ⟨fun h => Bool.noConfusion h, fun h => Bool.noConfusion h, fun hz => ?_, fun _ hz => ⟨?_, ?_⟩⟩
    · exact if_pos (beq_iff_eq.mp hz)
    · rintro rfl
      rw [rat_abs_fin]
      exact roundFin_ne hf neg (Nat.pos_of_ne_zero (beq_eq_false_iff_ne.mp hz)) e
    · rintro rfl
      rw [rat_abs_fin]
      exact roundFin_z hf neg (Nat.pos_of_ne_zero (beq_eq_false_iff_ne.mp hz)) e

/-- A value as an integer of a type, as R78 tabulates it. -/
theorem convertRule_toInt {x : Ty} (hx : tyFmt x = none) {fromInt : Bool} (hint : fromInt = true → v.isFin = true) :
    let r := toInt mode (intRange x).1 (intRange x).2 v
    convertRule mode x fromInt v (bits ((r.1 % (2 ^ 64 : Nat)).toNat) 0 (tyBits x), if fromInt then 0#5 else r.2) := by
  intro r
  rw [bits_intCode _ (tyBits_pos x).2]
  simp only [convertRule, hx]
  have hreal : v.isFin = false → fromInt = false := fun h => Bool.eq_false_iff.mpr fun h' => by rw [hint h'] at h; cases h
  cases v with
  | nan s =>
    rw [hreal rfl]
    refine ⟨fun _ => ?_, fun h => Bool.noConfusion h, fun h => Bool.noConfusion h⟩
    simp [r, toInt, intCode]
  | inf neg =>
    rw [hreal rfl]
    exact ⟨fun h => Bool.noConfusion h, fun _ => rfl, fun h => Bool.noConfusion h⟩
  | fin neg m e =>
    refine ⟨fun h => Bool.noConfusion h, fun h => Bool.noConfusion h, fun _ => ?_⟩
    obtain ⟨n, hn, hto⟩ := toInt_fin mode (intRange_bounds x).1 (intRange_bounds x).2 neg m e
    refine ⟨n, hn, ?_⟩
    simp only [r, hto]

end

/-- The value of an integer type's code is that integer (R68). -/
theorem tyValue_integer {y : Ty} (hy : tyFmt y = none) (n : Nat) : tyValue y n =
    ofInteger (if tySigned y then (BitVec.ofNat (tyBits y) n).toInt else ((n % 2 ^ tyBits y : Nat) : Int)) := by
  obtain ⟨hpos, -⟩ := tyBits_pos y
  have hsigned := signed_eq_toInt hpos (Nat.mod_lt n (Nat.two_pow_pos (tyBits y)))
  simp only [tyValue, hy, bits_low]
  cases tySigned y with
  | false => rfl
  | true =>
    simp only [Bool.true_and, if_true]
    rw [hsigned]
    congr 2
    apply BitVec.eq_of_toNat_eq
    simp

theorem ofInteger_spec (k : Int) : (ofInteger k).isFin = true ∧ (ofInteger k).rat = k ∧ (ofInteger k).neg? = decide (k < 0) := by
  refine ⟨rfl, ?_, rfl⟩
  have h := rat_integer k 0
  rwa [zpow_zero, mul_one] at h

theorem convertRule_convert (mode : Mode) (x y : Ty) (n : Nat) : convertRule mode x (tyIsInt y) (tyValue y n) (convert mode x y n) := by
  unfold convert
  cases hx : tyFmt x with
  | some f => exact convertRule_toFmt hx _
  | none =>
    refine convertRule_toInt hx fun hint => ?_
    rw [tyValue_integer (Option.isNone_iff_eq_none.mp hint)]
    exact (ofInteger_spec _).1

theorem moveElem_spec (x y : Ty) (n : Nat) : (x = y → moveElem x y n = (n % 2 ^ tyBits x, 0#5)) ∧
    (x ≠ y → convertRule .ne x (tyIsInt y) (tyValue y n) (moveElem x y n)) := by
  refine ⟨fun h => if_pos h, fun h => ?_⟩
  rw [moveElem, if_neg h]
  exact convertRule_convert .ne x y n

/-! ### Weights and elements of term lists -/

theorem decodesWeight_decodeWeight (wf code scale : Nat) : decodesWeight wf code scale (decodeWeight wf code scale) := by
  obtain ⟨v, hv⟩ : ∃ v, wfValue wf code = v := ⟨_, rfl⟩
  simp only [decodesWeight, decodeWeight, hv]
  cases v with
  | nan s => exact ⟨fun _ => ⟨rfl, rfl⟩, fun h => Bool.noConfusion h, fun h => Bool.noConfusion h⟩
  | inf neg => exact ⟨fun _ => ⟨rfl, rfl⟩, fun h => Bool.noConfusion h, fun h => Bool.noConfusion h⟩
  | fin neg m e =>
    simp only [FVal.isNan, FVal.isInf, Bool.false_or, Bool.false_eq_true, if_false]
    refine ⟨fun h => ?_, fun _ hn hz => ?_, fun hfin hn hz => ?_⟩
    · rw [if_pos h]
      exact ⟨rfl, rfl⟩
    · rw [hn, if_neg Bool.false_ne_true, if_pos hz]
    · rw [hn, hz, if_neg Bool.false_ne_true, if_neg Bool.false_ne_true]
      obtain ⟨hsfin, hsneg, -⟩ := scaleVal_rat hn
      obtain ⟨hpfin, -, hrat, hneg⟩ := mulVal_fin hfin hsfin
      refine ⟨hpfin, hrat, hneg.trans ?_⟩
      rw [hsneg, Bool.bne_false]

theorem RowRead.value_spec (r : RowRead) (q : Int) :
    (scaleIsNan r.scale = true → r.value q = .nan false) ∧
    (scaleIsNan r.scale = false → (r.value q).isFin = true ∧ (r.value q).rat = (q : ℚ) * (scaleVal r.scale).rat ∧
      ((r.value q).rat = 0 → (r.value q).neg? = false)) := by
  refine ⟨fun h => if_pos h, fun h => ?_⟩
  obtain ⟨hfin, hneg, hscale⟩ := scaleVal_rat h
  rw [RowRead.value, if_neg (by rw [h]; exact Bool.false_ne_true)]
  split
  next hz =>
    have hzero : (FVal.fin false 0 0).rat = 0 := rat_eq_zero.mpr rfl
    have hprod : (q : ℚ) * (scaleVal r.scale).rat = 0 := by
      rcases (Bool.or_eq_true ..).mp hz with hq | hs
      · rw [of_decide_eq_true hq, Int.cast_zero, zero_mul]
      · rw [hscale, if_pos hs, mul_zero]
    exact ⟨rfl, hzero.trans hprod.symm, fun _ => rfl⟩
  next hnz =>
    obtain ⟨hq, hs⟩ : q ≠ 0 ∧ scaleIsZero r.scale = false := by simpa using hnz
    obtain ⟨hofin, horat, -⟩ := ofInteger_spec q
    obtain ⟨hpfin, -, hrat, -⟩ := mulVal_fin hofin hfin
    rw [horat] at hrat
    refine ⟨hpfin, hrat, fun h0 => absurd (hrat.symm.trans h0) (mul_ne_zero (Int.cast_ne_zero.mpr hq) ?_)⟩
    rw [hscale, hs, if_neg Bool.false_ne_true]
    positivity

/-! ### Blocks -/

theorem wfMax_pos {wf : Nat} (h : wf < 6) : 0 < wfMax wf := by
  revert wf
  decide

theorem wfFmt_none {wf : Nat} (h : wf < 6) (hf : wfFmt wf = none) : wf = 4 ∨ wf = 5 := by
  revert wf
  decide

/-- An element within the greatest magnitude of a weight format's codes takes the code of R153. -/
theorem weightCode_wfCode {wf : Nat} (hwf : wf < 6) {x : FVal} (hx : x.isFin = true) (n : Int) (hfit : |x.rat| ≤ wfMax wf * 2 ^ n) :
    weightCode wf (x.rat / (2 : ℚ) ^ n) x.neg? (wfCode wf (x.over n)) := by
  obtain ⟨neg, m, e, rfl⟩ := FVal.exists_of_isFin hx
  rw [← rat_sub_exp]
  unfold weightCode wfCode
  cases hf : wfFmt wf with
  | some f => exact f.once_roundFin neg m (e - n) fun _ => rfl
  | none =>
    obtain ⟨w, hw, htop, hw4⟩ : ∃ w, (if wf = 4 then 8 else 4) = w ∧ (wfMax wf : Int) = (2 ^ (w - 1) - 1 : Nat) ∧ (w = 4 ∨ w = 8) := by
      rcases wfFmt_none hwf hf with rfl | rfl
      · exact ⟨8, rfl, rfl, .inr rfl⟩
      · exact ⟨4, rfl, rfl, .inl rfl⟩
    simp only [hw]
    obtain ⟨k, hk, hto⟩ := toInt_fin .ne (lo := -(2 ^ (w - 1) : Nat)) (hi := (2 ^ (w - 1) - 1 : Nat))
      (by rcases hw4 with rfl | rfl <;> decide) (by rcases hw4 with rfl | rfl <;> decide) neg m (e - n)
    have hle : |k| ≤ wfMax wf := hk.magnitude_le (by
      have hpos : (0 : ℚ) < 2 ^ n := by positivity
      rwa [rat_sub_exp, abs_div, abs_of_pos hpos, div_le_iff₀ hpos])
    obtain ⟨hlo, hhi⟩ := abs_le.mp hle
    rw [htop] at hlo hhi
    have hpow : (1 : Int) ≤ (2 ^ (w - 1) : Nat) := by exact_mod_cast Nat.one_le_two_pow
    have hin : ¬ (k < -(2 ^ (w - 1) : Nat) ∨ ((2 ^ (w - 1) - 1 : Nat) : Int) < k) := by omega
    have hcut : max (-(2 ^ (w - 1) : Nat) : Int) (min ((2 ^ (w - 1) - 1 : Nat) : Int) k) = k := by omega
    rw [if_neg hin, hcut] at hto
    rw [show (FVal.fin neg m e).over n = .fin neg m (e - n) from rfl, hto]
    refine ⟨k, hk, ?_, ?_, ?_⟩
    · rw [bits_intCode k (by omega), intCode, Int.toNat_of_nonneg (Int.emod_nonneg _ (by positivity))]
    · simp only
      split
      next h => simp [h]
      next h => simp [h, Flags.nx]
    · simp only
      split
      next => exact .inl rfl
      next => exact .inr rfl

/-- A block's column is quantised as R153 says. -/
theorem quantisesBlock_quantBlock {wf : Nat} (hwf : wf < 6) (xs : List FVal) : quantisesBlock wf xs (quantBlock wf xs) := by
  have hzeros : xs.map (fun _ => (0 : Nat)) = List.replicate xs.length 0 := List.map_const'
  refine ⟨fun hany => ?_, fun hfin hzero => ?_, fun hfin hone n hn => ?_⟩
  · simp [quantBlock, anySpecial_eq, hany, nanScale, hzeros]
  · obtain ⟨m, e, hmax, -, hval⟩ := maxAbs_spec hfin
    have hm : m = 0 := hval.elim id fun ⟨x, hx, h⟩ => by
      rw [hzero x hx, abs_zero, zero_eq_mul] at h
      exact_mod_cast h.resolve_right (by positivity)
    have hnone : anySpecial xs = false := by simpa [anySpecial_eq] using hfin
    simp [quantBlock, hnone, hmax, hm, hzeros]
  · obtain ⟨m, e, hmax, hall, hval⟩ := maxAbs_spec hfin
    have hnone : anySpecial xs = false := by simpa [anySpecial_eq] using hfin
    have hm : m ≠ 0 := by
      rintro rfl
      obtain ⟨x, hx, hne⟩ := hone
      exact hne (by simpa using hall x hx)
    have hexp := hn.eq (wfMax_pos hwf) (Nat.pos_of_ne_zero hm) hall (hval.resolve_left hm)
    refine ⟨fun hover => ?_, fun hin => ?_⟩
    · simp [quantBlock, hnone, hmax, hm, ← hexp, hover, nanScale, hzeros]
    · have hq : quantBlock wf xs = (powScale n, (xs.map (fun x => wfCode wf (x.over n))).map (fun r => r.1),
          ((xs.map (fun x => wfCode wf (x.over n))).map (fun r => r.2)).foldl (· ||| ·) 0#5) := by
        simp only [quantBlock, hnone, hmax, if_neg hm, ← hexp, if_neg (not_lt.mpr hin), Bool.false_eq_true, if_false]
        rfl
      rw [hq]
      refine ⟨rfl, by simp, (xs.map (fun x => wfCode wf (x.over n))).map (fun r => r.2), by simp, rfl, fun i hi => ?_⟩
      have hmem := List.getElem_mem hi
      have h := weightCode_wfCode hwf (hfin _ hmem) n (hn.2.1 _ hmem)
      simpa [List.getD_eq_getElem?_getD, hi] using h

/-- Settles O4: an element, a conversion, a weight, a block's column and a term list's element each have their lemma above. -/
theorem packedAndConversions : Obligations.PackedAndConversions := by
  unfold Obligations.PackedAndConversions
  refine ⟨fun d a b x y => ⟨?_, ?_, ?_, ?_, ?_, ?_, ?_, ?_, fun n => ⟨?_, ?_⟩, fun n => ?_⟩, moveElem_spec, fun wf hwf => ⟨?_, ?_⟩, ?_⟩
  · exact computes_packed2 rfl fun _ => rfl
  · exact computes_packed2 rfl fun _ => rfl
  · exact computes_packed3 rfl fun _ => rfl
  · exact computes_packed2 rfl fun _ => rfl
  · exact computes_packed2 rfl fun _ => rfl
  · exact computes_packed3 rfl fun _ => rfl
  · exact computes_cvt fun _ => rfl
  · exact computes_cvt fun _ => rfl
  · exact convertRule_convert .ne x y n
  · exact convertRule_convert .z x y n
  · cases hy : tyFmt y with
    | some f => simp only [tyValue, hy]
    | none =>
      obtain ⟨hfin, hrat, hneg⟩ := ofInteger_spec (if tySigned y then (BitVec.ofNat (tyBits y) n).toInt else ((n % 2 ^ tyBits y : Nat) : Int))
      rw [← tyValue_integer hy] at hfin hrat hneg
      refine ⟨hfin, ?_, ?_⟩
      · rw [hneg, hrat]
        congr 1
        rw [Int.cast_lt_zero]
      · rw [hrat]
        split
        next => rfl
        next => rw [Int.cast_natCast]
  · exact fun code scale _ => decodesWeight_decodeWeight wf code scale
  · exact quantisesBlock_quantBlock hwf
  · exact RowRead.value_spec

end Sys2Proof.Machine

/-! ## Exact and special operands of the FP32 and FP64 functions (R107 to R109) -/

namespace Sys2Proof.Machine

theorem fmt_f32_rounds : Fmt.f32.Rounds := Fmt.rounds_of_mem (by decide)

theorem quantise_zero (mode : Mode) (neg : Bool) (e q : Int) : quantise mode neg 0 e q = (0, false) := by
  unfold quantise
  split
  next => rw [Nat.zero_mul]
  next => cases mode <;> simp [shiftRound]

/-! ### Values that round to themselves -/

/-- Flags without NV, DZ, OF, NX and UF are none. -/
theorem flags_eq_zero (r : Flags) (h : r &&& (Flags.nv ||| Flags.dz ||| Flags.ofl) = 0#5) (hnx : r &&& Flags.nx ≠ Flags.nx)
    (huf : r &&& Flags.uf ≠ Flags.uf) : r = 0#5 := by
  revert r
  decide

/-- A point of the grid that is not past the largest finite value rounds to its own code, without flags. -/
theorem roundFin_exact {f : Fmt} (hf : f.Rounds) (neg : Bool) {m : Nat} {e : Int} (hm : 0 < m) (hlt : m < 2 ^ (f.mb + 1)) (he : f.qmin ≤ e)
    (hle : (m : ℚ) * 2 ^ e ≤ f.largest) :
    let r := roundFin f .ne neg m e
    (f.decode r.1).isFin = true ∧ (f.decode r.1).rat = (FVal.fin neg m e).rat ∧ (f.decode r.1).neg? = neg ∧ r.2 = 0#5 := by
  intro r
  obtain ⟨v, ⟨n, q, -, -, -, -, hnear, -⟩, hnames⟩ := roundFin_ne hf neg hm e
  have hgrid : f.gridFrom (fun q => f.qmin ≤ q) ((m : ℚ) * 2 ^ e) := ⟨m, e, hlt, he, rfl⟩
  have hself := hnear _ hgrid
  rw [sub_self, abs_zero, abs_nonpos_iff, sub_eq_zero, Rat.cast_inj] at hself
  subst hself
  obtain ⟨hfin, hrat, hneg, hclear, hnx, huf⟩ := hnames.2 hle
  refine ⟨hfin, ?_, hneg, flags_eq_zero _ hclear (fun h => hnx.mp h rfl) (fun h => (huf.mp h).1 rfl)⟩
  rw [hrat, rat_fin]
  cases neg <;> simp

/-! ### Classes and integral values -/

/-- The class of a value (R109). -/
theorem fpClass_eq (f : Fmt) (a : Nat) : fpClass f a = (classBit f (f.decode a), nvIf (f.decode a).isSnan) := by
  unfold fpClass
  cases hv : f.decode a with
  | nan s => cases s <;> rfl
  | inf neg => cases neg <;> rfl
  | fin neg m e =>
    obtain ⟨-, -, he, -, hcanon⟩ := Fmt.decode_fin hv
    have hsub : |(FVal.fin neg m e).rat| < f.leastNormal ↔ m < 2 ^ f.mb := by
      have hpos : (0 : ℚ) < 2 ^ f.qmin := by positivity
      rw [rat_abs_fin, Fmt.leastNormal, add_comm, zpow_add₀ two_ne_zero, zpow_natCast]
      constructor
      · intro h
        by_contra hge
        refine absurd h (not_lt.mpr ?_)
        gcongr
        · exact_mod_cast not_lt.mp hge
        · exact one_le_two
      · intro h
        rw [hcanon.resolve_right (not_le.mpr h), mul_lt_mul_iff_left₀ hpos]
        exact_mod_cast h
    simp only [classBit, FVal.isNan, FVal.isInf, FVal.isZero, FVal.neg?, FVal.isSnan, hsub, beq_iff_eq, Bool.false_eq_true, if_false]
    by_cases hm : m = 0
    · cases neg <;> simp [hm, nvIf]
    · by_cases hlt : m < 2 ^ f.mb
      · cases neg <;> simp [hm, hlt, nvIf]
      · cases neg <;> simp [hm, hlt, nvIf]

theorem shiftRound_le (mode : Mode) (neg : Bool) (m k : Nat) : (shiftRound mode neg m k).1 ≤ m / 2 ^ k + 1 := by
  have h : ∀ (up : Bool) (n : Nat), (if up then n + 1 else n) ≤ n + 1 := fun up n => by cases up <;> simp
  exact h _ _

/-- A significand with a fraction is at most half as large as an integer. -/
theorem quantise_fraction_le (mode : Mode) (neg : Bool) {m b : Nat} {e : Int} (hm : m < 2 ^ (b + 1)) (he : e < 0) :
    (quantise mode neg m e 0).1 ≤ 2 ^ b := by
  obtain ⟨k, hk⟩ : ∃ k, (0 - e).toNat = k + 1 := ⟨(0 - e).toNat - 1, by omega⟩
  rw [quantise, if_neg (by omega), hk]
  have hhalf : m / 2 ^ (k + 1) ≤ m / 2 := Nat.div_le_div_left (by rw [pow_succ']; exact Nat.le_mul_of_pos_right 2 (Nat.two_pow_pos k)) two_pos
  have hle := shiftRound_le mode neg m (k + 1)
  rw [pow_succ] at hm
  omega

section
variable {f : Fmt} (hf : f ∈ [Fmt.f32, Fmt.f64])
include hf

theorem rounds_of_ieee : f.Rounds := Fmt.rounds_of_mem (by
  revert f
  decide)

theorem pow_mb_le_largest : f.qmin ≤ 0 ∧ (2 : ℚ) ^ f.mb ≤ f.largest := by
  simp only [List.mem_cons, List.not_mem_nil, or_false] at hf
  rcases hf with rfl | rfl
  · refine ⟨by decide, ?_⟩
    have hmax : Fmt.f32.decode Fmt.f32.max = .fin false (2 ^ 24 - 1) 104 := by decide
    have hone : (1 : ℚ) ≤ 2 ^ (104 : Int) := one_le_zpow₀ one_le_two (by decide)
    rw [Fmt.largest, hmax, rat_fin]
    norm_num [Fmt.f32] at hone ⊢
  · refine ⟨by decide, ?_⟩
    have hmax : Fmt.f64.decode Fmt.f64.max = .fin false (2 ^ 53 - 1) 971 := by decide
    have hone : (1 : ℚ) ≤ 2 ^ (971 : Int) := one_le_zpow₀ one_le_two (by decide)
    rw [Fmt.largest, hmax, rat_fin, if_neg Bool.false_ne_true, one_mul]
    calc (2 : ℚ) ^ Fmt.f64.mb ≤ ((2 ^ 53 - 1 : Nat) : ℚ) * 1 := by norm_num [Fmt.f64]
      _ ≤ ((2 ^ 53 - 1 : Nat) : ℚ) * 2 ^ (971 : Int) := by gcongr

theorem decode_signed_zero (neg : Bool) : f.decode (f.signed neg 0) = .fin neg 0 f.qmin := by
  revert f neg
  decide

/-- An integer that a significand holds rounds to itself. -/
theorem roundFin_integer (neg : Bool) {n : Nat} (hn : n ≤ 2 ^ f.mb) :
    let r := roundFin f .ne neg n 0
    (f.decode r.1).isFin = true ∧ (f.decode r.1).rat = (FVal.fin neg n 0).rat ∧ (f.decode r.1).neg? = neg ∧ r.2 = 0#5 := by
  intro r
  obtain ⟨hqmin, hlargest⟩ := pow_mb_le_largest hf
  rcases Nat.eq_zero_or_pos n with rfl | hpos
  · have hr : r = (f.signed neg 0, 0#5) := rfl
    rw [hr, decode_signed_zero hf]
    exact ⟨rfl, (rat_eq_zero.mpr rfl).trans (rat_eq_zero.mpr rfl).symm, rfl, rfl⟩
  · refine roundFin_exact (rounds_of_ieee hf) neg hpos (hn.trans_lt (Nat.pow_lt_pow_succ one_lt_two)) hqmin ?_
    rw [zpow_zero, mul_one]
    exact le_trans (by exact_mod_cast hn) hlargest

/-- An integral value of a direction, under the operand's sign (R109). -/
theorem fpRound_fin (mode : Mode) {a : Nat} (hv : (f.decode a).isFin = true) : ∃ n, isIntegral mode (f.decode a).rat n ∧
    let r := fpRound f mode a
    r.2 = 0#5 ∧ (f.decode r.1).isFin = true ∧ (f.decode r.1).rat = n ∧ (f.decode r.1).neg? = (f.decode a).neg? := by
  obtain ⟨neg, m, e, hdec⟩ := FVal.exists_of_isFin hv
  obtain ⟨-, hm, -, -, -⟩ := Fmt.decode_fin hdec
  rw [hdec]
  refine ⟨_, isIntegral_roundInt mode neg m e, ?_⟩
  by_cases hint : m = 0 ∨ 0 ≤ e
  · have hr : fpRound f mode a = (a, 0#5) := by
      unfold fpRound
      simp only [hdec]
      exact if_pos (by simpa using hint)
    have hexact : (roundInt mode neg m e).2 = false := by
      have hsnd : (roundInt mode neg m e).2 = (quantise mode neg m e 0).2 := rfl
      rcases hint with rfl | he
      · rw [hsnd, quantise_zero]
      · rw [hsnd, quantise, if_pos he]
    have hrat := not_ne_iff.mp (mt (roundInt_inexact mode neg m e).mpr (by rw [hexact]; exact Bool.false_ne_true))
    simp only [hr, hdec]
    exact ⟨trivial, rfl, hrat.symm, trivial⟩
  · obtain ⟨q, hq⟩ : ∃ q, (quantise mode neg m e 0).1 = q := ⟨_, rfl⟩
    have hr : fpRound f mode a = ((roundFin f .ne neg q 0).1, 0#5) := by
      unfold fpRound
      simp only [hdec]
      rw [if_neg (by simpa using hint), hq]
    have hle : q ≤ 2 ^ f.mb := hq ▸ quantise_fraction_le mode neg hm (not_le.mp fun h => hint (.inr h))
    obtain ⟨hfin, hrat, hneg, -⟩ := roundFin_integer hf neg hle
    have hval : (FVal.fin neg q 0).rat = ((roundInt mode neg m e).1 : ℚ) := by
      rw [rat_fin, roundInt]
      simp only [hq]
      cases neg <;> simp
    rw [hr]
    exact ⟨rfl, hfin, hrat.trans hval, hneg⟩

end

/-- The other code of the same magnitude. -/
theorem xor_two_pow {a k : Nat} (h : a < 2 ^ (k + 1)) : (if bit a k then a - 2 ^ k else a + 2 ^ k) = a ^^^ 2 ^ k := by
  have hpos := Nat.two_pow_pos k
  have hsplit := Nat.div_add_mod (a ^^^ 2 ^ k) (2 ^ k)
  have hlow := Nat.div_add_mod a (2 ^ k)
  rw [Nat.xor_div_two_pow, Nat.xor_mod_two_pow, Nat.div_self hpos, Nat.mod_self, Nat.xor_zero] at hsplit
  have hdiv : a / 2 ^ k < 2 := Nat.div_lt_of_lt_mul (by rwa [← pow_succ])
  have hbit : bit a k = decide (a / 2 ^ k = 1) := by
    rw [bit_eq_testBit, Nat.testBit_eq_decide_div_mod_eq, Nat.mod_eq_of_lt hdiv]
  rw [hbit]
  rcases Nat.le_one_iff_eq_zero_or_eq_one.mp (Nat.lt_succ_iff.mp hdiv) with h0 | h1
  · rw [h0] at hsplit hlow ⊢
    simp only [Nat.zero_xor] at hsplit
    rw [if_neg (by decide)]
    omega
  · rw [h1] at hsplit hlow ⊢
    simp only [Nat.xor_self] at hsplit
    rw [if_pos (by decide)]
    omega

/-! ### Values far beyond FP32 -/

/-- A magnitude past the largest exponent overflows. -/
theorem roundFin_overflow (neg : Bool) {m : Nat} {e : Int} (hm : 0 < m) (h : 128 ≤ (Nat.log2 m : Int) + e) :
    roundFin Fmt.f32 .ne neg m e = (Fmt.f32.signed neg Fmt.f32.infCode, Flags.ofl ||| Flags.nx) := by
  obtain ⟨-, hge⟩ := quantumOf_bounds Fmt.f32 hm e
  have hmb : (Fmt.f32.mb : Int) = 23 ∧ Fmt.f32.mb = 23 ∧ Fmt.f32.qmin = -149 := by decide
  obtain ⟨q, hq⟩ : ∃ q, quantumOf Fmt.f32 m e = q := ⟨_, rfl⟩
  have hqle : 105 ≤ q := by
    rw [← hq, quantumOf]
    omega
  obtain ⟨n, hn⟩ : ∃ n, (quantise .ne neg m e q).1 = n := ⟨_, rfl⟩
  have hlow : 2 ^ 23 ≤ n := by
    rw [hq] at hge
    exact hn ▸ (quantise_ne neg m e q).le_of_le (by exact_mod_cast hge.resolve_left (by omega))
  have hcode : (roundMag Fmt.f32 .ne neg m e).1 = (q + 149).toNat * 2 ^ 23 + n := by
    rw [← hn, ← hq]
    rfl
  rw [roundFin, if_neg hm.ne']
  simp only [hcode]
  rw [if_pos (show (q + 149).toNat * 2 ^ 23 + n > Fmt.f32.max by
    have hmax : Fmt.f32.max = 0x7F7FFFFF := rfl
    rw [hmax]
    omega)]
  rfl

/-- A magnitude below half of the least subnormal underflows to a zero. -/
theorem roundFin_underflow (neg : Bool) {m : Nat} {e : Int} (hm : 0 < m) (h : (Nat.log2 m : Int) + e < -151) :
    roundFin Fmt.f32 .ne neg m e = (Fmt.f32.signed neg 0, Flags.nx ||| Flags.uf) := by
  have hmb : (Fmt.f32.mb : Int) = 23 ∧ Fmt.f32.qmin = -149 := by decide
  have hq : max ((Nat.log2 m : Int) + e - (Fmt.f32.mb : Int)) Fmt.f32.qmin = -149 := by omega
  obtain ⟨k, hk⟩ : ∃ k, (-149 - e).toNat = k := ⟨_, rfl⟩
  have hlt : 2 * m < 2 ^ k := by
    calc 2 * m < 2 * 2 ^ (Nat.log2 m + 1) := by
          have := Nat.lt_log2_self (n := m)
          omega
      _ = 2 ^ (Nat.log2 m + 2) := by ring
      _ ≤ 2 ^ k := Nat.pow_le_pow_right two_pos (by omega)
  have hquant : quantise .ne neg m e (-149) = (0, true) := by
    have hdiv : m / 2 ^ k = 0 := Nat.div_eq_of_lt (by omega)
    have hmod : m % 2 ^ k = m := Nat.mod_eq_of_lt (by omega)
    rw [quantise, if_neg (by omega), hk]
    simp only [shiftRound, hdiv, hmod]
    simp [hm.ne', hlt.not_gt, hlt.ne]
  have hmag : roundMag Fmt.f32 .ne neg m e = (0, true, true) := by
    simp only [roundMag, hq, hquant]
    rw [hmb.1, hmb.2]
    have hfar : ¬ ((Nat.log2 m : Int) + e - 23 + 1 = -149) := by omega
    have hbelow : (Nat.log2 m : Int) + e - 23 < -149 := by omega
    simp [hfar, hbelow]
  rw [roundFin, if_neg hm.ne', hmag]
  rfl

end Sys2Proof.Machine

/-! ## The FP32 and FP64 instructions complete (O3) -/

namespace Sys2Proof.Machine

/-! ### Exact results of FEXP2 and FLOG2 (R108) -/

/-- An integer that is m x 2^e with m x 2^e of 2^13 and more is 2^13 and more from zero. -/
theorem integer_large {neg : Bool} {m : Nat} {e n : Int} (hm : m ≠ 0) (h : 12 < (Nat.log2 m : Int) + e) (hrat : (FVal.fin neg m e).rat = n) :
    if neg then n ≤ -8192 else 8192 ≤ n := by
  have hpow : (2 : ℚ) ^ 13 ≤ m * 2 ^ e := by
    calc (2 : ℚ) ^ 13 = 2 ^ (13 : Int) := rfl
      _ ≤ 2 ^ ((Nat.log2 m : Int) + e) := zpow_le_zpow_right₀ one_le_two (by omega)
      _ = 2 ^ Nat.log2 m * 2 ^ e := by rw [zpow_add₀ two_ne_zero, zpow_natCast]
      _ ≤ m * 2 ^ e := by
        gcongr
        exact_mod_cast Nat.log2_self_le hm
  rw [rat_fin] at hrat
  cases neg with
  | false =>
    rw [if_neg Bool.false_ne_true, one_mul] at hrat
    exact_mod_cast (show (8192 : ℚ) ≤ n by rw [← hrat]; linarith)
  | true =>
    rw [if_pos rfl, neg_one_mul] at hrat
    exact_mod_cast (show (n : ℚ) ≤ -8192 by rw [← hrat]; linarith)

/-- The power of two of an integer is the exact one rounded once. -/
theorem fpExp2_integer {a : Nat} {n : Int} (hfin : (Fmt.f32.decode a).isFin = true) (hrat : (Fmt.f32.decode a).rat = n) :
    fpExp2 a = roundFin Fmt.f32 .ne false 1 n := by
  obtain ⟨neg, m, e, hdec⟩ := FVal.exists_of_isFin hfin
  obtain ⟨-, -, he, -, -⟩ := Fmt.decode_fin hdec
  rw [hdec] at hrat
  unfold fpExp2
  simp only [hdec]
  split
  next hm =>
    have hn : n = 0 := by exact_mod_cast hrat.symm.trans (rat_eq_zero.mpr hm)
    rw [hn]
    decide
  next hm =>
    split
    next hlarge =>
      have hn := integer_large hm hlarge hrat
      have hone : Nat.log2 1 = 0 := by decide
      have hlog : Nat.log2 (sticky (2 ^ 40) true) = 41 := by decide
      have hpos : 0 < sticky (2 ^ 40) true := by decide
      cases neg with
      | false =>
        rw [if_neg Bool.false_ne_true] at hn ⊢
        rw [roundFin_overflow false hpos (by omega), roundFin_overflow false one_pos (by omega)]
      | true =>
        rw [if_pos rfl] at hn ⊢
        rw [roundFin_underflow false hpos (by omega), roundFin_underflow false one_pos (by omega)]
    next =>
      have hqmin : Fmt.f32.qmin = -149 := by decide
      have hfx : (fxBits : Int) = 640 := rfl
      have hscaled := scaled_eq neg m (q := -(fxBits : Int)) (e := e) (by omega)
      rw [hrat] at hscaled
      have hx : scaled neg m e (-(fxBits : Int)) = n * (2 ^ fxBits : Nat) := by
        have : (scaled neg m e (-(fxBits : Int)) : ℚ) = n * (2 ^ fxBits : Nat) := by
          rw [← hscaled, mul_assoc]
          push_cast
          rw [← zpow_natCast, ← zpow_add₀ two_ne_zero, neg_add_cancel, zpow_zero, mul_one]
        exact_mod_cast this
      have hpos : ((2 ^ fxBits : Nat) : Int) ≠ 0 := by positivity
      rw [hx, Int.mul_emod_left, Int.mul_ediv_cancel _ hpos]
      exact if_pos rfl

/-- A positive m x 2^e that is a power of two has a power of two for m. -/
theorem eq_two_pow_of_rat {m : Nat} {e n : Int} (h : (m : ℚ) * 2 ^ e = 2 ^ n) : m = 2 ^ Nat.log2 m ∧ (Nat.log2 m : Int) + e = n := by
  have hm : (m : ℚ) = 2 ^ (n - e) := by rw [zpow_sub₀ two_ne_zero, ← h, mul_div_cancel_right₀ _ (zpow_ne_zero e two_ne_zero)]
  have hge : 0 ≤ n - e := by
    by_contra hlt
    have hsmall : (m : ℚ) < 1 := hm ▸ zpow_lt_one_of_neg₀ one_lt_two (not_le.mp hlt)
    have hzero : m = 0 := by
      have : m < 1 := by exact_mod_cast hsmall
      omega
    rw [hzero, Nat.cast_zero] at hm
    exact absurd hm (zpow_ne_zero _ two_ne_zero).symm
  obtain ⟨k, hk⟩ := Int.eq_ofNat_of_zero_le hge
  rw [hk, zpow_natCast] at hm
  obtain rfl : m = 2 ^ k := by exact_mod_cast hm
  rw [Nat.log2_two_pow]
  exact ⟨rfl, by omega⟩

/-- The logarithm of a power of two is exact. -/
theorem fpLog2_power {a : Nat} {n : Int} (hfin : (Fmt.f32.decode a).isFin = true) (hrat : (Fmt.f32.decode a).rat = (2 : ℚ) ^ n) :
    (Fmt.f32.decode (fpLog2 a).1).isFin = true ∧ (Fmt.f32.decode (fpLog2 a).1).rat = n ∧ (fpLog2 a).2 = 0#5 ∧
      (n = 0 → (fpLog2 a).1 = 0) := by
  obtain ⟨neg, m, e, hdec⟩ := FVal.exists_of_isFin hfin
  obtain ⟨-, hm, he, hemax, -⟩ := Fmt.decode_fin hdec
  rw [hdec] at hrat
  have hpos : (0 : ℚ) < (FVal.fin neg m e).rat := hrat ▸ by positivity
  have hm0 : m ≠ 0 := fun h => hpos.ne' (rat_eq_zero.mpr h)
  have hneg : neg = false := by
    rw [← rat_neg_iff hpos.ne']
    exact decide_eq_false hpos.not_gt
  subst hneg
  obtain ⟨hpow, hn⟩ := eq_two_pow_of_rat (m := m) (e := e) (n := n) (by rw [← hrat, rat_fin, if_neg Bool.false_ne_true, one_mul])
  have hlog : fpLog2 a = roundFin Fmt.f32 .ne (decide (n < 0)) n.natAbs 0 := by
    unfold fpLog2
    simp only [hdec]
    rw [if_neg hm0, if_neg Bool.false_ne_true, if_pos hpow, hn]
    rfl
  have hconst : Fmt.f32.qmin = -149 ∧ (2 : Int) ^ Fmt.f32.eb = 256 ∧ Fmt.f32.mb = 23 := by decide
  have hk : Nat.log2 m < 24 := by
    have := (Nat.log2_lt hm0).mpr hm
    omega
  have hle : n.natAbs ≤ 2 ^ Fmt.f32.mb := by
    rw [hconst.2.2]
    omega
  obtain ⟨hrfin, hrrat, -, hflags⟩ := roundFin_integer (f := Fmt.f32) (by decide) (decide (n < 0)) hle
  rw [hlog]
  refine ⟨hrfin, hrrat.trans ?_, hflags, ?_⟩
  · have := rat_integer n 0
    rwa [zpow_zero, mul_one] at this
  · rintro rfl
    rfl

/-! ### Special operands -/

section
variable {f : Fmt} {a : Nat}

theorem fp_nan (h : (f.decode a).isNan = true) : fpNeg f a = (f.nan, nvIf (f.decode a).isSnan) ∧
    fpAbs f a = (f.nan, nvIf (f.decode a).isSnan) ∧ ∀ mode, fpRound f mode a = (f.nan, nvIf (f.decode a).isSnan) := by
  rw [fpNeg, fpAbs]
  simp only [fpRound]
  rw [FVal.eq_nan h]
  exact ⟨rfl, rfl, fun _ => rfl⟩

theorem fp_sign (hlt : a < 2 ^ (f.signBit + 1)) (h : (f.decode a).isNan = false) :
    fpNeg f a = (a ^^^ 2 ^ f.signBit, 0#5) ∧ fpAbs f a = (a % 2 ^ f.signBit, 0#5) := by
  rw [← xor_two_pow hlt, fpNeg, fpAbs]
  cases hv : f.decode a with
  | nan s =>
    rw [hv] at h
    cases h
  | inf neg | fin neg m e => exact ⟨rfl, rfl⟩

theorem fpRound_special (h : (f.decode a).isInf = true ∨ (f.decode a).isZero = true) (mode : Mode) : fpRound f mode a = (a, 0#5) := by
  unfold fpRound
  cases hv : f.decode a with
  | nan s =>
    rw [hv] at h
    exact h.elim (fun h => Bool.noConfusion h) (fun h => Bool.noConfusion h)
  | inf neg => rfl
  | fin neg m e =>
    rw [hv] at h
    exact if_pos ((Bool.or_eq_true ..).mpr (.inl (decide_eq_true (beq_iff_eq.mp (h.resolve_left Bool.false_ne_true)))))

end

section
variable {a : Nat}

theorem fp_functions_nan (h : (Fmt.f32.decode a).isNan = true) : fpExp2 a = (Fmt.f32.nan, nvIf (Fmt.f32.decode a).isSnan) ∧
    fpLog2 a = (Fmt.f32.nan, nvIf (Fmt.f32.decode a).isSnan) ∧
    ∀ isCos, fpSinCos isCos a = (Fmt.f32.nan, nvIf (Fmt.f32.decode a).isSnan) := by
  simp only [fpExp2, fpLog2, fpSinCos]
  rw [FVal.eq_nan h]
  exact ⟨rfl, rfl, fun _ => rfl⟩

theorem fp_functions_inf (h : (Fmt.f32.decode a).isInf = true) :
    fpExp2 a = (if (Fmt.f32.decode a).neg? then 0 else Fmt.f32.infCode, 0#5) ∧
    fpLog2 a = (if (Fmt.f32.decode a).neg? then (Fmt.f32.nan, Flags.nv) else (Fmt.f32.infCode, 0#5)) ∧
    ∀ isCos, fpSinCos isCos a = (Fmt.f32.nan, Flags.nv) := by
  simp only [fpExp2, fpLog2, fpSinCos]
  cases hv : Fmt.f32.decode a with
  | inf neg => cases neg <;> exact ⟨rfl, rfl, fun _ => rfl⟩
  | nan s | fin neg m e =>
    rw [hv] at h
    cases h

theorem fp_functions_zero (h : (Fmt.f32.decode a).isZero = true) :
    fpLog2 a = (Fmt.f32.signed true Fmt.f32.infCode, Flags.dz) ∧ fpSinCos false a = (a, 0#5) ∧
    (Fmt.f32.decode (fpSinCos true a).1).rat = 1 ∧ (fpSinCos true a).2 = 0#5 := by
  have hcos : fpLog2 a = (Fmt.f32.signed true Fmt.f32.infCode, Flags.dz) ∧ fpSinCos false a = (a, 0#5) ∧
      fpSinCos true a = (0x3F800000, 0#5) := by
    simp only [fpLog2, fpSinCos]
    cases hv : Fmt.f32.decode a with
    | fin neg m e =>
      rw [hv] at h
      obtain rfl : m = 0 := beq_iff_eq.mp h
      exact ⟨rfl, rfl, rfl⟩
    | nan s | inf neg =>
      rw [hv] at h
      cases h
  have hone : Fmt.f32.decode 0x3F800000 = .fin false (2 ^ 23) (-23) := by decide
  rw [hcos.2.2, hone]
  refine ⟨hcos.1, hcos.2.1, ?_, rfl⟩
  rw [rat_fin, if_neg Bool.false_ne_true]
  norm_num

theorem fpLog2_negative (hfin : (Fmt.f32.decode a).isFin = true) (hneg : (Fmt.f32.decode a).rat < 0) : fpLog2 a = (Fmt.f32.nan, Flags.nv) := by
  unfold fpLog2
  obtain ⟨neg, m, e, hdec⟩ := FVal.exists_of_isFin hfin
  rw [hdec] at hneg ⊢
  have hsign : neg = true := by
    rw [← rat_neg_iff hneg.ne]
    exact decide_eq_true hneg
  subst hsign
  exact if_neg fun h => hneg.ne (rat_eq_zero.mpr h)

end

/-- Settles O3: the rows complete by the lemmas above; the exact results are those of `roundFin` on a point of the grid. -/
theorem floatInstructions : Obligations.FloatInstructions := by
  unfold Obligations.FloatInstructions
  refine ⟨fun d a b => ⟨?_, ?_, ?_, ?_, ?_, ?_, ?_, ?_, ?_, ?_, ?_, ?_, ?_, ?_, ?_, ?_, ?_, ?_, ?_⟩,
    fun d a => ⟨?_, ?_, ?_, ?_, ?_, ?_, ?_, ?_, ?_, ?_, ?_, ?_, ?_, ?_, ?_, ?_, ?_, ?_, ?_, ?_, ?_, ?_, ?_, ?_⟩,
    fun f hf a hlt => ?_, fun a => ?_⟩
  · exact computes_f32Two fun _ => rfl
  · exact computes_f32Two fun _ => rfl
  · exact computes_f32Two fun _ => rfl
  · exact computes_f32Three fun _ => rfl
  · exact computes_f32Two fun _ => rfl
  · exact computes_f32Two fun _ => rfl
  · exact computes_f32Test fun _ => rfl
  · exact computes_f32Test fun _ => rfl
  · exact computes_f32Test fun _ => rfl
  · exact computes_f32Test fun _ => rfl
  · exact computes_f64Two fun _ => rfl
  · exact computes_f64Two fun _ => rfl
  · exact computes_f64Two fun _ => rfl
  · exact computes_f64Three fun _ => rfl
  · exact computes_f64Two fun _ => rfl
  · exact computes_f64Two fun _ => rfl
  · exact computes_f64Test fun _ => rfl
  · exact computes_f64Test fun _ => rfl
  · exact computes_f64Test fun _ => rfl
  · exact computes_f32One fun _ => rfl
  · exact computes_f32One fun _ => rfl
  · exact computes_f32One fun _ => rfl
  · exact computes_f32One fun _ => rfl
  · exact computes_f32One fun _ => rfl
  · exact computes_f32One fun _ => rfl
  · exact computes_f32One fun _ => rfl
  · exact computes_f32One fun _ => rfl
  · exact computes_f32One fun _ => rfl
  · exact computes_f32One fun _ => rfl
  · exact computes_f32One fun _ => rfl
  · exact computes_f32One fun _ => rfl
  · exact computes_f32One fun _ => rfl
  · exact computes_f32Class
  · exact computes_f64One fun _ => rfl
  · exact computes_f64One fun _ => rfl
  · exact computes_f64One fun _ => rfl
  · exact computes_f64One fun _ => rfl
  · exact computes_f64One fun _ => rfl
  · exact computes_f64One fun _ => rfl
  · exact computes_f64One fun _ => rfl
  · exact computes_f64One fun _ => rfl
  · exact computes_f64One fun _ => rfl
  · exact computes_f64Class
  · exact ⟨fpClass_eq f a, fp_nan, fp_sign hlt, fpRound_special, fun hfin mode => fpRound_fin hf mode hfin⟩
  · refine ⟨fun h => ?_, fun h => ?_, fun n => fpExp2_integer, fun h => ?_, fun hfin hneg => ?_, fun n => fpLog2_power⟩
    · exact ⟨(fp_functions_nan h).1, (fp_functions_nan h).2.1, (fp_functions_nan h).2.2 _, (fp_functions_nan h).2.2 _⟩
    · exact ⟨(fp_functions_inf h).1, (fp_functions_inf h).2.1, (fp_functions_inf h).2.2 _, (fp_functions_inf h).2.2 _⟩
    · exact fp_functions_zero h
    · exact fpLog2_negative hfin hneg

end Sys2Proof.Machine

/-! ## HNARROW into port 14 (R288)

The frame of HNARROW finds the bytes that its result's entry takes through the team's channel of the destination's number. HNARROW
checks no destination, so a port 14 reaches the group's own q14 instead, whose ring lies elsewhere: a state whose team lists a
channel 14 beside it satisfies the hypothesis while a lane of another class watches the very word that the push writes. -/

namespace Sys2Proof.Machine

/-- The channel 14 that the team lists, at the bottom of its local memory. -/
def narrowChan : Chan := { vector := false, words := 1, ofs := 0, head := 0, tags := [] }

/-- A monitor of the word at the head of q14's ring, met by the index of the derived handle. -/
def narrowWatch : Watch := { place := .loc 0 0x800, va := 0, d := 9, cond := .eq, latched := false, token := 1, popped := [] }

/-- Lane 0 is about to derive handle 9 from handle 0, as its parameter words s8 to s15 say; lane 1 watches the ring of q14. -/
def narrowState : State :=
  { State.reset.bench 0 with
    teams := [(0, { benchTeam with chans := [(14, narrowChan)] })]
    launches := [(0, { benchLaunch with htab := 0x20000, hcnt := 9 })]
    cores := [(0, { Core.clear with hcache := [(0, { bytes := handleBytes true 0x30000 0x1000 0 0x17 0 false 0, poison := false })] })]
    groups := [(0, { (benchGroup.modLanes [1] (fun _ x => { x with sleep := .waitc narrowWatch })).sput 8
        ([0x00090000, 0xFFF, 0, 1, 0, 0x1F, 0, 0].map Reg.of) with q14 := { narrowChan with ofs := 0x800 } })]
    ix := { slot := 0, lanes := [0], pc := 0x10000, word := 0, lit := 0, chain := false } }

/-- The push as the statement's frame sees it. -/
def narrowPush : Uses := { srcs := [], dst := .q 14, words := 1, uniform := [], noUni := false }

theorem narrow_chan : (narrowState.team narrowState.cur.team).chan? 14 = some narrowChan ∧ (narrowState.team narrowState.cur.team).base = 0 := by
  decide +kernel

/-- By the team's channel the entry would take the first word of local memory. -/
theorem narrow_pushes {core off : Nat} (h : narrowState.pushes narrowPush core off) : off < 4 := by
  obtain ⟨n, hn, -, c, hc, i, hi, -, hoff⟩ := h
  obtain rfl : n = 14 := (Dst.q.inj hn).symm
  obtain rfl := Option.some.inj (narrow_chan.1.symm.trans hc)
  obtain rfl : i = 0 := Nat.lt_one_iff.mp hi
  simpa [narrow_chan.2, narrowChan] using hoff

/-- Lane 1 alone sleeps at a WAITC, resident or saved. -/
theorem narrow_waits : (∀ e ∈ narrowState.groups, ∀ x ∈ e.2.lanes, ∀ w, x.sleep = .waitc w →
    w = narrowWatch ∧ x.sameWait x = true) ∧ narrowState.saved = [] := by
  have hall : narrowState.groups.all (fun e => e.2.lanes.all (fun x => match x.sleep with
      | .waitc w => decide (w = narrowWatch) && x.sameWait x
      | _ => true)) = true := by decide +kernel
  refine ⟨fun e he x hx w hw => ?_, by decide +kernel⟩
  have hone := List.all_eq_true.mp (List.all_eq_true.mp hall e he) x hx
  rw [hw] at hone
  obtain ⟨heq, hsame⟩ := Bool.and_eq_true_iff.mp hone
  exact ⟨of_decide_eq_true heq, hsame⟩

theorem narrow_issues : narrowState.Issues := by
  unfold State.Issues
  decide +kernel

/-- The frame's hypothesis holds of the state. -/
theorem narrow_pushable : narrowState.Pushable narrowPush := by
  intro n hn
  obtain rfl : n = 14 := (Dst.q.inj hn).symm
  refine ⟨fun c hc => ?_, fun e he x hx w hw => ?_, fun k hk => ?_⟩
  · obtain rfl := Option.some.inj (narrow_chan.1.symm.trans hc)
    rfl
  · obtain ⟨rfl, hsame⟩ := narrow_waits.1 e he x hx w hw
    refine ⟨fun core off hplace k _ hpush => ?_, x, hx, hsame, narrowWatch, hw, rfl⟩
    obtain ⟨rfl, rfl⟩ := Place.loc.inj hplace
    exact absurd (narrow_pushes hpush) (by omega)
  · rw [narrow_waits.2] at hk
    exact absurd hk List.not_mem_nil

/-- The module after the instruction. -/
def narrowAfter : State :=
  match exec (.hnarrow (.q 14) 1) narrowState with
  | .next t => t
  | _ => narrowState

theorem narrow_exec : exec (.hnarrow (.q 14) 1) narrowState = .next narrowAfter := by
  unfold narrowAfter
  split
  next h => exact h
  next h =>
    have hstopped : narrowState.stopped = false := by decide +kernel
    exact absurd (State.runs_next _ _ hstopped) (h _)

/-- The class has moved on. -/
theorem narrow_moves : ∀ l ∈ narrowState.ix.lanes, (narrowAfter.cur.lane l).pc = nextPc narrowState.ix.pc ∧
    (narrowAfter.cur.lane l).sleep = .awake ∧ (narrowAfter.cur.lane l).exited = false ∧
    (narrowAfter.cur.lane l).depth = (narrowState.cur.lane l).depth := by
  decide +kernel

/-- The push writes the word that lane 1 watches, and lane 1 wakes. -/
theorem narrow_wakes : (narrowAfter.group 0).lane 1 ≠ (narrowState.group 0).lane 1 := by decide +kernel

/-- Refutes O13: HNARROW to port 14 is said to leave every lane outside its class as it was when no monitor watches the ring of the
team's channel 14, but the entry goes to the group's q14, whose word lane 1 watches. -/
theorem not_arithmeticFrame : ¬ Obligations.ArithmeticFrame := by
  unfold Obligations.ArithmeticFrame
  rintro ⟨-, -, hblock⟩
  obtain ⟨-, hlanes, -⟩ := hblock (.hnarrow (.q 14) 1) (.q 14) 1 narrowState narrowAfter rfl narrow_issues narrow_pushable narrow_exec
    narrow_moves
  exact narrow_wakes (hlanes 1 (by decide))

end Sys2Proof.Machine

/-! ## What a push keeps of groups and teams (R41, R213)

A push into a queue is a write that monitors may see, and a monitor on a poisoned word takes its class to a trap. Whatever comes of
that, no group and no team comes or goes, no group changes its team, its flags or the number of its lanes. -/

namespace Sys2Proof.Machine

/-- A group's team, its flags and the number of its lanes. -/
def Group.outline (g : Group) : Nat × Flags × Nat := (g.team, g.fflags, g.lanes.length)

/-- The same groups and teams are resident, and each group has its outline. -/
def SameOutline (s t : State) : Prop :=
  t.ix = s.ix ∧ t.groups.map (fun e => (e.1, e.2.outline)) = s.groups.map (fun e => (e.1, e.2.outline)) ∧
    t.teams.map Prod.fst = s.teams.map Prod.fst

theorem SameOutline.refl (s : State) : SameOutline s s := ⟨rfl, rfl, rfl⟩

theorem SameOutline.trans {s t u : State} (h : SameOutline s t) (h' : SameOutline t u) : SameOutline s u :=
  ⟨h'.1.trans h.1, h'.2.1.trans h.2.1, h'.2.2.trans h.2.2⟩

/-- What is listed under a key, told through a view of it. -/
theorem map_mget {α β : Type} (π : α → β) (m : List (Nat × α)) (k : Nat) :
    (mget? m k).map π = mget? (m.map (fun e => (e.1, π e.2))) k := by
  induction m with
  | nil => rfl
  | cons e t ih =>
    simp only [mget?, List.map_cons]
    split
    · rfl
    · exact ih

theorem isSome_mget_fst {α : Type} (m : List (Nat × α)) (n : Nat) : (mget? m n).isSome = (m.map Prod.fst).contains n := by
  induction m with
  | nil => rfl
  | cons e t ih =>
    simp only [mget?, List.map_cons, List.contains_cons]
    split
    next h => simp [h]
    next h => rw [ih, beq_eq_false_iff_ne.mpr h, Bool.false_or]

section
variable {s t : State} (h : SameOutline s t) (n : Nat)
include h

theorem SameOutline.ix : t.ix = s.ix := h.1

theorem SameOutline.resident : (mget? t.groups n).isSome = (mget? s.groups n).isSome := by
  rw [← Option.isSome_map (f := Group.outline), map_mget, h.2.1, ← map_mget, Option.isSome_map]

theorem SameOutline.resident_team : (mget? t.teams n).isSome = (mget? s.teams n).isSome := by
  rw [isSome_mget_fst, isSome_mget_fst, h.2.2]

theorem SameOutline.outline : (t.group n).outline = (s.group n).outline := by
  have key (r : State) : (r.group n).outline = ((mget? r.groups n).map Group.outline).getD Group.blank.outline := by
    rw [State.group]
    cases mget? r.groups n <;> rfl
  rw [key, key, map_mget, map_mget, h.2.1]

theorem SameOutline.team : (t.group n).team = (s.group n).team := congrArg Prod.fst (h.outline n)

theorem SameOutline.fflags : (t.group n).fflags = (s.group n).fflags := congrArg (fun x => x.2.1) (h.outline n)

theorem SameOutline.lanes : (t.group n).lanes.length = (s.group n).lanes.length := congrArg (fun x => x.2.2) (h.outline n)

end

section
variable {r s : State} (h : SameOutline r s)
include h

/-! ### Changes of groups and teams -/

theorem SameOutline.foldl {α : Type} {f : State → α → State} {l : List α} (hf : ∀ t a, SameOutline r t → SameOutline r (f t a)) :
    SameOutline r (l.foldl f s) :=
  foldl_keeps (SameOutline r) f hf l s h

theorem SameOutline.mapGroups {f : Nat × Group → Nat × Group} (hf : ∀ e, (f e).1 = e.1 ∧ (f e).2.outline = e.2.outline) :
    SameOutline r { s with groups := s.groups.map f } := by
  refine ⟨h.1, ?_, h.2.2⟩
  rw [← h.2.1]
  dsimp only
  rw [List.map_map]
  exact List.map_congr_left fun e _ => Prod.ext (hf e).1 (hf e).2

theorem SameOutline.modGroup {n : Nat} {f : Group → Group} (hf : ∀ g, (f g).outline = g.outline) : SameOutline r (s.modGroup n f) := by
  refine h.mapGroups fun e => ?_
  split
  · exact ⟨rfl, hf e.2⟩
  · exact ⟨rfl, rfl⟩

theorem SameOutline.modTeam {n : Nat} {f : Team → Team} : SameOutline r (s.modTeam n f) := by
  refine ⟨h.1, h.2.1, ?_⟩
  rw [← h.2.2]
  unfold State.modTeam mupd
  rw [List.map_map]
  refine List.map_congr_left fun e _ => ?_
  dsimp only [Function.comp_apply]
  split <;> rfl

omit h in
theorem Group.outline_modLanes (g : Group) (ls : List Nat) (f : Nat → Lane → Lane) : (g.modLanes ls f).outline = g.outline := by
  unfold Group.outline
  rw [Group.modLanes_length]
  rfl

theorem SameOutline.sleepAs {why : Sleep} : SameOutline r (s.sleepAs why) := h.modGroup fun g => g.outline_modLanes ..

theorem SameOutline.setPort {slot port : Nat} {c : Chan} : SameOutline r (s.setPort slot port c) := by
  unfold State.setPort
  split
  · exact h.modGroup fun _ => rfl
  · exact h.modTeam

theorem SameOutline.barrierCheck {team n : Nat} : SameOutline r (s.barrierCheck team n) := by
  unfold State.barrierCheck
  dsimp only
  split
  · refine SameOutline.mapGroups (s := s.modTeam team _) h.modTeam fun e => ?_
    split
    · exact ⟨rfl, by simp [Group.outline]⟩
    · exact ⟨rfl, rfl⟩
  · exact h

theorem SameOutline.barriersCheck {team : Nat} : SameOutline r (s.barriersCheck team) := h.foldl fun _ _ ht => ht.barrierCheck

theorem SameOutline.modLaunch {lid : Nat} {f : Launch → Launch} : SameOutline r (s.modLaunch lid f) := h

theorem SameOutline.clearGroup {slot : Nat} : SameOutline r (s.clearGroup slot) := h

theorem SameOutline.endGroup : SameOutline r s.endGroup := by
  unfold State.endGroup
  dsimp only
  refine .clearGroup (.barriersCheck (.modLaunch (.modTeam (h.modGroup fun g => ?_))))
  simp [Group.outline]

theorem SameOutline.killLaunch {lid t : Nat} : SameOutline r (s.killLaunch lid t) := by
  refine SameOutline.mapGroups h fun e => ?_
  split
  · exact ⟨rfl, by simp [Group.outline]⟩
  · exact ⟨rfl, rfl⟩

/-! ### Translations, faults and memory -/

theorem SameOutline.wake {pa : Nat} : SameOutline r (s.wake pa) := by
  unfold State.wake
  split
  · split <;> exact h
  · exact h

theorem SameOutline.wakeLines {lines : List Nat} : SameOutline r (s.wakeLines lines) :=
  h.foldl fun t n ht => by
    cases t.tierPlace n with
    | none => exact ht
    | some pa => exact ht.wake

theorem SameOutline.keepLeaf {via dom space va size leaf : Nat} : SameOutline r (s.keepLeaf via dom space va size leaf) :=
  h.foldl fun _ _ ht => by split <;> exact ht

theorem SameOutline.keepPath {die dom space va : Nat} : SameOutline r (s.keepPath die dom space va) :=
  h.wakeLines.foldl fun _ _ ht => by split <;> exact ht

theorem SameOutline.touch {via dom space va : Nat} {need : Need} {t940 : Bool} : SameOutline r (s.touch via dom space va need t940) := by
  unfold State.touch
  split
  · exact h.keepLeaf
  · split
    · exact h
    · split
      · exact h.keepPath.keepLeaf
      · exact h
  · exact h
  · exact h

theorem SameOutline.message {win vector need : Nat} : SameOutline r (s.message win vector need) := by
  unfold State.message
  split <;> exact h

theorem SameOutline.interruptAfter {win vector need : Nat} : SameOutline r (s.interruptAfter win vector need) := by
  unfold State.interruptAfter
  dsimp only
  split
  · split
    · exact h
    · refine .message ?_
      exact h
  · split
    · exact h
    · refine .message ?_
      exact h

theorem SameOutline.writePiece {pa : Nat} {bs : List Byte} : SameOutline r (s.writePiece pa bs) := by
  have hnote : SameOutline r (s.noteWrite pa) := by
    unfold State.noteWrite
    split <;> exact h
  unfold State.writePiece State.markDirty
  dsimp only
  split <;> exact hnote

theorem SameOutline.settlePoison {sector : Nat} {covered : Bool} : SameOutline r (s.settlePoison sector covered) := by
  unfold State.settlePoison
  dsimp only
  split
  · exact h
  · split <;> exact h

theorem SameOutline.ownPut {pa : Nat} {bs : List Byte} : SameOutline r (s.ownPut pa bs) := by
  unfold State.ownPut State.ownWrite State.writeClean State.writeHome
  split
  · exact h
  · split
    · exact h
    · exact (h.foldl fun t _ ht => ht.writePiece).foldl fun t _ ht => ht.settlePoison

theorem SameOutline.dropKey {dom : Nat} {count : Bool} : SameOutline r (s.dropKey dom count) := by
  unfold State.dropKey State.interrupt
  refine .interruptAfter ?_
  exact h

theorem SameOutline.enterKey {die dom space va kind level cause : Nat} : SameOutline r (s.enterKey die dom space va kind level cause) := by
  unfold State.enterKey
  dsimp only
  split
  · exact h
  · split
    · exact h.dropKey
    · split
      · refine .dropKey ?_
        exact h
      · refine .interruptAfter ?_
        split
        · refine .ownPut ?_
          exact h
        · exact h

theorem SameOutline.enterFault {agent : Agent} {via dom space va : Nat} {k : AccessKind} {t940 : Bool} {level cause : Nat} :
    SameOutline r (s.enterFault agent via dom space va k t940 level cause) := by
  unfold State.enterFault
  dsimp only
  obtain ⟨kind, hkind⟩ : ∃ n, kindBits k + (if t940 then 0x40 else agentBits agent) = n := ⟨_, rfl⟩
  rw [hkind]
  split
  · exact h.touch.enterKey
  · exact h.touch.enterKey

theorem SameOutline.waitLanes {need : Need} {faults : List (Nat × Nat × Nat)} : SameOutline r (s.waitLanes need faults) :=
  h.foldl fun _ _ ht => ht.enterFault

theorem SameOutline.decodedLine {line : Nat} {need : Nat → Bool} {x : Line} : SameOutline r (s.decodedLine line need x).2 := by
  unfold State.decodedLine
  split
  · exact h
  · dsimp only
    split <;> exact h

theorem SameOutline.putLine {line : Nat} {x : Line} : SameOutline r (s.putLine line x) :=
  SameOutline.foldl (s := { s with mem := putBytes s.mem (128 * line) x.bytes }) h fun _ _ ht => ht

theorem SameOutline.heal {line : Nat} : SameOutline r (s.heal line) := by
  unfold State.heal State.homeLine
  split
  · dsimp only
    split
    · exact h.decodedLine
    · exact h.decodedLine.putLine
  · exact h

theorem SameOutline.healAll {lines : List Nat} : SameOutline r (s.healAll lines) := by
  unfold State.healAll
  dsimp only
  split
  · exact h
  · exact SameOutline.foldl (f := fun acc n => { acc.heal n with free := s.free }) h fun _ n ht => ht.heal (line := n)

theorem SameOutline.keepEntry {slot lid i : Nat} {e : HEntry} : SameOutline r (s.keepEntry slot lid i e) := by
  unfold State.keepEntry
  dsimp only
  refine SameOutline.touch ?_
  split
  · exact h
  · exact h.healAll.wakeLines

theorem SameOutline.settleStack {k : AccessKind} {hx : Nat} {e : HEntry} {spots : List Spot} :
    SameOutline r (s.settleStack k hx e spots) := by
  unfold State.settleStack State.settleSpots
  dsimp only
  refine SameOutline.foldl (l := spots) h.keepEntry fun t p ht => ?_
  split
  · exact ht
  · exact ht.foldl fun u _ hu => hu.touch

/-! ### Traps, monitors and pushes -/

theorem SameOutline.modCur {f : Group → Group} (hf : ∀ g, (f g).outline = g.outline) : SameOutline r (s.modCur f) := h.modGroup hf

theorem SameOutline.clearWaits {a : Agent} : SameOutline r (s.clearWaits a) := h

theorem SameOutline.sendReturns {spots : List Spot} {ret : DWord} : SameOutline r (s.sendReturns spots ret) := by
  unfold State.sendReturns State.send State.sendAs
  dsimp only
  generalize gatherSent _ = rs
  generalize writtenOf _ = ws
  have hg := h.modGroup (n := s.ix.slot) (f := fun g => { g with
    storeQ := g.storeQ ++ numberWrites s.ix.slot (s.groupDom (s.group s.ix.slot)) (s.groupSpace (s.group s.ix.slot)) none s.seq rs
    written := nub (g.written ++ ws) }) fun _ => rfl
  exact ⟨hg.1, hg.2.1, hg.2.2⟩

theorem SameOutline.tableLost : SameOutline r s.tableLost := by
  unfold State.tableLost
  exact h.killLaunch

theorem SameOutline.waitTable {k : AccessKind} {va level cause : Nat} : SameOutline r (s.waitTable k va level cause) := by
  unfold State.waitTable
  exact h.enterFault

theorem SameOutline.recordTrap {t : Trap} : SameOutline r (s.recordTrap t) := h.modCur fun _ => rfl

theorem SameOutline.enterVector {pc : DWord} : SameOutline r (s.enterVector pc) := by
  unfold State.enterVector
  dsimp only
  split
  · exact h.endGroup
  · split
    · exact h.endGroup
    · split
      · exact h.sleepAs.waitTable
      · exact h.sleepAs
      · split
        · exact h.endGroup
        · exact h.sleepAs
        · exact h.sleepAs.waitLanes
        · split
          · exact h.sleepAs
          · exact h.settleStack.clearWaits.sendReturns.modCur fun g => g.outline_modLanes ..
      · exact h.tableLost
      · exact h.endGroup

theorem SameOutline.takeTrap {t : Trap} : SameOutline r (s.takeTrap t) := by
  unfold State.takeTrap
  exact h.recordTrap.enterVector

theorem SameOutline.trapAsleep {slot : Nat} {lanes : List Nat} {t : Trap} : SameOutline r (s.trapAsleep slot lanes t) := by
  unfold State.trapAsleep
  dsimp only
  obtain ⟨a, ha⟩ : ∃ a, ({ s with ix := { slot := slot, lanes := lanes, pc := t.pc, word := 0, lit := 0, chain := false } } : State) = a :=
    ⟨_, rfl⟩
  have ht := (SameOutline.refl a).takeTrap (t := t)
  rw [ha]
  subst ha
  exact ⟨h.1, ht.2.1.trans h.2.1, ht.2.2.trans h.2.2⟩

theorem SameOutline.putBack {slot : Nat} {es : List (Nat × List (List Reg))} : SameOutline r (s.putBack slot es) := by
  refine h.foldl fun t e ht => ?_
  dsimp only
  split
  · exact ht
  · refine .setPort (ht.foldl fun u _ hu => ?_)
    exact hu

omit h in
theorem Group.outline_tested (s : State) (hit : Place → Bool) (g : Group) : (s.testGroup hit g).outline = g.outline := by
  simp [Group.outline, State.testGroup, wakeWatches]

theorem SameOutline.notify {hit : Place → Bool} : SameOutline r (s.notify hit) := by
  unfold State.notify
  dsimp only
  exact SameOutline.mapGroups (h.foldl fun t e ht => ht.putBack.trapAsleep) fun e => ⟨rfl, Group.outline_tested ..⟩

theorem SameOutline.putLocalAs {core : Nat} {ws : List (Nat × List Byte × Bool)} : SameOutline r (s.putLocalAs core ws) := by
  unfold State.putLocalAs
  dsimp only
  refine SameOutline.foldl (h.foldl fun t w ht => SameOutline.notify ?_) fun t _ ht => ht
  split
  · exact SameOutline.foldl (s := t.writeLoc core w.1 w.2.1) ht fun u _ hu => hu
  · exact ht

theorem SameOutline.pushEntry {slot port : Nat} {ws : List Reg} : SameOutline r (s.pushEntry slot port ws) := by
  unfold State.pushEntry
  dsimp only
  split
  · exact h
  · exact h.putLocalAs.setPort

theorem SameOutline.popPort {slot port n : Nat} : SameOutline r (s.popPort slot port n).2 := by
  unfold State.popPort
  dsimp only
  split
  · exact h
  · exact h.setPort

theorem SameOutline.take {slot : Nat} {srcs : List (Src × Pos)} : SameOutline r (s.take slot srcs).2 := by
  induction srcs generalizing s with
  | nil => exact h
  | cons e rest ih =>
    obtain ⟨x, pos⟩ := e
    cases x with
    | q n => exact ih h.popPort
    | v n | s n | lit => exact ih h

/-- Writing a result keeps the outline, wherever it goes. -/
theorem SameOutline.writeDst {slot : Nat} {d : Dst} {words : Nat} {res : List (Nat × List Reg)} :
    SameOutline r (s.writeDst slot d words res) := by
  cases d with
  | nul => exact h
  | v n => exact h.modGroup fun g => g.outline_modLanes ..
  | s n =>
    refine h.modGroup fun g => ?_
    rw [Group.sput_eq]
    rfl
  | q n =>
    unfold State.writeDst
    dsimp only
    split
    · exact h
    · exact h.foldl fun t _ ht => ht.pushEntry

end

end Sys2Proof.Machine

/-! ## Entries pushed into a port (R21, R41, R234) -/

namespace Sys2Proof.Machine

/-! ### Monitors that no write reaches -/

/-- No monitor watches a place that a test meets, and every class asleep at a WAITC has an open monitor. -/
def State.Quiet (s : State) (hit : Place → Bool) : Prop :=
  (∀ e ∈ s.groups, ∀ x ∈ e.2.lanes, ∀ w, x.sleep = .waitc w → hit w.place = false ∧
    ∃ y ∈ e.2.lanes, x.sameWait y = true ∧ ∃ v, y.sleep = .waitc v ∧ v.latched = false) ∧
  ∀ k ∈ s.saved, ∀ g ∈ k.groups, ∀ w, Sleep.waitc w ∈ g.sleeps → hit w.place = false

theorem State.Quiet.of_same {s t : State} {hit : Place → Bool} (h : s.Quiet hit) (hg : t.groups = s.groups) (hs : t.saved = s.saved) :
    t.Quiet hit := by
  unfold State.Quiet
  rw [hg, hs]
  exact h

section
variable {s : State} {hit : Place → Bool} (h : s.Quiet hit)
include h

theorem State.poisonedWatches_of_quiet : s.poisonedWatches hit = [] := by
  refine List.filterMap_eq_nil_iff.mpr fun e he => ?_
  rw [findIx_eq_none]
  · rfl
  · intro x hx
    split
    case h_1 w hw => simp [(h.1 e he x hx w hw).1]
    case h_2 => rfl

theorem State.testGroup_of_quiet {e : Nat × Group} (he : e ∈ s.groups) : s.testGroup hit e.2 = e.2 := by
  unfold State.testGroup
  rw [map_eq_self fun x hx => ?_]
  · unfold wakeWatches
    dsimp only
    rw [map_eq_self fun x hx => ?_]
    split
    case h_1 w hw =>
      obtain ⟨y, hy, hsame, v, hv, hopen⟩ := (h.1 e he x hx w hw).2
      refine if_pos (List.any_eq_true.mpr ⟨y, hy, ?_⟩)
      simp [hsame, hv, hopen]
    case h_2 => rfl
  · split
    case h_1 w hw => exact if_neg (by simp [(h.1 e he x hx w hw).1])
    case h_2 => rfl

/-- A write that no monitor watches wakes nothing. -/
theorem State.notify_of_quiet : s.notify hit = s := by
  have hsaved : s.saved.map (fun t => { t with groups := t.groups.map (fun g => { g with sleeps := g.sleeps.map (s.testSleep hit) }) }) =
      s.saved := map_eq_self fun k hk => by
    rw [map_eq_self fun g hg => ?_]
    rw [map_eq_self fun x hx => ?_]
    cases x with
    | waitc w => exact if_neg (by simp [h.2 k hk g hg w hx])
    | _ => rfl
  unfold State.notify
  rw [State.poisonedWatches_of_quiet h]
  dsimp only [List.foldl_nil]
  rw [map_eq_self fun e he => by rw [State.testGroup_of_quiet h he], hsaved]

end

/-! ### One write of an entry -/

/-- No sector of a core's local memory carries a tag. -/
def State.Untagged (s : State) (core : Nat) : Prop := ∀ k, sget false (s.core core).locPoison k = false

theorem State.Untagged.setLocPoison {s : State} {core : Nat} (h : s.Untagged core) (c k : Nat) : (s.setLocPoison c k false).Untagged core := by
  intro j
  by_cases hc : core = c
  · subst hc
    unfold State.setLocPoison
    rw [State.core_modCore_same]
    by_cases hj : j = k
    · rw [hj, sget_sset_same]
    · exact (sget_sset_other false (s.core core).locPoison k j false hj).trans (h j)
  · unfold State.setLocPoison
    rw [State.core_modCore_other _ _ _ _ hc]
    exact h j

theorem State.Untagged.writeLoc {s : State} {core : Nat} (h : s.Untagged core) (c off : Nat) (bs : List Byte) :
    (s.writeLoc c off bs).Untagged core := by
  intro j
  by_cases hc : core = c
  · subst hc
    unfold State.writeLoc
    rw [State.core_modCore_same]
    exact h j
  · unfold State.writeLoc
    rw [State.core_modCore_other _ _ _ _ hc]
    exact h j

/-- A clean value that no monitor watches: its bytes are stored, and what else of the module a queue is read through stays. -/
theorem State.putLocalAs_of_quiet {s : State} {core off : Nat} {bs : List Byte} (h : s.Quiet (hitsLocal core off bs.length)) :
    let t := s.putLocalAs core [(off, bs, false)]
    t.groups = s.groups ∧ t.saved = s.saved ∧ t.teams = s.teams ∧ (∀ c k, t.locByte c k = (s.writeLoc core off bs).locByte c k) ∧
      (s.Untagged core → t.Untagged core) := by
  have hn : (s.writeLoc core off bs).notifyLocal core off bs.length = s.writeLoc core off bs :=
    State.notify_of_quiet (h.of_same rfl rfl)
  unfold State.putLocalAs
  simp only [List.foldl_cons, List.foldl_nil, Bool.false_eq_true, ↓reduceIte, hn]
  generalize List.filter _ _ = ks
  obtain ⟨hk, hteams, hbytes⟩ := State.setLocPoison_keeps (s.writeLoc core off bs) core false ks
  exact ⟨hk.groups, hk.saved, hteams, hbytes, fun hu =>
    foldl_keeps (fun t : State => t.Untagged core) _ (fun t k ht => ht.setLocPoison core k) ks _ (hu.writeLoc core off bs)⟩

/-- Byte `b` of word `k` in the bytes of words in a row. -/
theorem getElem?_flatMap_leBytes (ws : List Reg) {k b : Nat} (hb : b < 4) :
    (ws.flatMap (fun r => leBytes 4 r.bits.toNat))[4 * k + b]? = ws[k]?.bind (fun r => (leBytes 4 r.bits.toNat)[b]?) := by
  induction ws generalizing k with
  | nil => rfl
  | cons w t ih =>
    have hlen : (leBytes 4 w.bits.toNat).length = 4 := length_leBytes ..
    rw [List.flatMap_cons]
    cases k with
    | zero => rw [List.getElem?_append_left (by omega)]; simp
    | succ k =>
      rw [List.getElem?_append_right (by omega), hlen, show 4 * (k + 1) + b - 4 = 4 * k + b by omega, ih]
      rfl

theorem length_entryBytes (ws : List Reg) : (ws.flatMap (fun r => leBytes 4 r.bits.toNat)).length = 4 * ws.length := by
  rw [List.length_flatMap]
  simp [length_leBytes, Nat.mul_comm]

theorem State.locBytes_eq (s : State) (core off n : Nat) : s.locBytes core off n = (List.range n).map (fun b => s.locByte core (off + b)) := by
  unfold State.locBytes
  rw [map_eq_of_range]
  rfl

/-- The word that stands at its place once the bytes of words in a row are stored. -/
theorem State.locBytes_writeLoc_word (s : State) (core off : Nat) (ws : List Reg) {k : Nat} (hk : k < ws.length) :
    (s.writeLoc core off (ws.flatMap (fun r => leBytes 4 r.bits.toNat))).locBytes core (off + 4 * k) 4 =
      leBytes 4 ws[k].bits.toNat := by
  have hlen : (leBytes 4 ws[k].bits.toNat).length = 4 := length_leBytes ..
  rw [State.locBytes_eq]
  refine List.ext_getElem (by simp [hlen]) fun b hb hb' => ?_
  have hb4 : b < 4 := hlen ▸ hb'
  have hget := getElem?_flatMap_leBytes ws (k := k) hb4
  rw [List.getElem?_eq_getElem hk, Option.bind_some, List.getElem?_eq_getElem hb'] at hget
  obtain ⟨hin, hval⟩ := List.getElem?_eq_some_iff.mp hget
  rw [List.getElem_map, List.getElem_range, Nat.add_assoc, State.locByte_writeLoc_inside _ _ _ _ hin]
  exact hval

/-! ### Places in a ring -/

/-- The places of two entries of a full ring or less do not meet. -/
theorem Chan.place_apart (c : Chan) (base : Nat) {i j : Nat} (hij : i < j) (hj : j < i + 16) :
    c.place base i + 4 * c.words ≤ c.place base j ∨ c.place base j + 4 * c.words ≤ c.place base i := by
  unfold Chan.place
  have step {a b : Nat} (hab : a < b) : 4 * c.words * a + 4 * c.words ≤ 4 * c.words * b := by
    rw [← Nat.mul_succ]
    exact Nat.mul_le_mul_left _ hab
  rcases Nat.lt_or_gt_of_ne (show (c.head + i) % 16 ≠ (c.head + j) % 16 by omega) with h | h
  · have := step h
    omega
  · have := step h
    omega

/-- A queue with one more entry's tags. -/
def Chan.pushed (c : Chan) (ws : List Reg) : Chan := { c with tags := c.tags ++ [ws.map (fun r => r.poison)] }

theorem Chan.count_pushed (c : Chan) (ws : List Reg) : (c.pushed ws).count = c.count + 1 := by simp [Chan.count, Chan.pushed]

theorem Chan.place_drop (c : Chan) (base n i : Nat) : (c.drop n).place base i = c.place base (n + i) := by
  simp only [Chan.place, Chan.drop, Nat.mod_add_mod, Nat.add_assoc]

theorem Chan.count_drop (c : Chan) (n : Nat) : (c.drop n).count = c.count - n := by simp [Chan.count, Chan.drop]

/-! ### One entry -/

/-- The bits of entries. -/
def entryBits (es : List (List Reg)) : List (List Word) := es.map (fun e => e.map (fun w => w.bits))

theorem entryBits_append (es fs : List (List Reg)) : entryBits (es ++ fs) = entryBits es ++ entryBits fs := List.map_append

theorem eq_of_bits_of_poison {l l' : List Reg} (hb : l.map (fun w => w.bits) = l'.map (fun w => w.bits))
    (hp : l.map (fun w => w.poison) = l'.map (fun w => w.poison)) : l = l' := by
  induction l generalizing l' with
  | nil => exact (List.map_eq_nil_iff.mp hb.symm).symm
  | cons w t ih =>
    obtain ⟨w', t', rfl, hw, ht⟩ := List.map_eq_cons_iff.mp hb.symm
    rw [List.map_cons, List.map_cons, List.cons.injEq] at hp
    have hreg : w = w' := by
      cases w
      cases w'
      exact congrArg₂ Reg.mk hw.symm hp.1
    exact congrArg₂ List.cons hreg (ih ht.symm hp.2)

theorem State.bits_entryAt (s : State) (core base : Nat) (c : Chan) (i : Nat) : (s.entryAt core base c i).map (fun w => w.bits) =
    (List.range c.words).map (fun k => BitVec.ofNat 32 (leNat (s.locBytes core (c.place base i + 4 * k) 4))) := by
  simp [State.entryAt, map_eq_of_range, Function.comp_def]

/-- In untagged local memory an entry's tags are those of its queue. -/
theorem State.poison_entryAt {s : State} {core : Nat} (hu : s.Untagged core) (base : Nat) (c : Chan) (i : Nat) :
    (s.entryAt core base c i).map (fun w => w.poison) = (List.range c.words).map (fun k => (c.tags.getD i []).getD k false) := by
  have htag (at_ : Nat) : s.locPoisonIn core at_ 4 = false := by
    unfold State.locPoisonIn
    exact List.any_eq_false.mpr fun k _ => by simp [hu k]
  simp [State.entryAt, map_eq_of_range, Function.comp_def, htag]

/-! ### The entries of a queue after a write behind them -/

section
variable {s a : State} {core base : Nat} {c : Chan} {ws : List Reg} (hlen : ws.length = c.words) (hroom : c.count < 16)
  (ha : ∀ k, a.locByte core k =
    (s.writeLoc core (c.place base c.count) (ws.flatMap (fun r => leBytes 4 r.bits.toNat))).locByte core k)
include hlen ha

/-- The new entry reads as it was written. -/
theorem State.bits_entryAt_new : (a.entryAt core base (c.pushed ws) c.count).map (fun w => w.bits) = ws.map (fun w => w.bits) := by
  rw [State.bits_entryAt]
  refine List.ext_getElem (by simp [hlen, Chan.pushed]) fun k hk hk' => ?_
  have hk'' : k < ws.length := by simpa using hk'
  have hword : a.locBytes core (c.place base c.count + 4 * k) 4 = leBytes 4 ws[k].bits.toNat := by
    rw [← s.locBytes_writeLoc_word core (c.place base c.count) ws hk'', State.locBytes_eq, State.locBytes_eq]
    exact List.map_congr_left fun b _ => ha _
  rw [List.getElem_map, List.getElem_range, List.getElem_map]
  change BitVec.ofNat 32 (leNat (a.locBytes core (c.place base c.count + 4 * k) 4)) = _
  rw [hword, leNat_leBytes (by exact ws[k].bits.isLt), BitVec.ofNat_toNat, BitVec.setWidth_eq]

include hroom

/-- An older entry reads as before. -/
theorem State.bits_entryAt_old {i : Nat} (hi : i < c.count) : (a.entryAt core base (c.pushed ws) i).map (fun w => w.bits) =
    (s.entryAt core base c i).map (fun w => w.bits) := by
  rw [State.bits_entryAt, State.bits_entryAt]
  refine List.map_congr_left fun k hk => congrArg (fun l => BitVec.ofNat 32 (leNat l)) ?_
  have hk' : k < c.words := List.mem_range.mp hk
  change a.locBytes core (c.place base i + 4 * k) 4 = _
  rw [State.locBytes_eq, State.locBytes_eq]
  refine List.map_congr_left fun b hb => (ha _).trans (State.locByte_writeLoc_outside _ _ _ _ ?_)
  have hb4 := List.mem_range.mp hb
  have hapart := c.place_apart base hi (by omega)
  rw [length_entryBytes, hlen]
  omega

/-- In untagged local memory the queue holds the entry behind its older ones. -/
theorem State.entries_pushed (hs : s.Untagged core) (hu : a.Untagged core) :
    (List.range (c.count + 1)).map (a.entryAt core base (c.pushed ws)) = (List.range c.count).map (s.entryAt core base c) ++ [ws] := by
  have hnewtags : (c.pushed ws).tags.getD c.count [] = ws.map (fun r => r.poison) := by simp [Chan.pushed, Chan.count]
  rw [List.range_succ, List.map_append, List.map_singleton]
  refine congrArg₂ (· ++ ·) (List.map_congr_left fun i hi => ?_) (congrArg (fun x => [x]) ?_)
  · have hi' : i < c.count := List.mem_range.mp hi
    have holdtags : (c.pushed ws).tags.getD i [] = c.tags.getD i [] := List.getD_append _ _ _ _ hi'
    refine eq_of_bits_of_poison (State.bits_entryAt_old hlen hroom ha hi') ?_
    rw [State.poison_entryAt hu, State.poison_entryAt hs, holdtags]
    rfl
  · refine eq_of_bits_of_poison (State.bits_entryAt_new hlen ha) ?_
    rw [State.poison_entryAt hu, hnewtags]
    refine List.ext_getElem (by simp [hlen, Chan.pushed]) fun k _ hk => ?_
    have hk' : k < ws.length := by simpa using hk
    simp [hk']

theorem State.entryBits_pushed : entryBits ((List.range (c.count + 1)).map (a.entryAt core base (c.pushed ws))) =
    entryBits ((List.range c.count).map (s.entryAt core base c) ++ [ws]) := by
  rw [List.range_succ, List.map_append, entryBits_append, entryBits_append]
  unfold entryBits
  rw [List.map_map, List.map_map, List.map_map, List.map_singleton, List.map_singleton, Function.comp_apply,
    State.bits_entryAt_new hlen ha]
  exact congrArg (· ++ _) (List.map_congr_left fun i hi => State.bits_entryAt_old hlen hroom ha (List.mem_range.mp hi))

end

/-! ### A push -/

section
variable {s : State} {p : Nat} {c : Chan} (hp : p ≠ 14) (hc : s.chanOf p = some c)
include hc

theorem State.pushEntry_eq (ws : List Reg) : s.pushEntry s.ix.slot p ws =
    (s.putLocalAs (s.ix.slot / 144) [(c.place (s.team s.cur.team).base c.count, ws.flatMap (fun r => leBytes 4 r.bits.toNat), false)]).setPort
      s.ix.slot p (c.pushed ws) := by
  unfold State.chanOf at hc
  unfold State.pushEntry
  dsimp only
  rw [← State.cur_eq, hc]
  rfl

include hp

theorem State.team_resident_of_chanOf : (mget? s.teams s.cur.team).isSome = true := by
  rw [State.chanOf_eq, if_neg hp] at hc
  exact State.resident_of_chan hc

/-- A push gives the port's channel one more entry, whatever monitors make of its write. -/
theorem State.chanOf_pushEntry (ws : List Reg) : (s.pushEntry s.ix.slot p ws).chanOf p = some (c.pushed ws) := by
  rw [State.pushEntry_eq hc]
  obtain ⟨t, ht⟩ : ∃ t, s.putLocalAs (s.ix.slot / 144)
    [(c.place (s.team s.cur.team).base c.count, ws.flatMap (fun r => leBytes 4 r.bits.toNat), false)] = t := ⟨_, rfl⟩
  have ho : SameOutline s t := ht ▸ (SameOutline.refl s).putLocalAs
  have hcur : t.cur.team = s.cur.team := by rw [State.cur_eq, State.cur_eq, ho.ix, ho.team]
  have hres : (mget? t.teams t.cur.team).isSome = true := by
    rw [ho.resident_team, hcur]
    exact State.team_resident_of_chanOf hp hc
  have hset : t.setPort t.ix.slot p (c.pushed ws) = t.modTeam t.cur.team (fun x => { x with chans := mset x.chans p (c.pushed ws) }) :=
    if_neg hp
  rw [ht, ← ho.ix, State.chanOf_eq, if_neg hp, hset]
  change ((t.modTeam t.cur.team _).team t.cur.team).chan? p = _
  rw [t.team_modTeam_same _ _ hres]
  exact mget_mset_same _ _ _

/-- A push that no monitor sees keeps groups, saved teams and where the team's memory begins, and the port has the entry behind the
others: its bits, and with them its tags where no sector of local memory is tagged. -/
theorem State.pushEntry_of_quiet {ws : List Reg} (hlen : ws.length = c.words) (hroom : c.count < 16)
    (hq : s.Quiet (hitsLocal (s.ix.slot / 144) (c.place (s.team s.cur.team).base c.count) (4 * c.words))) :
    let t := s.pushEntry s.ix.slot p ws
    t.groups = s.groups ∧ t.saved = s.saved ∧ (t.team s.cur.team).base = (s.team s.cur.team).base ∧
      entryBits (t.portEntries p) = entryBits (s.portEntries p ++ [ws]) ∧
      (s.Untagged (s.ix.slot / 144) → t.portEntries p = s.portEntries p ++ [ws] ∧ t.Untagged (s.ix.slot / 144)) := by
  have hchan := State.chanOf_pushEntry hp hc ws
  obtain ⟨core, hcore⟩ : ∃ n, s.ix.slot / 144 = n := ⟨_, rfl⟩
  obtain ⟨base, hbase⟩ : ∃ n, (s.team s.cur.team).base = n := ⟨_, rfl⟩
  have hbefore : s.portEntries p = (List.range c.count).map (s.entryAt core base c) := by
    rw [State.portEntries_eq, hc, Option.elim_some, State.chanEntries, hcore, hbase]
  rw [hcore, hbase, ← hlen, ← length_entryBytes] at hq
  obtain ⟨hgroups, hsaved, hteams, hbytes, hclean⟩ := State.putLocalAs_of_quiet hq
  have hix := ((SameOutline.refl s).putLocalAs (core := core)
    (ws := [(c.place base c.count, ws.flatMap (fun r => leBytes 4 r.bits.toNat), false)])).ix
  rw [State.pushEntry_eq hc, hcore, hbase] at hchan ⊢
  generalize s.putLocalAs core [(c.place base c.count, ws.flatMap (fun r => leBytes 4 r.bits.toNat), false)] = a at *
  have hteam (n : Nat) : a.team n = s.team n := by rw [State.team, State.team, hteams]
  have hcur : a.cur = s.cur := by rw [State.cur_eq, State.cur_eq, State.group, State.group, hgroups, hix]
  have hsame : SameSources a (a.setPort s.ix.slot p (c.pushed ws)) := hix ▸ SameSources.setPort a p (c.pushed ws)
  have hset : a.setPort s.ix.slot p (c.pushed ws) =
    a.modTeam (a.group s.ix.slot).team (fun x => { x with chans := mset x.chans p (c.pushed ws) }) := if_neg hp
  have hports : (a.setPort s.ix.slot p (c.pushed ws)).portEntries p =
      (List.range (c.count + 1)).map (a.entryAt core base (c.pushed ws)) := by
    rw [State.portEntries_eq, hchan, Option.elim_some, hsame.chanEntries, State.chanEntries, hix, hcore, hcur, hteam, hbase,
      Chan.count_pushed]
  have hbase' : ((a.setPort s.ix.slot p (c.pushed ws)).team s.cur.team).base = base := by
    have := hsame.base
    rwa [hcur, hteam, hbase] at this
  refine ⟨by rw [hset]; exact hgroups, by rw [hset]; exact hsaved, hbase', ?_, fun hu => ⟨?_, by rw [hset]; exact hclean hu⟩⟩
  · rw [hports, hbefore]
    exact State.entryBits_pushed hlen hroom (hbytes core)
  · rw [hports, hbefore]
    exact State.entries_pushed hlen hroom (hbytes core) hu (hclean hu)

end

end Sys2Proof.Machine

/-! ## Where results go (R41, R81, R90, R91) -/

namespace Sys2Proof.Machine

/-! ### Registers after a write -/

theorem Lane.vget_vput_below (x : Lane) (r n : Nat) (ws : List Reg) (h : n < r) : (x.vput r ws).vget n = x.vget n := by
  induction ws generalizing x r with
  | nil => rfl
  | cons w t ih =>
    rw [Lane.vput, ih _ _ (by omega)]
    exact sget_sset_other _ _ _ _ _ (by omega)

/-- The words written stand one after another; a register past them reads as before. -/
theorem Lane.vget_vput (x : Lane) (r i : Nat) (ws : List Reg) : (x.vput r ws).vget (r + i) = ws.getD i (x.vget (r + i)) := by
  induction ws generalizing x r i with
  | nil => rfl
  | cons w t ih =>
    rw [Lane.vput]
    cases i with
    | zero =>
      rw [Lane.vget_vput_below _ _ _ _ (by omega)]
      exact sget_sset_same ..
    | succ i =>
      have hset : (x.vset r w).vget (r + (i + 1)) = x.vget (r + (i + 1)) := sget_sset_other _ _ _ _ _ (by omega)
      rw [show r + (i + 1) = r + 1 + i by omega] at hset ⊢
      rw [ih, hset, List.getD_cons_succ]

/-- What a change of lanes keeps of every lane. -/
theorem Group.lane_modLanes_keep {α : Type} (π : Lane → α) (g : Group) (ls : List Nat) {f : Nat → Lane → Lane}
    (h : ∀ i x, π (f i x) = π x) (l : Nat) : π ((g.modLanes ls f).lane l) = π (g.lane l) := by
  by_cases hl : l < g.lanes.length
  · rw [Group.lane_modLanes _ _ _ _ hl]
    split
    · exact h ..
    · rfl
  · have hout : (g.modLanes ls f).lane l = g.lane l := by
      unfold Group.lane
      rw [List.getD_eq_default _ _ (by simpa using hl), List.getD_eq_default _ _ (by simpa using hl)]
    rw [hout]

theorem State.cur_modCur {s : State} (h : (mget? s.groups s.ix.slot).isSome = true) (f : Group → Group) : (s.modCur f).cur = f s.cur :=
  s.group_modGroup_same _ f h

theorem mget_mupd_isSome {α : Type} (m : List (Nat × α)) (k k' : Nat) (f : α → α) :
    (mget? (mupd m k f) k').isSome = (mget? m k').isSome := by
  rw [mget_mupd]
  split
  · exact Option.isSome_map
  · rfl

/-! ### Results of lanes -/

theorem find?_map_key {α : Type} (f : Nat → α) (ls : List Nat) (l : Nat) :
    (ls.map (fun l => (l, f l))).find? (fun e => e.1 == l) = if l ∈ ls then some (l, f l) else none := by
  induction ls with
  | nil => rfl
  | cons k t ih =>
    rw [List.map_cons, List.find?_cons]
    by_cases hk : k = l
    · simp [hk]
    · rw [ih, beq_eq_false_iff_ne.mpr hk]
      simp [Ne.symm hk]

theorem resultOf_map (f : Nat → List Reg) (ls : List Nat) (l : Nat) :
    resultOf (ls.map (fun l => (l, f l))) l = if l ∈ ls then f l else [] := by
  unfold resultOf
  rw [find?_map_key]
  split <;> rfl

/-- The entries a push makes of results of lanes. -/
theorem pushEntries_map (vec : Bool) (width words : Nat) (f : Nat → List Reg) {ls : List Nat} (hls : ls ≠ []) :
    pushEntries vec width words (ls.map (fun l => (l, f l))) = (List.range words).map (fun k =>
      if vec then (List.range width).map (fun l => if l ∈ ls then (f l).getD k Reg.zero else Reg.zero)
      else [(f (ls.headD 0)).getD k Reg.zero]) := by
  obtain ⟨a, t, rfl⟩ := List.exists_cons_of_ne_nil hls
  unfold pushEntries
  rw [map_eq_of_range]
  refine List.map_congr_left fun k _ => ?_
  rw [map_eq_of_range, Nat.zero_add]
  split
  · refine List.map_congr_left fun l _ => ?_
    rw [Nat.zero_add, resultOf_map]
    split <;> rfl
  · rfl

theorem or_orAll (f : Flags) (l : List Flags) : f ||| orAll l = l.foldl (fun f g => f ||| g) f := by
  have shift : ∀ (l : List Flags) (a : Flags), f ||| l.foldl (fun f g => f ||| g) a = l.foldl (fun f g => f ||| g) (f ||| a) := by
    intro l
    induction l with
    | nil => exact fun _ => rfl
    | cons x t ih => exact fun a => (ih (a ||| x)).trans (by rw [List.foldl_cons, BitVec.or_assoc])
  exact (shift l 0#5).trans (by rw [BitVec.or_zero])

/-! ### A queue after pops -/

/-- A channel whose oldest `n` entries are gone: where its entries stand, and how many they are. -/
structure Chan.Popped (c d : Chan) (n : Nat) : Prop where
  vector : d.vector = c.vector
  words : d.words = c.words
  count : d.count = c.count - n
  place : ∀ base i, d.place base i = c.place base (n + i)

theorem Chan.Popped.refl (c : Chan) : c.Popped c 0 := ⟨rfl, rfl, rfl, fun _ i => by rw [Nat.zero_add]⟩

theorem Chan.Popped.drop {c d : Chan} {n k : Nat} (h : (c.drop k).Popped d n) : c.Popped d (k + n) :=
  ⟨h.vector, h.words, by rw [h.count, Chan.count_drop, Nat.sub_sub], fun base i => by rw [h.place, Chan.place_drop, Nat.add_assoc]⟩

theorem State.chanOf_popPort {s : State} (hres : (mget? s.groups s.ix.slot).isSome = true) (p n q : Nat) :
    (s.popPort s.ix.slot p n).2.chanOf q = if q = p then (s.chanOf q).map (fun c => c.drop n) else s.chanOf q := by
  rw [State.popPort_eq]
  cases hc : s.chanOf p with
  | none =>
    dsimp only [Option.elim_none]
    split
    next hq => rw [hq, hc]; rfl
    next => rfl
  | some c =>
    dsimp only [Option.elim_some]
    rw [State.chanOf_setPort hc fun _ => hres]
    split
    next hq => rw [hq, hc]; rfl
    next => rfl

/-- Taking the sources pops what they take of a port's channel. -/
theorem State.chanOf_take {s : State} (hres : (mget? s.groups s.ix.slot).isSome = true) (srcs : List (Src × Pos)) {p : Nat} {c : Chan}
    (hc : s.chanOf p = some c) : ∃ d, (s.take s.ix.slot srcs).2.chanOf p = some d ∧ c.Popped d (popCount srcs p) := by
  induction srcs generalizing s c with
  | nil => exact ⟨c, hc, .refl c⟩
  | cons e rest ih =>
    obtain ⟨x, pos⟩ := e
    cases x with
    | q n =>
      obtain ⟨t, ht⟩ : ∃ t, (s.popPort s.ix.slot n.val pos.words).2 = t := ⟨_, rfl⟩
      have hchan := State.chanOf_popPort hres n.val pos.words p
      have ho : SameOutline s t := ht ▸ (SameOutline.refl s).popPort
      rw [State.take_port, ht]
      rw [ht, hc] at hchan
      have hres' : (mget? t.groups t.ix.slot).isSome = true := by rw [ho.ix, ho.resident, hres]
      rw [popCount_cons_port]
      by_cases hn : n.val = p
      · rw [if_pos hn.symm] at hchan
        obtain ⟨d, hd, hpop⟩ := ih hres' hchan
        rw [if_pos hn]
        exact ⟨d, hd, hpop.drop⟩
      · rw [if_neg (Ne.symm hn)] at hchan
        obtain ⟨d, hd, hpop⟩ := ih hres' hchan
        rw [if_neg hn, Nat.zero_add]
        exact ⟨d, hd, hpop⟩
    | v n | s n | lit =>
      rw [popCount_cons_reg (by simp)]
      exact ih hres hc

theorem State.Quiet.setPort {s : State} {hit : Place → Bool} (h : s.Quiet hit) (slot p : Nat) (c : Chan) : (s.setPort slot p c).Quiet hit := by
  unfold State.setPort
  split
  · refine ⟨fun e he => ?_, h.2⟩
    obtain ⟨e', he', rfl⟩ := List.mem_map.mp he
    have hlanes : (if e'.1 = slot then (e'.1, { e'.2 with q14 := c }) else e' : Nat × Group).2.lanes = e'.2.lanes := by split <;> rfl
    rw [hlanes]
    exact h.1 e' he'
  · exact h

/-- What every pop keeps, taking the sources keeps. -/
theorem State.take_keeps (P : State → Prop) (hP : ∀ s slot p c, P s → P (State.setPort s slot p c)) {s : State} (h : P s) (slot : Nat)
    (srcs : List (Src × Pos)) : P (s.take slot srcs).2 := by
  induction srcs generalizing s with
  | nil => exact h
  | cons e rest ih =>
    obtain ⟨x, pos⟩ := e
    cases x with
    | q n =>
      refine ih ?_
      split
      · exact h
      · exact hP _ _ _ _ h
    | v n | s n | lit => exact ih h

theorem State.width_take (s : State) (slot : Nat) (srcs : List (Src × Pos)) (n : Nat) :
    ((s.take slot srcs).2.group n).width = (s.group n).width :=
  State.take_keeps (fun t => (t.group n).width = (s.group n).width) (fun t slot p c h => by
    refine Eq.trans ?_ h
    unfold State.setPort
    split
    · exact t.group_modGroup_keep Group.width _ _ _ fun _ => rfl
    · rfl) rfl slot srcs

/-! ### Pushes, one after another -/

/-- Entries enter a port of a group one after another. -/
def State.pushAll (s : State) (slot p : Nat) (es : List (List Reg)) : State := es.foldl (fun acc ws => acc.pushEntry slot p ws) s

theorem SameOutline.pushAll (s : State) (slot p : Nat) (es : List (List Reg)) : SameOutline s (s.pushAll slot p es) :=
  (SameOutline.refl s).foldl fun _ _ ht => ht.pushEntry

/-- Pushes give the port's channel as many more entries, whatever monitors make of their writes. -/
theorem State.chanOf_pushAll {s : State} {p slot : Nat} {c : Chan} (hslot : s.ix.slot = slot) (hp : p ≠ 14) (hc : s.chanOf p = some c)
    (es : List (List Reg)) : ∃ d, (s.pushAll slot p es).chanOf p = some d ∧ d.words = c.words ∧ d.count = c.count + es.length := by
  induction es generalizing s c with
  | nil => exact ⟨c, hc, rfl, rfl⟩
  | cons ws t ih =>
    have hchan := State.chanOf_pushEntry hp hc ws
    rw [hslot] at hchan
    obtain ⟨d, hd, hw, hn⟩ := ih (((SameOutline.refl s).pushEntry).ix ▸ hslot) hchan
    refine ⟨d, hd, hw, ?_⟩
    rw [hn, Chan.count_pushed, List.length_cons]
    omega

/-- The entries of a channel without words are empty. -/
theorem State.portEntries_of_empty {s : State} {p : Nat} {c : Chan} (hc : s.chanOf p = some c) (hw : c.words = 0) :
    s.portEntries p = List.replicate c.count [] := by
  rw [State.portEntries_eq, hc, Option.elim_some, State.chanEntries]
  have hentry : s.entryAt (s.ix.slot / 144) (s.team s.cur.team).base c = fun _ => [] := by
    funext i
    simp [State.entryAt, map_eq_of_range, hw]
  rw [hentry, List.map_const', List.length_range]

/-- Pushes that no monitor sees put their entries behind the port's others. -/
theorem State.portEntries_pushAll {s : State} {p slot base : Nat} {c : Chan} (hslot : s.ix.slot = slot) (hp : p ≠ 14)
    (hc : s.chanOf p = some c) (hbase : (s.team s.cur.team).base = base) {es : List (List Reg)} (hlen : ∀ ws ∈ es, ws.length = c.words)
    (hroom : c.count + es.length ≤ 16)
    (hq : ∀ j < es.length, s.Quiet (hitsLocal (slot / 144) (c.place base (c.count + j)) (4 * c.words))) :
    entryBits ((s.pushAll slot p es).portEntries p) = entryBits (s.portEntries p ++ es) ∧
      (s.Untagged (slot / 144) → (s.pushAll slot p es).portEntries p = s.portEntries p ++ es) := by
  induction es generalizing s c with
  | nil => exact ⟨by rw [List.append_nil]; rfl, fun _ => by rw [List.append_nil]; rfl⟩
  | cons ws t ih =>
    rw [List.length_cons] at hroom
    have hchan := State.chanOf_pushEntry hp hc ws
    have hfirst : s.Quiet (hitsLocal (s.ix.slot / 144) (c.place (s.team s.cur.team).base c.count) (4 * c.words)) := by
      rw [hslot, hbase]
      exact hq 0 (by simp)
    obtain ⟨hgroups, hsaved, hbase', hbits, hclean⟩ := State.pushEntry_of_quiet hp hc (hlen ws List.mem_cons_self) (by omega) hfirst
    have hix := ((SameOutline.refl s).pushEntry (slot := s.ix.slot) (port := p) (ws := ws)).ix
    change entryBits (((s.pushEntry slot p ws).pushAll slot p t).portEntries p) = _ ∧
      (_ → ((s.pushEntry slot p ws).pushAll slot p t).portEntries p = _)
    rw [hslot] at hchan hgroups hsaved hbase' hbits hclean hix
    generalize s.pushEntry slot p ws = a at *
    have hcur : a.cur = s.cur := by rw [State.cur_eq, State.cur_eq, State.group, State.group, hgroups, hix]
    obtain ⟨hb, hc'⟩ := ih (hix ▸ hslot) hchan (by rw [hcur, hbase', hbase]) (fun ws' h => hlen ws' (List.mem_cons_of_mem _ h))
      (by rw [Chan.count_pushed]; omega) (fun j hj => by
        have := hq (j + 1) (by rw [List.length_cons]; omega)
        rw [show c.count + (j + 1) = (c.pushed ws).count + j by rw [Chan.count_pushed]; omega] at this
        exact this.of_same hgroups hsaved)
    refine ⟨?_, fun hu => ?_⟩
    · rw [hb, entryBits_append, hbits, ← entryBits_append, List.append_assoc]
      rfl
    · obtain ⟨hone, hu'⟩ := hclean hu
      rw [hc' hu', hone, List.append_assoc]
      rfl

/-! ### The obligation -/

section
variable {s : State} {u : Uses} (hr : s.Ready u)
include hr

theorem State.Ready.not_refused : u.refused (s.team s.cur.team) s.cur.nregs = none := by
  cases h : u.refused (s.team s.cur.team) s.cur.nregs with
  | none => rfl
  | some c => exact absurd (hr.2.symm.trans (State.heldBy_of_refused h)) (by simp)

theorem State.Ready.dst_ne : u.dst ≠ .q 14 := fun h =>
  absurd (hr.not_refused.symm.trans (Uses.refused_of_bad (.inl h))) (by simp)

/-- A port that serves the instruction has the entries it pops, and room for those it pushes. -/
theorem State.Ready.room {n : Fin 15} (hd : u.dst = .q n) {c : Chan} (hc : s.chanOf n.val = some c) :
    popCount u.srcs n.val ≤ c.count ∧ c.count - popCount u.srcs n.val + u.words ≤ 16 := by
  have hblocked := Option.map_eq_none_iff.mp ((State.heldBy_of_not_refused hr.not_refused).symm.trans hr.2)
  have hserves := mt (s.blocks_iff u n.val).mpr (not_blocks_of_blockedPort hblocked n.val)
  have hcount : (s.portEntries n.val).length = c.count := by
    rw [State.portEntries_eq, hc, Option.elim_some, State.chanEntries, List.length_map, List.length_range]
  rw [hcount] at hserves
  simp only [n.isLt, hd, Fin.ofNat_eq_cast, Fin.cast_val_eq_self, true_and] at hserves
  omega

end

/-- Before a push into a port, the writes of its entries are ones that no monitor sees. -/
theorem State.Pushable.quiet {s : State} {u : Uses} (h : s.Pushable u) {n : Fin 15} (hd : u.dst = .q n) (hn : n.val ≠ 14) {c : Chan}
    (hc : s.chanOf n.val = some c) (hw : 0 < c.words) {j : Nat} (hj : j < u.words) :
    s.Quiet (hitsLocal (s.ix.slot / 144) (c.place (s.team s.cur.team).base (c.count + j)) (4 * c.words)) := by
  rw [State.chanOf_eq, if_neg hn] at hc
  obtain ⟨-, hwatch, hsaved⟩ := h n hd
  have key {p : Place} (hp : ∀ core off, p = .loc core off → ∀ k < 4, ¬ s.pushes u core (off + k)) :
      hitsLocal (s.ix.slot / 144) (c.place (s.team s.cur.team).base (c.count + j)) (4 * c.words) p = false := by
    cases p with
    | phys q => rfl
    | loc core off =>
      by_contra hhit
      have hhit := Bool.eq_true_of_not_eq_false hhit
      simp only [hitsLocal, overlap, Bool.and_eq_true, beq_iff_eq, decide_eq_true_eq] at hhit
      obtain ⟨rfl, hlo, hhi⟩ := hhit
      have hpush (a : Nat) (h1 : c.place (s.team s.cur.team).base (c.count + j) ≤ a)
          (h2 : a < c.place (s.team s.cur.team).base (c.count + j) + 4 * c.words) : s.pushes u (s.ix.slot / 144) a := by
        refine ⟨n, hd, rfl, c, hc, j, hj, ?_⟩
        rw [Nat.add_assoc c.head]
        exact ⟨h1, h2⟩
      -- The watched word and the entry share the later of their first bytes.
      rcases Nat.le_total off (c.place (s.team s.cur.team).base (c.count + j)) with hle | hle
      · have := hp _ _ rfl (c.place (s.team s.cur.team).base (c.count + j) - off) (by omega)
        rw [Nat.add_sub_cancel' hle] at this
        exact this (hpush _ le_rfl (by omega))
      · exact hp _ _ rfl 0 (by omega) (hpush _ hle (by omega))
  exact ⟨fun e he x hx w hw => (hwatch e he x hx w hw).imp key id, fun k hk g hg w hw => key (hsaved k hk g hg w hw)⟩

/-- A group whose issuing class has moved on, with the flags it has then. -/
def Group.retired (g : Group) (ix : Issue) (f : Flags) : Group :=
  ({ g with fflags := f } : Group).modLanes ix.lanes (fun _ x => { x with pc := nextPc ix.pc, chain := ix.chain, sleep := .awake })

theorem Group.lane_retired {g : Group} {ix : Issue} {l : Nat} (hl : l ∈ ix.lanes) (hlt : l < g.lanes.length) (f : Flags) :
    (g.retired ix f).lane l = { g.lane l with pc := nextPc ix.pc, chain := ix.chain, sleep := .awake } := by
  unfold Group.retired
  rw [Group.lane_modLanes _ _ _ _ (by exact hlt), if_pos (by simpa using hl)]
  rfl

theorem Group.vget_retired (g : Group) (ix : Issue) (f : Flags) (l k : Nat) : ((g.retired ix f).lane l).vget k = (g.lane l).vget k := by
  have := Group.lane_modLanes_keep (fun x => x.vget k) { g with fflags := f } ix.lanes
    (f := fun _ x => { x with pc := nextPc ix.pc, chain := ix.chain, sleep := .awake }) (fun _ _ => rfl) l
  exact this

section
variable {s : State} {u : Uses} {ls : List Nat} {res : Nat → Res} (hi : s.Issues)

theorem State.cur_orFlags_advance {w : State} (h : (mget? w.groups w.ix.slot).isSome = true) (f : Flags) :
    (w.orFlags f).advance.cur = w.cur.retired w.ix (w.cur.fflags ||| f) := by
  have hflags : (w.orFlags f).cur = { w.cur with fflags := w.cur.fflags ||| f } := State.cur_modCur h _
  have hres : (mget? (w.orFlags f).groups (w.orFlags f).ix.slot).isSome = true := by
    unfold State.orFlags State.modCur
    rw [State.modGroup_groups]
    exact (mget_mupd_isSome ..).trans h
  unfold State.advance State.moveTo
  rw [State.cur_modCur hres, hflags]
  rfl

/-- The results as they are written. -/
def resultWords (ls : List Nat) (res : Nat → Res) : List (Nat × List Reg) := ls.map (fun l => (l, (res l).words))

/-- The module once its sources are taken and its result is written. -/
def State.written (s : State) (u : Uses) (ls : List Nat) (res : Nat → Res) : State :=
  (s.take s.ix.slot u.srcs).2.writeDst s.ix.slot u.dst u.words (resultWords ls res)

theorem State.sameOutline_written : SameOutline s (s.written u ls res) := (SameOutline.refl s).take.writeDst

theorem State.retire_take : (s.take s.ix.slot u.srcs).2.retire u (ls.map (fun l => (l, res l))) =
    ((s.written u ls res).orFlags (orAll (ls.map (fun l => (res l).flags)))).advance := by
  unfold State.retire State.written resultWords
  rw [State.take_ix, List.map_map, List.map_map]
  rfl

include hi

theorem State.resident_written : (mget? (s.written u ls res).groups (s.written u ls res).ix.slot).isSome = true := by
  rw [State.sameOutline_written.ix, State.sameOutline_written.resident]
  exact hi.1

/-- The issuing group once the instruction has retired. -/
theorem State.cur_retire_take : ((s.take s.ix.slot u.srcs).2.retire u (ls.map (fun l => (l, res l)))).cur =
    (s.written u ls res).cur.retired s.ix (s.cur.fflags ||| orAll (ls.map (fun l => (res l).flags))) := by
  have ho := State.sameOutline_written (s := s) (u := u) (ls := ls) (res := res)
  have hflags : (s.written u ls res).cur.fflags = s.cur.fflags := by rw [State.cur_eq, State.cur_eq, ho.ix, ho.fflags]
  rw [State.retire_take, State.cur_orFlags_advance (State.resident_written hi), hflags, ho.ix]

theorem State.lane_retire_take (l : Nat) (hl : l ∈ s.ix.lanes) :
    ((s.take s.ix.slot u.srcs).2.retire u (ls.map (fun l => (l, res l)))).cur.lane l =
      { (s.written u ls res).cur.lane l with pc := nextPc s.ix.pc, chain := s.ix.chain, sleep := .awake } := by
  have ho := State.sameOutline_written (s := s) (u := u) (ls := ls) (res := res)
  rw [State.cur_retire_take hi, Group.lane_retired hl]
  rw [State.cur_eq, ho.ix, ho.lanes]
  exact hi.2.2.2 l hl

theorem State.vget_retire_take (l k : Nat) :
    (((s.take s.ix.slot u.srcs).2.retire u (ls.map (fun l => (l, res l)))).cur.lane l).vget k =
      ((s.written u ls res).cur.lane l).vget k := by
  rw [State.cur_retire_take hi, Group.vget_retired]

/-- Moving on and raising flags changes no port. -/
theorem State.portEntries_retire_take (p : Nat) :
    ((s.take s.ix.slot u.srcs).2.retire u (ls.map (fun l => (l, res l)))).portEntries p = (s.written u ls res).portEntries p := by
  have hcur := State.cur_retire_take hi (u := u) (ls := ls) (res := res)
  rw [State.retire_take] at hcur ⊢
  obtain ⟨f, hf⟩ : ∃ f, orAll (ls.map (fun l => (res l).flags)) = f := ⟨_, rfl⟩
  rw [hf] at hcur ⊢
  generalize s.written u ls res = w at *
  have hport : portOf (w.orFlags f).advance.cur ((w.orFlags f).advance.team (w.orFlags f).advance.cur.team) p =
      portOf w.cur (w.team w.cur.team) p := by
    rw [hcur]
    rfl
  have hteam : (w.orFlags f).advance.cur.team = w.cur.team := by
    rw [hcur]
    rfl
  unfold State.portEntries
  rw [hport, hteam]
  rfl

omit hi

theorem State.ne_nil_of_results (hi : s.Issues) (hls : ls = s.ix.lanes ∨ (dstIsVec (s.team s.cur.team) u.dst = false ∧ ls = [s.lowest])) :
    ls ≠ [] := by
  rcases hls with rfl | ⟨-, rfl⟩
  · exact hi.2.2.1
  · exact List.cons_ne_nil _ _

end

/-! ### Each destination -/

theorem getD_of_lt {α : Type} (l : List α) (d d' : α) {i : Nat} (h : i < l.length) : l.getD i d = l.getD i d' := by
  rw [List.getD_eq_getElem _ _ h, List.getD_eq_getElem _ _ h]

section
variable {s : State} {u : Uses} {ls : List Nat} {res : Nat → Res} (hi : s.Issues)
  (hls : ls = s.ix.lanes ∨ (dstIsVec (s.team s.cur.team) u.dst = false ∧ ls = [s.lowest]))

theorem State.written_nul (hd : u.dst = .nul) :
    (s.written u ls res).cur.lanes = s.cur.lanes ∧ (s.written u ls res).cur.s = s.cur.s := by
  have hsame := s.sameSources_take u.srcs
  unfold State.written
  rw [hd]
  exact ⟨hsame.lanes, hsame.uniforms⟩

include hls in
theorem State.headD_results : ls.headD 0 = s.lowest := by
  rcases hls with rfl | ⟨-, rfl⟩ <;> rfl

include hi

/-- The group after a write of a register. -/
theorem State.written_modGroup {f : Group → Group} (h : s.written u ls res = (s.take s.ix.slot u.srcs).2.modGroup s.ix.slot f) :
    (s.written u ls res).cur = f (s.take s.ix.slot u.srcs).2.cur := by
  have ho := (SameOutline.refl s).take (slot := s.ix.slot) (srcs := u.srcs)
  have hres : (mget? (s.take s.ix.slot u.srcs).2.groups (s.take s.ix.slot u.srcs).2.ix.slot).isSome = true := by
    rw [ho.ix, ho.resident, hi.1]
  have hcur := State.cur_modCur hres f
  rw [State.modCur, ho.ix] at hcur
  rw [h, hcur]

include hls

theorem State.written_v (hlen : ∀ l, (res l).words.length = u.words) {n : Fin 112} (hd : u.dst = .v n) {l k : Nat} (hl : l ∈ s.ix.lanes) (hk : k < u.words) :
    ((s.written u ls res).cur.lane l).vget (n.val + k) = (res l).words.getD k Reg.zero := by
  obtain rfl : ls = s.ix.lanes := hls.resolve_right fun h => by simp [hd, dstIsVec] at h
  have hlt : l < (s.take s.ix.slot u.srcs).2.cur.lanes.length := (s.sameSources_take u.srcs).lanes ▸ hi.2.2.2 l hl
  have hcur := State.written_modGroup hi (u := u) (ls := s.ix.lanes) (res := res)
    (f := fun g => g.modLanes ((resultWords s.ix.lanes res).map (fun e => e.1)) (fun i x => x.vput n.val (resultOf (resultWords s.ix.lanes res) i)))
    (by unfold State.written; rw [hd]; rfl)
  have hmem : ((resultWords s.ix.lanes res).map (fun e => e.1)).contains l = true := by
    simpa [resultWords, Function.comp_def] using hl
  have hword : resultOf (resultWords s.ix.lanes res) l = (res l).words :=
    (resultOf_map (fun l => (res l).words) s.ix.lanes l).trans (if_pos hl)
  rw [hcur, Group.lane_modLanes _ _ _ _ hlt, if_pos hmem, hword, Lane.vget_vput]
  exact getD_of_lt _ _ _ (by rw [hlen]; exact hk)

theorem State.written_s (hlen : ∀ l, (res l).words.length = u.words) {n : Fin 128} (hd : u.dst = .s n) {k : Nat} (hk : k < u.words) :
    (s.written u ls res).cur.sget (n.val + k) = (res s.lowest).words.getD k Reg.zero := by
  have hhead : (((resultWords ls res).head?.map (fun e => e.2)).getD []) = (res s.lowest).words := by
    rw [← State.headD_results hls]
    obtain ⟨a, t, rfl⟩ := List.exists_cons_of_ne_nil (State.ne_nil_of_results hi hls)
    rfl
  have hcur := State.written_modGroup hi (u := u) (ls := ls) (res := res)
    (f := fun g => g.sput n.val (((resultWords ls res).head?.map (fun e => e.2)).getD [])) (by unfold State.written; rw [hd]; rfl)
  rw [hcur, hhead, Group.sget_sput]
  exact getD_of_lt _ _ _ (by rw [hlen]; exact hk)

/-- The entries the results make. -/
def State.resultEntries (s : State) (u : Uses) (res : Nat → Res) (vector : Bool) : List (List Reg) :=
  (List.range u.words).map (fun k =>
    if vector then (List.range s.cur.width).map (fun l => if l ∈ s.ix.lanes then (res l).words.getD k Reg.zero else Reg.zero)
    else [(res s.lowest).words.getD k Reg.zero])

/-- A result for a port is pushed as its entries. -/
theorem State.written_q {n : Fin 15} (hd : u.dst = .q n) (hn : n.val ≠ 14) {c d : Chan} (hc : s.chanOf n.val = some c)
    (hchan : (s.take s.ix.slot u.srcs).2.chanOf n.val = some d) (hvec : d.vector = c.vector) :
    s.written u ls res = (s.take s.ix.slot u.srcs).2.pushAll s.ix.slot n.val (s.resultEntries u res c.vector) := by
  have hix : (s.take s.ix.slot u.srcs).2.ix = s.ix := s.take_ix ..
  have hentries : pushEntries c.vector s.cur.width u.words (resultWords ls res) = s.resultEntries u res c.vector := by
    unfold resultWords State.resultEntries
    rw [pushEntries_map _ _ _ (fun l => (res l).words) (State.ne_nil_of_results hi hls), State.headD_results hls]
    cases hcv : c.vector with
    | false => rfl
    | true =>
      have hdv : dstIsVec (s.team s.cur.team) (.q n) = true := by
        rw [State.chanOf_eq, if_neg hn] at hc
        simp [dstIsVec, hc, hcv, hn]
      obtain rfl : ls = s.ix.lanes := hls.resolve_right fun h => by simp [hd, hdv] at h
      rfl
  rw [State.chanOf_eq, if_neg hn, State.cur_eq, hix] at hchan
  unfold State.written State.writeDst
  rw [hd]
  dsimp only
  rw [hchan]
  dsimp only
  rw [State.width_take, ← State.cur_eq, hvec, hentries]
  rfl

theorem State.portEntries_written (hr : s.Ready u) (hpush : s.Pushable u) {n : Fin 15} (hd : u.dst = .q n) {c : Chan}
    (hc : (s.team s.cur.team).chan? n.val = some c) :
    entryBits ((s.written u ls res).portEntries n.val) =
      entryBits ((s.take s.ix.slot u.srcs).2.portEntries n.val ++ s.resultEntries u res c.vector) ∧
    (s.Untagged (s.ix.slot / 144) → (s.written u ls res).portEntries n.val =
      (s.take s.ix.slot u.srcs).2.portEntries n.val ++ s.resultEntries u res c.vector) := by
  have hn : n.val ≠ 14 := fun h => hr.dst_ne (hd.trans (congrArg Dst.q (Fin.ext h)))
  have hwords := (hpush n hd).1 c hc
  have hchan : s.chanOf n.val = some c := by rwa [State.chanOf_eq, if_neg hn]
  obtain ⟨hpops, hroom⟩ := hr.room hd hchan
  obtain ⟨d, hd', hpop⟩ := State.chanOf_take hi.1 u.srcs hchan
  have hentries : ∀ ws ∈ s.resultEntries u res c.vector, ws.length = c.words := by
    intro ws hws
    obtain ⟨k, -, rfl⟩ := List.mem_map.mp hws
    rw [hwords]
    split <;> simp
  have hcount : (s.resultEntries u res c.vector).length = u.words := by simp [State.resultEntries]
  have hsame := s.sameSources_take u.srcs
  rw [State.written_q hi hls hd hn hchan hd' hpop.vector]
  generalize s.resultEntries u res c.vector = es at *
  rcases Nat.eq_zero_or_pos c.words with hzero | hpos
  · obtain ⟨e, he, hew, hec⟩ := State.chanOf_pushAll (by rw [hsame.ix]) hn hd' es
    have hes : es = List.replicate es.length [] :=
      List.eq_replicate_of_mem fun ws hws => List.length_eq_zero_iff.mp ((hentries ws hws).trans hzero)
    have hall : ((s.take s.ix.slot u.srcs).2.pushAll s.ix.slot n.val es).portEntries n.val =
        (s.take s.ix.slot u.srcs).2.portEntries n.val ++ es := by
      rw [State.portEntries_of_empty he (hew.trans (hpop.words.trans hzero)), State.portEntries_of_empty hd' (hpop.words.trans hzero),
        hec, ← List.replicate_append_replicate, ← hes]
    exact ⟨congrArg entryBits hall, fun _ => hall⟩
  · obtain ⟨hbits, hclean⟩ := State.portEntries_pushAll (s := (s.take s.ix.slot u.srcs).2) (by rw [hsame.ix]) hn hd'
      (by rw [hsame.team, hsame.base]) (fun ws hws => (hentries ws hws).trans hpop.words.symm) (by rw [hpop.count, hcount]; exact hroom)
      (fun j hj => by
        rw [hpop.place, hpop.count, hpop.words, ← Nat.add_assoc, Nat.add_sub_cancel' hpops]
        exact State.take_keeps (fun t => t.Quiet _) (fun t slot p c h => h.setPort slot p c)
          (hpush.quiet hd hn hchan hpos (hcount ▸ hj)) s.ix.slot u.srcs)
    refine ⟨hbits, fun hu => hclean fun k => ?_⟩
    rw [State.core, hsame.cores]
    exact hu k

end

/-- Settles O12: every result ends in its registers or behind the entries of its port, however the monitors take a push of no bytes. -/
theorem resultWrites : Obligations.ResultWrites := by
  unfold Obligations.ResultWrites
  intro s u ls res hi hr hpush hls hlen r t word
  refine ⟨fun n hd l hl k hk => ?_, fun n hd k hk => ?_, fun n c hd hc => ?_, fun hd => ⟨fun l k => ?_, fun k => ?_⟩, fun l hl => ?_, ?_⟩
  · exact (State.vget_retire_take hi l _).trans (State.written_v hi hls hlen hd hl hk)
  · refine Eq.trans ?_ (State.written_s hi hls hlen hd hk)
    exact congrArg (fun g => g.sget (n.val + k)) (State.cur_retire_take hi)
  · rw [State.portEntries_retire_take hi]
    exact State.portEntries_written hi hls hr hpush hd hc
  · refine (State.vget_retire_take hi l k).trans ?_
    rw [Group.lane, Group.lane, (State.written_nul hd).1]
  · refine Eq.trans (congrArg (fun g => g.sget k) (State.cur_retire_take hi)) ?_
    exact congrArg (fun m => sget Reg.zero m k) (State.written_nul hd).2
  · have hlane := State.lane_retire_take hi l hl (u := u) (ls := ls) (res := res)
    exact ⟨congrArg Lane.pc hlane, congrArg Lane.sleep hlane, congrArg Lane.chain hlane⟩
  · refine (congrArg Group.fflags (State.cur_retire_take hi)).trans ?_
    exact or_orAll ..

end Sys2Proof.Machine

/-! ## Square root, reciprocal and reciprocal square root (R107, R108) -/

namespace Sys2Proof.Machine

/-! ### The integer square root -/

theorem isqrtUp_between {k n r : Nat} (hlo : r * r ≤ n) (hhi : n < (r + 2 ^ k) * (r + 2 ^ k)) :
    isqrtUp k n r * isqrtUp k n r ≤ n ∧ n < (isqrtUp k n r + 1) * (isqrtUp k n r + 1) := by
  induction k generalizing r with
  | zero => exact ⟨hlo, hhi⟩
  | succ k ih =>
    rw [isqrtUp]
    split
    next h => exact ih h (by rwa [Nat.add_assoc, ← Nat.two_mul, ← Nat.pow_succ'])
    next h => exact ih hlo (not_le.mp h)

theorem isqrt_eq (n : Nat) : isqrt n = Nat.sqrt n := by
  have hhi : n < (0 + 2 ^ (Nat.log2 n / 2 + 1)) * (0 + 2 ^ (Nat.log2 n / 2 + 1)) := by
    rw [Nat.zero_add, ← pow_add]
    exact Nat.lt_log2_self.trans_le (Nat.pow_le_pow_right two_pos (by omega))
  obtain ⟨hle, hlt⟩ := isqrtUp_between (Nat.zero_le n) hhi
  exact (Nat.eq_sqrt.mpr ⟨hle, hlt⟩)

/-- The root of a real between a natural number and the next: the integer root is its integer part. -/
theorem sqrt_between {n : Nat} {y : ℝ} (hlo : (n : ℝ) ≤ y) (hhi : y < n + 1) :
    ((Nat.sqrt n : Nat) : ℝ) ≤ √y ∧ √y < (Nat.sqrt n : Nat) + 1 := by
  have hy : 0 ≤ y := (Nat.cast_nonneg n).trans hlo
  refine ⟨Real.le_sqrt_of_sq_le (le_trans ?_ hlo), (Real.sqrt_lt' (by positivity)).mpr (hhi.trans_le ?_)⟩
  · exact_mod_cast Nat.sqrt_le' n
  · exact_mod_cast Nat.succ_le_succ_sqrt' n

/-! ### Roots are rounded once -/

section
variable {f : Fmt} (hf : f.Rounds) {m : Nat} (hm : 0 < m) (e : Int)
include hf hm

theorem rcpMag_roundedNE (neg : Bool) :
    f.roundedNE neg (1 / ((m : ℝ) * 2 ^ e)) (roundFin f .ne neg (rcpMag (f.mb + 4) m e).1 (rcpMag (f.mb + 4) m e).2) := by
  obtain ⟨k, hk⟩ : ∃ k, f.mb + 4 + Nat.log2 m + 1 = k := ⟨_, rfl⟩
  have hlow : 2 ^ (f.mb + 1) * m ≤ 2 ^ k := by
    calc 2 ^ (f.mb + 1) * m ≤ 2 ^ (f.mb + 1) * 2 ^ (Nat.log2 m + 1) := Nat.mul_le_mul_left _ Nat.lt_log2_self.le
      _ ≤ 2 ^ k := by
        rw [← pow_add]
        exact Nat.pow_le_pow_right two_pos (by omega)
  have h := roundedNE_div hf neg hm hlow (-e - k)
  have hx : ((2 ^ k : Nat) : ℝ) / m * 2 ^ (-e - (k : Int)) = 1 / ((m : ℝ) * 2 ^ e) := by
    rw [zpow_sub₀ two_ne_zero, zpow_neg, zpow_natCast, Nat.cast_pow, Nat.cast_two]
    field_simp
  rw [hx] at h
  unfold rcpMag
  dsimp only
  rw [hk]
  exact h

omit hm in
/-- A root of which the integer part is known, and whether it is all. -/
theorem roundedNE_sqrt {n : Nat} {y : ℝ} (hlo : (n : ℝ) ≤ y) (hhi : y < n + 1) (hn : 2 ^ (2 * (f.mb + 4)) ≤ n) {inexact : Bool}
    (hb : inexact = true ↔ (y : ℝ) ≠ (Nat.sqrt n * Nat.sqrt n : Nat)) (q : Int) :
    f.roundedNE false (√y * 2 ^ q) (roundFin f .ne false (sticky (Nat.sqrt n) inexact) (q - 1)) := by
  obtain ⟨hle, hlt⟩ := sqrt_between hlo hhi
  have hq : (0 : ℝ) < 2 ^ q := by positivity
  have hy : 0 ≤ y := (Nat.cast_nonneg n).trans hlo
  have hlow : 2 ^ (f.mb + 1) ≤ Nat.sqrt n := by
    rw [Nat.le_sqrt', ← pow_mul]
    exact (Nat.pow_le_pow_right two_pos (by omega)).trans hn
  refine roundedNE_sticky hf false hlow (mul_le_mul_of_nonneg_right hle hq.le) (mul_lt_mul_of_pos_right hlt hq)
    (hb.trans (not_congr ?_))
  rw [mul_left_inj' hq.ne', Real.sqrt_eq_iff_mul_self_eq hy (Nat.cast_nonneg _), Nat.cast_mul]

theorem sqrtMag_roundedNE :
    f.roundedNE false √((m : ℝ) * 2 ^ e) (roundFin f .ne false (sqrtMag (f.mb + 4) m e).1 (sqrtMag (f.mb + 4) m e).2) := by
  obtain ⟨k, hk⟩ : ∃ k, 2 * (f.mb + 4) + Nat.log2 m % 2 = k := ⟨_, rfl⟩
  obtain ⟨odd, hodd⟩ : ∃ odd, b2n ((e - (k : Int)) % 2 != 0) = odd := ⟨_, rfl⟩
  obtain ⟨q, hq⟩ : ∃ q, e - (k : Int) - (odd : Int) = 2 * q := by
    refine ⟨(e - k) / 2, ?_⟩
    rcases Int.emod_two_eq_zero_or_one (e - k) with h | h <;> simp [h, b2n] at hodd <;> omega
  obtain ⟨n, hn⟩ : ∃ n, m * 2 ^ (k + odd) = n := ⟨_, rfl⟩
  have hlow : 2 ^ (2 * (f.mb + 4)) ≤ n := by
    rw [← hn]
    exact (Nat.pow_le_pow_right two_pos (by omega)).trans (Nat.le_mul_of_pos_left _ hm)
  have h := roundedNE_sqrt hf (le_refl (n : ℝ)) (lt_add_one _) hlow (inexact := Nat.sqrt n * Nat.sqrt n != n)
    (by rw [bne_iff_ne, ne_eq, ne_eq, not_iff_not, Nat.cast_inj]; exact eq_comm) q
  have hx : √(n : ℝ) * 2 ^ q = √((m : ℝ) * 2 ^ e) := by
    have hpow : (2 : ℝ) ^ q = √((2 : ℝ) ^ (2 * q)) := by
      rw [two_mul, zpow_add₀ two_ne_zero, Real.sqrt_mul_self (by positivity)]
    rw [hpow, ← Real.sqrt_mul (Nat.cast_nonneg n), ← hn, ← hq]
    congr 1
    rw [Nat.cast_mul, Nat.cast_pow, Nat.cast_two, mul_assoc, ← zpow_natCast, ← zpow_add₀ two_ne_zero]
    congr 2
    push_cast
    ring
  rw [hx] at h
  unfold sqrtMag
  dsimp only
  rw [hk, hodd, hn, hq, isqrt_eq, Int.mul_ediv_cancel_left _ two_ne_zero]
  exact h

theorem rsqrtMag_roundedNE :
    f.roundedNE false (1 / √((m : ℝ) * 2 ^ e)) (roundFin f .ne false (rsqrtMag (f.mb + 4) m e).1 (rsqrtMag (f.mb + 4) m e).2) := by
  obtain ⟨odd, hodd⟩ : ∃ odd, b2n (e % 2 != 0) = odd := ⟨_, rfl⟩
  obtain ⟨q, hq⟩ : ∃ q, e - (odd : Int) = 2 * q := by
    refine ⟨e / 2, ?_⟩
    rcases Int.emod_two_eq_zero_or_one e with h | h <;> simp [h, b2n] at hodd <;> omega
  obtain ⟨d, hd⟩ : ∃ d, m * 2 ^ odd = d := ⟨_, rfl⟩
  have hd0 : 0 < d := hd ▸ Nat.mul_pos hm (Nat.two_pow_pos _)
  obtain ⟨k, hk⟩ : ∃ k, f.mb + 4 + Nat.log2 d + 1 = k := ⟨_, rfl⟩
  obtain ⟨n, hn⟩ : ∃ n, 2 ^ (2 * k) / d = n := ⟨_, rfl⟩
  have hlow : 2 ^ (2 * (f.mb + 4)) ≤ n := by
    rw [← hn, Nat.le_div_iff_mul_le hd0]
    calc 2 ^ (2 * (f.mb + 4)) * d ≤ 2 ^ (2 * (f.mb + 4)) * 2 ^ (Nat.log2 d + 1) := Nat.mul_le_mul_left _ Nat.lt_log2_self.le
      _ ≤ 2 ^ (2 * k) := by
        rw [← pow_add]
        exact Nat.pow_le_pow_right two_pos (by omega)
  obtain ⟨hlo, hhi, -⟩ := div_between (2 ^ (2 * k)) hd0
  rw [hn] at hlo hhi
  have hdr : (d : ℝ) ≠ 0 := by exact_mod_cast hd0.ne'
  have h := roundedNE_sqrt hf hlo hhi hlow (inexact := Nat.sqrt n * Nat.sqrt n * d != 2 ^ (2 * k)) (by
    rw [bne_iff_ne, ne_eq, ne_eq, not_iff_not, div_eq_iff hdr]
    constructor
    · exact fun h => by exact_mod_cast h.symm
    · exact fun h => by exact_mod_cast h.symm) (-q - k)
  have hx : √(((2 ^ (2 * k) : Nat) : ℝ) / d) * 2 ^ (-q - (k : Int)) = 1 / √((m : ℝ) * 2 ^ e) := by
    have hme : (m : ℝ) * 2 ^ e = d * (2 ^ q * 2 ^ q) := by
      rw [← hd, Nat.cast_mul, Nat.cast_pow, Nat.cast_two, mul_assoc, ← zpow_natCast, ← zpow_add₀ two_ne_zero, ← zpow_add₀ two_ne_zero]
      congr 2
      omega
    have hpow : ((2 ^ (2 * k) : Nat) : ℝ) = 2 ^ k * 2 ^ k := by
      push_cast
      ring
    rw [hme, hpow, Real.sqrt_div (by positivity), Real.sqrt_mul_self (by positivity), Real.sqrt_mul (Nat.cast_nonneg d),
      Real.sqrt_mul_self (by positivity), zpow_sub₀ two_ne_zero, zpow_neg, zpow_natCast]
    have hs : √(d : ℝ) ≠ 0 := (Real.sqrt_pos.mpr (by exact_mod_cast hd0)).ne'
    field_simp
  rw [hx] at h
  unfold rsqrtMag
  dsimp only
  rw [hodd, hd, hq, hk, hn, isqrt_eq, Int.mul_ediv_cancel_left _ two_ne_zero, Nat.mul_div_cancel_left _ two_pos]
  exact h

end

/-! ### The operands -/

section
variable {f : Fmt} {a : Nat}

theorem roots_nan (h : (f.decode a).isNan = true) : fpSqrt f a = (f.nan, nvIf (f.decode a).isSnan) ∧
    fpRcp f a = (f.nan, nvIf (f.decode a).isSnan) ∧ fpRsqrt f a = (f.nan, nvIf (f.decode a).isSnan) := by
  have hd := FVal.eq_nan h
  unfold fpSqrt fpRcp fpRsqrt
  rw [hd]
  exact ⟨rfl, rfl, rfl⟩

theorem roots_inf (h : (f.decode a).isInf = true) : fpRcp f a = (f.signed (f.decode a).neg? 0, 0#5) ∧
    ((f.decode a).neg? = false → fpSqrt f a = (f.infCode, 0#5) ∧ fpRsqrt f a = (0, 0#5)) ∧
    ((f.decode a).neg? = true → fpSqrt f a = (f.nan, Flags.nv) ∧ fpRsqrt f a = (f.nan, Flags.nv)) := by
  unfold fpSqrt fpRcp fpRsqrt
  cases hd : f.decode a with
  | nan sg | fin neg m e =>
    rw [hd] at h
    cases h
  | inf neg => cases neg <;> simp [FVal.neg?]

theorem roots_zero (h : (f.decode a).isZero = true) : fpSqrt f a = (a, 0#5) ∧
    fpRcp f a = (f.signed (f.decode a).neg? f.infCode, Flags.dz) ∧ fpRsqrt f a = (f.signed (f.decode a).neg? f.infCode, Flags.dz) := by
  unfold fpSqrt fpRcp fpRsqrt
  cases hd : f.decode a with
  | nan sg | inf neg =>
    rw [hd] at h
    cases h
  | fin neg m e =>
    rw [hd] at h
    obtain rfl : m = 0 := by simpa [FVal.isZero] using h
    exact ⟨rfl, rfl, rfl⟩

theorem rat_fin_false (m : Nat) (e : Int) : (((FVal.fin false m e).rat : ℚ) : ℝ) = (m : ℝ) * 2 ^ e := by
  simp [FVal.rat]

theorem rat_fin_true (m : Nat) (e : Int) : (((FVal.fin true m e).rat : ℚ) : ℝ) = -((m : ℝ) * 2 ^ e) := by
  simp [FVal.rat]

/-- A nonzero finite value is a significand with a power of two and a sign. -/
theorem FVal.exists_of_pos {v : FVal} (h : v.isFin = true) (hpos : 0 < ((v.rat : ℚ) : ℝ)) :
    ∃ m e, v = .fin false m e ∧ 0 < m ∧ ((v.rat : ℚ) : ℝ) = (m : ℝ) * 2 ^ e := by
  obtain ⟨neg, m, e, rfl⟩ := FVal.exists_of_isFin h
  have hmag : 0 ≤ (m : ℝ) * 2 ^ e := by positivity
  cases neg with
  | false =>
    rw [rat_fin_false] at hpos
    exact ⟨m, e, rfl, Nat.pos_of_ne_zero fun h => by simp [h] at hpos, rat_fin_false m e⟩
  | true =>
    rw [rat_fin_true] at hpos
    linarith

theorem FVal.exists_of_neg {v : FVal} (h : v.isFin = true) (hneg : ((v.rat : ℚ) : ℝ) < 0) :
    ∃ m e, v = .fin true m e ∧ 0 < m ∧ -((v.rat : ℚ) : ℝ) = (m : ℝ) * 2 ^ e := by
  obtain ⟨neg, m, e, rfl⟩ := FVal.exists_of_isFin h
  have hmag : 0 ≤ (m : ℝ) * 2 ^ e := by positivity
  cases neg with
  | false =>
    rw [rat_fin_false] at hneg
    linarith
  | true =>
    rw [rat_fin_true] at hneg
    exact ⟨m, e, rfl, Nat.pos_of_ne_zero fun h => by simp [h] at hneg, by rw [rat_fin_true, neg_neg]⟩

theorem roots_pos (hf : f.Rounds) (h : (f.decode a).isFin = true) (hpos : 0 < (((f.decode a).rat : ℚ) : ℝ)) :
    f.roundedNE false √(((f.decode a).rat : ℚ) : ℝ) (fpSqrt f a) ∧ f.roundedNE false (1 / (((f.decode a).rat : ℚ) : ℝ)) (fpRcp f a) ∧
    f.roundedNE false (1 / √(((f.decode a).rat : ℚ) : ℝ)) (fpRsqrt f a) := by
  obtain ⟨m, e, hd, hm, hx⟩ := FVal.exists_of_pos h hpos
  rw [hx]
  unfold fpSqrt fpRcp fpRsqrt
  rw [hd]
  dsimp only
  rw [if_neg hm.ne', if_neg Bool.false_ne_true, if_neg hm.ne', if_neg hm.ne', if_neg Bool.false_ne_true]
  exact ⟨sqrtMag_roundedNE hf hm e, rcpMag_roundedNE hf hm e false, rsqrtMag_roundedNE hf hm e⟩

theorem roots_neg (hf : f.Rounds) (h : (f.decode a).isFin = true) (hneg : (((f.decode a).rat : ℚ) : ℝ) < 0) :
    fpSqrt f a = (f.nan, Flags.nv) ∧ f.roundedNE true (1 / -(((f.decode a).rat : ℚ) : ℝ)) (fpRcp f a) ∧
    fpRsqrt f a = (f.nan, Flags.nv) := by
  obtain ⟨m, e, hd, hm, hx⟩ := FVal.exists_of_neg h hneg
  rw [hx]
  unfold fpSqrt fpRcp fpRsqrt
  rw [hd]
  dsimp only
  rw [if_neg hm.ne', if_pos rfl, if_neg hm.ne', if_neg hm.ne', if_pos rfl]
  exact ⟨rfl, rcpMag_roundedNE hf hm e true, rfl⟩

end

end Sys2Proof.Machine

/-! ## Fixed-point series (R108, log 15)

The work behind FEXP2, FLOG2, FSIN and FCOS: each of its series is summed by terms that are each one rounding down away from
the exact next one, so that its error in units of the last place grows with the number of terms only. -/

namespace Sys2Proof.Machine

/-! ### Fixed-point numbers -/

/-- The last place of a fixed-point number. -/
noncomputable def fxUlp : ℝ := (2 ^ fxBits)⁻¹

/-- The value of a fixed-point number. -/
noncomputable def fxVal (x : ℤ) : ℝ := x * fxUlp

theorem fxUlp_pos : 0 < fxUlp := by
  unfold fxUlp
  positivity

theorem fxUlp_eq : fxUlp = 2 ^ (-(fxBits : ℤ)) := by rw [fxUlp, zpow_neg, zpow_natCast]

/-- The slack between a last place and the tolerance of R108. -/
theorem fxUlp_mul : 2 ^ 240 * fxUlp = 2 ^ (-400 : ℤ) := by
  rw [fxUlp_eq, ← zpow_natCast, ← zpow_add₀ two_ne_zero]
  rfl

theorem fxVal_add (x y : ℤ) : fxVal (x + y) = fxVal x + fxVal y := by
  simp only [fxVal, Int.cast_add, add_mul]

theorem fxVal_mul (x y : ℤ) : fxVal (x * y) = x * fxVal y := by
  simp only [fxVal, Int.cast_mul, mul_assoc]

theorem fxVal_nat (x : ℕ) : fxVal x = x / 2 ^ fxBits := by
  rw [fxVal, fxUlp, Int.cast_natCast, div_eq_mul_inv]

theorem fxVal_nonneg (x : ℕ) : 0 ≤ fxVal x := by
  rw [fxVal_nat]
  positivity

theorem fxVal_le {x y : ℕ} (h : x ≤ y) : fxVal x ≤ fxVal y :=
  mul_le_mul_of_nonneg_right (by exact_mod_cast h) fxUlp_pos.le

theorem fxVal_one : fxVal ((2 ^ fxBits : ℕ) : ℤ) = 1 := by
  rw [fxVal_nat, Nat.cast_pow, Nat.cast_two, div_self (by positivity)]

/-- A quotient rounded down is less than a last place below the exact one. -/
theorem fxVal_ediv (x : ℕ) {k : ℕ} (hk : 0 < k) : |fxVal ((x / k : ℕ) : ℤ) - fxVal x / k| ≤ fxUlp := by
  obtain ⟨hlo, hhi, -⟩ := div_between x hk
  have hu := fxUlp_pos
  have hx : fxVal x / k = x / k * fxUlp := by rw [fxVal, Int.cast_natCast, mul_div_right_comm]
  rw [hx, fxVal, Int.cast_natCast, ← sub_mul, abs_mul, abs_of_pos hu]
  refine mul_le_of_le_one_left hu.le (abs_le.mpr ⟨?_, ?_⟩) <;> linarith

theorem fxVal_fxMul (x y : ℕ) : |fxVal (fxMul x y : ℕ) - fxVal x * fxVal y| ≤ fxUlp := by
  have h := fxVal_ediv (x * y) (Nat.two_pow_pos fxBits)
  have hxy : fxVal ((x * y : ℕ) : ℤ) / ((2 ^ fxBits : ℕ) : ℝ) = fxVal x * fxVal y := by
    rw [fxVal_nat, fxVal_nat, fxVal_nat, Nat.cast_mul, Nat.cast_pow, Nat.cast_two, div_mul_div_comm, div_div]
  rw [hxy] at h
  exact h

/-- A product of fixed-point numbers that stand for others. -/
theorem fxMul_near {x y : ℕ} {X Y δ ε B M : ℝ} (hx : |fxVal x - X| ≤ δ) (hy : |fxVal y - Y| ≤ ε) (hB : fxVal y ≤ B) (hX : |X| ≤ M) :
    |fxVal (fxMul x y : ℕ) - X * Y| ≤ B * δ + M * ε + fxUlp := by
  have hsplit : fxVal (fxMul x y : ℕ) - X * Y =
      (fxVal (fxMul x y : ℕ) - fxVal x * fxVal y) + (fxVal x - X) * fxVal y + X * (fxVal y - Y) := by ring
  have hδ : 0 ≤ δ := (abs_nonneg _).trans hx
  have hyn := fxVal_nonneg y
  have h1 : |(fxVal x - X) * fxVal y| ≤ B * δ := by
    rw [abs_mul, abs_of_nonneg hyn, mul_comm]
    exact mul_le_mul hB hx (abs_nonneg _) (hyn.trans hB)
  have h2 : |X * (fxVal y - Y)| ≤ M * ε := by
    rw [abs_mul]
    exact mul_le_mul hX hy (abs_nonneg _) ((abs_nonneg _).trans hX)
  rw [hsplit]
  linarith [abs_add_three (fxVal (fxMul x y : ℕ) - fxVal x * fxVal y) ((fxVal x - X) * fxVal y) (X * (fxVal y - Y)), fxVal_fxMul x y]

/-- A quotient of a fixed-point number that stands for another. -/
theorem fxDiv_near {x k : ℕ} {X δ : ℝ} (hx : |fxVal x - X| ≤ δ) (hk : 0 < k) :
    |fxVal ((x / k : ℕ) : ℤ) - X / k| ≤ δ / k + fxUlp := by
  have hk' : (0 : ℝ) < k := mod_cast hk
  have hquot : |fxVal x / k - X / k| ≤ δ / k := by
    rw [← sub_div, abs_div, abs_of_pos hk']
    exact div_le_div_of_nonneg_right hx hk'.le
  linarith [abs_sub_le (fxVal ((x / k : ℕ) : ℤ)) (fxVal x / k) (X / k), fxVal_ediv x hk]

/-- A number that stands for one that is hardly negative stands for it as a natural number. -/
theorem fxVal_toNat_near_of_ge {v : ℤ} {X δ : ℝ} (h : |fxVal v - X| ≤ δ) (hX : -δ ≤ X) : |fxVal (v.toNat : ℤ) - X| ≤ δ := by
  rcases le_or_gt 0 v with hv | hv
  · rwa [Int.toNat_of_nonneg hv]
  · have hneg : fxVal v ≤ 0 := mul_nonpos_of_nonpos_of_nonneg (by exact_mod_cast hv.le) fxUlp_pos.le
    have hzero : fxVal ((0 : ℕ) : ℤ) = 0 := by simp [fxVal]
    rw [Int.toNat_of_nonpos hv.le, hzero]
    rw [abs_le] at h ⊢
    constructor <;> linarith [h.1]

theorem fxVal_toNat_near {v : ℤ} {X δ : ℝ} (h : |fxVal v - X| ≤ δ) (hX : 0 ≤ X) : |fxVal (v.toNat : ℤ) - X| ≤ δ :=
  fxVal_toNat_near_of_ge h (by linarith [(abs_nonneg _).trans h])

/-! ### Series -/

/-- The error of a series: `F` sums what `out` makes of terms, each the `next` of the one before; `T` and `A` are what the terms and
the summands stand for. -/
theorem series_error {F : ℕ → ℕ → ℕ → ℤ} {out next : ℕ → ℕ → ℕ} {σ : ℤ} {T A : ℕ → ℝ} {ρ c : ℝ} (hσ : |(σ : ℝ)| = 1) (hρ : 1 ≤ ρ)
    (hc : 0 ≤ c) (hzero : ∀ i t, F 0 i t = 0) (hsucc : ∀ n i t, F (n + 1) i t = out i t + σ * F n (i + 1) (next i t))
    (hout : ∀ (i t : ℕ) (δ : ℝ), |fxVal t - T i| ≤ δ → |fxVal (out i t) - A i| ≤ δ + c)
    (hnext : ∀ (i t : ℕ) (δ : ℝ), |fxVal t - T i| ≤ δ → |fxVal (next i t) - T (i + 1)| ≤ ρ * δ + c) (n i t : ℕ) {δ : ℝ} (ht : |fxVal t - T i| ≤ δ) :
    |fxVal (F n i t) - ∑ k ∈ Finset.range n, (σ : ℝ) ^ k * A (i + k)| ≤ n * ρ ^ n * (δ + n * c) := by
  induction n generalizing i t δ with
  | zero => simp [hzero, fxVal]
  | succ n ih =>
    have hδ : 0 ≤ δ := (abs_nonneg _).trans ht
    have hrest := ih (i + 1) (next i t) (hnext i t δ ht)
    have hsum : ∑ k ∈ Finset.range (n + 1), (σ : ℝ) ^ k * A (i + k) =
        A i + σ * ∑ k ∈ Finset.range n, (σ : ℝ) ^ k * A (i + 1 + k) := by
      rw [Finset.sum_range_succ', Finset.mul_sum, add_comm]
      refine congrArg₂ (· + ·) (by simp) (Finset.sum_congr rfl fun k _ => ?_)
      rw [pow_succ', mul_assoc, add_assoc i 1 k, add_comm 1 k]
    have hsplit : fxVal (F (n + 1) i t) - ∑ k ∈ Finset.range (n + 1), (σ : ℝ) ^ k * A (i + k) =
        (fxVal (out i t) - A i) + σ * (fxVal (F n (i + 1) (next i t)) - ∑ k ∈ Finset.range n, (σ : ℝ) ^ k * A (i + 1 + k)) := by
      rw [hsucc, fxVal_add, fxVal_mul, hsum]
      ring
    have hpow : 1 ≤ ρ ^ n := one_le_pow₀ hρ
    have hn : (0 : ℝ) ≤ n := Nat.cast_nonneg n
    rw [hsplit]
    calc |fxVal (out i t) - A i + σ * (fxVal (F n (i + 1) (next i t)) - ∑ k ∈ Finset.range n, (σ : ℝ) ^ k * A (i + 1 + k))|
        ≤ (δ + c) + n * ρ ^ n * (ρ * δ + c + n * c) := by
          refine (abs_add_le _ _).trans (add_le_add (hout i t δ ht) ?_)
          rw [abs_mul, hσ, one_mul]
          exact hrest
      _ ≤ ρ ^ n * ρ * (δ + (n + 1) * c) + n * ρ ^ n * (ρ * (δ + (n + 1) * c)) := by
          have hone : 1 ≤ ρ ^ n * ρ := one_le_mul_of_one_le_of_one_le hpow hρ
          refine add_le_add ?_ (mul_le_mul_of_nonneg_left ?_ (by positivity))
          · calc δ + c ≤ 1 * (δ + (n + 1) * c) := by nlinarith
              _ ≤ ρ ^ n * ρ * (δ + (n + 1) * c) := mul_le_mul_of_nonneg_right hone (by positivity)
          · nlinarith [mul_nonneg hn hc]
      _ = (n + 1 : ℕ) * ρ ^ (n + 1) * (δ + (n + 1 : ℕ) * c) := by
          push_cast
          ring

/-- The first terms of a series that falls at least as fast as a geometric one, once that is below half a last place. -/
theorem hasSum_near {a : ℕ → ℝ} {S C r : ℝ} (hs : HasSum a S) (hr : r ≤ 1 / 2) (ha : ∀ n, |a n| ≤ C * r ^ n) {n : ℕ}
    (hn : C * r ^ n ≤ fxUlp / 2) : |∑ k ∈ Finset.range n, a k - S| ≤ fxUlp := by
  have h := norm_sub_le_of_geometric_bound_of_hasSum (by linarith) ha hs n
  rw [Real.norm_eq_abs, le_div_iff₀ (by linarith)] at h
  have := abs_nonneg (∑ k ∈ Finset.range n, a k - S)
  nlinarith

/-- A power that is less than half a last place. -/
theorem pow_le_ulp {r : ℝ} {a n : ℕ} (hr : 0 ≤ r) (ha : r ≤ (1 / 2) ^ a) (hn : fxBits + 1 ≤ a * n) : r ^ n ≤ fxUlp / 2 := by
  calc r ^ n ≤ ((1 / 2) ^ a) ^ n := pow_le_pow_left₀ hr ha n
    _ = (1 / 2) ^ (a * n) := (pow_mul ..).symm
    _ ≤ (1 / 2) ^ (fxBits + 1) := pow_le_pow_of_le_one (by norm_num) (by norm_num) hn
    _ = fxUlp / 2 := by rw [fxUlp, pow_succ, one_div, inv_pow, div_eq_mul_inv]

/-! ### Rounding of a fixed-point magnitude -/

/-- The sign of a rounded value. -/
def signOf (neg : Bool) : ℝ := if neg then -1 else 1

/-- A fixed-point magnitude is rounded as the value half a last place above it. -/
theorem nearlyRounded_fxRound (neg : Bool) (x : ℕ) (extra : ℤ) {y tol : ℝ}
    (h : |signOf neg * ((fxVal x + fxUlp / 2) * 2 ^ extra) - y| ≤ tol) : Fmt.f32.nearlyRounded y tol (fxRound neg x extra) := by
  obtain ⟨v, hv⟩ : ∃ v, (fxVal x + fxUlp / 2) * 2 ^ extra = v := ⟨_, rfl⟩
  have hpos : 0 < v := by
    have := fxVal_nonneg x
    have := fxUlp_pos
    rw [← hv]
    positivity
  have hround := roundFin_ne fmt_f32_rounds neg (show 0 < sticky x true by simp [sticky, b2n]) (extra - (fxBits : ℤ) - 1)
  have hval : ((((sticky x true : ℕ) : ℚ) * 2 ^ (extra - (fxBits : ℤ) - 1) : ℚ) : ℝ) = v := by
    rw [← hv, zpow_sub_one₀ two_ne_zero, sub_eq_add_neg extra, zpow_add₀ two_ne_zero, fxVal, fxUlp_eq]
    have hstick : ((sticky x true : ℕ) : ℝ) = 2 * x + 1 := by
      rw [sticky, b2n]
      push_cast
      rfl
    push_cast
    rw [hstick]
    ring
  rw [hval] at hround
  rw [hv] at h
  refine ⟨signOf neg * v, h, ?_, neg, ?_, ?_⟩
  · cases neg <;> simp [signOf, hpos.ne']
  · cases neg <;> simp [signOf, hpos, hpos.le]
  · have habs : |signOf neg * v| = v := by cases neg <;> simp [signOf, abs_of_pos hpos]
    rw [habs]
    exact hround

end Sys2Proof.Machine

/-! ### The series of arctan and artanh -/

namespace Sys2Proof.Machine

theorem fxUlp_small : 2 ^ 200 * fxUlp ≤ 1 := by
  have h := fxUlp_mul
  have hone : (2 : ℝ) ^ (-400 : ℤ) ≤ 1 := zpow_le_one_of_nonpos₀ (by norm_num) (by norm_num)
  have hu := fxUlp_pos
  have hpow : (2 : ℝ) ^ 200 * fxUlp ≤ 2 ^ 240 * fxUlp := mul_le_mul_of_nonneg_right (pow_le_pow_right₀ one_le_two (by norm_num)) hu.le
  linarith

theorem fxUlp_le : fxUlp ≤ 1 / 1024 := by
  have h := fxUlp_small
  have hu := fxUlp_pos
  have hpow : (2 : ℝ) ^ 10 * fxUlp ≤ 2 ^ 200 * fxUlp := mul_le_mul_of_nonneg_right (pow_le_pow_right₀ one_le_two (by norm_num)) hu.le
  linarith

/-- The sign with which the terms of a series go on. -/
def altSign (alt : Bool) : ℤ := if alt then -1 else 1

theorem abs_altSign (alt : Bool) : |(altSign alt : ℝ)| = 1 := by cases alt <;> simp [altSign]

section
variable {z : ℕ} {Z : ℝ} (hz : |fxVal z - Z| ≤ fxUlp) (hZ : 0 ≤ Z) (hZ' : Z ≤ 1 / 3)
include hz hZ hZ'

/-- The first terms of the series of arctan or artanh. -/
theorem oddSeries_near (alt : Bool) (n : ℕ) :
    |fxVal (oddSeries alt (fxMul z z) n z 1) - ∑ k ∈ Finset.range n, (altSign alt : ℝ) ^ k * (Z ^ (2 * k + 1) / (2 * k + 1 : ℕ))| ≤
      n * (1 + 3 * n) * fxUlp := by
  have hu := fxUlp_pos
  have hu' := fxUlp_le
  have hzle : fxVal z ≤ 1 / 2 := by linarith [(abs_le.mp hz).2]
  have hsq : |fxVal (fxMul z z : ℕ) - Z * Z| ≤ 2 * fxUlp := by
    have := fxMul_near hz hz hzle (show |Z| ≤ 1 / 2 by rw [abs_of_nonneg hZ]; linarith)
    linarith
  have hsqle : fxVal (fxMul z z : ℕ) ≤ 1 := by nlinarith [(abs_le.mp hsq).2]
  have hterm (i : ℕ) : |Z ^ (2 * i + 1)| ≤ 1 := by
    rw [abs_of_nonneg (by positivity)]
    exact pow_le_one₀ hZ (by linarith)
  have h := series_error (F := fun n i t => oddSeries alt (fxMul z z) n t (2 * i + 1)) (out := fun i t => t / (2 * i + 1))
    (next := fun _ t => fxMul t (fxMul z z)) (T := fun i => Z ^ (2 * i + 1)) (A := fun i => Z ^ (2 * i + 1) / (2 * i + 1 : ℕ))
    (ρ := 1) (c := 3 * fxUlp) (abs_altSign alt) le_rfl (by linarith) (fun _ _ => rfl) (fun n i t => by
      cases alt
      · simp only [oddSeries, altSign, Bool.false_eq_true, if_false, one_mul]
        rfl
      · simp only [oddSeries, altSign, if_true, neg_one_mul]
        rfl)
    (fun i t δ ht => by
      have hδ : 0 ≤ δ := (abs_nonneg _).trans ht
      have hk : (1 : ℝ) ≤ (2 * i + 1 : ℕ) := by exact_mod_cast Nat.succ_le_succ (Nat.zero_le (2 * i))
      have := fxDiv_near ht (Nat.succ_pos (2 * i))
      have := div_le_self hδ hk
      linarith)
    (fun i t δ ht => by
      have := fxMul_near ht hsq hsqle (hterm i)
      rw [show Z ^ (2 * (i + 1) + 1) = Z ^ (2 * i + 1) * (Z * Z) by ring]
      linarith) n 0 z (δ := fxUlp) (by simpa using hz)
  simp only [Nat.zero_add, one_pow, mul_one, Nat.mul_zero] at h
  refine h.trans (le_of_eq ?_)
  ring

omit hz in
theorem abs_odd_term_le {r : ℝ} (hr : Z ^ 2 ≤ r) (alt : Bool) (n : ℕ) :
    |(altSign alt : ℝ) ^ n * (Z ^ (2 * n + 1) / (2 * n + 1 : ℕ))| ≤ 1 * r ^ n := by
  have hk : (1 : ℝ) ≤ (2 * n + 1 : ℕ) := by exact_mod_cast Nat.succ_le_succ (Nat.zero_le (2 * n))
  have hpow : Z ^ (2 * n + 1) ≤ r ^ n := by
    rw [pow_succ, pow_mul]
    exact (mul_le_of_le_one_right (by positivity) (by linarith)).trans (pow_le_pow_left₀ (by positivity) hr n)
  rw [abs_mul, abs_pow, abs_altSign, one_pow, one_mul, one_mul, abs_of_nonneg (by positivity)]
  exact (div_le_self (by positivity) hk).trans hpow

theorem artanh_near : |fxVal (artanh z : ℕ) - (Real.log (1 + Z) - Real.log (1 - Z)) / 2| ≤ 2 ^ 19 * fxUlp := by
  have habs : |Z| < 1 := by rw [abs_of_nonneg hZ]; linarith
  have hsum : HasSum (fun k : ℕ => (altSign false : ℝ) ^ k * (Z ^ (2 * k + 1) / (2 * k + 1 : ℕ)))
      ((Real.log (1 + Z) - Real.log (1 - Z)) / 2) := by
    have hterm (k : ℕ) : (altSign false : ℝ) ^ k * (Z ^ (2 * k + 1) / (2 * k + 1 : ℕ)) =
        2 * (1 / (2 * k + 1)) * Z ^ (2 * k + 1) / 2 := by
      simp only [altSign, Bool.false_eq_true, if_false, Int.cast_one, one_pow, one_mul]
      push_cast
      ring
    rw [funext hterm]
    exact (Real.hasSum_log_sub_log_of_abs_lt_one habs).div_const 2
  have htail := hasSum_near hsum (n := 330) (by norm_num) (abs_odd_term_le hZ hZ' (r := 1 / 9) (by nlinarith) false)
    (by rw [one_mul]; exact pow_le_ulp (a := 3) (by norm_num) (by norm_num) (by decide))
  have hnear := oddSeries_near hz hZ hZ' false 330
  have hpos : 0 ≤ (Real.log (1 + Z) - Real.log (1 - Z)) / 2 := by
    have := Real.log_le_log (show 0 < 1 - Z by linarith) (show 1 - Z ≤ 1 + Z by linarith)
    linarith
  have hu := fxUlp_pos
  refine fxVal_toNat_near ?_ hpos
  have := abs_sub_le (fxVal (oddSeries false (fxMul z z) 330 z 1))
    (∑ k ∈ Finset.range 330, (altSign false : ℝ) ^ k * (Z ^ (2 * k + 1) / (2 * k + 1 : ℕ))) ((Real.log (1 + Z) - Real.log (1 - Z)) / 2)
  rw [show ((330 : ℕ) : ℝ) = 330 from Nat.cast_ofNat] at hnear
  linarith

end

theorem ulp_quotient_near {k : ℕ} (hk : 0 < k) : |fxVal ((2 ^ fxBits / k : ℕ) : ℤ) - (k : ℝ)⁻¹| ≤ fxUlp := by
  have h := fxVal_ediv (2 ^ fxBits) hk
  rwa [fxVal_one, one_div] at h

theorem arctanInv_near {k : ℕ} (hk : 5 ≤ k) : |fxVal (arctanInv k : ℕ) - Real.arctan (k : ℝ)⁻¹| ≤ 2 ^ 17 * fxUlp := by
  have hk' : (5 : ℝ) ≤ k := by exact_mod_cast hk
  have hZ : (0 : ℝ) ≤ (k : ℝ)⁻¹ := by positivity
  have hle : (k : ℝ)⁻¹ ≤ 1 / 5 := by
    rw [one_div]
    exact inv_anti₀ (by norm_num) hk'
  have hZ' : (k : ℝ)⁻¹ ≤ 1 / 3 := by linarith
  have hsum : HasSum (fun i : ℕ => (altSign true : ℝ) ^ i * ((k : ℝ)⁻¹ ^ (2 * i + 1) / (2 * i + 1 : ℕ))) (Real.arctan (k : ℝ)⁻¹) := by
    convert Real.hasSum_arctan (x := (k : ℝ)⁻¹) (by rw [Real.norm_of_nonneg hZ]; linarith) using 2 with i
    simp only [altSign, if_true, Int.cast_neg, Int.cast_one]
    ring
  have hpow : (1 / 25 : ℝ) ^ 150 = ((1 / 25) ^ 2) ^ 75 := by rw [← pow_mul]
  have htail := hasSum_near hsum (n := 150) (by norm_num) (abs_odd_term_le hZ hZ' (r := 1 / 25) (by nlinarith) true)
    (by rw [one_mul, hpow]; exact pow_le_ulp (a := 9) (by norm_num) (by norm_num) (by decide))
  have hnear := oddSeries_near (ulp_quotient_near (by omega)) hZ hZ' true 150
  have hu := fxUlp_pos
  unfold arctanInv
  dsimp only
  refine fxVal_toNat_near ?_ (Real.arctan_nonneg.mpr hZ)
  have := abs_sub_le (fxVal (oddSeries true (fxMul (2 ^ fxBits / k) (2 ^ fxBits / k)) 150 (2 ^ fxBits / k) 1))
    (∑ i ∈ Finset.range 150, (altSign true : ℝ) ^ i * ((k : ℝ)⁻¹ ^ (2 * i + 1) / (2 * i + 1 : ℕ))) (Real.arctan (k : ℝ)⁻¹)
  rw [show ((150 : ℕ) : ℝ) = 150 from Nat.cast_ofNat] at hnear
  linarith

/-! ### ln 2 and half of pi -/

theorem fxLn2_near : |fxVal (fxLn2 : ℕ) - Real.log 2| ≤ 2 ^ 20 * fxUlp := by
  have h := artanh_near (ulp_quotient_near (k := 3) (by norm_num)) (by positivity) (by norm_num)
  have hlog : Real.log (1 + ((3 : ℕ) : ℝ)⁻¹) - Real.log (1 - ((3 : ℕ) : ℝ)⁻¹) = Real.log 2 := by
    rw [← Real.log_div (by norm_num) (by norm_num)]
    norm_num
  have hval : fxVal (fxLn2 : ℕ) = 2 * fxVal (artanh (2 ^ fxBits / 3) : ℕ) := by
    rw [fxLn2, Nat.cast_mul, fxVal_mul, Nat.cast_ofNat, Int.cast_ofNat]
  rw [hlog, abs_le] at h
  rw [hval, abs_le]
  constructor <;> linarith [h.1, h.2]

theorem fxHalfPi_near : |fxVal (fxHalfPi : ℕ) - Real.pi / 2| ≤ 2 ^ 21 * fxUlp := by
  have h5 := arctanInv_near (le_refl 5)
  have h239 := arctanInv_near (k := 239) (by norm_num)
  have hpi := Real.four_mul_arctan_inv_5_sub_arctan_inv_239
  have hu := fxUlp_pos
  have hsmall := fxUlp_small
  have hpi3 := Real.pi_gt_three
  rw [abs_le] at h5 h239
  push_cast at h5 h239
  have hle : 2 * arctanInv 239 ≤ 8 * arctanInv 5 := by
    have hreal : 2 * fxVal (arctanInv 239 : ℕ) ≤ 8 * fxVal (arctanInv 5 : ℕ) := by linarith [h5.1, h239.2]
    rw [fxVal, fxVal, ← mul_assoc, ← mul_assoc, mul_le_mul_iff_left₀ hu] at hreal
    exact_mod_cast hreal
  have hval : fxVal (fxHalfPi : ℕ) = 8 * fxVal (arctanInv 5 : ℕ) - 2 * fxVal (arctanInv 239 : ℕ) := by
    rw [fxHalfPi, fxVal, fxVal, fxVal]
    push_cast [hle]
    ring
  rw [hval, abs_le]
  constructor <;> linarith [h5.1, h5.2, h239.1, h239.2]

end Sys2Proof.Machine

/-! ## Powers of two (FEXP2, R108) -/

namespace Sys2Proof.Machine

/-! ### The exponential series -/

theorem expSeries_near {y : ℕ} {Y ε : ℝ} (hy : |fxVal y - Y| ≤ ε) (hY : 0 ≤ Y) (hY' : Y ≤ 1) (hle : fxVal y ≤ 1) (n : ℕ) :
    |fxVal (expSeries y n 0 (2 ^ fxBits) : ℕ) - ∑ k ∈ Finset.range n, Y ^ k / k.factorial| ≤ n * (n * (ε + 2 * fxUlp)) := by
  have hu := fxUlp_pos
  have hε : 0 ≤ ε := (abs_nonneg _).trans hy
  have hterm (i : ℕ) : |Y ^ i / i.factorial| ≤ 1 := by
    rw [abs_of_nonneg (by positivity)]
    exact (div_le_self (by positivity) (by exact_mod_cast Nat.one_le_iff_ne_zero.mpr (Nat.factorial_ne_zero i))).trans (pow_le_one₀ hY hY')
  have h := series_error (F := fun n i t => (expSeries y n i t : ℕ)) (out := fun _ t => t) (next := fun i t => fxMul t y / (i + 1))
    (σ := 1) (T := fun i => Y ^ i / i.factorial) (A := fun i => Y ^ i / i.factorial) (ρ := 1) (c := ε + 2 * fxUlp) (by simp) le_rfl
    (by linarith) (fun _ _ => rfl) (fun n i t => by simp [expSeries]) (fun i t δ ht => by linarith)
    (fun i t δ ht => by
      have hδ : 0 ≤ δ := (abs_nonneg _).trans ht
      have hmul := fxMul_near ht hy hle (hterm i)
      have hdiv := fxDiv_near hmul (Nat.succ_pos i)
      have hk : (1 : ℝ) ≤ (i + 1 : ℕ) := by exact_mod_cast Nat.succ_le_succ (Nat.zero_le i)
      have hself := div_le_self (show 0 ≤ 1 * δ + 1 * ε + fxUlp by linarith) hk
      have hT : Y ^ (i + 1) / (i + 1).factorial = Y ^ i / i.factorial * Y / (i + 1 : ℕ) := by
        rw [Nat.factorial_succ, pow_succ, div_mul_eq_mul_div, div_div, Nat.cast_mul, mul_comm (i.factorial : ℝ)]
      rw [hT]
      linarith) n 0 (2 ^ fxBits) (δ := 0) (by rw [fxVal_one]; simp)
  simpa using h

/-- The exponential series as FEXP2 sums it. -/
theorem expSeries_exp {y : ℕ} {Y : ℝ} (hy : |fxVal y - Y| ≤ (2 ^ 20 + 1) * fxUlp) (hY : 0 ≤ Y) (hY' : Y ≤ 9 / 10) :
    |fxVal (expSeries y 150 0 (2 ^ fxBits) : ℕ) - Real.exp Y| ≤ 2 ^ 36 * fxUlp := by
  have hu := fxUlp_pos
  have hsmall := fxUlp_small
  have hle : fxVal y ≤ 1 := by linarith [(abs_le.mp hy).2]
  have hnear := expSeries_near hy hY (by linarith) hle 150
  have habs : |Y| ≤ 1 := by rw [abs_of_nonneg hY]; linarith
  have htail := Real.exp_bound habs (n := 150) (by norm_num)
  have hfact : 151 * 2 ^ fxBits ≤ Nat.factorial 150 * 150 := by decide +kernel
  have hulp : (Nat.succ 150 : ℝ) / (Nat.factorial 150 * (150 : ℕ)) ≤ fxUlp := by
    have hreal := Nat.cast_le (α := ℝ).mpr hfact
    rw [Nat.cast_mul, Nat.cast_mul, Nat.cast_pow, Nat.cast_two] at hreal
    have hpos : (0 : ℝ) < Nat.factorial 150 * (150 : ℕ) :=
      mul_pos (Nat.cast_pos.mpr (Nat.factorial_pos 150)) (Nat.cast_pos.mpr (Nat.succ_pos 149))
    rw [fxUlp, ← one_div, div_le_div_iff₀ hpos (pow_pos two_pos _), one_mul]
    exact hreal
  have hpow : |Y| ^ 150 ≤ 1 := pow_le_one₀ (abs_nonneg Y) habs
  have hrest : |Y| ^ 150 * ((Nat.succ 150 : ℝ) / (Nat.factorial 150 * (150 : ℕ))) ≤ fxUlp := by
    calc _ ≤ 1 * fxUlp := mul_le_mul hpow hulp (by positivity) zero_le_one
      _ = fxUlp := one_mul _
  rw [show ((150 : ℕ) : ℝ) = 150 from Nat.cast_ofNat] at hnear
  rw [abs_sub_comm] at htail
  linarith [abs_sub_le (fxVal (expSeries y 150 0 (2 ^ fxBits) : ℕ)) (∑ k ∈ Finset.range 150, Y ^ k / k.factorial) (Real.exp Y)]

/-! ### Exact fixed-point operands -/

/-- A finite FP32 value is a fixed-point number. -/
theorem fxVal_scaled (neg : Bool) (m : ℕ) {e : ℤ} (he : Fmt.f32.qmin ≤ e) :
    fxVal (scaled neg m e (-(fxBits : ℤ))) = (((FVal.fin neg m e).rat : ℚ) : ℝ) := by
  have hqmin : Fmt.f32.qmin = -149 := by decide
  have hfx : (fxBits : ℤ) = 640 := rfl
  have hscaled := scaled_eq neg m (q := -(fxBits : ℤ)) (e := e) (by omega)
  rw [fxVal, fxUlp_eq, ← hscaled]
  push_cast
  rfl

/-- A fixed-point number is its integer part and a fixed-point number below 1. -/
theorem fxVal_floor (x : ℤ) : ∃ n : ℤ, ∃ y : ℕ, x / (2 ^ fxBits : ℕ) = n ∧ (x % (2 ^ fxBits : ℕ)).toNat = y ∧ fxVal x = n + fxVal y ∧
    fxVal y < 1 := by
  have hpos : (0 : ℤ) < (2 ^ fxBits : ℕ) := by positivity
  have hnn := Int.emod_nonneg x hpos.ne'
  have hlt := Int.emod_lt_of_pos x hpos
  have hsplit := Int.mul_ediv_add_emod x (2 ^ fxBits : ℕ)
  refine ⟨_, _, rfl, rfl, ?_, ?_⟩
  · rw [Int.toNat_of_nonneg hnn]
    conv_lhs => rw [← hsplit, mul_comm, fxVal_add, fxVal_mul, fxVal_one, mul_one]
  · rw [Int.toNat_of_nonneg hnn, ← fxVal_one]
    exact mul_lt_mul_of_pos_right (by exact_mod_cast hlt) fxUlp_pos

/-! ### Values far beyond FP32 -/

/-- A power of two rounds as something of its magnitude. -/
theorem exp2_sticky (x : ℝ) : ∃ m e, 0 < m ∧ (Nat.log2 m : ℤ) + e = ⌊x⌋ ∧
    Fmt.f32.roundedNE false ((2 : ℝ) ^ x) (roundFin Fmt.f32 .ne false m e) := by
  obtain ⟨q, hq⟩ : ∃ q, ⌊x⌋ - 24 = q := ⟨_, rfl⟩
  have hlo : (2 : ℝ) ^ 24 ≤ 2 ^ (x - q) := by
    rw [← Real.rpow_natCast]
    refine Real.rpow_le_rpow_of_exponent_le one_le_two ?_
    have := Int.floor_le x
    rw [← hq]
    push_cast
    linarith
  have hhi : (2 : ℝ) ^ (x - q) < 2 ^ 25 := by
    rw [← Real.rpow_natCast]
    refine Real.rpow_lt_rpow_of_exponent_lt one_lt_two ?_
    have := Int.lt_floor_add_one x
    rw [← hq]
    push_cast
    linarith
  obtain ⟨n, hn⟩ : ∃ n, ⌊(2 : ℝ) ^ (x - q)⌋₊ = n := ⟨_, rfl⟩
  have hpos : (0 : ℝ) ≤ 2 ^ (x - q) := by positivity
  have hx : (2 : ℝ) ^ x = 2 ^ (x - q) * 2 ^ q := by rw [← Real.rpow_intCast, ← Real.rpow_add two_pos, sub_add_cancel]
  have hfloor := hn ▸ Nat.floor_le hpos
  have hnext := hn ▸ Nat.lt_floor_add_one ((2 : ℝ) ^ (x - q))
  have hnlo : 2 ^ 24 ≤ n := hn ▸ Nat.le_floor (by exact_mod_cast hlo)
  have hnhi : n < 2 ^ 25 := by exact_mod_cast hfloor.trans_lt hhi
  have h2q : (0 : ℝ) < 2 ^ q := by positivity
  obtain ⟨b, hb⟩ : ∃ b : Bool, b = true ↔ (2 : ℝ) ^ x ≠ n * 2 ^ q := by
    by_cases h : (2 : ℝ) ^ x ≠ n * 2 ^ q
    · exact ⟨true, by simpa using h⟩
    · exact ⟨false, by simpa using h⟩
  have hsticky : 2 * n ≤ sticky n b ∧ sticky n b ≤ 2 * n + 1 := by cases b <;> exact ⟨by simp [sticky], by simp [sticky, b2n]⟩
  have hlog : Nat.log2 (sticky n b) = 25 := (Nat.log2_eq_iff (by omega)).mpr ⟨by omega, by omega⟩
  refine ⟨sticky n b, q - 1, by omega, by rw [hlog]; omega, ?_⟩
  refine roundedNE_sticky fmt_f32_rounds false hnlo ?_ ?_ hb
  · rw [hx]
    exact mul_le_mul_of_nonneg_right hfloor h2q.le
  · rw [hx]
    exact mul_lt_mul_of_pos_right hnext h2q

theorem mag_large {m : ℕ} {e : ℤ} (hm : m ≠ 0) (h : 12 < (Nat.log2 m : ℤ) + e) : (2 : ℝ) ^ 13 ≤ m * 2 ^ e := by
  calc (2 : ℝ) ^ 13 = 2 ^ (13 : ℤ) := rfl
    _ ≤ 2 ^ ((Nat.log2 m : ℤ) + e) := zpow_le_zpow_right₀ one_le_two (by omega)
    _ = 2 ^ Nat.log2 m * 2 ^ e := by rw [zpow_add₀ two_ne_zero, zpow_natCast]
    _ ≤ m * 2 ^ e := by
      gcongr
      exact_mod_cast Nat.log2_self_le hm

/-- FEXP2 of an operand of 2^13 and more from zero overflows or underflows as the exact result does. -/
theorem exp2_large {neg : Bool} {m : ℕ} {e : ℤ} (hm : m ≠ 0) (h : 12 < (Nat.log2 m : ℤ) + e) :
    Fmt.f32.roundedNE false ((2 : ℝ) ^ (((FVal.fin neg m e).rat : ℚ) : ℝ))
      (roundFin Fmt.f32 .ne false (sticky (2 ^ 40) true) (if neg then -4096 else 4096)) := by
  have hlog : Nat.log2 (sticky (2 ^ 40) true) = 41 := by decide
  have hpos : 0 < sticky (2 ^ 40) true := by decide
  have hmag := mag_large hm h
  obtain ⟨k, q, hk, hkq, hround⟩ := exp2_sticky (((FVal.fin neg m e).rat : ℚ) : ℝ)
  cases neg with
  | false =>
    have hfloor : 128 ≤ ⌊(((FVal.fin false m e).rat : ℚ) : ℝ)⌋ := Int.le_floor.mpr (by
      rw [rat_fin_false]
      push_cast
      linarith)
    rw [roundFin_overflow false hk (by omega)] at hround
    rw [if_neg Bool.false_ne_true, roundFin_overflow false hpos (by omega)]
    exact hround
  | true =>
    have hfloor : ⌊(((FVal.fin true m e).rat : ℚ) : ℝ)⌋ < -151 := Int.floor_lt.mpr (by
      rw [rat_fin_true]
      push_cast
      linarith)
    rw [roundFin_underflow false hk (by omega)] at hround
    rw [if_pos rfl, roundFin_underflow false hpos (by omega)]
    exact hround

/-! ### FEXP2 -/

/-- FEXP2 of an operand that is no integer. -/
theorem fpExp2_nearly {a : ℕ} (hfin : (Fmt.f32.decode a).isFin = true) (hint : ∀ n : ℤ, (Fmt.f32.decode a).rat ≠ n) :
    Fmt.f32.nearlyRounded ((2 : ℝ) ^ (((Fmt.f32.decode a).rat : ℚ) : ℝ))
      ((2 : ℝ) ^ (((Fmt.f32.decode a).rat : ℚ) : ℝ) * 2 ^ (-400 : ℤ)) (fpExp2 a) := by
  obtain ⟨neg, m, e, hdec⟩ := FVal.exists_of_isFin hfin
  obtain ⟨x, hx⟩ : ∃ x, (((Fmt.f32.decode a).rat : ℚ) : ℝ) = x := ⟨_, rfl⟩
  have hm : m ≠ 0 := fun h => hint 0 (by rw [hdec, rat_eq_zero.mpr h]; rfl)
  have hclose : (0 : ℝ) < 2 ^ (-400 : ℤ) := by positivity
  have hpow : (0 : ℝ) < 2 ^ x := Real.rpow_pos_of_pos two_pos x
  rw [hx]
  unfold fpExp2
  simp only [hdec, if_neg hm]
  split
  next hlarge =>
    have hround := exp2_large (neg := neg) hm hlarge
    rw [← hdec, hx] at hround
    exact ⟨2 ^ x, by rw [sub_self, abs_zero]; positivity, hpow.ne', false, by simp [hpow.le], by rwa [abs_of_pos hpow]⟩
  next =>
    obtain ⟨n, y, hn, hy, hsplit, hlt⟩ := fxVal_floor (scaled neg m e (-(fxBits : ℤ)))
    rw [fxVal_scaled neg m (Fmt.decode_fin hdec).2.2.1, ← hdec, hx] at hsplit
    rw [hn, hy, if_neg ?_]
    · have hy0 := fxVal_nonneg y
      have hln := fxLn2_near
      have hlog := Real.log_two_lt_d9
      have hlog0 := Real.log_pos one_lt_two
      have hu := fxUlp_pos
      have hsmall := fxUlp_small
      have hmul : |fxVal (fxMul y fxLn2 : ℕ) - fxVal y * Real.log 2| ≤ (2 ^ 20 + 1) * fxUlp := by
        have := fxMul_near (show |fxVal y - fxVal y| ≤ 0 by simp) hln (B := 1) (by linarith [(abs_le.mp hln).2])
          (show |fxVal y| ≤ 1 by rw [abs_of_nonneg hy0]; linarith)
        linarith
      have hseries := expSeries_exp hmul (by positivity) (by nlinarith)
      have hexp : Real.exp (fxVal y * Real.log 2) = 2 ^ fxVal y := by rw [Real.rpow_def_of_pos two_pos, mul_comm]
      have hx2 : (2 : ℝ) ^ x = 2 ^ fxVal y * 2 ^ n := by rw [hsplit, add_comm, Real.rpow_add two_pos, Real.rpow_intCast]
      have hone : (1 : ℝ) ≤ 2 ^ fxVal y := Real.one_le_rpow one_le_two hy0
      have h2n : (0 : ℝ) < 2 ^ n := by positivity
      refine nearlyRounded_fxRound false _ n ?_
      rw [hexp] at hseries
      rw [signOf, if_neg Bool.false_ne_true, one_mul, hx2, ← sub_mul, abs_mul, abs_of_pos h2n, mul_right_comm]
      refine mul_le_mul_of_nonneg_right ?_ h2n.le
      have hclose' := fxUlp_mul
      rw [abs_le] at hseries ⊢
      constructor <;> nlinarith [hseries.1, hseries.2]
    · intro h
      rw [h] at hsplit
      refine hint n ?_
      have : (((Fmt.f32.decode a).rat : ℚ) : ℝ) = n := by rw [hx, hsplit]; simp [fxVal]
      exact_mod_cast this

end Sys2Proof.Machine

/-! ## Logarithms (FLOG2, R108) -/

namespace Sys2Proof.Machine

/-- A fixed-point number of either sign is rounded as the value half a last place above it. -/
theorem nearlyRounded_signed (v : ℤ) {y tol : ℝ} (h : |fxVal v + fxUlp / 2 - y| ≤ tol) :
    Fmt.f32.nearlyRounded y tol (if v < 0 then fxRound true (-v).toNat.pred 0 else fxRound false v.toNat 0) := by
  split
  next hv =>
    refine nearlyRounded_fxRound true _ 0 ?_
    have hcast : (((-v).toNat.pred : ℕ) : ℤ) = -v - 1 := by
      rw [Nat.pred_eq_sub_one]
      omega
    have hval : signOf true * ((fxVal (((-v).toNat.pred : ℕ) : ℤ) + fxUlp / 2) * 2 ^ (0 : ℤ)) = fxVal v + fxUlp / 2 := by
      rw [hcast, fxVal, fxVal, signOf, if_pos rfl]
      push_cast
      ring
    rwa [hval]
  next hv =>
    refine nearlyRounded_fxRound false _ 0 ?_
    have hval : signOf false * ((fxVal ((v.toNat : ℕ) : ℤ) + fxUlp / 2) * 2 ^ (0 : ℤ)) = fxVal v + fxUlp / 2 := by
      rw [Int.toNat_of_nonneg (not_lt.mp hv), signOf, if_neg Bool.false_ne_true, zpow_zero, mul_one, one_mul]
    rwa [hval]

/-- A fixed-point quotient. -/
theorem fxVal_quotient (p : ℕ) {q : ℕ} (hq : 0 < q) : |fxVal ((p * 2 ^ fxBits / q : ℕ) : ℤ) - fxVal p / fxVal q| ≤ fxUlp := by
  have h := fxVal_ediv (p * 2 ^ fxBits) hq
  have hval : fxVal ((p * 2 ^ fxBits : ℕ) : ℤ) / q = fxVal p / fxVal q := by
    have hpow : (2 : ℝ) ^ fxBits ≠ 0 := by positivity
    rw [fxVal_nat, fxVal_nat, fxVal_nat, Nat.cast_mul, Nat.cast_pow, Nat.cast_two, mul_div_cancel_right₀ _ hpow,
      div_div_div_cancel_right₀ hpow]
  rwa [hval] at h

/-- A quotient of numbers near others, the divisor not small and the exact quotient at most 1. -/
theorem quotient_near {A B a b δ : ℝ} (hA : |A - a| ≤ δ) (hB : |B - b| ≤ δ) (hlow : 1 / 2 ≤ B) (hb : 0 < b) (ha : 0 ≤ a) (hab : a ≤ b) :
    |A / B - a / b| ≤ 4 * δ := by
  have hBpos : 0 < B := by linarith
  have hδ : 0 ≤ δ := (abs_nonneg _).trans hA
  have hquot : 0 ≤ a / b ∧ a / b ≤ 1 := ⟨by positivity, (div_le_one hb).mpr hab⟩
  have hsplit : A / B - a / b = ((A - a) - (B - b) * (a / b)) / B := by
    field_simp
    ring
  have hprod : |(B - b) * (a / b)| ≤ δ := by
    rw [abs_mul, abs_of_nonneg hquot.1]
    exact (mul_le_of_le_one_right (abs_nonneg _) hquot.2).trans hB
  rw [hsplit, abs_div, abs_of_pos hBpos, div_le_iff₀ hBpos]
  have := abs_sub (A - a) ((B - b) * (a / b))
  nlinarith

section
variable {m k : ℕ} (hk : k ≤ fxBits) (hlo : 2 ^ k ≤ m) (hhi : m < 2 ^ (k + 1))
include hk

theorem fxVal_significand : fxVal ((m * 2 ^ fxBits / 2 ^ k : ℕ) : ℤ) = (m : ℝ) / 2 ^ k := by
  have hdiv : m * 2 ^ fxBits / 2 ^ k = m * 2 ^ (fxBits - k) := by
    rw [Nat.mul_div_assoc _ (Nat.pow_dvd_pow 2 hk), Nat.pow_div hk two_pos]
  have hsplit : (2 : ℝ) ^ fxBits = 2 ^ (fxBits - k) * 2 ^ k := by rw [← pow_add, Nat.sub_add_cancel hk]
  rw [hdiv, fxVal_nat, Nat.cast_mul, Nat.cast_pow, Nat.cast_two, hsplit, mul_comm (2 ^ (fxBits - k)), mul_div_mul_right _ _ (by positivity)]

include hlo hhi

/-- The fraction of a logarithm as FLOG2 forms it. -/
theorem log2_fraction_near :
    |fxVal ((2 * artanh ((m * 2 ^ fxBits / 2 ^ k - 2 ^ fxBits) * 2 ^ fxBits / (m * 2 ^ fxBits / 2 ^ k + 2 ^ fxBits)) * 2 ^ fxBits / fxLn2 : ℕ) : ℤ) -
      Real.logb 2 ((m : ℝ) / 2 ^ k)| ≤ 2 ^ 23 * fxUlp := by
  obtain ⟨x, hx⟩ : ∃ x, (m : ℝ) / 2 ^ k = x := ⟨_, rfl⟩
  obtain ⟨y, hy⟩ : ∃ y, m * 2 ^ fxBits / 2 ^ k = y := ⟨_, rfl⟩
  have hval : fxVal y = x := by rw [← hy, ← hx, fxVal_significand hk]
  have hpow : (0 : ℝ) < 2 ^ k := by positivity
  have hx1 : 1 ≤ x := by
    rw [← hx, one_le_div hpow]
    exact_mod_cast hlo
  have hx2 : x < 2 := by
    rw [← hx, div_lt_iff₀ hpow, ← pow_succ']
    exact_mod_cast hhi
  have hu := fxUlp_pos
  have hsmall := fxUlp_small
  have hone : 2 ^ fxBits ≤ y := by
    have : fxVal ((2 ^ fxBits : ℕ) : ℤ) ≤ fxVal y := by rw [fxVal_one, hval]; exact hx1
    rw [fxVal, fxVal, mul_le_mul_iff_left₀ hu] at this
    exact_mod_cast this
  obtain ⟨z, hz⟩ : ∃ z, (y - 2 ^ fxBits) * 2 ^ fxBits / (y + 2 ^ fxBits) = z := ⟨_, rfl⟩
  have hznear : |fxVal z - (x - 1) / (x + 1)| ≤ fxUlp := by
    have h := fxVal_quotient (y - 2 ^ fxBits) (show 0 < y + 2 ^ fxBits by positivity)
    have hsub : fxVal ((y - 2 ^ fxBits : ℕ) : ℤ) = x - 1 := by
      rw [Nat.cast_sub hone, sub_eq_add_neg, fxVal_add, hval, ← neg_one_mul, fxVal_mul, fxVal_one]
      push_cast
      ring
    rw [hz, Nat.cast_add, fxVal_add, hsub, hval, fxVal_one] at h
    exact h
  have hZ : 0 ≤ (x - 1) / (x + 1) := div_nonneg (by linarith) (by linarith)
  have hZ' : (x - 1) / (x + 1) ≤ 1 / 3 := by
    rw [div_le_div_iff₀ (by linarith) (by norm_num)]
    linarith
  have hlog : Real.log (1 + (x - 1) / (x + 1)) - Real.log (1 - (x - 1) / (x + 1)) = Real.log x := by
    have hx0 : x + 1 ≠ 0 := by linarith
    have h1 : 1 + (x - 1) / (x + 1) = 2 * x / (x + 1) := by
      field_simp
      ring
    have h2 : 1 - (x - 1) / (x + 1) = 2 / (x + 1) := by
      field_simp
      ring
    rw [h1, h2, ← Real.log_div (by positivity) (by positivity)]
    congr 1
    field_simp
  have hart := artanh_near hznear hZ hZ'
  have hA : |fxVal ((2 * artanh z : ℕ) : ℤ) - Real.log x| ≤ 2 ^ 20 * fxUlp := by
    rw [Nat.cast_mul, fxVal_mul, Nat.cast_ofNat, Int.cast_ofNat]
    rw [hlog, abs_le] at hart
    rw [abs_le]
    constructor <;> linarith [hart.1, hart.2]
  have hB := fxLn2_near
  have hlog2 := Real.log_two_gt_d9
  have hlow : 1 / 2 ≤ fxVal (fxLn2 : ℕ) := by linarith [(abs_le.mp hB).1]
  have hln0 : 0 < fxLn2 := by
    by_contra h0
    have : fxVal (fxLn2 : ℕ) = 0 := by rw [Nat.eq_zero_of_not_pos h0]; simp [fxVal]
    linarith
  have hquot := quotient_near hA hB hlow (Real.log_pos one_lt_two) (Real.log_nonneg hx1) (Real.log_le_log (by linarith) hx2.le)
  have hl := fxVal_quotient (2 * artanh z) hln0
  rw [hy, hz, hx, Real.logb]
  have := abs_sub_le (fxVal ((2 * artanh z * 2 ^ fxBits / fxLn2 : ℕ) : ℤ)) (fxVal ((2 * artanh z : ℕ) : ℤ) / fxVal (fxLn2 : ℕ))
    (Real.log x / Real.log 2)
  linarith

end

/-- FLOG2 of a positive operand that is no power of two. -/
theorem fpLog2_nearly {a : ℕ} (hfin : (Fmt.f32.decode a).isFin = true) (hpos : 0 < (Fmt.f32.decode a).rat)
    (hint : ∀ n : ℤ, (Fmt.f32.decode a).rat ≠ (2 : ℚ) ^ n) :
    Fmt.f32.nearlyRounded (Real.logb 2 (((Fmt.f32.decode a).rat : ℚ) : ℝ)) (2 ^ (-400 : ℤ)) (fpLog2 a) := by
  obtain ⟨m, e, hdec, hm, hx⟩ := FVal.exists_of_pos hfin (by exact_mod_cast hpos)
  obtain ⟨k, hk⟩ : ∃ k, Nat.log2 m = k := ⟨_, rfl⟩
  obtain ⟨-, hmlt, -⟩ := Fmt.decode_fin hdec
  have hlo : 2 ^ k ≤ m := hk ▸ Nat.log2_self_le hm.ne'
  have hhi : m < 2 ^ (k + 1) := hk ▸ Nat.lt_log2_self
  have hkfx : k ≤ fxBits := by
    have hmb : Fmt.f32.mb = 23 := rfl
    have : 2 ^ k < 2 ^ 24 := hlo.trans_lt (by simpa [hmb] using hmlt)
    have := (Nat.pow_lt_pow_iff_right (by norm_num)).mp this
    have hfx : fxBits = 640 := rfl
    omega
  have hne : m ≠ 2 ^ k := by
    intro h
    refine hint (k + e) ?_
    rw [hdec, FVal.rat, if_neg Bool.false_ne_true, one_mul, h, zpow_add₀ two_ne_zero, zpow_natCast]
    push_cast
    rfl
  have hlog : Real.logb 2 (((Fmt.f32.decode a).rat : ℚ) : ℝ) = (k + e : ℤ) + Real.logb 2 ((m : ℝ) / 2 ^ k) := by
    have hmk : (m : ℝ) / 2 ^ k ≠ 0 := by positivity
    have hval : (m : ℝ) * 2 ^ e = 2 ^ ((k + e : ℤ)) * ((m : ℝ) / 2 ^ k) := by
      rw [zpow_add₀ two_ne_zero, zpow_natCast]
      field_simp
    rw [hx, hval, Real.logb_mul (by positivity) hmk, ← Real.rpow_intCast, Real.logb_rpow two_pos (by norm_num)]
  have hnear := log2_fraction_near hkfx hlo hhi
  have hu := fxUlp_pos
  have hclose := fxUlp_mul
  unfold fpLog2
  simp only [hdec, if_neg hm.ne', Bool.false_eq_true, if_false, hk, if_neg hne]
  refine nearlyRounded_signed _ ?_
  rw [← hdec, hlog, fxVal_add, fxVal_mul, fxVal_one, mul_one]
  rw [abs_le] at hnear ⊢
  constructor <;> linarith [hnear.1, hnear.2]

end Sys2Proof.Machine

/-! ## Sine and cosine (FSIN, FCOS, R108) -/

namespace Sys2Proof.Machine

/-! ### The circular series -/

theorem exp_two_mul_le (n : ℕ) : Real.exp (2 * n) ≤ 9 ^ n := by
  have hone : Real.exp 2 ≤ 9 := by
    have h := Real.exp_one_lt_d9
    have hpos := Real.exp_pos 1
    rw [show (2 : ℝ) = 1 + 1 by norm_num, Real.exp_add]
    nlinarith
  rw [mul_comm, Real.exp_nat_mul]
  exact pow_le_pow_left₀ (Real.exp_pos 2).le hone n

section
variable {R : ℝ} (hR : 0 ≤ R) (hR' : R ≤ 17 / 10)
include hR hR'

theorem circ_term_le (i : ℕ) : |R ^ i / i.factorial| ≤ 9 := by
  rw [abs_of_nonneg (by positivity)]
  refine (Real.pow_div_factorial_le_exp R hR i).trans ((Real.exp_le_exp.mpr (show R ≤ 2 * (1 : ℕ) by norm_num; linarith)).trans ?_)
  simpa using exp_two_mul_le 1

/-- The terms of the circular series fall faster than a geometric series. -/
theorem circ_term_falls (j n : ℕ) : |(-1 : ℝ) ^ n * (R ^ (2 * n + j) / (2 * n + j).factorial)| ≤ 9 ^ 8 * (1 / 64) ^ n := by
  have hexp := (Real.pow_div_factorial_le_exp (8 * R) (by positivity) (2 * n + j)).trans
    ((Real.exp_le_exp.mpr (show 8 * R ≤ 2 * (8 : ℕ) by norm_num; linarith)).trans (exp_two_mul_le 8))
  have hpow : (64 : ℝ) ^ n ≤ 8 ^ (2 * n + j) := by
    calc (64 : ℝ) ^ n = 8 ^ (2 * n) := by rw [pow_mul]; norm_num
      _ ≤ 8 ^ (2 * n + j) := pow_le_pow_right₀ (by norm_num) (by omega)
  have hterm : 0 ≤ R ^ (2 * n + j) / (2 * n + j).factorial := by positivity
  rw [abs_mul, abs_pow, abs_neg, abs_one, one_pow, one_mul, abs_of_nonneg hterm, one_div, inv_pow, ← div_eq_mul_inv,
    le_div_iff₀ (by positivity)]
  calc R ^ (2 * n + j) / (2 * n + j).factorial * 64 ^ n ≤ R ^ (2 * n + j) / (2 * n + j).factorial * 8 ^ (2 * n + j) :=
        mul_le_mul_of_nonneg_left hpow hterm
    _ = (8 * R) ^ (2 * n + j) / (2 * n + j).factorial := by
        rw [mul_pow]
        ring
    _ ≤ 9 ^ 8 := hexp

/-- The circular series from its `j`-th term on, as FSIN and FCOS sum it. -/
theorem circSeries_near {r2 t j : ℕ} {S : ℝ} (hr2 : |fxVal r2 - R * R| ≤ fxUlp) (ht : fxVal t = R ^ j / j.factorial)
    (hS : HasSum (fun n : ℕ => (-1 : ℝ) ^ n * (R ^ (2 * n + j) / (2 * n + j).factorial)) S) :
    |fxVal (circSeries r2 160 j t) - S| ≤ 2 ^ 113 * fxUlp := by
  have hu := fxUlp_pos
  have hu' := fxUlp_le
  have hle : fxVal r2 ≤ 3 := by nlinarith [(abs_le.mp hr2).2]
  have h := series_error (F := fun n i t => circSeries r2 n (2 * i + j) t) (out := fun _ t => t)
    (next := fun i t => fxMul t r2 / ((2 * i + j + 1) * (2 * i + j + 2))) (σ := -1) (T := fun i => R ^ (2 * i + j) / (2 * i + j).factorial)
    (A := fun i => R ^ (2 * i + j) / (2 * i + j).factorial) (ρ := 3 / 2) (c := 6 * fxUlp) (by simp) (by norm_num) (by linarith)
    (fun _ _ => rfl)
    (fun n i t => by
      rw [circSeries, show 2 * (i + 1) + j = 2 * i + j + 2 by ring]
      ring)
    (fun i t δ ht => by linarith)
    (fun i t δ ht => by
      have hδ : 0 ≤ δ := (abs_nonneg _).trans ht
      have hmul := fxMul_near ht hr2 hle (circ_term_le hR hR' (2 * i + j))
      have hdiv := fxDiv_near hmul (show 0 < (2 * i + j + 1) * (2 * i + j + 2) by positivity)
      have hd : (2 : ℝ) ≤ ((2 * i + j + 1) * (2 * i + j + 2) : ℕ) := by exact_mod_cast (by nlinarith : 2 ≤ (2 * i + j + 1) * (2 * i + j + 2))
      have hhalf := div_le_div_of_nonneg_left (show 0 ≤ 3 * δ + 9 * fxUlp + fxUlp by linarith) two_pos hd
      have hT : R ^ (2 * (i + 1) + j) / (2 * (i + 1) + j).factorial =
          R ^ (2 * i + j) / (2 * i + j).factorial * (R * R) / ((2 * i + j + 1) * (2 * i + j + 2) : ℕ) := by
        rw [show 2 * (i + 1) + j = 2 * i + j + 1 + 1 by ring, Nat.factorial_succ, Nat.factorial_succ]
        push_cast
        field_simp
        ring
      rw [hT]
      linarith) 160 0 t (δ := 0) (by simp [ht])
  have hpow : (3 / 2 : ℝ) ^ 160 ≤ 2 ^ 94 := by norm_num
  have htail := hasSum_near hS (n := 160) (by norm_num) (circ_term_falls hR hR' j) (by
    have hsmall := pow_le_ulp (r := 1 / 64) (a := 6) (n := 150) (by norm_num) (by norm_num) (by decide)
    have hnn : (0 : ℝ) ≤ (1 / 64) ^ 150 := by positivity
    rw [show 160 = 10 + 150 by rfl, pow_add, ← mul_assoc]
    exact (mul_le_of_le_one_left hnn (by norm_num)).trans hsmall)
  simp only [Nat.mul_zero, Int.cast_neg, Int.cast_one, zero_add] at h
  rw [show ((160 : ℕ) : ℝ) = 160 from Nat.cast_ofNat] at h
  have hbound : (160 : ℝ) * (3 / 2) ^ 160 * (160 * (6 * fxUlp)) ≤ 2 ^ 112 * fxUlp := by nlinarith
  linarith [abs_sub_le (fxVal (circSeries r2 160 j t)) (∑ n ∈ Finset.range 160, (-1 : ℝ) ^ n * (R ^ (2 * n + j) / (2 * n + j).factorial)) S]

end

/-- Sine or cosine of the remainder, as a quadrant's parity takes it. -/
noncomputable def quarter (even : Bool) (x : ℝ) : ℝ := if even then Real.sin x else Real.cos x

theorem quarter_near {r : ℕ} (hr : fxVal r ≤ 17 / 10) (even : Bool) :
    |fxVal (if even then circSeries (fxMul r r) 160 1 r else circSeries (fxMul r r) 160 0 (2 ^ fxBits)) - quarter even (fxVal r)| ≤
      2 ^ 113 * fxUlp := by
  have hr0 := fxVal_nonneg r
  cases even with
  | true =>
    refine circSeries_near hr0 hr (fxVal_fxMul r r) (by simp) ?_
    simp only [← mul_div_assoc]
    exact Real.hasSum_sin (fxVal r)
  | false =>
    refine circSeries_near hr0 hr (fxVal_fxMul r r) (by rw [fxVal_one]; simp) ?_
    simp only [← mul_div_assoc, add_zero]
    exact Real.hasSum_cos (fxVal r)

theorem abs_quarter_sub_le (even : Bool) (x y : ℝ) : |quarter even x - quarter even y| ≤ |x - y| := by
  cases even
  · exact Real.abs_cos_sub_cos_le x y
  · exact Real.abs_sin_sub_sin_le x y

/-- A sine goes on by quarters of its period. -/
theorem sin_add_quarters (x : ℝ) (n : ℕ) : Real.sin (x + n * (Real.pi / 2)) =
    signOf (n % 4 == 2 || n % 4 == 3) * quarter (decide (n % 4 % 2 = 0)) x := by
  have hper : Real.sin (x + n * (Real.pi / 2)) = Real.sin (x + (n % 4 : ℕ) * (Real.pi / 2)) := by
    have hn : (n : ℝ) = (n % 4 : ℕ) + 4 * (n / 4 : ℕ) := by exact_mod_cast (Nat.mod_add_div n 4).symm
    rw [hn, show x + ((n % 4 : ℕ) + 4 * (n / 4 : ℕ) : ℝ) * (Real.pi / 2) =
      x + (n % 4 : ℕ) * (Real.pi / 2) + (n / 4 : ℕ) * (2 * Real.pi) by ring, Real.sin_add_nat_mul_two_pi]
  have hlt : n % 4 < 4 := Nat.mod_lt n (by norm_num)
  rw [hper]
  generalize n % 4 = k at hlt
  interval_cases k
  · simp [signOf, quarter]
  · simp [signOf, quarter, Real.sin_add_pi_div_two]
  · rw [show x + ((2 : ℕ) : ℝ) * (Real.pi / 2) = x + Real.pi by push_cast; ring, Real.sin_add_pi]
    simp [signOf, quarter]
  · rw [show x + ((3 : ℕ) : ℝ) * (Real.pi / 2) = x + Real.pi / 2 + Real.pi by push_cast; ring, Real.sin_add_pi, Real.sin_add_pi_div_two]
    simp [signOf, quarter]

/-! ### Reduction by multiples of half of pi -/

theorem fxHalfPi_between : 1 ≤ fxVal (fxHalfPi : ℕ) ∧ fxVal (fxHalfPi : ℕ) ≤ 17 / 10 := by
  have hsmall := fxUlp_small
  have hu := fxUlp_pos
  have h := abs_le.mp fxHalfPi_near
  have h3 := Real.pi_gt_three
  have h315 := Real.pi_lt_d2
  constructor <;> linarith [h.1, h.2]

/-- A remainder is hardly beyond the quarter in which its sine and its cosine are not negative. -/
theorem quarter_ge (even : Bool) {x δ : ℝ} (hx : 0 ≤ x) (hle : x ≤ Real.pi / 2 + δ) (hδ : 0 ≤ δ) (hδ' : δ ≤ 1) : -δ ≤ quarter even x := by
  have hpi := Real.pi_gt_three
  cases even with
  | true =>
    have : 0 ≤ quarter true x := Real.sin_nonneg_of_nonneg_of_le_pi hx (by linarith)
    linarith
  | false =>
    rcases le_total x (Real.pi / 2) with h | h
    · have : 0 ≤ quarter false x := Real.cos_nonneg_of_mem_Icc ⟨by linarith, h⟩
      linarith
    · have hcos := abs_quarter_sub_le false x (Real.pi / 2)
      have hzero : quarter false (Real.pi / 2) = 0 := Real.cos_pi_div_two
      rw [hzero, sub_zero, abs_of_nonneg (show 0 ≤ x - Real.pi / 2 by linarith), abs_le] at hcos
      linarith [hcos.1]

/-- The sine or cosine of a magnitude's remainder as FSIN and FCOS form it, the magnitude itself reduced by exact halves of pi. -/
theorem quarter_reduced {x : ℕ} (hbig : fxVal x ≤ 2 ^ 131) (even : Bool) :
    |fxVal (((if even then circSeries (fxMul (x % fxHalfPi) (x % fxHalfPi)) 160 1 (x % fxHalfPi)
      else circSeries (fxMul (x % fxHalfPi) (x % fxHalfPi)) 160 0 (2 ^ fxBits)).toNat : ℕ) : ℤ) -
      quarter even (fxVal x - (x / fxHalfPi : ℕ) * (Real.pi / 2))| ≤ 2 ^ 154 * fxUlp := by
  obtain ⟨hone, hle⟩ := fxHalfPi_between
  have hu := fxUlp_pos
  have hsmall := fxUlp_small
  have hpi := fxHalfPi_near
  have hpos : 0 < fxHalfPi := by
    by_contra h0
    have : fxVal (fxHalfPi : ℕ) = 0 := by rw [Nat.eq_zero_of_not_pos h0]; simp [fxVal]
    linarith
  obtain ⟨n, hn⟩ : ∃ n, x / fxHalfPi = n := ⟨_, rfl⟩
  obtain ⟨r, hr⟩ : ∃ r, x % fxHalfPi = r := ⟨_, rfl⟩
  have hsplit : fxVal x = n * fxVal (fxHalfPi : ℕ) + fxVal r := by
    have h := Nat.div_add_mod' x fxHalfPi
    rw [hn, hr] at h
    rw [← h, Nat.cast_add, Nat.cast_mul, fxVal_add, fxVal_mul, Int.cast_natCast]
  have hrlt : r < fxHalfPi := by
    rw [← hr]
    exact Nat.mod_lt x hpos
  have hlt := fxVal_le hrlt.le
  have hr0 := fxVal_nonneg r
  have hn0 : (0 : ℝ) ≤ n := Nat.cast_nonneg n
  have hnle : (n : ℝ) ≤ 2 ^ 131 := by
    calc (n : ℝ) ≤ n * fxVal (fxHalfPi : ℕ) := le_mul_of_one_le_right hn0 hone
      _ ≤ fxVal x := by
        rw [hsplit]
        exact le_add_of_nonneg_right hr0
      _ ≤ 2 ^ 131 := hbig
  have hreduce : |fxVal r - (fxVal x - n * (Real.pi / 2))| ≤ 2 ^ 152 * fxUlp := by
    have hdiff : fxVal r - (fxVal x - n * (Real.pi / 2)) = -(n * (fxVal (fxHalfPi : ℕ) - Real.pi / 2)) := by
      rw [hsplit]
      ring
    rw [hdiff, abs_neg, abs_mul, abs_of_nonneg hn0]
    calc (n : ℝ) * |fxVal (fxHalfPi : ℕ) - Real.pi / 2| ≤ 2 ^ 131 * (2 ^ 21 * fxUlp) :=
          mul_le_mul hnle hpi (abs_nonneg _) (by positivity)
      _ = 2 ^ 152 * fxUlp := by ring
  have hge : -(2 ^ 113 * fxUlp) ≤ quarter even (fxVal r) :=
    quarter_ge even hr0 (by linarith [(abs_le.mp hpi).2]) (by positivity) (by linarith)
  have hnear := fxVal_toNat_near_of_ge (quarter_near (hlt.trans hle) even) hge
  have hlip := abs_quarter_sub_le even (fxVal r) (fxVal x - n * (Real.pi / 2))
  rw [hn, hr]
  refine (abs_sub_le _ (quarter even (fxVal r)) _).trans ?_
  linarith

/-! ### FSIN and FCOS -/

theorem signOf_bne (a b : Bool) : signOf (a != b) = signOf a * signOf b := by cases a <;> cases b <;> simp [signOf]

/-- The sine or the cosine. -/
noncomputable def circular (isCos : Bool) (x : ℝ) : ℝ := if isCos then Real.cos x else Real.sin x

/-- The sine or cosine of a number by that of its magnitude's remainder in a quarter. -/
theorem circular_eq (isCos neg : Bool) (x : ℝ) (n : ℕ) : circular isCos (signOf neg * x) =
    signOf (((if isCos then n + 1 else n) % 4 == 2 || (if isCos then n + 1 else n) % 4 == 3) != (neg && !isCos)) *
      quarter (decide ((if isCos then n + 1 else n) % 4 % 2 = 0)) (x - n * (Real.pi / 2)) := by
  have hx : x = x - n * (Real.pi / 2) + n * (Real.pi / 2) := by ring
  rw [signOf_bne, mul_right_comm]
  cases isCos with
  | false =>
    have hsin : circular false (signOf neg * x) = signOf neg * Real.sin x := by cases neg <;> simp [circular, signOf]
    rw [hsin]
    conv_lhs => rw [hx, sin_add_quarters]
    simp only [Bool.false_eq_true, if_false, Bool.not_false, Bool.and_true]
    ring
  | true =>
    have hcos : circular true (signOf neg * x) = Real.sin (x - n * (Real.pi / 2) + (n + 1 : ℕ) * (Real.pi / 2)) := by
      rw [show x - n * (Real.pi / 2) + (n + 1 : ℕ) * (Real.pi / 2) = x + Real.pi / 2 by push_cast; ring, Real.sin_add_pi_div_two]
      cases neg <;> simp [circular, signOf]
    rw [hcos, sin_add_quarters]
    simp [signOf]

/-- FSIN and FCOS of an operand that is no zero. -/
theorem fpSinCos_nearly {a : ℕ} (isCos : Bool) (hfin : (Fmt.f32.decode a).isFin = true) (hne : (Fmt.f32.decode a).rat ≠ 0) :
    Fmt.f32.nearlyRounded (circular isCos (((Fmt.f32.decode a).rat : ℚ) : ℝ)) (2 ^ (-400 : ℤ)) (fpSinCos isCos a) := by
  obtain ⟨neg, m, e, hdec⟩ := FVal.exists_of_isFin hfin
  obtain ⟨-, hm, he, hehi, -⟩ := Fmt.decode_fin hdec
  have hm0 : m ≠ 0 := fun h => hne (by rw [hdec, rat_eq_zero.mpr h])
  obtain ⟨x, hx⟩ : ∃ x, (scaled false m e (-(fxBits : ℤ))).toNat = x := ⟨_, rfl⟩
  have hval : fxVal x = m * 2 ^ e := by
    rw [← hx, Int.toNat_of_nonneg (by simp [scaled]), fxVal_scaled false m he, rat_fin_false]
  have hrat : (((Fmt.f32.decode a).rat : ℚ) : ℝ) = signOf neg * fxVal x := by
    rw [hdec, hval]
    cases neg
    · rw [rat_fin_false, signOf, if_neg Bool.false_ne_true, one_mul]
    · rw [rat_fin_true, signOf, if_pos rfl, neg_one_mul]
  have hbig : fxVal x ≤ 2 ^ 131 := by
    have hmle : (m : ℝ) ≤ 2 ^ 24 := by exact_mod_cast hm.le
    have hele : (2 : ℝ) ^ e ≤ 2 ^ (107 : ℤ) := by
      have hqmin : Fmt.f32.qmin = -149 := by decide
      have heb : Fmt.f32.eb = 8 := rfl
      rw [hqmin, heb] at hehi
      exact zpow_le_zpow_right₀ one_le_two (by omega)
    rw [hval]
    calc (m : ℝ) * 2 ^ e ≤ 2 ^ 24 * 2 ^ (107 : ℤ) := mul_le_mul hmle hele (by positivity) (by positivity)
      _ = 2 ^ 131 := by norm_num
  unfold fpSinCos
  simp only [hdec, if_neg hm0, hx]
  rw [← hdec, hrat, circular_eq isCos neg (fxVal x) (x / fxHalfPi)]
  have hnear := quarter_reduced hbig (decide ((if isCos then x / fxHalfPi + 1 else x / fxHalfPi) % 4 % 2 = 0))
  have hu := fxUlp_pos
  have hclose := fxUlp_mul
  refine nearlyRounded_fxRound _ _ 0 ?_
  rw [zpow_zero, mul_one, ← mul_sub, abs_mul]
  have hsign (b : Bool) : |signOf b| = 1 := by cases b <;> simp [signOf]
  rw [hsign, one_mul]
  simp only [decide_eq_true_eq] at hnear
  rw [abs_le] at hnear ⊢
  constructor <;> linarith [hnear.1, hnear.2]

end Sys2Proof.Machine

/-! ## Roots and transcendental functions (O10) -/

namespace Sys2Proof.Machine

/-- Settles O10: roots and reciprocals by their integer parts and sticky bits, FEXP2, FLOG2, FSIN and FCOS by their fixed-point
series. -/
theorem floatRoots : Obligations.FloatRoots := by
  unfold Obligations.FloatRoots
  refine ⟨fun a => ?_, fun f hmem a => ?_⟩
  · dsimp only
    exact ⟨fpExp2_nearly, fpLog2_nearly, fun hfin hne => ⟨fpSinCos_nearly false hfin hne, fpSinCos_nearly true hfin hne⟩⟩
  · have hf : f.Rounds := by
      rcases List.mem_pair.mp hmem with rfl | rfl
      · exact fmt_f32_rounds
      · exact fmt_f64_rounds
    exact ⟨roots_pos hf, roots_neg hf, roots_zero, roots_inf, roots_nan⟩

end Sys2Proof.Machine
